-- ==== Sys2Proof/Word.lean ====
section
/-!
DEFINITION. The word types of the register window, of memory bytes and of FP32 values.
-/
namespace Sys2Proof

/-- A register of the set-up window: 32 bits (19_registers.md). -/
abbrev Word := BitVec 32

/-- One byte of memory. -/
abbrev Byte := BitVec 8

/-- The bits of an FP32 value (03_formats.md R69). -/
abbrev F32 := BitVec 32

/-- A 64-bit count or time. -/
abbrev Word64 := BitVec 64

end Sys2Proof
end

