-- ==== Sys2Proof/Syntax.lean ====
section
/-!
DEFINITION. The commands of the block: one constructor of Instr for each row of spec/opcode_table.json, with the
operands the model gives it, and the types of those operands.
-/
namespace Sys2Proof

/-- The UNIT_KIND codes of error and event records (15_integrity_faults.md Table 15-8). -/
inductive UnitKind where
  | none | region | stake | bank | ivrPhase | stack | link | lane | subLink | spine | ioDie | plane | kLanding
deriving DecidableEq, Repr

/-- The nine register blocks (19_registers.md Table 19-1). -/
inductive Blk where
  | glb | fld | rgn | mem | lnk | hst | pwr | clk | sec
deriving DecidableEq, Repr

/-- The latched pairs of Table 19-3 (R446). -/
inductive LatchedPair where
  | syncValue | clkGtc | lnkPeer | lnkCoord | pwrVmin
deriving DecidableEq, Repr

/-- The gaits of a field clock (11_clocks_time.md Table 11-1). -/
inductive Gait where
  | walk | trot | canter | gallop
deriving DecidableEq, Repr

/-- The two windows of the adapter a host write can reach (17_host_rings.md R398). -/
inductive Window where
  | bar0 | bar2
deriving DecidableEq, Repr

/-- What bring-up step 3 finds (14_bringup.md R334 step 3, R336; 10_fabric_on_module.md R260, R276). -/
structure PowerUpFindings where
  /-- fields whose PLL does not lock within 50 us -/
  pllNoLock : List Nat
  /-- (field, lost phases) of spine IVRs -/
  spineIvrLost : List (Nat × Nat)
  /-- (die, lost phases) of D28 IVRs -/
  d28Lost : List (Nat × Nat)
  /-- (region, failed IVR phases) of the bring-up test of R299 -/
  phasesFailed : List (Nat × BitVec 12)
  /-- regions whose e-fuse opens during the soft-start (R302) -/
  efuseOpen : List Nat
  /-- (field, edge, sub-link, failed wires) of the direction that leaves the field, found when the sub-links train (R260) -/
  badWires : List (Nat × Nat × Nat × Nat)
  /-- (field, edge, sub-link, occupancy) of the FIFOs that leave the field, where the attempts to align them end at another
  occupancy than 4 (R276) -/
  occupancy : List (Nat × Nat × Nat × Nat)
  /-- (I/O die, landing 0 or 1, direction 0 toward the die or 1 away from it, sub-link, failed wires) of the I/O landings (R260) -/
  landingWires : List (Nat × Nat × Nat × Nat × Nat)
  /-- (region, mV): the first sample of the core rail after the region's power-up (R307) -/
  vcore : List (Nat × Nat)
  /-- fitted I/O dies that do not answer (R348) -/
  ioDieSilent : List Nat
deriving DecidableEq, Repr

/-- What step 2 finds on reading flash: the stud-book records, and the copies of the weave record, whose first or second copy fails
its BCH check (15_integrity_faults.md R350, R369). -/
structure FlashFindings where
  /-- (kind, index, first copy fails, second copy fails) -/
  records : List (UnitKind × Nat × Bool × Bool)
  weave : Bool × Bool
deriving DecidableEq, Repr

/-- Every copy reads well. -/
def FlashFindings.clean : FlashFindings := { records := [], weave := (false, false) }

/-- One unit that fails its first pass in the start-up tests, and whether it passes the retest (R337). -/
structure TestFinding where
  kind : UnitKind
  index : Nat
  retestPass : Bool
deriving DecidableEq, Repr

/-- What step 5 finds for one stack (R241, R242). -/
structure StackFinding where
  stack : Nat
  /-- every read and write eye centres -/
  eyes : Bool
  /-- on the fast path: the saved repairs cover every failed lane and the saved settings keep the eyes within the margin (R242) -/
  savedVerify : Bool
  /-- (pseudo-channel, failed lanes) -/
  lanes : List (Nat × Nat)
  /-- hottest-die reading when the training ends -/
  temp : Nat
deriving DecidableEq, Repr

/-- How one host read fails (R399). -/
inductive HostFailure where
  | timeout | ur | ca | poison
deriving DecidableEq, Repr

/-- Who issued the host read that fails (R399, R405, R424). -/
inductive HostReader where
  | operation
  | fetch (ring : Nat)
  | firmware
deriving DecidableEq, Repr

/-- What the reads of one access bring back (05_stages.md R124, 09_memory.md R234, R236, 10 R264): module addresses in the
codewords or words that were corrected, that are uncorrectable, that three or more bad symbols made the code correct
wrongly, with the bits that differ, addresses of the lines a read met a write on (8 R220), and whether a read met a dark
region. -/
structure ReadOutcome where
  corrected : List Nat
  uncorrectable : List Nat
  wrong : List (Nat × Byte)
  met : List Nat
  darkTarget : Bool
deriving DecidableEq, Repr

/-- Reads that meet nothing. -/
def ReadOutcome.clean : ReadOutcome := { corrected := [], uncorrectable := [], wrong := [], met := [], darkTarget := false }

/-- What a scrub read finds (R207, R237). -/
inductive ScrubFinding where
  | clean | correctable | uncorrectable
deriving DecidableEq, Repr

/-- How a retraining ends (R244, R245). -/
inductive RetrainResult where
  /-- every eye is centred; (pseudo-channel, failed lanes) that had no repair yet -/
  | centred (temp : Nat) (lanes : List (Nat × Nat))
  | eyesNotCentred
deriving DecidableEq, Repr

/-- The failure sources of Table 7-12 that the power manager or the master reports (R197). -/
inductive FailCause where
  | efuse | ivrPhases | hardLimit | flitParity | heartbeat | vote
deriving DecidableEq, Repr

/-- What a farrier session measures and finds (R365, R366, R316). -/
structure SessionFindings where
  /-- units that fail a scan pattern, and whether they pass the retest -/
  scan : List TestFinding
  /-- lowest canter voltage at which every ageing monitor passes, mV -/
  vPass : Nat
deriving DecidableEq, Repr

/-- A Stavti flit, FEC and CRC passed (16_fabric_links.md Table 16-2): `len` of the bytes of its payload are used (R374). -/
structure Flit where
  dest : BitVec 48
  src : BitVec 48
  type : Byte
  plane : Nat
  comm : Nat
  slot : Nat
  jobTag : Word
  index : Nat
  len : Nat
  payload : List Byte
deriving DecidableEq, Repr

/-- The bodies of the MCTP control messages the endpoint answers (17 R416). -/
inductive MctpControl where
  | setEndpointId (eid : Byte)
  | getEndpointId
  | getMctpVersion
  | getMessageTypes
  | other (code : Byte)
deriving DecidableEq, Repr

/-- The commands of the block. An operand left out says that nothing of its kind happened: the reads and merges of the
access met no error, no line was read early, the period was not stretched before, the core rail gave no sample, every VIN
blade was at the voltage named or at 54 V, the copies in flash read well, no host read of the pass failed, flash reads back as
it was programmed, the low word itself is read, the lowest sample was the last, one codeword of the flit could not be
corrected; a slip left out of account is one of a FIFO that leaves the field and is full. -/
inductive Instr where
  | railEnterWindow (blades : List Nat := [54000, 54000, 54000, 54000])
  | railLeaveWindow (durationUs minMv maxMv : Nat) (blades : List Nat := [])
  | romModeEntry
  | modresetNAssert (lowNs : Nat)
  | modresetNRelease
  | warmReset
  | powerEntryChecks (vin inlet outlet : Nat) (lidOk : Bool) (stageFailed : List (Nat × Nat)) (blades : List Nat := [])
  | kBoot (landing1 landing4 : Bool) (flash : FlashFindings := FlashFindings.clean)
  | fieldPowerUp (found : PowerUpFindings)
  | fieldPowerUpFast (found : PowerUpFindings)
  | startUpTests (found : List TestFinding) (efuseOpen : List Nat)
  | dramTraining (found : List StackFinding)
  | linkTraining
  | linkTrainingAttemptEnd (link : Nat) (lanes : BitVec 2) (peer : BitVec 48) (peerPlane : Nat)
  | weaveAssembly
  | weavePublication (flashOk : Bool)
  | ringEnableStep
  | bootStepComplete (step : Nat)
  | nolotLinkTraining (lanes : Nat)
  | nolotLinkDown
  | nolotRetrainRetry (lanes : Nat)
  | nolotPacketRetry
  | linkDownSelfHalter
  | doorbellPoll (host : List Host.Cell)
  | doorbellForward (line : Nat)
  | naDbBaseEnable (value : Word) (host : List Host.Cell)
  | hostAccessFailure (who : HostReader) (cause : HostFailure) (addr : Nat)
  | hostAccessTimeout (who : HostReader) (addr : Nat)
  | ringEnable (value : Word) (host : List Host.Cell)
  | ringDisable (value : Word)
  | ringRestart (value : Word) (host : List Host.Cell)
  | jobEnd
  | halter
  | halterRecordPost
  | selectOperation (reads : ReadOutcome := ReadOutcome.clean)
  | descriptorFetch (ring : Nat) (host : List Host.Cell)
  | waitSatisfied (ring : Nat)
  | waitTimeoutExpiry (ring : Nat)
  | spineOffLearnt (field : Nat)
  | acceptOperation (host : List Host.Cell) (reads : ReadOutcome)
  | preselectNext (host : List Host.Cell) (reads : ReadOutcome)
  | placementDealt (merge : ReadOutcome := ReadOutcome.clean)
  | tileBuffersTaken (tile : Nat)
  | loaderReadReturn (tile : Nat) (outcome : ReadOutcome) (meets : List Nat) (host : List Host.Cell)
  | tileIssue (tile : Nat) (reads : ReadOutcome := ReadOutcome.clean)
  | tileLeavesArray (tile : Nat) (upset : List (Nat × Word)) (early : List (Nat × Bool) := []) (reads : ReadOutcome := ReadOutcome.clean)
  | chunkResultArrival (tile : Nat)
  | statisticsBlockArrival (tile : Nat) (upset : List (Nat × Word) := [])
  | rowMaxMulticast (tile : Nat)
  | drainComplete (tile : Nat) (upset : List (Nat × Nat)) (merge : ReadOutcome)
  | duplicateCompare (tile : Nat)
  | voteVerdict (tile : Nat)
  | repeatVerdict (tile : Nat)
  | commit (reads : ReadOutcome := ReadOutcome.clean)
  | regionHeartbeat (region : Nat) (vcore : Nat := 1024) (age : Nat := 0)
  | heartbeatCheck (field : Nat)
  | regionFlitParityError (region : Nat)
  | regionFailed (region : Nat) (cause : FailCause)
  | weaveRebuildComplete
  | operationBoundarySwitchOff (region : Nat)
  | capPolicySwitchOff (region : Nat)
  | syncSet
  | syncAdd
  | lowWordReadLatch (pair : LatchedPair) (start : Nat := 0) (bytes : Nat := 4)
  | vminClear
  | keylockWrite (block : Blk) (value : Word)
  | cinchOpen (block : Blk)
  | cinchCommit (block : Blk)
  | cinchCommitApply (block : Blk)
  | cinchAbandon (block : Blk)
  | registerWrite (window : Window) (offset bytes : Nat) (value : Word64)
  | bankReady (region bank : Nat)
  | zeroingStart
  | zeroingEnd
  | spadScrub (region line : Nat) (found : ScrubFinding)
  | dramPatrolScrub (addr : Nat) (found : ScrubFinding)
  | refreshDue (stack pc : Nat) (postponed : Bool)
  | stackTempSample (stack temp : Nat)
  | stackHotStep (stack : Nat)
  | stackHotSelfRefresh (stack : Nat)
  | stackHotTimeout (stack : Nat)
  | memRetrainStart
  | retrainBegin
  | retrainEnd (result : RetrainResult)
  | stackFailed (stack : Nat)
  | crossingFlitParityReplay (field edge subLink : Nat) (thirdFailure : Bool)
  | crossingAlignEnd (field edge : Nat) (leaving entering : List Nat)
  | crossingSlip (field edge : Nat) (leaving full : Bool := true)
  | droopTrip (region : Nat) (samePeriod : Bool := false) (vcore : Nat := 1024)
  | reinEcho (field : Nat) (samePeriod : Bool := false)
  | demotionCheck (field beats : Nat)
  | gaitDown (field : Nat)
  | gaitUp (field : Nat)
  | grantedGaitRise (field : Nat)
  | idleWalk (field : Nat)
  | pllLock (field : Nat)
  | pllLossOfLock (field : Nat)
  | sleepRequest
  | sleepEnter
  | wake
  | gtcTimeCode (codes : Nat)
  | timeExchange
  | followerContactLost
  | ppsEdge
  | ppsLost
  | inputOvercurrent
  | stagePhaseFailure (field : Nat)
  | planeSenseLost (field : Nat)
  | planeLow (field : Nat)
  | planeCollapse (field : Nat)
  | ivrPhaseLost (region phase : Nat)
  | spineIvrLoss (spine : Bool) (unit lost : Nat)
  | efuseOpening (region : Nat)
  | regionPowerUpRequest (region : Nat)
  | softStartBegin (field : Nat)
  | softStartSlow (field : Nat)
  | softStartEnd (field vcore temp : Nat)
  | curbNAssert (own : Bool)
  | curbNModuleRelease
  | curbRestore
  | gallopLimitUpdate (powerIn : Nat) (iPlane : List Nat)
  | wearCreditCheckpoint
  | powerCapCompare (powerIn : Nat)
  | powerCapRaise (powerIn : Nat)
  | regionTempSample (region temp : Nat) (sensorOk : Bool)
  | heatDarkEnd (region : Nat)
  | dieThermalTrip (die : Nat)
  | coolantAlarm (inlet outlet spread : Nat)
  | farrierRollingStart
  | farrierReturnStart
  | farrierRetry
  | farrierHold
  | farrierRelease (found : SessionFindings)
  | flitCrcRetry (link : Nat) (eighth : Bool) (codewords : Nat := 1)
  | laneLost (link lane : Nat)
  | linkLost (link : Nat)
  | data (flit : Flit) (laneMismatch : Bool) (merge : ReadOutcome := ReadOutcome.clean)
  | sendData (flit : Flit) (merge : ReadOutcome := ReadOutcome.clean)
  | ready (flit : Flit) (reads : ReadOutcome := ReadOutcome.clean)
  | start (flit : Flit) (reads : ReadOutcome := ReadOutcome.clean)
  | peerSyncAdd (flit : Flit)
  | timeReq (flit : Flit)
  | timeResp (flit : Flit)
  | slotAdj (flit : Flit)
  | linkCtrl (link : Nat) (flit : Flit)
  | abort (flit : Flit)
  | collectiveSlotStart (reads : ReadOutcome := ReadOutcome.clean)
  | sendAcknowledged (reads : ReadOutcome := ReadOutcome.clean)
  | entdaa (address : BitVec 7)
  | mctpControl (message : MctpControl)
  | getTelemetry (page : Nat)
  | setCoord (address : BitVec 48)
  | setPlaneMap (planes : List Byte)
  | sidebandHalter
  | getWeave
  | getCoord
  | unknownVendorCommand (code : Byte)
  | getVersion
  | getCapabilities
  | negotiateAlgorithms (extAsym extHash : Bool)
  | getDigests
  | getCertificate (slot offset length : Nat)
  | challenge (slot : Nat) (nonce : List Byte)
  | getMeasurements (index : Nat) (signed : Bool) (nonce : List Byte)
  | spdmUnsupportedRequest (code : Byte)
  | signatureComplete
  | firmwareUpdate (host : List Host.Cell) (readFails : Bool := false)
  | firmwareUpdateEnd (host : List Host.Cell) (flashOk : Bool) (readBack : List (Nat × Byte) := [])
  | firmwareUpdateResume
  | faUnlock (host : List Host.Cell)
  | faClose
  | adapterConventionalReset
  | curbNExternalRelease
  | planeAbove30sRating (field : Nat)
  | stageAbove125c (field : Nat)
  | trimCapHeld30Days (region : Nat)
  | crossingFifoDrained (field edge : Nat)
  | sidebandEndpointReady
deriving DecidableEq, Repr

end Sys2Proof
end

