-- ==== Sys2Proof/Machine/Float.lean ====
section
/-!
DEFINITION. Exact values and FP32 arithmetic (03_formats.md R69, R70, R76 to R78): every operation is formed exactly
and rounded once. A finite value is (-1)^neg * m * 2^e.
-/
namespace Sys2Proof.Machine

/-- An exact value: NaN, an infinity, or a signed dyadic number. -/
inductive Val where
  | nan
  | inf (neg : Bool)
  | fin (neg : Bool) (m : Nat) (e : Int)
deriving DecidableEq, Repr

/-- The three modes of FLAGS.ROUND (R76); stochastic rounding carries the element's 32 random bits (R78). -/
inductive RoundMode where
  | rne
  | rtz
  | stoch (r : BitVec 32)
deriving DecidableEq, Repr

/-- n * 2^s for a non-negative s, 0 shift otherwise. -/
def shl (n : Nat) (s : Int) : Nat := n * 2 ^ s.toNat

/-- m * 2^(-d) rounded to an integer under a mode (R77, R78): the quotient, and one more where the mode rounds up. -/
def roundShift (mode : RoundMode) (m d : Nat) : Nat :=
  let q := m / 2 ^ d
  let r := m % 2 ^ d
  let up :=
    match mode with
    | .rne => decide (2 ^ d < 2 * r) || (decide (2 * r = 2 ^ d) && decide (0 < d) && decide (q % 2 = 1))
    | .rtz => false
    | .stoch s => decide (s.toNat < r * 2 ^ 32 / 2 ^ d)
  if up then q + 1 else q

/-- m * 2^e in units of 2^q, rounded to an integer. -/
def roundAt (mode : RoundMode) (m : Nat) (e q : Int) : Nat :=
  if q ≤ e then shl m (e - q) else roundShift mode m (q - e).toNat

/-- The magnitude code of m * 2^e in a floating format with `w` mantissa bits whose smallest step is 2^lsb, with an
unlimited exponent range (R74, R77): exponent field and mantissa field side by side, rising with the magnitude. -/
def roundCode (mode : RoundMode) (w : Nat) (lsb : Int) (m : Nat) (e : Int) : Nat :=
  if m = 0 then 0
  else
    let top : Int := (Nat.log2 m : Int) + e
    let q : Int := if lsb ≤ top - (w : Int) then top - (w : Int) else lsb
    (q - lsb).toNat * 2 ^ w + roundAt mode m e q

/-! ### FP32 -/

def f32Nan : F32 := 0x7FC00000
def f32Inf (neg : Bool) : F32 := if neg then 0xFF800000 else 0x7F800000
def f32One : F32 := 0x3F800000
def f32Half : F32 := 0x3F000000
def f32Neg (x : F32) : F32 := x ^^^ 0x80000000
def f32IsNan (x : F32) : Bool := decide (0x7F800000 < (x &&& 0x7FFFFFFF).toNat)
def f32IsInf (x : F32) : Bool := decide ((x &&& 0x7FFFFFFF) = 0x7F800000)
def f32IsZero (x : F32) : Bool := decide ((x &&& 0x7FFFFFFF) = 0)
def f32Sign (x : F32) : Bool := x.getLsbD 31

/-- The value of an FP32 code (R69). -/
def f32Val (x : F32) : Val :=
  let neg := f32Sign x
  let ex : Nat := (x.toNat / 2 ^ 23) % 256
  let mn : Nat := x.toNat % 2 ^ 23
  if ex = 255 then (if mn = 0 then .inf neg else .nan)
  else if ex = 0 then .fin neg mn (-149)
  else .fin neg (2 ^ 23 + mn) ((ex : Int) - 150)

/-- One rounding to FP32: Table 3-5's last row. -/
def f32Round (mode : RoundMode) : Val → F32
  | .nan => f32Nan
  | .inf neg => f32Inf neg
  | .fin neg m e =>
    let code := roundCode mode 23 (-149) m e
    let code := if 0x7F7FFFFF < code then (if mode = .rtz then 0x7F7FFFFF else 0x7F800000) else code
    BitVec.ofNat 32 ((if neg then 2 ^ 31 else 0) + code)

/-- Round to nearest even. -/
def rne32 (v : Val) : F32 := f32Round .rne v

/-- Signed mantissa. -/
def signed (neg : Bool) (m : Nat) : Int := if neg then -(m : Int) else (m : Int)

/-- The exact sum; a zero sum is +0 unless both terms are negative zeros (IEEE 754, R88). -/
def Val.add : Val → Val → Val
  | .nan, _ => .nan
  | _, .nan => .nan
  | .inf a, .inf b => if a = b then .inf a else .nan
  | .inf a, .fin _ _ _ => .inf a
  | .fin _ _ _, .inf b => .inf b
  | .fin a m e, .fin b n f =>
    let g := if e ≤ f then e else f
    let s := signed a (shl m (e - g)) + signed b (shl n (f - g))
    if s = 0 then .fin (a && b && decide (m = 0) && decide (n = 0)) 0 g
    else .fin (decide (s < 0)) s.natAbs g

/-- The exact product; Inf times zero is NaN (R89). -/
def Val.mul : Val → Val → Val
  | .nan, _ => .nan
  | _, .nan => .nan
  | .inf a, .inf b => .inf (a != b)
  | .inf a, .fin b n _ => if n = 0 then .nan else .inf (a != b)
  | .fin a m _, .inf b => if m = 0 then .nan else .inf (a != b)
  | .fin a m e, .fin b n f => .fin (a != b) (m * n) (e + f)

def Val.neg : Val → Val
  | .nan => .nan
  | .inf a => .inf (!a)
  | .fin a m e => .fin (!a) m e

/-- v * 2^k. -/
def Val.scale (k : Int) : Val → Val
  | .fin a m e => .fin a m (e + k)
  | v => v

/-- A quotient of naturals as a dyadic number with a sticky last bit: it rounds as the exact quotient does in any
format of fewer than 60 significant bits. -/
def stickyDiv (m n : Nat) : Nat × Int :=
  let s := 64 + Nat.log2 n
  let q := m * 2 ^ s / n
  let r := m * 2 ^ s % n
  (2 * q + (if r = 0 then 0 else 1), -((s : Int) + 1))

/-- The quotient, to be rounded once. -/
def Val.div : Val → Val → Val
  | .nan, _ => .nan
  | _, .nan => .nan
  | .inf _, .inf _ => .nan
  | .inf a, .fin b _ _ => .inf (a != b)
  | .fin a _ _, .inf b => .fin (a != b) 0 0
  | .fin a m e, .fin b n f =>
    if n = 0 then (if m = 0 then .nan else .inf (a != b))
    else
      let d := stickyDiv m n
      .fin (a != b) d.1 (d.2 + e - f)

/-- Integer square root, bit by bit from bit `k` down. -/
def isqrtAux (n : Nat) : Nat → Nat → Nat
  | 0, r => r
  | k + 1, r => if (r + 2 ^ k) * (r + 2 ^ k) ≤ n then isqrtAux n k (r + 2 ^ k) else isqrtAux n k r

def isqrt (n : Nat) : Nat := isqrtAux n (Nat.log2 n / 2 + 1) 0

/-- The square root, to be rounded once; of a negative number NaN, of a zero that zero (IEEE 754). -/
def Val.sqrt : Val → Val
  | .nan => .nan
  | .inf a => if a then .nan else .inf false
  | .fin a m e =>
    if m = 0 then .fin a 0 0
    else if a then .nan
    else
      let odd := e % 2 = 1
      let m' := if odd then 2 * m else m
      let e' := if odd then e - 1 else e
      let n := m' * 2 ^ 128
      let r := isqrt n
      .fin false (2 * r + (if r * r = n then 0 else 1)) (e' / 2 - 65)

def f32Add (x y : F32) : F32 := rne32 ((f32Val x).add (f32Val y))
def f32Sub (x y : F32) : F32 := rne32 ((f32Val x).add (f32Val y).neg)
def f32Mul (x y : F32) : F32 := rne32 ((f32Val x).mul (f32Val y))
def f32Div (x y : F32) : F32 := rne32 ((f32Val x).div (f32Val y))
def f32Sqrt (x : F32) : F32 := rne32 (f32Val x).sqrt

/-- The FP32 value nearest a natural number. -/
def f32OfNat (n : Nat) : F32 := rne32 (.fin false n 0)
def f32OfInt (i : Int) : F32 := rne32 (.fin (decide (i < 0)) i.natAbs 0)

/-- a < b for two values that are no NaN. -/
def Val.lt : Val → Val → Bool
  | .nan, _ => false
  | _, .nan => false
  | .inf a, .inf b => a && !b
  | .inf a, .fin _ _ _ => a
  | .fin _ _ _, .inf b => !b
  | .fin a m e, .fin b n f =>
    let g := if e ≤ f then e else f
    decide (signed a (shl m (e - g)) < signed b (shl n (f - g)))

def f32Lt (x y : F32) : Bool := (f32Val x).lt (f32Val y)

/-- The maximum: any NaN gives NaN, and +0 ranks above -0 (R92, R133). -/
def f32Max (x y : F32) : F32 :=
  if f32IsNan x || f32IsNan y then f32Nan
  else if f32IsZero x && f32IsZero y then (if f32Sign x then y else x)
  else if f32Lt x y then y else x

/-- The magnitude. -/
def f32Abs (x : F32) : F32 := x &&& 0x7FFFFFFF

/-- The exponent of the leading 1 bit of a finite non-zero FP32 value, subnormals included (R82). -/
def f32Log2 (x : F32) : Int :=
  match f32Val x with
  | .fin _ m e => (Nat.log2 m : Int) + e
  | _ => 0

/-- The least integer not below x, as FP32 (R144); Inf, NaN and zeros stand, and a zero result has the sign of x: DESIGN
CHOICE, log entry 143. -/
def f32Ceil (x : F32) : F32 :=
  match f32Val x with
  | .fin neg m e =>
    if 0 ≤ e || m = 0 then x
    else
      let d := (-e).toNat
      let q := m / 2 ^ d
      let r := m % 2 ^ d
      rne32 (.fin neg (if !neg && r ≠ 0 then q + 1 else q) 0)
  | _ => x

/-- An FP32 value that is an integer, as an integer. -/
def f32ToInt (x : F32) : Int :=
  match f32Val x with
  | .fin neg m e => signed neg (if 0 ≤ e then shl m e else m / 2 ^ (-e).toNat)
  | _ => 0

/-! ### The primitives of R130, correctly rounded

Each is formed in fixed point with 256 fraction bits, far more than any FP32 argument needs to decide its rounding,
and rounded once (DEDUCED from R130, log entry 16). -/

/-- floor(ln 2 * 2^256). -/
def ln2Fix : Int :=
  80260960185991308862233904206310070533990667611589946606122867505419956976171
/-- floor(2 / sqrt pi * 2^256). -/
def twoOverSqrtPiFix : Nat :=
  130657381209852114387528029350014196574164286124850014242073919076264802271585

/-- The sum of r^n / n! from the term `t` on, in fixed point. -/
def expSeries (r : Int) : Nat → Nat → Int → Int → Int
  | 0, _, _, acc => acc
  | k + 1, n, t, acc =>
    let t' := t * r / 2 ^ 256 / (n : Int)
    expSeries r k (n + 1) t' (acc + t')

/-- e^r in fixed point for |r| below 1. -/
def expFix (r : Int) : Int := expSeries r 64 1 (2 ^ 256) (2 ^ 256)

/-- A finite value of magnitude below 2^11 in fixed point (the bits below 2^-256 cut). -/
def toFix (neg : Bool) (m : Nat) (e : Int) : Int :=
  signed neg (if 0 ≤ e + 256 then shl m (e + 256) else m / 2 ^ (-(e + 256)).toNat)

/-- Magnitude at least 2^10. -/
def isHuge (m : Nat) (e : Int) : Bool := decide (m ≠ 0) && decide (10 ≤ (Nat.log2 m : Int) + e)

/-- e^x as an exact-enough dyadic number, |x| below 2^10. -/
def expVal (x : Int) : Val :=
  let k := (x + ln2Fix / 2) / ln2Fix
  .fin false (expFix (x - k * ln2Fix)).toNat (k - 256)

def f32Exp (x : F32) : F32 :=
  match f32Val x with
  | .nan => f32Nan
  | .inf neg => if neg then 0 else f32Inf false
  | .fin neg m e => if isHuge m e then (if neg then 0 else f32Inf false) else rne32 (expVal (toFix neg m e))

def f32Exp2 (x : F32) : F32 :=
  match f32Val x with
  | .nan => f32Nan
  | .inf neg => if neg then 0 else f32Inf false
  | .fin neg m e =>
    if isHuge m e then (if neg then 0 else f32Inf false)
    else
      let fx := toFix neg m e
      let k := fx / 2 ^ 256
      let fr := fx - k * 2 ^ 256
      rne32 (.fin false (expFix (fr * ln2Fix / 2 ^ 256)).toNat (k - 256))

def f32Tanh (x : F32) : F32 :=
  match f32Val x with
  | .nan => f32Nan
  | .inf neg => if neg then f32Neg f32One else f32One
  | .fin neg m e =>
    if m = 0 then x
    else if (Nat.log2 m : Int) + e < -20 then x
    else if 5 ≤ (Nat.log2 m : Int) + e then (if neg then f32Neg f32One else f32One)
    else
      match expVal (2 * toFix false m e) with
      | .fin _ n f =>
        let one : Val := .fin false 1 0
        rne32 (((Val.fin neg n f).add (if neg then one else one.neg)).div ((Val.fin false n f).add one))
      | v => rne32 v

/-- The sum over n of (-1)^n z^n / (n! (2n+1)) in fixed point, from term n on. -/
def erfSeries (z : Int) : Nat → Nat → Int → Int → Int
  | 0, _, _, acc => acc
  | k + 1, n, t, acc =>
    let t' := -(t * z / 2 ^ 256 / (n : Int))
    erfSeries z k (n + 1) t' (acc + t' / (2 * (n : Int) + 1))

def f32Erf (x : F32) : F32 :=
  match f32Val x with
  | .nan => f32Nan
  | .inf neg => if neg then f32Neg f32One else f32One
  | .fin neg m e =>
    if m = 0 then x
    else if 2 ≤ (Nat.log2 m : Int) + e then (if neg then f32Neg f32One else f32One)
    else
      let fx := toFix false m e
      let s := erfSeries (fx * fx / 2 ^ 256) 160 1 (2 ^ 256) (2 ^ 256)
      rne32 (.fin neg (m * twoOverSqrtPiFix * s.toNat) (e - 512))

/-! ### The named constants of R130 -/

def cK : F32 := 0x3F4C422A
def cC : F32 := 0x3D372713
def cC3 : F32 := 0x3E095D4F
def cH : F32 := 0x3F3504F3
def cP : F32 := 0x3ECC422A
def cL2E : F32 := 0x3FB8AA3B

end Sys2Proof.Machine
end

