-- ==== Sys2Proof/Config.lean ====
section
/-!
DEFINITION. What an implementation fixes and the spec leaves open: constants without a body (free values), and the
sizes the spec states. Nothing in Lean can evaluate an opaque constant or prove a value of it.
-/
namespace Sys2Proof.Config

/-- The 32-bit draws of the duplicate sampler: the n-th draw after a seed (15 R356 names the seed and the
comparison, not the generator). DESIGN CHOICE free value, log entry 11. -/
opaque drawBits : Word64 → Nat → BitVec 32

/-- The region at which the first search for a duplicate region starts (15 R357 names only the later starts).
DESIGN CHOICE free value, log entry 11. -/
opaque firstDuplicateStart : Nat

/-- The n-th failure-analysis nonce (18 R432 gives no generator). Free value, log entry 12. -/
opaque faNonce : Nat → BitVec 128

/-- The 64-byte public keys in the boot ROM, 0 to 3 (18 R420). Free value, log entry 12. -/
opaque romKey : Nat → List Byte

/-- SLH-DSA-SHAKE-256s verification (FIPS 205, 18 R421, R432): key, message, signature. Free value, log entry 12. -/
opaque slhDsaVerify : List Byte → List Byte → List Byte → Bool

/-- The public part of the identity key, against which the signature of the weave record verifies (14 R343, R346). Free value, log
entry 12. -/
opaque identityKey : List Byte

/-- SLH-DSA-SHAKE-256s signature with the identity key (18 R427, R431), 29,792 bytes. Free value, log entry 12. -/
opaque identitySign : List Byte → List Byte

/-- The device CA public key that signs unlock tokens (18 R432). Free value, log entry 12. -/
opaque deviceCaKey : List Byte

/-- The module's serial number as the unlock token holds it (18 R428, R432). Free value, log entry 12. -/
opaque serialNumber : List Byte

/-- The identity certificate chain in flash (18 R428). Free value, log entry 12. -/
opaque certChain : List Byte

/-- The 4 KiB fuse bank with the seed bytes read as zero, as FUSE_MEAS measures it (18 R427): the spec gives the
fuses' meaning and not their place in the bank. Free value, applied to what the fuses say, log entry 12. -/
opaque fuseBankBytes : List Nat → List Byte

/-- The scale byte a row moved whole between tensors writes where the spec gives no single source byte. Log entry 13. -/
opaque movedScale : Nat → Byte

/-- The answer of the endpoint to an MCTP control message whose body the spec does not give (17 R416). Log entry 14. -/
opaque mctpReply : Nat → List Byte

/-- What a sensor register shows that no command of the table brings a reading of: sensor 0 to 15 is VPLANE of that plane,
16 is IIN (12 Tables 12-5, 12-7); the second argument numbers the uses. Log entry 15. -/
opaque unreadSensor : Nat → Nat → Nat

/-- Which 64-bit word of a line a scrub finds uncorrectable (08 R204, 15 R353 do not say how a record names it); the argument
numbers the uses. Log entry 23. -/
opaque badWordOfLine : Nat → Nat

/-- The 32-byte nonce of the n-th signed SPDM response (DSP0274; 18 R429 names the protocol only). Log entry 12. -/
opaque spdmNonce : Nat → List Byte

/-- DataTransferSize and MaxSPDMmsgSize of the CAPABILITIES response, 8 bytes, which 18 Table 18-2 does not give. Log
entry 12. -/
opaque spdmSizes : List Byte

/-- The ExtAsym and ExtHash structures of the ALGORITHMS response: Doliviger's enterprise number is not given (18 R429).
Log entry 12. -/
opaque spdmExtAlgorithms : List Byte

/-- The DMTF value type of a measurement index (18 Table 18-3 does not give it). Log entry 12. -/
opaque spdmValueType : Nat → Byte

/-- Per cent shown in SEC_FW_STATUS.PROGRESS while the n-th update runs (18 Table 18-7 gives no course). Log entry 22. -/
opaque updateProgress : Nat → Nat

/-- The beat of a sub-link's data in one place of a crossing FIFO (11 R275): the use, the field, its edge, the sub-link, the place.
Free value, log entry 146. -/
opaque crossingBeat : Nat → Nat → Nat → Nat → Nat → BitVec 256

/-- SEQ of the first weave record after both copies of the last one became unreadable (14 Table 14-10, 15 R369): the argument
numbers the uses. Free value, log entry 165. -/
opaque lostSeq : Nat → Nat

/-- The CRC-32 of a flit, over its bytes 0 to 1,051 (16 Table 16-2 gives no polynomial). Free value, log entry 160. -/
opaque crc32 : List Byte → BitVec 32

/-- The fabric address of the slice master, to which a follower sends TIME_REQ (16 R384 gives no register for it). Log
entry 25. -/
opaque sliceMaster : BitVec 48

/-- Beats a field counts between two field timestamps of one microsecond (11 R285): no command of the table brings a count of
beats. The argument numbers the uses. Log entry 139. -/
opaque beatsPassed : Nat → Nat

/-- Number of regions, fields, stacks and links of the largest variant (00_scope.md Table 0-4). -/
def nRegions : Nat := 96
def nFields : Nat := 16
def nLinks : Nat := 96
def nStakes : Nat := 512

end Sys2Proof.Config
end

