-- ==== Sys2Proof/Machine/State.lean ====
section
/-!
DEFINITION. The state of the block as plain data: every register, queue, counter, mode, pin and memory the spec gives
the module, and the queue of the commands that wait. State.reset is the module after assembly, unpowered, with every
register at the value of its Reset column (19 R457: the value after cold power-on).
-/
namespace Sys2Proof.Machine

/-- Why a step stops. -/
inductive Fault where
  /-- Raised by a meaning whose operand names a unit outside the range of Table 0-4 (a region of 96 or more, a field of
  16 or more, ...) or of its chapter: the spec gives no such unit. Safe: the model stops where no hardware exists. -/
  | noSuchUnit
deriving DecidableEq, Repr

/-- Why a command has no answer. -/
inductive Refusal where
  /-- Raised by an arm of Dispatch whose command has no meaning yet. Safe: nothing is claimed of it. -/
  | notModelled (mnemonic : String)
deriving DecidableEq, Repr

/-- A memory: (address, byte) pairs, addresses rising, no byte 0 listed. -/
abbrev Mem := List Host.Cell

/-! ### Register blocks -/

/-- State of one block's cinch (19 Table 19-6). -/
inductive CinchState where
  | closed | opened | waiting
deriving DecidableEq, Repr

/-- Outcome of a block's last cinch (Table 19-6 LAST). -/
inductive CinchLast where
  | none | applied | refused | abandoned
deriving DecidableEq, Repr

/-- One staged write (R450, R454): `keyed` when it was staged with the key open, so that its RWK fields apply; `dropped`
when its RWK fields were refused at staging. -/
structure Staged where
  offset : Nat
  value : Word
  keyed : Bool
  dropped : Bool
deriving DecidableEq, Repr

/-- The common registers of one block (Tables 19-5 to 19-7). -/
structure BlockCtl where
  keyOpen : Bool
  cinch : CinchState
  staged : List Staged
  overflow : Bool
  last : CinchLast
  keyErr : Bool
  pairErr : Bool
  cinchErr : Bool
deriving DecidableEq, Repr

def BlockCtl.reset : BlockCtl :=
  { keyOpen := false, cinch := .closed, staged := [], overflow := false, last := .none, keyErr := false,
    pairErr := false, cinchErr := false }

/-! ### Power, pins and the 54 V input -/

/-- What K runs (14 R332, R335; 20 R466). -/
inductive KMode where
  | off | held | rom | firmware | recovery
deriving DecidableEq, Repr

/-- The 54 V input, the pins of the sideband connector and the PWR block (12, 13, 20): `vin` are the voltages of the four VIN blades
(20 R461), `ioLandingLive` the live sub-links of the two landings of each I/O die, `kTested` the K landings that passed their test at
step 2, `kLandingOk` those on a field that is on (14 R336). -/
structure Power where
  railIn : Bool
  pwrgood : Bool
  modresetLow : Bool
  kMode : KMode
  vin : List Nat
  curbOwn : Bool
  curbExt : Bool
  curbOwnCount : Nat
  curbExtCount : Nat
  curbHigh10ms : Bool
  d28On : List Bool
  d28Lost : List Nat
  vdramOn : List Bool
  vxioOn : List Bool
  ioCoreOn : List Bool
  ioGroupOn : List Bool
  ioLandingLive : List (List (BitVec 12))
  kTested : List Bool
  kLandingOk : List Bool
  capPolicy : Bool
  maxGait : BitVec 2
  idleWalkEn : Bool
  cap : BitVec 11
  capUnmet : Bool
  powerIn : Nat
  eMod : Nat
  elecModule : Bool
  elecCap : Bool
  inlet : Nat
  outlet : Nat
  spread : Nat
  selRegion : BitVec 7
  selField : BitVec 4
  vminTimeShadow : Word64
deriving DecidableEq, Repr

/-! ### Clocks and time -/

/-- The CLK block and the time counters (11). -/
structure Clock where
  gtc : Word64
  upNs : Nat
  lifeBase : Nat
  tickPhase : Nat
  slew : Int
  beatTime : Bool
  ppsEn : Bool
  syncRole : BitVec 2
  locked : Bool
  far : Bool
  ppsLost : Bool
  stepErr : Bool
  offsetNs : Int
  gtcSet : Word64
  gtcHiShadow : Word
  landGtc : List Word64
  entering : Bool
  asleep : Bool
  sleepErr : Bool
  timeReqSent : Option Word64
  selField : BitVec 4
  selDir : BitVec 2
deriving DecidableEq, Repr

/-- The mode of a crossing (11 Table 11-4). -/
inductive CrossMode where
  | idle | meso | ratio | aligning
deriving DecidableEq, Repr

/-- One edge of a field: the join on it, seen in the direction that leaves the field (10 Table 10-6, 11 Table 11-4). `fifo`
is the crossing FIFO of each sub-link in that direction, of up to 8 entries with one beat of the sub-link's data each
(11 R275, R276), as its last alignment or drain left it (log entry 146). -/
structure Edge where
  live : BitVec 32
  spares : Nat
  up : Bool
  replays : Nat
  mode : CrossMode
  draining : Bool
  offset : BitVec 4
  fifo : List (List (BitVec 256))
  occMin : Nat
  occMax : Nat
  slips : Nat
deriving DecidableEq, Repr

def Edge.reset : Edge :=
  { live := 0, spares := 0, up := false, replays := 0, mode := .idle, draining := false, offset := 0,
    fifo := List.replicate 32 [], occMin := 0, occMax := 0, slips := 0 }

/-- A soft-start in progress on a plane (12 R305). -/
structure SoftStart where
  region : Nat
  slow : Bool
deriving DecidableEq, Repr

/-- One field: its spine, plane, clock, gait limits and edges (1, 10, 11, 12, 13). -/
structure Field where
  spineOn : Bool
  included : Bool
  reason : Byte
  lost : Bool
  planeOn : Bool
  planeOff : Bool
  stageFailed : Nat
  localSense : Bool
  vplane : Nat
  iplane : Nat
  headroom : Bool
  powerQueue : List Nat
  softStart : Option SoftStart
  spineIvrLost : Nat
  pllLock : Bool
  halted : Bool
  gait : Gait
  rising : Option Gait
  demoteLimit : Gait
  stackLimit : Gait
  tempLimit : Gait
  capLimit : Gait
  demoted : Bool
  idle : Bool
  idleExit : Bool
  tempStepAt : Option Word64
  rein : BitVec 4
  ownRun : Nat
  ownReins : Nat
  quietMs : Nat
  qExcess : Nat
  planeLimit : Bool
  thermLimit : Bool
  wearLimit : Bool
  credit : Nat
  mcDrop : Nat
  gtcCopy : Word64
  beats : Nat
  edges : List Edge
deriving DecidableEq, Repr

/-- 14,400 s of wear credit in units of 20 us (13 R320). -/
def fullCredit : Nat := 720000000

def Field.reset : Field :=
  { spineOn := false, included := false, reason := 0, lost := false, planeOn := false, planeOff := false,
    stageFailed := 0, localSense := false, vplane := 0, iplane := 0, headroom := false, powerQueue := [],
    softStart := none, spineIvrLost := 0, pllLock := false, halted := false, gait := .walk, rising := none,
    demoteLimit := .gallop, stackLimit := .gallop, tempLimit := .gallop, capLimit := .gallop, demoted := false,
    idle := false, idleExit := false, tempStepAt := none, rein := 0, ownRun := 0, ownReins := 0, quietMs := 0, qExcess := 0, planeLimit := false,
    thermLimit := false, wearLimit := false, credit := fullCredit, mcDrop := 0, gtcCopy := 0, beats := 0,
    edges := [Edge.reset, Edge.reset, Edge.reset, Edge.reset] }

/-! ### Regions, slots and stacks -/

/-- One loaded row of a stationary bank of the array (4 R94, R97): for each column of the tile, in the order of the logical
stakes that take them, the values the stationary register holds (two in a 2x pair), and with the first row of a K-block the
scale of each column. -/
structure ArrayRow where
  vals : List (List Val)
  scales : List Nat
deriving DecidableEq, Repr

/-- A stationary bank of every cell (4 R94): the tile loaded into it, the stake-valid bits of the physical stakes, and the
rows from row 0 on whose row-valid bit is set. -/
structure CellBank where
  tile : Option Nat
  stakes : BitVec 512
  rows : List ArrayRow
deriving DecidableEq, Repr

def CellBank.reset : CellBank := { tile := none, stakes := 0, rows := [] }

/-- One region: weave state, power, trim, temperature, banks and scoreboard (4, 7, 8, 12, 13, 15). `sessionAt` is 0 before
any completed farrier session, else 1 more than the life time at which the last one ended. -/
structure Region where
  powered : Bool
  live : Bool
  quarantined : Bool
  reason : Byte
  pubLive : Bool
  pubMap : BitVec 512
  testMap : BitVec 512
  phaseLost : BitVec 12
  efuseOpenings : Nat
  fuseBlown : Bool
  delta : Int
  margin : Nat
  trimCap : Bool
  trimCapSince : Nat
  wideSessions : Nat
  temp : Nat
  heatPending : Bool
  heatOff : Bool
  hotSince : Option Word64
  leavePending : Bool
  darkUntil : Word64
  hardHot : Bool
  vmin : Nat
  vminValid : Bool
  vminTime : Word64
  bankOn : BitVec 32
  bankReady : BitVec 32
  bankCorr : List (Nat × Nat)
  hits : Nat
  lastBeat : Word64
  queue : List Nat
  statGen : List (BitVec 16)
  strmGen : List (BitVec 16)
  banks : List CellBank
  working : BitVec 1024
  sessionAt : Nat
deriving DecidableEq, Repr

def Region.reset : Region :=
  { powered := false, live := false, quarantined := false, reason := 0, pubLive := false, pubMap := 0, testMap := 0,
    phaseLost := 0, efuseOpenings := 0, fuseBlown := false, delta := 0, margin := 0, trimCap := false,
    trimCapSince := 0, wideSessions := 0, temp := 0, heatPending := false, heatOff := false, hotSince := none, leavePending := false, darkUntil := 0,
    hardHot := false, vmin := 0, vminValid := false, vminTime := 0, bankOn := 0, bankReady := 0, bankCorr := [], hits := 0,
    lastBeat := 0, queue := [], statGen := [0, 0], strmGen := [0, 0], banks := [CellBank.reset, CellBank.reset],
    working := 0, sessionAt := 0 }

/-- A slot of the scratchpad window (8 R210). -/
inductive Slot where
  | unmapped
  | mapped (region : Nat)
  | lost
deriving DecidableEq, Repr

/-- One memory stack (9). -/
structure Stack where
  live : Bool
  inMap : Bool
  reason : Byte
  retraining : Bool
  failed : Bool
  retrainFailed : Bool
  hotRefresh : Bool
  throttled : Bool
  hotSelfRefresh : Bool
  selfRefresh : Bool
  temp : Nat
  trainTemp : Nat
  trainedAt : Word64
  trainOk : Bool
  trained : Bool
  spareLanes : List (Nat × Nat)
  eccCorr : Nat
  eccUncorr : Nat
  owed : List (Nat × Nat)
  corrLog : List (Nat × Word64)
  uncorrLog : List Nat
deriving DecidableEq, Repr

def Stack.reset : Stack :=
  { live := false, inMap := false, reason := 0, retraining := false, failed := false, retrainFailed := false,
    hotRefresh := false, throttled := false, hotSelfRefresh := false, selfRefresh := false, temp := 0,
    trainTemp := 0, trainedAt := 0, trainOk := false, trained := false, spareLanes := [], eccCorr := 0, eccUncorr := 0,
    owed := [], corrLog := [], uncorrLog := [] }

/-! ### Fabric links -/

/-- The census state of a link (16 Table 16-7 STATE, 14 Table 14-10). -/
inductive LinkSt where
  | live2 | live1 | absent | notFitted
deriving DecidableEq, Repr

/-- One fabric link (16). `txSeq` is the link sequence number of the next flit it sends, `retry` its retry buffer: the last flits
it sent, at most 256 (R379). -/
structure Link where
  st : LinkSt
  lanes : BitVec 2
  attempts : Nat
  training : Bool
  lastLane : BitVec 2
  plane : Option Nat
  conflict : Bool
  peer : BitVec 48
  fecUncorr : Nat
  retries : Nat
  txSeq : Nat
  retry : List Flit
deriving DecidableEq, Repr

def Link.reset : Link :=
  { st := .absent, lanes := 0, attempts := 0, training := false, lastLane := 0, plane := none, conflict := false,
    peer := 0, fecUncorr := 0, retries := 0, txSeq := 0, retry := [] }

/-- The LNK block (16 R395). `mail` holds messages of collectives that are not reached yet (R388), `collSeq` how many collectives
of a communicator, and of its sends and recvs with a peer, have been reached (R387, R388, R392, log entry 19). -/
structure Lnk where
  links : List Link
  coord : BitVec 48
  coordValid : Bool
  commEn : Bool
  commBase : Nat
  jobTag : Word
  dropTag : Nat
  dropType : Nat
  sel : BitVec 7
  mail : List Flit
  collSeq : List ((Nat × Nat × Nat) × Nat)
  peerHiShadow : Word
  coordHiShadow : Word
deriving DecidableEq, Repr

/-! ### Host port, rings and halter -/

/-- The NA16 adapter (17 R397 to R401, R412, R419). -/
structure Adapter where
  en : Bool
  base : Nat
  up : Bool
  width : Nat
  trained : Bool
  retrains : Nat
  pageTail : List Word
  pageHead : List Word
  forwards : List Nat
  haltSeq : BitVec 16
  haltWord : Option (BitVec 16)
  msix : BitVec 20
deriving DecidableEq, Repr

/-- The states of a ring entry the module holds (2 Table 2-9). -/
inductive EntrySt where
  | fetched | waiting | accepted | running
deriving DecidableEq, Repr

/-- A fetched, not yet completed entry of an op ring: whether its wait has begun (`since`), has been satisfied and has been
released; and how it ended as a head, when an earlier entry of its ring still holds back its record. -/
structure Entry where
  count : Word
  st : EntrySt
  words : List Word
  since : Word64
  begun : Bool
  satisfied : Bool
  released : Bool
  ended : Option (Byte × Word × Word64)
deriving DecidableEq, Repr

/-- One ring: op rings 0 to 15, error ring 16, event ring 17 (17 Tables 17-6 to 17-8). -/
structure Ring where
  base : Nat
  cqBase : Nat
  sizeLog2 : BitVec 5
  en : Bool
  stopped : Bool
  stopDb : Bool
  stopStatus : Byte
  dbErr : Bool
  enErr : Bool
  baseErr : Bool
  fetchErr : Bool
  tail : Word
  head : Word
  fetch : Word
  posted : Word
  entries : List Entry
deriving DecidableEq, Repr

def Ring.reset : Ring :=
  { base := 0, cqBase := 0, sizeLog2 := 6, en := false, stopped := false, stopDb := false, stopStatus := 0,
    dbErr := false, enErr := false, baseErr := false, fetchErr := false, tail := 0, head := 0, fetch := 0,
    posted := 0, entries := [] }

/-- A halter asked for: CAUSE of Table 17-3 and the SEQ of its word. -/
structure HalterReq where
  cause : Nat
  seq : BitVec 16
deriving DecidableEq, Repr

/-- An accepted, uncommitted descriptor that a halter owes a HALTERED record (17 R413 step 6). -/
structure HalterOwed where
  ring : Nat
  tag : Word
  count : Word
  group : Bool
  replayed : Bool
  dupChecks : Nat
  gtc : Word64
deriving DecidableEq, Repr

/-- A halter in progress (17 R413): what its record will say. -/
structure HalterRun where
  cause : Nat
  seq : BitVec 16
  step : Nat
  seen : Word64
  owed : List HalterOwed
deriving DecidableEq, Repr

/-- The HST block's job and halter state (17). -/
structure Hst where
  rings : List Ring
  ringSel : BitVec 5
  active : Bool
  jobErr : Bool
  linkHalter : Bool
  evtDropped : Nat
  halterReq : Option HalterReq
  halterRun : Option HalterRun
  halterWaitsLink : Option HalterRun
  halters : Word
  halterPhase : Bool
  lastHalter : List Byte
  sidebandHalter : Bool
deriving DecidableEq, Repr

/-! ### The scheduler -/

/-- A parsed tensor descriptor (2 Table 2-4). -/
structure TD where
  addr : Nat
  base : Nat
  format : Nat
  layout : Nat
  rank : Nat
  dim0 : Nat
  dim1 : Nat
  dim2 : Nat
  dim3 : Nat
  stride1 : Nat
  stride2 : Nat
  stride3 : Nat
  scaleBase : Nat
  scaleStride : Nat
  advisor : Nat
  advised : Bool
deriving DecidableEq, Repr

/-- Orientation of an array operation (4 R110), or the bypass path. -/
inductive Orient where
  | normal | exchanged | bypass
deriving DecidableEq, Repr

/-- Which copy of a sampled tile a tile is (15 R357, R362, R363). -/
inductive TileRole where
  | original
  | duplicate (of : Nat)
  | vote (of : Nat)
  | again (of which : Nat)
deriving DecidableEq, Repr

/-- What a tile runs: an array chunk, a bypass row range or span, or one of the two passes of ATTN (5). -/
inductive TileKind where
  | array | bypass | attn1 | attn2
deriving DecidableEq, Repr

/-- Scoreboard states (7 Table 7-2); `dealt` is a tile that waits for a queue entry (R181). -/
inductive TileSt where
  | dealt | assigned | loading | resident | issued | emitted | drained | verified
deriving DecidableEq, Repr

/-- Where an ISSUED tile of the array is (4 R96 to R99, 7 R182): its stationary load goes into the shadow bank; its bank is
the working one and its vectors stream; its last vector has been presented. -/
inductive ArrPhase where
  | outside | shadow | working | passed
deriving DecidableEq, Repr

/-- A value at the foot of the array: FP32, or an exact integer on the integer path (3 R85, 4 R105). -/
inductive FootVal where
  | f32 (v : F32)
  | int (v : Int)
deriving DecidableEq, Repr

/-- A tile of the operation in flight. `unit` is the size of the ATTN wave it belongs to; `voting` says that the comparison of a
sampled tile has disagreed and its vote or its repeats are not over (15 R362, R363). -/
structure Tile where
  id : Nat
  region : Nat
  run : Nat
  part : Nat
  wave : Nat
  out : Nat
  role : TileRole
  kind : TileKind
  unit : Nat
  st : TileSt
  arr : ArrPhase
  chunk : Nat
  batch : Nat
  row0 : Nat
  rows : Nat
  col0 : Nat
  cols : Nat
  sampled : Bool
  voting : Bool
  buf : Nat
  statGen : BitVec 16
  strmGen : BitVec 16
  invalid : Bool
  rewritten : Bool
  statsSent : Bool
  squash : Nat
  snap : Mem
  inPlace : Mem
  foot : List FootVal
  arrived : Bool
  checksum : Option Word64
deriving DecidableEq, Repr

/-- A node of an output value's chunk tree (5 R127, R128): (level, index, value). -/
structure Node where
  level : Nat
  idx : Nat
  val : FootVal
deriving DecidableEq, Repr

/-- The tree slots of one output value. -/
structure TreeVal where
  out : Nat
  batch : Nat
  m : Nat
  n : Nat
  nodes : List Node
deriving DecidableEq, Repr

/-- The four statistics of a block of a row (5 R133). -/
structure StatNode where
  mx : F32
  se : F32
  sm : F32
  sq : F32
deriving DecidableEq, Repr

/-- A statistics block at the statistics home. -/
structure StatBlock where
  batch : Nat
  m : Nat
  blk : Nat
  node : StatNode
deriving DecidableEq, Repr

/-- A packed P block of ATTN pass 1 (5 R144): 32 E4M3 codes, scale byte, row and block, mb. -/
structure PBlock where
  batch : Nat
  i : Nat
  blk : Nat
  codes : List Byte
  scale : Byte
  mb : F32
  rewritten : Bool
deriving DecidableEq, Repr

/-- P and dS of one query row and key (steps 4 and 6 of Table 6-3), in the attention buffers of the region that formed them. -/
structure ScoreEl where
  batch : Nat
  i : Nat
  k : Nat
  p : F32
  ds : F32
deriving DecidableEq, Repr

/-- The advisor's statistics of one ADVISED output (6 R167), of one run of the operation. -/
structure AdvStat where
  slot : Nat
  run : Nat
  fmt : Nat
  amax : F32
  count : Nat
  nf : Nat
  bins : List Nat
deriving DecidableEq, Repr

/-- A piece of a slot schedule: from slot k on, slot k starts at T, every slot lasts S ns, and the planes of the set have
these widths (16 R389, R390, R394). -/
structure SlotPiece where
  k : Nat
  start : Nat
  len : Nat
  widths : List Nat
deriving DecidableEq, Repr

/-- Payload bytes that have arrived for a transfer: slot (0 for a send), plane, INDEX and bytes (16 R389 to R392). -/
structure GotFlit where
  slot : Nat
  plane : Nat
  index : Nat
  bytes : List Byte
deriving DecidableEq, Repr

/-- A COLLECTIVE that waits for its readiness exchange or rendezvous, or runs (16 R385 to R394). `num` is its place among the
collectives of its communicator, or among the sends or recvs with its peer; `told` the widths its READY told; `agreed` says
that the exchange is over and the acceptance waits for a region to leave the weave (8 R224); `early` holds SLOT_ADJ messages
that came before START, `slotsIn` the slots whose transfers are whole. -/
structure Coll where
  variant : Nat
  comm : Nat
  num : Nat
  ranks : Nat
  rank : Nat
  planes : List Nat
  list : List (BitVec 48)
  ready : List (Nat × List Byte)
  told : List Nat
  agreed : Bool
  started : Bool
  t0 : Nat
  widths : List Nat
  begun : Bool
  sched : List SlotPiece
  slotNext : Nat
  early : List Flit
  slotsIn : List Nat
  got : List GotFlit
  ownDone : Bool
  gathered : List Nat
  sent : Bool
  stalled : Bool
  done : Bool
deriving DecidableEq, Repr

/-- The exact sum of the part of a block of 32 rows that one run holds, for column `col` of output `member` of a NORM
gradient (6 R155). -/
structure ColPart where
  run : Nat
  member : Nat
  col : Nat
  blk : Nat
  sum : Val
deriving DecidableEq, Repr

/-- A piece of work dealt to a region: in the normal orientation the groups lo .. lo+n-1 of panel `part` of a batch
element, in the exchanged orientation those of chunk `part`; on the bypass path rows or bytes of output number `part`.
`wave` and `out` name the wave of an ATTN operation and the output its second pass forms; `unit` is the size of that wave. -/
structure Share where
  region : Nat
  kind : TileKind
  unit : Nat
  wave : Nat
  out : Nat
  batch : Nat
  part : Nat
  lo : Nat
  n : Nat
  run : Nat
deriving DecidableEq, Repr

/-- An accepted operation: its descriptor, its tensors as read at acceptance, its placement and partial results. `unitRows` is
the size of an ATTN wave, `scoresEx` the orientation of its first pass, `leaves` the chunk results that a copy of a home tile
takes from the multicast of its group (15 R359), `frozenLeft` says that the frozen rows of a masked
product are still to be written, `dealt` that its work has been dealt or, for a CAPQUERY, that its record is written. -/
structure Op where
  ring : Nat
  count : Word
  words : List Word
  slots : List (List TD)
  orient : Orient
  trainable : List Nat
  advStats : List AdvStat
  advParts : List AdvStat
  frozenLeft : Bool
  placed : Bool
  dealt : Bool
  share : List Share
  tree : List TreeVal
  leaves : List TreeVal
  stats : List StatBlock
  pBlocks : List PBlock
  rowMax : List (Nat × Nat × F32)
  scores : List ScoreEl
  unitRows : Nat
  scoresEx : Bool
  colParts : List ColPart
  replayed : Bool
  dupChecks : Nat
  recount : Nat
  coll : Option Coll
  capRecord : List Byte
deriving DecidableEq, Repr

/-- The head the master has selected (2 R27): its ring and the entries of its group, and how many of them have been
accepted. -/
structure Selection where
  ring : Nat
  members : List Entry
  next : Nat
deriving DecidableEq, Repr

/-- A collective that has committed while slots of it are still to be sent (16 R389, R393): `data` holds its tensors as they stood
at the commit. -/
structure Tail where
  op : Op
  data : Mem
deriving DecidableEq, Repr

/-- A re-placement in progress (7 R198): the failed regions, the runs that lost a tile to the stop step, the copies of sampled
tiles to be dealt again (15 R363), and whether a halter came during it (7 R202). -/
structure Recovery where
  failed : List Nat
  runs : List Nat
  copies : List TileRole
  halted : Bool
deriving DecidableEq, Repr

/-- The scheduler master (7) with the job's stale list (2 R64) and the sampler (15 R356). `tail` holds collectives that have
committed and whose last slots are still to be sent (16 R389, R393). -/
structure Master where
  sel : Option Selection
  op : Option Op
  done : List Op
  pre : Option Op
  preSel : Option Selection
  preTiles : List Tile
  tiles : List Tile
  nextTile : Nat
  nextRun : Nat
  seed : Word64
  draws : Nat
  rateInForce : BitVec 4
  repeatInForce : Bool
  dupNext : Nat
  stale : List (Nat × Nat)
  staleFull : Bool
  recovery : Option Recovery
  colls : List Op
  tail : List Tail
  advisorStart : List (Nat × Byte)
deriving DecidableEq, Repr

/-! ### Farrier, stud book, bring-up, security, sideband -/

/-- A farrier session (15 R364, R365): `taken` is the region's reading when it was taken, `heldAt` the time of its hold, `stressed`
says that it has been heated and runs at the stress corner. -/
structure Session where
  region : Nat
  returning : Bool
  held : Bool
  taken : Nat
  heldAt : Word64
  stressed : Bool
deriving DecidableEq, Repr

/-- The farrier (15 R364, Table 15-14, Table 15-15). -/
structure Farrier where
  en : Bool
  session : Option Session
  waiting : Bool
  lastRegion : Nat
  region : Nat
  lastResult : Nat
deriving DecidableEq, Repr

/-- The history of one unit in the stud book (15 R368), its retirement and faults stamped in life time, and which of the record's
two copies fail their check (R369). -/
structure StudUnit where
  kind : UnitKind
  index : Nat
  retired : Bool
  reason : Byte
  retiredAt : Nat
  faults : List Nat
  life : Nat
  copiesBad : Bool × Bool
deriving DecidableEq, Repr

/-- A trim change as the stud book records it (13 R316), and whether the region is capped at trot (R317); `life` is its stamp
(15 R368). -/
structure TrimRecord where
  region : Nat
  life : Nat
  gtc : Word64
  old : Int
  new : Int
  margin : Int
  cap : Bool
deriving DecidableEq, Repr

/-- The stud book in flash (15 R368): unit histories, trim records, repairs (kind, index, count and life time), e-fuse openings
(region and life time), and the checkpoints of R320. -/
structure StudBook where
  units : List StudUnit
  trims : List TrimRecord
  repairs : List (UnitKind × Nat × Nat × Nat)
  openings : List (Nat × Nat)
  creditCkpt : List Nat
  lifeCkpt : Nat
deriving DecidableEq, Repr

/-- The fuse bank (14 R348, 18 R420): what a part is. -/
structure Fuses where
  orderCode : Nat
  badRegions : List Nat
  badStakes : List (Nat × BitVec 512)
  badStacks : List Nat
  badSpines : List Nat
  badSubLinks : List Nat
  badDies : List Nat
  badLinks : List Nat
  badLanes : List Nat
  delta : List Int
  revoked : List Nat
  svn : Nat
deriving DecidableEq, Repr

/-- Bring-up (14 Tables 14-2 to 14-7). -/
structure Boot where
  done : BitVec 10
  running : Option Nat
  found : Bool
  pendErr : Byte
  linkBusy : Bool
  waitLinks : Bool
  fastOk : Bool
  fastUsed : Bool
  recovery : Bool
  belowFloor : Bool
  failedStep : BitVec 4
  errCode : Byte
  dead : Bool
  lastWarm : Bool
  coldUp : Bool
deriving DecidableEq, Repr

/-- The GLB block beside bring-up (2, 6, 7, 14, 15). -/
structure Glb where
  weaveAddr : Nat
  weaveSeq : Word
  fuseKnown : Bool
  liveStakes : Nat
  liveRegions : Nat
  nanSquash : Nat
  advEn : Bool
  advBase : Nat
  syncSel : BitVec 16
  syncOpnd : Word64
  syncHiShadow : Word
  dupRate : BitVec 4
  dupRepeat : Bool
  mismatches : Nat
  skipped : Nat
  errDropped : Nat
  studKind : Byte
  studIndex : BitVec 16
  floor : Bool
  detour : Bool
  fldSel : BitVec 4
  fldDir : BitVec 2
  rgnSel : BitVec 7
  slotSel : BitVec 7
  taskBase : BitVec 11
  taskBound : BitVec 11
  zeroing : Bool
  zeroDue : Bool
  rangeErr : Bool
  memSel : BitVec 4
  retrainQueue : List Nat
  recordGtc : Word64
  weaveRecord : Mem
  recordShown : Bool
  flashWeave : Mem
  flashWeaveOk : Bool
  flashBad : Bool × Bool
  routes : List (List Nat)
deriving DecidableEq, Repr

/-- A firmware update in progress: pass 2 of it, since pass 1 is done when the command is accepted (18 R424, R425). -/
inductive Update where
  | idle | running | paused
deriving DecidableEq, Repr

/-- The SEC block and the image in flash (18). -/
structure Sec where
  imgAddr : Nat
  imgLen : Word
  result : Byte
  progress : Nat
  imageValid : Bool
  update : Update
  updHash : List Byte
  updAddr : Nat
  image : Mem
  imageLen : Nat
  fwMeas : List Byte
  fuseMeas : List Byte
  runningSvn : Nat
  runningKey : Nat
  faOpen : Bool
  nonceCount : Nat
  resetWaits : Bool
deriving DecidableEq, Repr

/-- An SPDM response that waits for its signature (18 R431). -/
structure SignJob where
  challenge : Bool
  body : List Byte
deriving DecidableEq, Repr

/-- The management sideband (17 R416, 18 R429) and the module's other outputs. -/
structure Side where
  ready : Bool
  i3cAddr : Option (BitVec 7)
  eid : Byte
  transcript : List Byte
  signing : Option SignJob
  response : List Byte
  readData : Word64
  flits : List Flit
  acks : List (BitVec 48 × Nat × Nat)
deriving DecidableEq, Repr

/-- A sync-object command held during deep sleep (11 R274). -/
structure HeldSync where
  obj : Nat
  set : Bool
  peer : Bool
  value : Word64
deriving DecidableEq, Repr

/-- The whole state of the block. `before` holds, for the scratchpad bytes the last write to a line wrote, what stood there
before it: what a read that meets the write returns (8 R220). -/
structure State where
  pending : List Instr
  pwr : Power
  clk : Clock
  fields : List Field
  regions : List Region
  slots : List Slot
  memStacks : List Stack
  lnk : Lnk
  na : Adapter
  hst : Hst
  blocks : List BlockCtl
  boot : Boot
  glb : Glb
  sec : Sec
  side : Side
  master : Master
  farrier : Farrier
  stud : StudBook
  fuses : Fuses
  sync : List (Nat × Word64)
  held : List HeldSync
  dram : Mem
  spad : Mem
  before : List Host.Cell
  host : Mem
  badSpad : List Nat
  badDram : List Nat
  free : Nat
deriving DecidableEq, Repr

/-! ### Reset -/

def Power.reset : Power :=
  { railIn := false, pwrgood := false, modresetLow := false, kMode := .off, vin := [0, 0, 0, 0], curbOwn := false,
    curbExt := false, curbOwnCount := 0, curbExtCount := 0, curbHigh10ms := true,
    d28On := List.replicate 4 false, d28Lost := List.replicate 4 0, vdramOn := List.replicate 4 false,
    vxioOn := List.replicate 4 false, ioCoreOn := List.replicate 4 false, ioGroupOn := List.replicate 24 false,
    ioLandingLive := List.replicate 4 [0, 0], kTested := [false, false], kLandingOk := [false, false], capPolicy := false, maxGait := 2,
    idleWalkEn := false, cap := 0, capUnmet := false, powerIn := 0, eMod := 0, elecModule := false, elecCap := false, inlet := 0,
    outlet := 0, spread := 0, selRegion := 0, selField := 0, vminTimeShadow := 0 }

def Clock.reset : Clock :=
  { gtc := 0, upNs := 0, lifeBase := 0, tickPhase := 0, slew := 0, beatTime := false, ppsEn := false, syncRole := 0,
    locked := false, far := false, ppsLost := false, stepErr := false, offsetNs := 0, gtcSet := 0, gtcHiShadow := 0,
    landGtc := List.replicate 10 0, entering := false, asleep := false, sleepErr := false, timeReqSent := none, selField := 0, selDir := 0 }

def Lnk.reset : Lnk :=
  { links := List.replicate 96 Link.reset, coord := 0, coordValid := false, commEn := false, commBase := 0,
    jobTag := 0, dropTag := 0, dropType := 0, sel := 0, mail := [], collSeq := [], peerHiShadow := 0, coordHiShadow := 0 }

def Adapter.reset : Adapter :=
  { en := false, base := 0, up := false, width := 0, trained := false, retrains := 0,
    pageTail := List.replicate 18 0, pageHead := List.replicate 18 0, forwards := [], haltSeq := 0, haltWord := none, msix := 0 }

def Hst.reset : Hst :=
  { rings := List.replicate 18 Ring.reset, ringSel := 0, active := false, jobErr := false, linkHalter := false,
    evtDropped := 0, halterReq := none, halterRun := none, halterWaitsLink := none, halters := 0,
    halterPhase := false, lastHalter := [], sidebandHalter := false }

def Boot.reset : Boot :=
  { done := 0, running := none, found := false, pendErr := 0, linkBusy := false, waitLinks := false, fastOk := false,
    fastUsed := false, recovery := false, belowFloor := false, failedStep := 0, errCode := 0, dead := false,
    lastWarm := false, coldUp := false }

def Glb.reset : Glb :=
  { weaveAddr := 0, weaveSeq := 0, fuseKnown := false, liveStakes := 0, liveRegions := 0, nanSquash := 0,
    advEn := false, advBase := 0, syncSel := 0, syncOpnd := 0, syncHiShadow := 0, dupRate := 9, dupRepeat := false,
    mismatches := 0, skipped := 0, errDropped := 0, studKind := 0, studIndex := 0, floor := false, detour := false,
    fldSel := 0, fldDir := 0, rgnSel := 0, slotSel := 0, taskBase := 0, taskBound := 0x200, zeroing := false,
    zeroDue := false, rangeErr := false, memSel := 0, retrainQueue := [], recordGtc := 0, weaveRecord := [], recordShown := false,
    flashWeave := [], flashWeaveOk := false, flashBad := (false, false), routes := [] }

def Sec.reset : Sec :=
  { imgAddr := 0, imgLen := 0, result := 0, progress := 0, imageValid := false, update := .idle, updHash := [], updAddr := 0,
    image := [], imageLen := 0, fwMeas := [], fuseMeas := [], runningSvn := 0,
    runningKey := 0, faOpen := false, nonceCount := 0, resetWaits := false }

def Side.reset : Side :=
  { ready := false, i3cAddr := none, eid := 0, transcript := [], signing := none, response := [], readData := 0, flits := [], acks := [] }

def Master.reset : Master :=
  { sel := none, op := none, done := [], pre := none, preSel := none, preTiles := [], tiles := [], nextTile := 0, nextRun := 0,
    seed := 0, draws := 0, rateInForce := 9, repeatInForce := false, dupNext := 0, stale := [], staleFull := false, recovery := none,
    colls := [], tail := [], advisorStart := [] }

def Farrier.reset : Farrier :=
  { en := true, session := none, waiting := false, lastRegion := 95, region := 0, lastResult := 0 }

def StudBook.reset : StudBook :=
  { units := [], trims := [], repairs := [], openings := [], creditCkpt := [], lifeCkpt := 0 }

/-- A healthy GX25-L96-M16 with Delta 0 everywhere: DESIGN CHOICE, log entry 2. -/
def Fuses.reset : Fuses :=
  { orderCode := 0, badRegions := [], badStakes := [], badStacks := [], badSpines := [], badSubLinks := [], badDies := [], badLinks := [], badLanes := [],
    delta := List.replicate 96 0, revoked := [], svn := 0 }

/-- The machine right after assembly and before the 54 V rail enters its window: every register at its Reset value. -/
def State.reset : State :=
  { pending := [], pwr := Power.reset, clk := Clock.reset, fields := List.replicate 16 Field.reset,
    regions := List.replicate 96 Region.reset, slots := List.replicate 96 Slot.unmapped,
    memStacks := List.replicate 16 Stack.reset, lnk := Lnk.reset, na := Adapter.reset, hst := Hst.reset,
    blocks := List.replicate 9 BlockCtl.reset, boot := Boot.reset, glb := Glb.reset, sec := Sec.reset,
    side := Side.reset, master := Master.reset, farrier := Farrier.reset, stud := StudBook.reset,
    fuses := Fuses.reset, sync := [], held := [], dram := [], spad := [], before := [], host := [], badSpad := [], badDram := [],
    free := 0 }

end Sys2Proof.Machine
end

