-- ==== Sys2Proof/Machine/Formats.lean ====
section
/-!
DEFINITION. Element formats, packing, conversion and block scales (03_formats.md R69 to R83, 02_contract.md R35 to R39).
-/
namespace Sys2Proof.Machine

/-! ### Formats (Tables 2-5 and 3-1) -/

/-- Bits of one element; ADVISED counts as BF16 (R164). -/
def fmtBits : Nat → Nat
  | 0 => 4 | 1 => 6 | 2 => 6 | 3 => 8 | 4 => 8 | 5 => 8 | 6 => 16 | 7 => 32 | 8 => 32 | _ => 16

/-- Mantissa width. -/
def fmtW : Nat → Nat
  | 0 => 1 | 1 => 2 | 2 => 3 | 3 => 3 | 4 => 2 | 6 => 7 | 7 => 23 | _ => 0

/-- Exponent of the smallest step: 1 - bias - w. -/
def fmtLsb : Nat → Int
  | 0 => -1 | 1 => -4 | 2 => -3 | 3 => -9 | 4 => -16 | 6 => -133 | 7 => -149 | _ => 0

/-- Magnitude code of max finite. -/
def fmtMax : Nat → Nat
  | 0 => 0x7 | 1 => 0x1F | 2 => 0x1F | 3 => 0x7E | 4 => 0x7B | 6 => 0x7F7F | 7 => 0x7F7FFFFF | _ => 0

/-- Magnitude code of infinity, where the format has one. -/
def fmtInf : Nat → Option Nat
  | 4 => some 0x7C | 6 => some 0x7F80 | 7 => some 0x7F800000 | _ => none

/-- Canonical NaN (Table 3-5); none where the format has none. -/
def fmtNan : Nat → Option Nat
  | 3 => some 0x7F | 4 => some 0x7F | 6 => some 0x7FC0 | 7 => some 0x7FC00000 | _ => none

/-- The exact value of a code (R69, R70, R75). -/
def decodeCode (fmt code : Nat) : Val :=
  if fmt = 5 then (if 128 ≤ code then .fin true (256 - code) 0 else .fin false code 0)
  else if fmt = 8 then .fin false code 0
  else
    let half := 2 ^ (fmtBits fmt - 1)
    let neg := decide (half ≤ code)
    let mag := code % half
    if fmtMax fmt < mag then (if fmtInf fmt = some mag then .inf neg else .nan)
    else
      let w := fmtW fmt
      let ex := mag / 2 ^ w
      let mn := mag % 2 ^ w
      if ex = 0 then .fin neg mn (fmtLsb fmt) else .fin neg (2 ^ w + mn) (fmtLsb fmt + (ex : Int) - 1)

/-- Two's complement of a rounded magnitude, saturated to -128 to 127 (R74). -/
def int8Code (neg : Bool) (n : Nat) : Nat :=
  if neg then (if 128 ≤ n then 128 else (256 - n) % 256) else (if 127 ≤ n then 127 else n)

/-- One rounding of an exact value into an unscaled format with Table 3-5 applied: the code, and whether a NaN was
written as zero (R75). R74 lets an INT8 value reach -128, so that between -128 and -127 stochastic rounding takes one of the
two: DESIGN CHOICE, log entry 142. -/
def encodeVal (fmt : Nat) (mode : RoundMode) (v : Val) : Nat × Bool :=
  let half := 2 ^ (fmtBits fmt - 1)
  let sgn (neg : Bool) (c : Nat) := if neg then half + c else c
  match v with
  | .nan =>
    match fmtNan fmt with
    | some c => (c, false)
    | none => (0, true)
  | .inf neg =>
    if fmt = 5 then (int8Code neg 128, false)
    else (sgn neg ((fmtInf fmt).getD (fmtMax fmt)), false)
  | .fin neg m e =>
    if fmt = 5 || fmt = 8 then (int8Code neg (roundAt mode m e 0), false)
    else
      let c := roundCode mode (fmtW fmt) (fmtLsb fmt) m e
      let above := if (fmt = 6 || fmt = 7) && mode ≠ .rtz then (fmtInf fmt).getD 0 else fmtMax fmt
      (sgn neg (if fmtMax fmt < c then above else c), false)

/-- As `encodeVal` for a finite value of an MX block: above max finite it saturates (R82 step 4). -/
def encodeSat (fmt : Nat) (mode : RoundMode) (v : Val) : Nat :=
  match v with
  | .fin neg m e =>
    let half := 2 ^ (fmtBits fmt - 1)
    if fmt = 5 then int8Code neg (roundAt mode m (e + 6) 0)
    else
      let c := roundCode mode (fmtW fmt) (fmtLsb fmt) m e
      (if neg then half else 0) + (if fmtMax fmt < c then fmtMax fmt else c)
  | _ => 0

/-! ### Random bits of stochastic rounding (R79) -/

def mix64 (z : Word64) : Word64 :=
  let a := (z ^^^ (z >>> 30)) * 0xBF58476D1CE4E5B9#64
  let b := (a ^^^ (a >>> 27)) * 0x94D049BB133111EB#64
  b ^^^ (b >>> 31)

/-- The 32 random bits of the element at linear position `pos` of slot number `q`. -/
def randomBits (seed : Word) (q pos : Nat) : BitVec 32 :=
  let z : Word64 := BitVec.ofNat 64 pos + seed.setWidth 64 * 0xD1B54A32D192ED03#64
    + BitVec.ofNat 64 q * 0x9E3779B97F4A7C15#64
  ((mix64 z) >>> 32).setWidth 32

/-- The mode of FLAGS.ROUND at one element (R31, R76). -/
def modeAt (round : Nat) (seed : Word) (q pos : Nat) : RoundMode :=
  if round = 1 then .stoch (randomBits seed q pos) else if round = 2 then .rtz else .rne

/-! ### Block scales (R72, R82, R83) -/

/-- emax of Table 3-7. -/
def fmtEmax : Nat → Int
  | 0 => 2 | 1 => 4 | 2 => 2 | 3 => 8 | 4 => 15 | 6 => 127 | _ => 0

/-- The value with its E8M0 scale (R72), for MXINT8 with the factor 2^-6 (R81). -/
def scaled (fmt : Nat) (e : Nat) (v : Val) : Val :=
  if e = 255 then .nan else v.scale ((e : Int) - 127 + (if fmt = 5 then -6 else 0))

/-- floor(log2 |v|) of a finite non-zero value. -/
def valLog2 : Val → Option Int
  | .fin _ m e => if m = 0 then none else some ((Nat.log2 m : Int) + e)
  | _ => none

def valFinite : Val → Bool
  | .fin _ _ _ => true
  | _ => false

/-- floor(log2 amax) of a block; none when it holds no finite non-zero value. -/
def amaxLog2 (vs : List Val) : Option Int :=
  vs.foldl (fun acc v => match acc, valLog2 v with
    | none, x => x
    | some a, none => some a
    | some a, some b => some (if a < b then b else a)) none

def clampS (s : Int) : Int := if s < -127 then -127 else if 127 < s then 127 else s

/-- One MX block of values with the mode of each element: the scale byte, the codes, and 1 when the block counts in
GLB_NAN_SQUASH. -/
def packBlock (fmt : Nat) (vs : List (Val × RoundMode)) : Nat × List Nat × Nat :=
  if vs.any (fun v => !valFinite v.1) then (255, vs.map (fun _ => 0), 1)
  else
    match amaxLog2 (vs.map (·.1)) with
    | none => (127, vs.map (fun v => encodeSat fmt v.2 v.1), 0)
    | some l =>
      let s := clampS (l - fmtEmax fmt)
      ((s + 127).toNat, vs.map (fun v => encodeSat fmt v.2 (v.1.scale (-s))), 0)

/-! ### Bytes and bit fields -/

/-- Bits [off+w-1:off] of the little-endian bytes from `a` on (R71). -/
def readBits (rd : Nat → Byte) (a off w : Nat) : Nat :=
  let b := a + off / 8
  let word := (List.range 5).foldr (fun k acc => acc * 256 + (rd (b + k)).toNat) 0
  word / 2 ^ (off % 8) % 2 ^ w

/-- A little-endian number of n bytes. -/
def leNat (bs : List Byte) : Nat := bs.foldr (fun b acc => acc * 256 + b.toNat) 0

/-- The n bytes from a on. -/
def readBytes (rd : Nat → Byte) (a n : Nat) : List Byte := (List.range n).map (fun k => rd (a + k))

def readNat (rd : Nat → Byte) (a n : Nat) : Nat := leNat (readBytes rd a n)

/-- A number as n little-endian bytes. -/
def natBytes : Nat → Nat → List Byte
  | 0, _ => []
  | n + 1, v => BitVec.ofNat 8 v :: natBytes n (v / 256)

/-! ### Tensors (R35 to R39) -/

/-- A position in a tensor. -/
structure Idx where
  i0 : Nat
  i1 : Nat
  i2 : Nat
  i3 : Nat
deriving DecidableEq, Repr

def ceilDiv (a b : Nat) : Nat := (a + b - 1) / b


def tdElems (t : TD) : Nat := t.dim0 * t.dim1 * t.dim2 * t.dim3
def tdRows (t : TD) : Nat := t.dim1 * t.dim2 * t.dim3

/-- Bytes of one row of DIM0 elements (R36). -/
def tdRowBytes (t : TD) : Nat := ceilDiv (t.dim0 * fmtBits t.format) 8

/-- The linear position of an index (R79). -/
def tdPos (t : TD) (i : Idx) : Nat := i.i0 + t.dim0 * (i.i1 + t.dim1 * (i.i2 + t.dim2 * i.i3))

/-- The index at a linear position. -/
def tdIdx (t : TD) (p : Nat) : Idx :=
  { i0 := p % t.dim0, i1 := p / t.dim0 % t.dim1, i2 := p / t.dim0 / t.dim1 % t.dim2,
    i3 := p / t.dim0 / t.dim1 / t.dim2 }

/-- The first byte of the row an index lies in (R35). -/
def tdRowAddr (t : TD) (i : Idx) : Nat := t.base + i.i1 * t.stride1 + i.i2 * t.stride2 + i.i3 * t.stride3

/-- A dimension broadcast by a zero stride uses index 0 for its scale rows (R37). -/
def bcast (stride i : Nat) : Nat := if stride = 0 then 0 else i

/-- The address of the E8M0 scale of an element (R37). -/
def tdScaleAddr (t : TD) (i : Idx) : Nat :=
  let i1 := bcast t.stride1 i.i1
  let i2 := bcast t.stride2 i.i2
  let i3 := bcast t.stride3 i.i3
  if t.layout = 1 then t.scaleBase + (i1 + t.dim1 * (i2 + t.dim2 * i3)) * t.scaleStride + i.i0 / 32
  else t.scaleBase + (i1 / 32 + ceilDiv t.dim1 32 * (i2 + t.dim2 * i3)) * t.scaleStride + i.i0

/-- The element code at an index. -/
def elemCode (rd : Nat → Byte) (t : TD) (i : Idx) : Nat :=
  readBits rd (tdRowAddr t i) (i.i0 * fmtBits t.format) (fmtBits t.format)

/-- The E8M0 byte of an element; 127 without MX scales (R97). -/
def elemScale (rd : Nat → Byte) (t : TD) (i : Idx) : Nat :=
  if t.layout = 1 || t.layout = 2 then (rd (tdScaleAddr t i)).toNat else 127

/-- The decoded value without its MX scale, an MXINT8 element with its factor 2^-6 (R87). -/
def elemRaw (rd : Nat → Byte) (t : TD) (i : Idx) : Val :=
  let v := decodeCode t.format (elemCode rd t i)
  if t.format = 5 && (t.layout = 1 || t.layout = 2) then v.scale (-6) else v

/-- The per-tensor scale of SCALE_LAYOUT 3 (R37). -/
def tdTensorScale (rd : Nat → Byte) (t : TD) : Option F32 :=
  if t.layout = 3 then some (BitVec.ofNat 32 (readNat rd t.scaleBase 4)) else none

/-- The exact value of an element with its MX scale and its per-tensor scale (R80 step 1, R93). -/
def elemVal (rd : Nat → Byte) (t : TD) (i : Idx) : Val :=
  let v := decodeCode t.format (elemCode rd t i)
  match tdTensorScale rd t with
  | some s => v.mul (f32Val s)
  | none =>
    if t.layout = 1 || t.layout = 2 then scaled t.format (elemScale rd t i) v else v

/-- The element on the vector path: its exact value rounded once to FP32 (R93). -/
def elemF32 (rd : Nat → Byte) (t : TD) (i : Idx) : F32 := rne32 (elemVal rd t i)

/-- Rows of the scale array and bytes of one (R37). -/
def tdScaleRows (t : TD) : Nat :=
  if t.layout = 1 then t.dim1 * t.dim2 * t.dim3 else ceilDiv t.dim1 32 * t.dim2 * t.dim3
def tdScaleRowBytes (t : TD) : Nat := if t.layout = 1 then ceilDiv t.dim0 32 else t.dim0

/-- An interval of module addresses, both ends included. -/
abbrev Interval := Nat × Nat

/-- The data footprint (R39); the stride of a dimension of extent 1 adds nothing (R38). -/
def tdDataFoot (t : TD) : Interval :=
  (t.base, t.base + (t.dim1 - 1) * t.stride1 + (t.dim2 - 1) * t.stride2 + (t.dim3 - 1) * t.stride3
    + tdRowBytes t - 1)

/-- The scale footprint (R37, R39), where there is one. -/
def tdScaleFoot (t : TD) : List Interval :=
  if t.layout = 1 || t.layout = 2 then
    [(t.scaleBase, t.scaleBase + (tdScaleRows t - 1) * t.scaleStride + tdScaleRowBytes t - 1)]
  else if t.layout = 3 then [(t.scaleBase, t.scaleBase + 3)]
  else []

def tdFoots (t : TD) : List Interval := tdDataFoot t :: tdScaleFoot t

def overlaps (a b : Interval) : Bool := decide (a.1 ≤ b.2) && decide (b.1 ≤ a.2)
def covers (a b : Interval) : Bool := decide (a.1 ≤ b.1) && decide (b.2 ≤ a.2)

/-! ### Writing elements -/

/-- A bit-field write: bits [off+w-1:off] from byte address `addr` take `code` (R71, R137). -/
structure BitWrite where
  addr : Nat
  off : Nat
  width : Nat
  code : Nat
deriving DecidableEq, Repr

/-- The byte at `a` after a list of bit writes, oldest first. -/
def applyBit (a : Nat) (b : Byte) (w : BitWrite) : Byte :=
  let lo := 8 * (a - w.addr)
  if w.addr ≤ a && w.off < lo + 8 && lo < w.off + w.width then
    (List.range 8).foldl (fun acc k =>
      let p := lo + k
      if w.off ≤ p && p < w.off + w.width then
        (if (w.code / 2 ^ (p - w.off)) % 2 = 1 then acc ||| BitVec.ofNat 8 (2 ^ k)
         else acc &&& ~~~ (BitVec.ofNat 8 (2 ^ k)))
      else acc) b
  else b

/-- Byte addresses a bit write touches. -/
def bitWriteAddrs (w : BitWrite) : List Nat :=
  (List.range (ceilDiv (w.off % 8 + w.width) 8)).map (fun k => w.addr + w.off / 8 + k)

/-- The write of one element's code; the last element of a row also clears the bits left in its byte (R71). -/
def elemWrite (t : TD) (fmt : Nat) (i : Idx) (code : Nat) : BitWrite :=
  let off := i.i0 * fmtBits fmt
  let w := fmtBits fmt
  { addr := tdRowAddr t i, off := off,
    width := if i.i0 + 1 = t.dim0 then 8 * ceilDiv (off + w) 8 - off else w, code := code }

def scaleWrite (t : TD) (i : Idx) (e : Nat) : BitWrite := { addr := tdScaleAddr t i, off := 0, width := 8, code := e }

/-- The indexes of the MX block an element lies in, in block order (R37). -/
def blockIdx (t : TD) (i : Idx) : List Idx :=
  if t.layout = 1 then
    let b := i.i0 / 32 * 32
    (List.range (min 32 (t.dim0 - b))).map (fun k => { i with i0 := b + k })
  else
    let b := i.i1 / 32 * 32
    (List.range (min 32 (t.dim1 - b))).map (fun k => { i with i1 := b + k })

/-- One output element written by the Packer from the values of the output (R135, R80): the writes and the count it
adds to GLB_NAN_SQUASH. In an MX block the element takes its code from the whole block, the first element present
writes the scale. -/
def packElem (round : Nat) (seed : Word) (q : Nat) (t : TD) (fmt : Nat) (val : Idx → Val) (i : Idx) :
    List BitWrite × Nat :=
  let mode (j : Idx) := modeAt round seed q (tdPos t j)
  if t.layout = 1 || t.layout = 2 then
    let ids := blockIdx t i
    let p := packBlock fmt (ids.map (fun j => (val j, mode j)))
    let code := ((ids.zip p.2.1).find? (fun x => x.1 = i)).elim 0 (·.2)
    let first := decide (ids.head? = some i)
    ([elemWrite t fmt i code, scaleWrite t i p.1], if first then p.2.2 else 0)
  else
    let c := encodeVal fmt (mode i) (val i)
    ([elemWrite t fmt i c.1], if c.2 then 1 else 0)

end Sys2Proof.Machine
end

