-- ==== Sys2Proof/Machine/Accum.lean ====
section
/-!
DEFINITION. Accumulation: exact block sums, running sums, the chunk tree and the integer path (03_formats.md R84 to R92),
the activations (05_stages.md R130 to R132) and the statistics of a row (05 R133).
-/
namespace Sys2Proof.Machine

/-! ### Rate classes (Table 3-8) -/

/-- The rate classes of an accepted pair. -/
inductive Rate where
  | twice | once | quarter
deriving DecidableEq, Repr

/-- The class of a pair of A and B formats; none where the pair is not accepted. -/
def rateOf (fa fb : Nat) : Option Rate :=
  if 6 < fa || 6 < fb then none
  else if fa = 5 || fb = 5 then (if fa = 5 && fb = 5 then some .once else none)
  else if fa = 6 || fb = 6 then some .quarter
  else if fa ≤ 2 && fb ≤ 2 then some .twice
  else some .once

/-- K_c. -/
def Rate.kc : Rate → Nat
  | .twice => 2048
  | .once => 1024
  | .quarter => 1024

/-- Rows of a panel in the normal orientation (Table 4-7). -/
def Rate.panel : Rate → Nat
  | .quarter => 512
  | _ => 2048

/-! ### Sums -/

/-- The exact sum of a block; +0 for an exact zero (R87). -/
def exactSum (vs : List Val) : Val := vs.foldl Val.add (.fin false 0 0)

/-- The conversion of a block sum under its scales (R87, R89). -/
def blockConvert (ea eb : Nat) (v : Val) : F32 :=
  if ea = 255 || eb = 255 then f32Nan else rne32 (v.scale ((ea : Int) + (eb : Int) - 254))

/-- A running sum: the first term stands, the others are added one at a time (R88). -/
def runningSum : List F32 → F32
  | [] => 0
  | x :: xs => xs.foldl f32Add x

/-- One level of a binary tree over neighbours; an unpaired last element passes up unchanged (R88). -/
def treeLevel {α : Type} (f : α → α → α) : List α → List α
  | a :: b :: rest => f a b :: treeLevel f rest
  | l => l

/-- The root of the tree over a list, with as many levels as its length allows. -/
def treeFold {α : Type} (f : α → α → α) : Nat → List α → Option α
  | 0, l => l.head?
  | n + 1, l => match l with
    | [] => none
    | [a] => some a
    | l => treeFold f n (treeLevel f l)

def treeSum (vs : List F32) : F32 := (treeFold f32Add vs.length vs).getD 0

/-- The operands of one output value: values without MX scales, and scale bytes per K index. -/
structure DotArgs where
  k : Nat
  a : Nat → Val
  b : Nat → Val
  ea : Nat → Nat
  eb : Nat → Nat

/-- c_b of R87. -/
def dotBlock (d : DotArgs) (b : Nat) : F32 :=
  let ks := (List.range (min 32 (d.k - 32 * b))).map (fun i => 32 * b + i)
  blockConvert (d.ea (32 * b)) (d.eb (32 * b)) (exactSum (ks.map (fun k => (d.a k).mul (d.b k))))

/-- The blocks of chunk j. -/
def chunkBlocks (k kc j : Nat) : List Nat :=
  let bpc := kc / 32
  (List.range (min bpc (ceilDiv k 32 - j * bpc))).map (fun i => j * bpc + i)

/-- The sum of chunk j (R88). -/
def dotChunk (d : DotArgs) (kc j : Nat) : F32 := runningSum ((chunkBlocks d.k kc j).map (dotBlock d))

/-- The whole contraction (R86 to R89). -/
def dotAll (d : DotArgs) (kc : Nat) : F32 := treeSum ((List.range (ceilDiv d.k kc)).map (dotChunk d kc))

/-- The value of an unscaled INT8 element. -/
def valInt : Val → Int
  | .fin neg m e => signed neg (shl m e)
  | _ => 0

/-- The exact integer sum of chunk j (R85, R105). -/
def dotChunkInt (d : DotArgs) (kc j : Nat) : Int :=
  ((List.range (min kc (d.k - j * kc))).map (fun i => valInt (d.a (j * kc + i)) * valInt (d.b (j * kc + i)))).foldl
    (· + ·) 0

/-- The addition of two chunk results. -/
def FootVal.add : FootVal → FootVal → FootVal
  | .f32 x, .f32 y => .f32 (f32Add x y)
  | .int x, .int y => .int (x + y)
  | .f32 x, .int y => .f32 (f32Add x (f32OfInt y))
  | .int x, .f32 y => .f32 (f32Add (f32OfInt x) y)

/-- P: the accumulated result rounded to FP32 (R85, R88). -/
def FootVal.toF32 : FootVal → F32
  | .f32 x => x
  | .int x => f32OfInt x

/-- REDUCE variant 0 and every ordered sum: R86 to R88 with K_c = 1,024 over FP32 values (R92). -/
def orderedSum (vs : List F32) : F32 :=
  let n := vs.length
  let blk (b : Nat) : F32 := rne32 (exactSum (((vs.drop (32 * b)).take 32).map f32Val))
  treeSum ((List.range (ceilDiv n 1024)).map (fun j => runningSum ((chunkBlocks n 1024 j).map blk)))

/-- The maximum of a row, exact (R92 variant 1). -/
def maxOf : List F32 → F32
  | [] => 0
  | x :: xs => if f32IsNan x then f32Nan else xs.foldl f32Max x

/-- The maximum where an empty list gives -Inf. -/
def maxOrNegInf (vs : List F32) : F32 := vs.foldl f32Max (f32Inf true)

/-! ### Partial trees (R127, R128) -/

/-- Nodes of the tree of `n` chunk results at one level. -/
def levelCount (n : Nat) : Nat → Nat
  | 0 => n
  | l + 1 => ceilDiv (levelCount n l) 2

/-- Put one result into the tree, performing every addition whose two operands are present. -/
def treeInsert (n : Nat) : Nat → List Node → Node → List Node
  | 0, ns, x => x :: ns
  | fuel + 1, ns, x =>
    if levelCount n x.level ≤ 1 then x :: ns
    else
      let sib := if x.idx % 2 = 0 then x.idx + 1 else x.idx - 1
      if levelCount n x.level ≤ sib then treeInsert n fuel ns { x with level := x.level + 1, idx := x.idx / 2 }
      else
        match ns.find? (fun y => decide (y.level = x.level) && decide (y.idx = sib)) with
        | none => x :: ns
        | some y =>
          let rest := ns.filter (fun z => ! (decide (z.level = x.level) && decide (z.idx = sib)))
          let v := if x.idx % 2 = 0 then x.val.add y.val else y.val.add x.val
          treeInsert n fuel rest { level := x.level + 1, idx := x.idx / 2, val := v }

/-- The root, once every chunk result is in. -/
def treeRoot (n : Nat) (ns : List Node) : Option FootVal :=
  (ns.find? (fun y => levelCount n y.level = 1)).map (·.val)

/-! ### Activations (R131, R132) -/

def sig (x : F32) : F32 := f32Div f32One (f32Add f32One (f32Exp (f32Neg x)))

/-- u of the tanh form of GELU. -/
def geluU (x : F32) : F32 := f32Mul cK (f32Add x (f32Mul (f32Mul cC (f32Mul x x)) x))

def act (code : Nat) (x : F32) : F32 :=
  match code with
  | 1 => if f32IsNan x then f32Nan else if f32Lt 0 x then x else 0
  | 2 => f32Mul (f32Mul f32Half x) (f32Add f32One (f32Tanh (geluU x)))
  | 3 => f32Mul (f32Mul f32Half x) (f32Add f32One (f32Erf (f32Mul x cH)))
  | 4 => f32Mul x (sig x)
  | 5 => sig x
  | 6 => f32Tanh x
  | _ => x

/-- act'(x). -/
def actGrad (code : Nat) (x : F32) : F32 :=
  match code with
  | 1 => if f32IsNan x then f32Nan else if f32Lt 0 x then f32One else 0
  | 2 =>
    let t := f32Tanh (geluU x)
    f32Add (f32Mul f32Half (f32Add f32One t))
      (f32Mul (f32Mul (f32Mul f32Half x) (f32Sub f32One (f32Mul t t)))
        (f32Mul cK (f32Add f32One (f32Mul cC3 (f32Mul x x)))))
  | 3 =>
    f32Add (f32Mul f32Half (f32Add f32One (f32Erf (f32Mul x cH))))
      (f32Mul x (f32Mul cP (f32Exp (f32Mul (f32Neg f32Half) (f32Mul x x)))))
  | 4 =>
    let s := sig x
    f32Mul s (f32Add f32One (f32Mul x (f32Sub f32One s)))
  | 5 =>
    let s := sig x
    f32Mul s (f32Sub f32One s)
  | 6 =>
    let t := f32Tanh x
    f32Sub f32One (f32Mul t t)
  | _ => f32One

/-! ### Row statistics (R133) -/

/-- The statistics of one block of up to 8 values. -/
def statBlock (vs : List F32) : StatNode :=
  let mx := maxOrNegInf vs
  { mx := mx
    se := if mx = f32Inf true then 0 else runningSum (vs.map (fun v => f32Exp (f32Sub v mx)))
    sm := runningSum vs
    sq := runningSum (vs.map (fun v => f32Mul v v)) }

/-- Node a, the lower, combined with node b. -/
def statCombine (a b : StatNode) : StatNode :=
  let mx := f32Max a.mx b.mx
  let term (x : StatNode) : F32 := f32Mul x.se (f32Exp (f32Sub x.mx mx))
  let neg := f32Inf true
  { mx := mx
    se := if a.mx = neg then (if b.mx = neg then 0 else term b)
      else if b.mx = neg then term a else f32Add (term a) (term b)
    sm := f32Add a.sm b.sm
    sq := f32Add a.sq b.sq }

def StatNode.zero : StatNode := { mx := 0, se := 0, sm := 0, sq := 0 }

def statTree (bs : List StatNode) : StatNode := (treeFold statCombine bs.length bs).getD StatNode.zero

end Sys2Proof.Machine
end

