-- ==== Sys2Proof/Machine/Operands.lean ====
section
/-!
DEFINITION. Operands: the fields of an operation descriptor and of a tensor descriptor (02_contract.md R30 to R36), and
the logical views of the tensors an operation names.
-/
namespace Sys2Proof.Machine

/-! ### The operation descriptor (Tables 2-1 to 2-3) -/

/-- Bits [hi:lo] of a number. -/
def bits (n hi lo : Nat) : Nat := n / 2 ^ lo % 2 ^ (hi + 1 - lo)
def bit (n k : Nat) : Bool := decide (n / 2 ^ k % 2 = 1)

/-- Word W<i>. -/
def dW (ws : List Word) (i : Nat) : Nat := (ws.getD i 0).toNat
def dOpcode (ws : List Word) : Nat := bits (dW ws 0) 7 0
def dVariant (ws : List Word) : Nat := bits (dW ws 0) 15 8
def dNonreplayable (ws : List Word) : Bool := bit (dW ws 0) 16
def dGroupNext (ws : List Word) : Bool := bit (dW ws 0) 17
def dWaitEn (ws : List Word) : Bool := bit (dW ws 0) 18
def dFencePrev (ws : List Word) : Bool := bit (dW ws 0) 19
def dHintEn (ws : List Word) : Bool := bit (dW ws 0) 20
def dRound (ws : List Word) : Nat := bits (dW ws 0) 22 21
def dTag (ws : List Word) : Word := ws.getD 1 0
def dSeed (ws : List Word) : Word := ws.getD 2 0
def dParam (ws : List Word) (p : Nat) : Word := ws.getD (14 + p) 0
def dWaitObj (ws : List Word) : Nat := bits (dW ws 22) 15 0
def dWaitTimeout (ws : List Word) : Nat := dW ws 23
def dWaitThreshold (ws : List Word) : Nat := dW ws 24 + 2 ^ 32 * dW ws 25

/-- Slot word T<s>. -/
def dSlot (ws : List Word) (s : Nat) : Nat := dW ws (4 + 2 * s) + 2 ^ 32 * dW ws (5 + 2 * s)
def dPresent (ws : List Word) (s : Nat) : Bool := bit (dSlot ws s) 0
def dTr (ws : List Word) (s : Nat) : Bool := bit (dSlot ws s) 1
def dUnfenced (ws : List Word) (s : Nat) : Bool := bit (dSlot ws s) 2
def dIsList (ws : List Word) (s : Nat) : Bool := bit (dSlot ws s) 3
def dListLen (ws : List Word) (s : Nat) : Nat := bits (dSlot ws s) 5 4
/-- Number of tensor descriptors a present slot names. -/
def dCount (ws : List Word) (s : Nat) : Nat := if dIsList ws s then dListLen ws s + 1 else 1
def dTdAddr (ws : List Word) (s : Nat) : Nat := 64 * bits (dSlot ws s) 47 6

/-- Signal SIG<n>: object, whether enabled, whether it sets, value. -/
structure Signal where
  obj : Nat
  enable : Bool
  set : Bool
  value : Nat
deriving DecidableEq, Repr

def dSignal (ws : List Word) (n : Nat) : Signal :=
  { obj := bits (dW ws (26 + 2 * n)) 15 0, enable := bit (dW ws (26 + 2 * n)) 16,
    set := bit (dW ws (26 + 2 * n)) 17, value := dW ws (27 + 2 * n) }

/-- The enabled signals in order. -/
def dSignals (ws : List Word) : List Signal := ((List.range 3).map (dSignal ws)).filter (·.enable)

/-- The 32 words of 128 bytes. -/
def wordsOf (bs : List Byte) : List Word :=
  (List.range 32).map (fun i => BitVec.ofNat 32 (leNat ((bs.drop (4 * i)).take 4)))

/-! ### The tensor descriptor (Table 2-4) -/

def TD.zero : TD :=
  { addr := 0, base := 0, format := 0, layout := 0, rank := 1, dim0 := 1, dim1 := 1, dim2 := 1, dim3 := 1,
    stride1 := 0, stride2 := 0, stride3 := 0, scaleBase := 0, scaleStride := 0, advisor := 0, advised := false }

/-- A tensor descriptor's 64 bytes; FORMAT 0xF is kept as BF16 with `advised` set until the advisor gives a format. -/
def tdParse (addr : Nat) (bs : List Byte) : TD :=
  let n (a w : Nat) := leNat ((bs.drop a).take w)
  let f := bits (n 0 8) 51 48
  { addr := addr, base := bits (n 0 8) 47 0, format := if f = 15 then 6 else f, layout := bits (n 0 8) 54 52,
    rank := bits (n 0 8) 56 55 + 1, dim0 := n 8 4, dim1 := n 12 4, dim2 := n 16 4, dim3 := n 20 4,
    stride1 := n 24 8, stride2 := n 32 8, stride3 := n 40 8, scaleBase := bits (n 48 8) 47 0, scaleStride := n 56 4,
    advisor := bits (n 60 4) 11 0, advised := decide (f = 15) }

/-! ### Tensors of an operation -/

/-- Member m of slot s. -/
def Op.td (o : Op) (s m : Nat) : TD := (o.slots.getD s []).getD m TD.zero
def Op.members (o : Op) (s : Nat) : List TD := o.slots.getD s []
def Op.has (o : Op) (s : Nat) : Bool := dPresent o.words s
def Op.opcode (o : Op) : Nat := dOpcode o.words
def Op.variant (o : Op) : Nat := dVariant o.words
def Op.param (o : Op) (p : Nat) : F32 := dParam o.words p
def Op.round (o : Op) : Nat := dRound o.words
def Op.seed (o : Op) : Word := dSeed o.words

def Op.inputs (o : Op) : List TD := o.members 0 ++ o.members 1 ++ o.members 2
def Op.outputs (o : Op) : List TD := o.members 3 ++ o.members 4

/-- Outputs with their slot numbers q (R79). -/
def Op.outputsQ (o : Op) : List (Nat × TD) :=
  ((o.members 3).zipIdx.map (fun p => (3 + 8 * p.2, p.1))) ++ ((o.members 4).zipIdx.map (fun p => (4 + 8 * p.2, p.1)))

def Op.inFoots (o : Op) : List Interval := o.inputs.flatMap tdFoots
def Op.outFoots (o : Op) : List Interval := o.outputs.flatMap tdFoots

/-! ### Views: a tensor as the operation reads it (TRANSPOSE exchanges DIM0 and DIM1) -/

def vDim0 (tr : Bool) (t : TD) : Nat := if tr then t.dim1 else t.dim0
def vDim1 (tr : Bool) (t : TD) : Nat := if tr then t.dim0 else t.dim1

/-- The stored index of a logical one. -/
def vIdx (tr : Bool) (i : Idx) : Idx := if tr then { i with i0 := i.i1, i1 := i.i0 } else i

/-- The dimension along which MX blocks run as read: 0 or 1. -/
def vMxDim (tr : Bool) (t : TD) : Nat := if tr then (if t.layout = 1 then 1 else 0) else (if t.layout = 1 then 0 else 1)

def isMx (t : TD) : Bool := t.layout = 1 || t.layout = 2

/-- An index with a broadcast batch extent taken as 0 (R43). -/
def batchIdx (t : TD) (i0 i1 b2 b3 : Nat) : Idx :=
  { i0 := i0, i1 := i1, i2 := if t.dim2 = 1 then 0 else b2, i3 := if t.dim3 = 1 then 0 else b3 }

/-- Extents as read. -/
def vShape (tr : Bool) (t : TD) : List Nat := [vDim0 tr t, vDim1 tr t, t.dim2, t.dim3]

/-- The logical index at a linear position of the tensor as read. -/
def vAt (tr : Bool) (t : TD) (p : Nat) : Idx :=
  { i0 := p % vDim0 tr t, i1 := p / vDim0 tr t % vDim1 tr t, i2 := p / (vDim0 tr t * vDim1 tr t) % t.dim2,
    i3 := p / (vDim0 tr t * vDim1 tr t * t.dim2) }

/-- Row r of a tensor as read: its index with i0 = c (R44). -/
def vRow (tr : Bool) (t : TD) (r c : Nat) : Idx :=
  { i0 := c, i1 := r % vDim1 tr t, i2 := r / vDim1 tr t % t.dim2, i3 := r / vDim1 tr t / t.dim2 }

def vRows (tr : Bool) (t : TD) : Nat := vDim1 tr t * t.dim2 * t.dim3

/-- The element read on the vector path (R93). -/
def vF32 (rd : Nat → Byte) (tr : Bool) (t : TD) (i : Idx) : F32 := elemF32 rd t (vIdx tr i)

end Sys2Proof.Machine
end

