-- ==== Sys2Proof/Machine/Values.lean ====
section
/-!
DEFINITION. What each family computes: the value of every output element from the bytes of its inputs (02_contract.md R41
to R44, 05_stages.md R129 to R147, 06_backward.md R154 to R173). `rd` reads a byte at a module address.
-/
namespace Sys2Proof.Machine

/-! ### GEMM and BGEMM -/

def Op.isArray (o : Op) : Bool := o.opcode = 1 || o.opcode = 2
def Op.masked (o : Op) : Bool := o.opcode = 1 && o.variant = 1

def gemmA (o : Op) : TD := o.td 0 0
def gemmB (o : Op) : TD := o.td 1 0
def gemmTrA (o : Op) : Bool := dTr o.words 0
def gemmTrB (o : Op) : Bool := dTr o.words 1
def gemmM (o : Op) : Nat := vDim1 (gemmTrA o) (gemmA o)
def gemmK (o : Op) : Nat := vDim0 (gemmTrA o) (gemmA o)
def gemmN (o : Op) : Nat := vDim0 (gemmTrB o) (gemmB o)
def gemmBatches (o : Op) : Nat := (o.td 3 0).dim2 * (o.td 3 0).dim3
def gemmRate (o : Op) : Rate := (rateOf (gemmA o).format (gemmB o).format).getD .once
def gemmKc (o : Op) : Nat := (gemmRate o).kc
def gemmChunks (o : Op) : Nat := ceilDiv (gemmK o) (gemmKc o)

/-- The integer path (R85). -/
def gemmInt (o : Op) : Bool :=
  (gemmA o).format = 5 && (gemmB o).format = 5 && !isMx (gemmA o) && !isMx (gemmB o)

/-- Rows the array works on: the trainable ones of a masked product (R162), else all. -/
def gemmRows (o : Op) : Nat := if o.masked then o.trainable.length else gemmM o
def gemmRow (o : Op) (r : Nat) : Nat := if o.masked then o.trainable.getD r 0 else r

/-- The operands of D[m][n] of one batch element. -/
def gemmArgs (rd : Nat → Byte) (o : Op) (batch m n : Nat) : DotArgs :=
  let d := o.td 3 0
  let b2 := batch % d.dim2
  let b3 := batch / d.dim2
  let ai (k : Nat) := vIdx (gemmTrA o) (batchIdx (gemmA o) k m b2 b3)
  let bi (k : Nat) := vIdx (gemmTrB o) (batchIdx (gemmB o) n k b2 b3)
  { k := gemmK o, a := fun k => elemRaw rd (gemmA o) (ai k), b := fun k => elemRaw rd (gemmB o) (bi k),
    ea := fun k => elemScale rd (gemmA o) (ai k), eb := fun k => elemScale rd (gemmB o) (bi k) }

/-- The chunk result of D[m][n] at the foot. -/
def gemmFoot (rd : Nat → Byte) (o : Op) (batch m n j : Nat) : FootVal :=
  if gemmInt o then .int (dotChunkInt (gemmArgs rd o batch m n) (gemmKc o) j)
  else .f32 (dotChunk (gemmArgs rd o batch m n) (gemmKc o) j)

/-- R90. -/
def perTensorScale (rd : Nat → Byte) (a b : TD) (p : F32) : F32 :=
  match tdTensorScale rd a, tdTensorScale rd b with
  | some x, some y => f32Mul (f32Mul x y) p
  | some x, none => f32Mul x p
  | none, some y => f32Mul y p
  | none, none => p

/-- The bias and the residual of T2 (R41). -/
def gemmBias (o : Op) : Option TD :=
  if o.masked then none
  else match o.members 2 with
    | [t] => if t.rank = 1 then some t else none
    | [t, _] => some t
    | _ => none
def gemmResidual (o : Op) : Option TD :=
  if o.masked then none
  else match o.members 2 with
    | [t] => if t.rank = 1 then none else some t
    | [_, t] => some t
    | _ => none

/-- The Epilogue of GEMM and BGEMM (R129). -/
def gemmEpilogue (rd : Nat → Byte) (o : Op) (batch m n : Nat) (p : F32) : F32 :=
  let d := o.td 3 0
  let y := f32Mul (o.param 0) (perTensorScale rd (gemmA o) (gemmB o) p)
  let y := match gemmBias o with
    | none => y
    | some t => f32Add y (vF32 rd (dTr o.words 2) t (if dTr o.words 2 then ⟨0, n, 0, 0⟩ else ⟨n, 0, 0, 0⟩))
  let a := bits (o.param 1).toNat 7 0
  let y := if a = 0 then y else act a y
  match gemmResidual o with
  | none => y
  | some t =>
    f32Add y (f32Mul (o.param 2) (vF32 rd (dTr o.words 2) t (batchIdx t n m (batch % d.dim2) (batch / d.dim2))))

/-- The whole value, from its operands: what the duplicates and the replays form again. -/
def gemmValue (rd : Nat → Byte) (o : Op) (batch m n : Nat) : F32 :=
  let foots := (List.range (gemmChunks o)).map (gemmFoot rd o batch m n)
  gemmEpilogue rd o batch m n ((treeFold FootVal.add foots.length foots).getD (.f32 0)).toF32

/-! ### ATTN -/

def attnQ (o : Op) : TD := o.td 0 0
def attnK (o : Op) : TD := if o.variant = 0 then o.td 1 0 else o.td 0 1
def attnV (o : Op) : TD := if o.variant = 0 then o.td 2 0 else o.td 0 2
def attnTrQ (o : Op) : Bool := dTr o.words 0
def attnTrK (o : Op) : Bool := if o.variant = 0 then dTr o.words 1 else dTr o.words 0
def attnTrV (o : Op) : Bool := if o.variant = 0 then dTr o.words 2 else dTr o.words 0
def attnD (o : Op) : Nat := vDim0 (attnTrQ o) (attnQ o)
def attnLq (o : Op) : Nat := vDim1 (attnTrQ o) (attnQ o)
def attnLk (o : Op) : Nat := vDim1 (attnTrK o) (attnK o)
def attnHeads (o : Op) : Nat := (attnQ o).dim2
def attnBatches (o : Op) : Nat := (attnQ o).dim3
def attnG (o : Op) : Nat := bits (o.param 2).toNat 15 0
def attnCausal (o : Op) : Bool := bit (o.param 1).toNat 0
def attnDelta (o : Op) : Nat := attnLk o - attnLq o
def attnBlocks (o : Op) : Nat := ceilDiv (attnLk o) 32

/-- Element of Q, K or V at head dimension c, position p, head h, batch b. -/
def attnAt (tr : Bool) (c p h b : Nat) : Idx := vIdx tr { i0 := c, i1 := p, i2 := h, i3 := b }

/-- A contraction of two tensors along DIM0. -/
def rowDot (rd : Nat → Byte) (x y : TD) (xi yi : Nat → Idx) (k : Nat) : DotArgs :=
  { k := k, a := fun c => elemRaw rd x (xi c), b := fun c => elemRaw rd y (yi c),
    ea := fun c => elemScale rd x (xi c), eb := fun c => elemScale rd y (yi c) }

/-- A product along d, on the integer path where R85 says so, with the per-tensor scales of R90. -/
def headDot (rd : Nat → Byte) (x y : TD) (xi yi : Nat → Idx) (k : Nat) : F32 :=
  let d := rowDot rd x y xi yi k
  let kc := ((rateOf x.format y.format).getD .once).kc
  perTensorScale rd x y (dotAll d kc)

/-- t of R143. -/
def attnT (rd : Nat → Byte) (o : Op) (b h i k : Nat) : F32 :=
  if attnCausal o && i + attnDelta o < k then f32Inf true
  else
    let e := h / attnG o
    let acc := headDot rd (attnQ o) (attnK o) (fun c => attnAt (attnTrQ o) c i h b)
      (fun c => attnAt (attnTrK o) c k e b) (attnD o)
    f32Mul (f32Mul (o.param 0) acc) cL2E

/-- A block of P: 32 E4M3 codes at most, the scale byte, mb (R144), and what its packing adds to GLB_NAN_SQUASH (R83). -/
structure PPack where
  codes : List Nat
  scale : Nat
  mb : F32
  squash : Nat
deriving DecidableEq, Repr

def keysOf (o : Op) (blk : Nat) : List Nat := (List.range (min 32 (attnLk o - 32 * blk))).map (fun k => 32 * blk + k)

def attnPack (rd : Nat → Byte) (o : Op) (b h i blk : Nat) : PPack :=
  let ts := (keysOf o blk).map (attnT rd o b h i)
  let mb := f32Ceil (maxOrNegInf ts)
  let p := packBlock 3 (ts.map (fun t => (f32Val (f32Exp2 (f32Sub t mb)), RoundMode.rne)))
  { codes := p.2.1, scale := p.1, mb := mb, squash := p.2.2 }

/-- The row maximum of mb (R145). -/
def attnRowMax (mbs : List F32) : F32 := maxOrNegInf mbs

def f32Bad (x : F32) : Bool := f32IsNan x || x = f32Inf false

/-- The rewrite of a block's scale byte (R145); with a record's M-hat, above 254 gives 0xFF (R157 step 3), and so does an
M-hat of -Inf beside a finite mb, whose difference is above every number. An M-hat that is no integer is cut toward zero, and a
difference of at most 254 gives values whatever its sign, as Table 6-3 says: DESIGN CHOICES, log entry 172. -/
def attnRewrite (mhat : F32) (rowBad : Bool) (p : PPack) : PPack :=
  if rowBad then { p with scale := 255 }
  else if p.mb = f32Inf true then p
  else if mhat = f32Inf true then { p with scale := 255 }
  else
    let e : Int := (p.scale : Int) + f32ToInt p.mb - f32ToInt mhat
    if e < 0 then { p with scale := 127, codes := p.codes.map (fun _ => 0) }
    else if 254 < e then { p with scale := 255 }
    else { p with scale := e.toNat }

/-- A row of P after the rewrite, with M-hat. -/
def attnRow (rd : Nat → Byte) (o : Op) (b h i : Nat) : List PPack × F32 :=
  let ps := (List.range (attnBlocks o)).map (attnPack rd o b h i)
  let mhat := attnRowMax (ps.map (·.mb))
  let bad := f32Bad mhat || ps.any (fun p => f32Bad p.mb)
  (ps.map (attnRewrite mhat bad), mhat)

/-- K of row i in pass 2 (R146), cut at the keys there are. -/
def attnKeys (o : Op) (i : Nat) : Nat :=
  if attnCausal o then min (attnLk o) (32 * ((i + attnDelta o) / 32 + 1)) else attnLk o

/-- The largest scale byte of V among a key block's keys for column c's group of 32 (R146); NaN scales win. -/
def vTopScale (rd : Nat → Byte) (o : Op) (b e blk c : Nat) : Nat :=
  ((keysOf o blk).map (fun k => elemScale rd (attnV o) (attnAt (attnTrV o) c k e b))).foldl max 0

/-- V carries its MX scales along DIM0 as read. -/
def vAlongD (o : Op) : Bool := isMx (attnV o) && vMxDim (attnTrV o) (attnV o) = 0

/-- An element of V' without scale: as stored, or re-encoded under the rescaling of R146. -/
def vPrime (rd : Nat → Byte) (o : Op) (b e k c : Nat) : Val :=
  if c = attnD o then .fin false 1 0
  else
    let t := attnV o
    let i := attnAt (attnTrV o) c k e b
    if vAlongD o then
      let top := vTopScale rd o b e (k / 32) c
      let own := elemScale rd t i
      decodeCode t.format (encodeVal t.format .rne ((elemRaw rd t i).scale ((own : Int) - (top : Int)))).1
    else elemRaw rd t i

def vPrimeScale (rd : Nat → Byte) (o : Op) (b e k c : Nat) : Nat :=
  if c = attnD o then 127
  else if vAlongD o then vTopScale rd o b e (k / 32) c
  else elemScale rd (attnV o) (attnAt (attnTrV o) c k e b)

/-- K_c of E4M3 with V's format. -/
def attnKc2 (o : Op) : Nat := ((rateOf 3 (attnV o).format).getD .once).kc

def pCode (ps : List PPack) (k : Nat) : Val := decodeCode 3 (((ps.getD (k / 32) ⟨[], 127, 0, 0⟩).codes).getD (k % 32) 0)
def pScale (ps : List PPack) (k : Nat) : Nat := (ps.getD (k / 32) ⟨[], 127, 0, 0⟩).scale

/-- The operands of O'[i][c]. -/
def attnArgs2 (rd : Nat → Byte) (o : Op) (ps : List PPack) (b h i c : Nat) : DotArgs :=
  let e := h / attnG o
  { k := attnKeys o i, a := pCode ps, b := fun k => vPrime rd o b e k c, ea := pScale ps,
    eb := fun k => vPrimeScale rd o b e k c }

/-- O' of a row, column c (column d is l). -/
def attnOPrime (rd : Nat → Byte) (o : Op) (ps : List PPack) (b h i c : Nat) : F32 :=
  dotAll (attnArgs2 rd o ps b h i c) (attnKc2 o)

def scaleV (rd : Nat → Byte) (o : Op) (x : F32) : F32 :=
  match tdTensorScale rd (attnV o) with
  | some s => f32Mul s x
  | none => x

/-- o_c (R147). -/
def attnOut (rd : Nat → Byte) (o : Op) (oc l : F32) : F32 := f32Div (scaleV rd o oc) l

/-- ATTN forward, output O at (c, i, h, b). -/
def attnFwd (rd : Nat → Byte) (o : Op) (ix : Idx) : F32 :=
  let row := attnRow rd o ix.i3 ix.i2 ix.i1
  attnOut rd o (attnOPrime rd o row.1 ix.i3 ix.i2 ix.i1 ix.i0) (attnOPrime rd o row.1 ix.i3 ix.i2 ix.i1 (attnD o))

/-- ATTN forward, the record: index 0 M-hat, 1 l (Table 6-2). -/
def attnStat (rd : Nat → Byte) (o : Op) (ix : Idx) : F32 :=
  let row := attnRow rd o ix.i3 ix.i2 ix.i0
  if ix.i1 = 0 then row.2 else attnOPrime rd o row.1 ix.i3 ix.i2 ix.i0 (attnD o)

/-! ATTN backward (R156 to R159) -/

/-- An element of O or dO. -/
def bwdTd (o : Op) (m : Nat) : TD := o.td 1 m
def bwdAt (o : Op) (c i h b : Nat) : Idx := attnAt (dTr o.words 1) c i h b

def bwdStat (rd : Nat → Byte) (o : Op) (which b h i : Nat) : F32 :=
  vF32 rd (dTr o.words 2) (o.td 2 0) { i0 := i, i1 := which, i2 := h, i3 := b }

/-- Step 1. -/
def bwdD (rd : Nat → Byte) (o : Op) (b h i : Nat) : F32 :=
  orderedSum ((List.range (attnD o)).map (fun c =>
    f32Mul (elemF32 rd (bwdTd o 1) (bwdAt o c i h b)) (elemF32 rd (bwdTd o 0) (bwdAt o c i h b))))

/-- Steps 2 and 3: the rewritten P of a row with the record's M-hat. -/
def bwdRow (rd : Nat → Byte) (o : Op) (b h i : Nat) : List PPack :=
  let mhat := bwdStat rd o 0 b h i
  let ps := (List.range (attnBlocks o)).map (attnPack rd o b h i)
  let bad := f32Bad mhat || ps.any (fun p => f32Bad p.mb)
  ps.map (attnRewrite mhat bad)

/-- Step 4; a masked entry gives +0. -/
def bwdP (rd : Nat → Byte) (o : Op) (ps : List PPack) (b h i k : Nat) : F32 :=
  if attnCausal o && i + attnDelta o < k then 0
  else f32Div (rne32 (scaled 3 (pScale ps k) (pCode ps k))) (bwdStat rd o 1 b h i)

/-- Step 5: the product under R86 to R90 with dO's scale, then times s_V. With per-tensor scales on both operands the product
is RNE(s_V x RNE(s_dO x P)): DESIGN CHOICE, log entry 17. -/
def bwdDP (rd : Nat → Byte) (o : Op) (b h i k : Nat) : F32 :=
  let d := rowDot rd (bwdTd o 1) (attnV o) (fun c => bwdAt o c i h b)
    (fun c => attnAt (attnTrV o) c k (h / attnG o) b) (attnD o)
  let kc := ((rateOf (bwdTd o 1).format (attnV o).format).getD .once).kc
  let p := dotAll d kc
  scaleV rd o (match tdTensorScale rd (bwdTd o 1) with
    | some x => f32Mul x p
    | none => p)

/-- Step 6. -/
def bwdDS (rd : Nat → Byte) (o : Op) (ps : List PPack) (b h i k : Nat) : F32 :=
  if attnCausal o && i + attnDelta o < k then 0
  else f32Mul (bwdP rd o ps b h i k) (f32Sub (bwdDP rd o b h i k) (bwdD rd o b h i))

/-- A vector packed into a format with MX scales in blocks of 32 (R158): codes as values, scale bytes. -/
def packVec (fmt : Nat) (vs : List Val) : List (Val × Nat) :=
  (List.range (ceilDiv vs.length 32)).flatMap (fun b =>
    let p := packBlock fmt (((vs.drop (32 * b)).take 32).map (fun v => (v, RoundMode.rne)))
    p.2.1.map (fun c =>
      let x := decodeCode fmt c
      (if fmt = 5 then x.scale (-6) else x, p.1)))

/-- What packing a block of FP32 values as E4M3 adds to GLB_NAN_SQUASH (R83). -/
def packCount (vs : List F32) : Nat := (packBlock 3 (vs.map (fun v => (f32Val v, RoundMode.rne)))).2.2

/-- A tensor's elements along a contraction over positions: re-packed when MX-scaled, else as stored (R158). -/
def repackVec (rd : Nat → Byte) (t : TD) (ids : List Idx) : List (Val × Nat) :=
  if isMx t then packVec t.format (ids.map (elemVal rd t)) else ids.map (fun i => (elemRaw rd t i, 127))

/-- The operands of a contraction of two prepared vectors. -/
def vecArgs (xs ys : List (Val × Nat)) : DotArgs :=
  { k := min xs.length ys.length, a := fun k => (xs.getD k (.nan, 127)).1, b := fun k => (ys.getD k (.nan, 127)).1,
    ea := fun k => (xs.getD k (.nan, 127)).2, eb := fun k => (ys.getD k (.nan, 127)).2 }

/-- The query rows of key head e along j (R158): j = (L_q - 1 - i) * G + g. -/
def bwdRows (o : Op) (e : Nat) : List (Nat × Nat) :=
  (List.range (attnG o * attnLq o)).map (fun j => (e * attnG o + j % attnG o, attnLq o - 1 - j / attnG o))

/-- K(k) of the causal contraction, cut at the rows there are. -/
def bwdK (o : Op) (k : Nat) : Nat :=
  if attnCausal o then min (attnG o * attnLq o) (32 * ceilDiv (attnG o * (attnLq o - (k - attnDelta o))) 32)
  else attnG o * attnLq o

/-- A value for each head, query and key of a batch element. -/
abbrev ScoreFn := Nat → Nat → Nat → F32

/-- P and dS as steps 4 and 6 form them. -/
def bwdPAt (rd : Nat → Byte) (o : Op) (b : Nat) : ScoreFn := fun h i k => bwdP rd o (bwdRow rd o b h i) b h i k
def bwdDSAt (rd : Nat → Byte) (o : Op) (b : Nat) : ScoreFn := fun h i k => bwdDS rd o (bwdRow rd o b h i) b h i k

/-- Key k down the query rows of key head e. -/
def scoreCol (o : Op) (e k : Nat) (f : ScoreFn) : List F32 := (bwdRows o e).map (fun r => f r.1 r.2 k)

/-- The contraction of step 7, 8 or 9 (output 0, 1 or 2) at an index, from P and dS. -/
def bwdArgs (rd : Nat → Byte) (o : Op) (p ds : ScoreFn) (out : Nat) (ix : Idx) : DotArgs :=
  let b := ix.i3
  match out with
  | 0 =>
    let h := ix.i2
    let n := attnKeys o ix.i1
    vecArgs (packVec 3 ((List.range n).map (fun k => f32Val (ds h ix.i1 k))))
      ((repackVec rd (attnK o) ((List.range (attnLk o)).map (fun k => attnAt (attnTrK o) ix.i0 k (h / attnG o) b))).take n)
  | 1 =>
    let n := bwdK o ix.i1
    vecArgs (packVec 3 (((scoreCol o ix.i2 ix.i1 ds).map f32Val).take n))
      ((repackVec rd (attnQ o) ((bwdRows o ix.i2).map (fun r => attnAt (attnTrQ o) ix.i0 r.2 r.1 b))).take n)
  | _ =>
    let n := bwdK o ix.i1
    vecArgs (packVec 3 (((scoreCol o ix.i2 ix.i1 p).map f32Val).take n))
      ((repackVec rd (bwdTd o 1) ((bwdRows o ix.i2).map (fun r => bwdAt o ix.i0 r.2 r.1 b))).take n)

/-- K_c of E4M3 with a format that is no 2x partner: 1,024 (R158). -/
def bwdKc : Nat := 1024

/-- What steps 7 to 9 make of the contraction: times PARAM0, or times s_V. -/
def bwdFinish (rd : Nat → Byte) (o : Op) (out : Nat) (x : F32) : F32 :=
  if out = 2 then scaleV rd o x else f32Mul (o.param 0) x

/-- dQ, dK or dV. -/
def bwdOut (rd : Nat → Byte) (o : Op) (out : Nat) (ix : Idx) : F32 := bwdFinish rd o out (dotAll (bwdArgs rd o (bwdPAt rd o ix.i3) (bwdDSAt rd o ix.i3) out ix) bwdKc)

/-! ### NORM (R140, R154, R155) -/

/-- Row r of a tensor as the vector path reads it. -/
def rowF32 (rd : Nat → Byte) (tr : Bool) (t : TD) (r : Nat) : List F32 :=
  (List.range (vDim0 tr t)).map (fun c => vF32 rd tr t (vRow tr t r c))

/-- mu and r of a row of LN. -/
def lnStats (eps : F32) (x : List F32) : F32 × F32 :=
  let n := f32OfNat x.length
  let mu := f32Div (orderedSum x) n
  let var := f32Div (orderedSum (x.map (fun v => f32Mul (f32Sub v mu) (f32Sub v mu)))) n
  (mu, f32Div f32One (f32Sqrt (f32Add var eps)))

def rmsR (eps : F32) (x : List F32) : F32 :=
  f32Div f32One (f32Sqrt (f32Add (f32Div (orderedSum (x.map (fun v => f32Mul v v))) (f32OfNat x.length)) eps))

/-- Element c of a rank-1 tensor read from a slot: check 4 leaves no rank-1 tensor whose reading TRANSPOSE changes. -/
def vecAt (rd : Nat → Byte) (o : Op) (slot m c : Nat) : F32 := elemF32 rd (o.td slot m) { i0 := c, i1 := 0, i2 := 0, i3 := 0 }

/-- NORM forward: y of row r. -/
def normY (rd : Nat → Byte) (o : Op) (r c : Nat) : F32 :=
  let x := rowF32 rd (dTr o.words 0) (o.td 0 0) r
  let v := x.getD c 0
  if o.variant = 0 then
    let st := lnStats (o.param 0) x
    f32Add (f32Mul (f32Mul (f32Sub v st.1) st.2) (vecAt rd o 1 0 c)) (vecAt rd o 2 0 c)
  else f32Mul (f32Mul v (rmsR (o.param 0) x)) (vecAt rd o 1 0 c)

/-- NORM forward: the record (Table 6-2). -/
def normStat (rd : Nat → Byte) (o : Op) (r which : Nat) : F32 :=
  let x := rowF32 rd (dTr o.words 0) (o.td 0 0) r
  if o.variant = 0 then (if which = 0 then (lnStats (o.param 0) x).1 else (lnStats (o.param 0) x).2)
  else rmsR (o.param 0) x

/-- Statistic `which` of row r in the record of a backward operation, read as T2 is read. -/
def normRec (rd : Nat → Byte) (o : Op) (r which : Nat) : F32 :=
  vF32 rd (dTr o.words 2) (o.td 2 1) { i0 := r, i1 := which, i2 := 0, i3 := 0 }

/-- xh of element c of row r. -/
def normXh (rd : Nat → Byte) (o : Op) (r c : Nat) : F32 :=
  let tr := dTr o.words 0
  let x := vF32 rd tr (o.td 0 0) (vRow tr (o.td 0 0) r c)
  if o.variant = 2 then f32Mul (f32Sub x (normRec rd o r 0)) (normRec rd o r 1) else f32Mul x (normRec rd o r 0)

def normDy (rd : Nat → Byte) (o : Op) (r c : Nat) : F32 :=
  let tr := dTr o.words 1
  vF32 rd tr (o.td 1 0) (vRow tr (o.td 1 0) r c)

def normDx (rd : Nat → Byte) (o : Op) (r c : Nat) : F32 :=
  let n := vDim0 (dTr o.words 0) (o.td 0 0)
  let fn := f32OfNat n
  let g (q : Nat) := f32Mul (normDy rd o r q) (vecAt rd o 2 0 q)
  let b := f32Div (orderedSum ((List.range n).map (fun q => f32Mul (g q) (normXh rd o r q)))) fn
  let rr := normRec rd o r (if o.variant = 2 then 1 else 0)
  if o.variant = 2 then
    let a := f32Div (orderedSum ((List.range n).map g)) fn
    f32Mul rr (f32Sub (f32Sub (g c) a) (f32Mul (normXh rd o r c) b))
  else f32Mul rr (f32Sub (g c) (f32Mul (normXh rd o r c) b))

/-- The term of row r in the column sum of output `member` of T4: dy x xh for dgamma, dy for dbeta. -/
def colTerm (rd : Nat → Byte) (o : Op) (member r c : Nat) : F32 :=
  if member = 0 then f32Mul (normDy rd o r c) (normXh rd o r c) else normDy rd o r c

/-- The column sum in the order of R88: exact blocks of 32 rows, chunks of 1,024 (R155). -/
def colSum (rd : Nat → Byte) (o : Op) (member c : Nat) : F32 :=
  orderedSum ((List.range (vRows (dTr o.words 0) (o.td 0 0))).map (fun r => colTerm rd o member r c))

/-- The exact partial sums that rows [row0, row0 + rows) of one run hold of the blocks of 32 rows they reach. -/
def colPartials (rd : Nat → Byte) (o : Op) (run row0 rows : Nat) : List ColPart :=
  (List.range (o.members 4).length).flatMap (fun m => (List.range (o.td 4 m).dim0).flatMap (fun c =>
    (List.range (ceilDiv (row0 + rows) 32 - row0 / 32)).map (fun k =>
      let b := row0 / 32 + k
      let rs := (List.range rows).map (fun i => row0 + i)
      { run := run, member := m, col := c, blk := b,
        sum := exactSum ((rs.filter (fun r => decide (r / 32 = b))).map (fun r => f32Val (colTerm rd o m r c))) })))

/-- The column sum from the exact partials of every region: those of one block added exactly, rounded once, then running sums
and the chunk tree of R88. -/
def colFromParts (parts : List ColPart) (rows member c : Nat) : F32 :=
  let blk (b : Nat) : F32 := rne32 (exactSum ((parts.filter (fun p => decide (p.member = member) && decide (p.col = c) && decide (p.blk = b))).map (·.sum)))
  treeSum ((List.range (ceilDiv rows 1024)).map (fun j => runningSum ((chunkBlocks rows 1024 j).map blk)))

/-! ### ELEMWISE (R139), REDUCE (R44), OPTSTEP (R173) -/

/-- Input of slot s, member m, at a logical index. -/
def inAt (rd : Nat → Byte) (o : Op) (s m : Nat) (i : Idx) : F32 := vF32 rd (dTr o.words s) (o.td s m) i

def elemwise (rd : Nat → Byte) (o : Op) (i : Idx) : F32 :=
  let a := bits (o.param 2).toNat 7 0
  match o.variant with
  | 0 => f32Mul (o.param 0) (inAt rd o 0 0 i)
  | 1 => f32Add (inAt rd o 0 0 i) (inAt rd o 1 0 i)
  | 2 => f32Mul (inAt rd o 0 0 i) (inAt rd o 1 0 i)
  | 3 => act a (inAt rd o 0 0 i)
  | 4 => f32Mul (inAt rd o 1 0 i) (actGrad a (inAt rd o 0 0 i))
  | _ => f32Add (f32Mul (o.param 0) (inAt rd o 0 0 i)) (f32Mul (o.param 1) (inAt rd o 1 0 i))

/-- Element r of z: the reduction of row r of x. -/
def reduceRow (rd : Nat → Byte) (o : Op) (r : Nat) : F32 :=
  let x := rowF32 rd (dTr o.words 0) (o.td 0 0) r
  if o.variant = 0 then orderedSum x else maxOf x

/-- REDUCE variant 2: T0's members, then T1's, each addition rounded (R44). -/
def reduceBuffers (rd : Nat → Byte) (o : Op) (i : Idx) : F32 :=
  runningSum ((o.members 0).map (fun t => vF32 rd (dTr o.words 0) t i) ++
    (o.members 1).map (fun t => vF32 rd (dTr o.words 1) t i))

/-- pw of R173 over the bits of t from the most significant set bit down. -/
def pw (b : F32) (t : Nat) : F32 :=
  (List.range (Nat.log2 t + 1)).foldl (fun p k =>
    let q := f32Mul p p
    if bit t (Nat.log2 t - k) then f32Mul q b else q) f32One

/-- The three results of OPTSTEP at one element: w1, m1, v1. -/
def optstep (rd : Nat → Byte) (o : Op) (i : Idx) : F32 × F32 × F32 :=
  let w := inAt rd o 0 0 i
  let g := inAt rd o 0 1 i
  let m := inAt rd o 1 0 i
  let v := inAt rd o 1 1 i
  let lr := o.param 0
  let b1 := o.param 1
  let b2 := o.param 2
  let wd := o.param 4
  let t := (o.param 5).toNat
  let decay (x : F32) : F32 := if f32IsZero wd then x else f32Add x (f32Mul wd w)
  if o.variant = 0 then
    let m1 := f32Add (f32Mul b1 m) (decay g)
    (f32Sub w (f32Mul lr m1), m1, 0)
  else
    let ge := if o.variant = 1 then decay g else g
    let m1 := f32Add (f32Mul b1 m) (f32Mul (f32Sub f32One b1) ge)
    let v1 := f32Add (f32Mul b2 v) (f32Mul (f32Sub f32One b2) (f32Mul ge ge))
    let c1 := f32Sub f32One (pw b1 t)
    let c2 := f32Sub f32One (pw b2 t)
    let st := f32Div (f32Div m1 c1) (f32Add (f32Sqrt (f32Div v1 c2)) (o.param 3))
    (f32Sub w (f32Mul lr (if o.variant = 1 then st else decay st)), m1, v1)

/-! ### The value of an output element (the Packer's input) -/

/-- Row number of an index (R44). -/
def rowOf (t : TD) (i : Idx) : Nat := i.i1 + t.dim1 * (i.i2 + t.dim2 * i.i3)

/-- idx[p] of an index tensor in T1. -/
def indexAt (rd : Nat → Byte) (o : Op) (p : Nat) : Nat :=
  let tr := dTr o.words 1
  elemCode rd (o.td 1 0) (vIdx tr (vAt tr (o.td 1 0) p))

def indexCount (o : Op) : Nat := tdElems (o.td 1 0)

/-- Positions that name a row, rising. -/
def positionsOf (rd : Nat → Byte) (o : Op) (row : Nat) : List Nat :=
  (List.range (indexCount o)).filter (fun p => indexAt rd o p = row)

/-- SCATTER variant 1: the sum of a row's element (R44). -/
def scatterSum (rd : Nat → Byte) (o : Op) (row c : Nat) : Option F32 :=
  match positionsOf rd o row with
  | [] => none
  | ps =>
    let base := vF32 rd (dTr o.words 2) (o.td 2 0) (vRow (dTr o.words 2) (o.td 2 0) row c)
    some (ps.foldl (fun acc p => f32Add acc (vF32 rd (dTr o.words 0) (o.td 0 0) (vRow (dTr o.words 0) (o.td 0 0) p c))) base)

/-- The FP32 value of element `i` of output (slot, member), for the families that form one by the Epilogue. -/
def opF32 (rd : Nat → Byte) (o : Op) (slot member : Nat) (i : Idx) : F32 :=
  let z := o.td slot member
  match o.opcode with
  | 1 | 2 =>
    let batch := i.i2 + z.dim2 * i.i3
    if slot = 3 then gemmValue rd o batch i.i1 i.i0
    else
      let n := gemmN o
      let st := statTree ((List.range (ceilDiv n 8)).map (fun b =>
        statBlock ((List.range (min 8 (n - 8 * b))).map (fun c => gemmValue rd o batch i.i0 (8 * b + c)))))
      match i.i1 with
      | 0 => st.mx
      | 1 => st.se
      | 2 => st.sm
      | _ => st.sq
  | 3 =>
    if o.variant = 0 then (if slot = 3 then attnFwd rd o i else attnStat rd o i)
    else bwdOut rd o member i
  | 4 =>
    if slot = 3 then (if o.variant ≤ 1 then normY rd o (rowOf z i) i.i0 else normDx rd o (rowOf z i) i.i0)
    else if o.variant ≤ 1 then normStat rd o i.i0 i.i1
    else colSum rd o member i.i0
  | 5 => elemwise rd o i
  | 6 => if o.variant = 2 then reduceBuffers rd o i else reduceRow rd o (tdPos z i)
  | 14 =>
    let r := optstep rd o i
    if slot = 4 then r.2.2 else if member = 0 then r.1 else r.2.1
  | _ => 0

/-- The exact value the Packer rounds: FP32 for the Epilogue's families, the decoded source for CONVERT (R80), sums and
decoded base elements for SCATTER variant 1. -/
def opVal (rd : Nat → Byte) (o : Op) (slot member : Nat) (i : Idx) : Val :=
  if o.opcode = 9 then elemVal rd (o.td 0 0) (vIdx (dTr o.words 0) i)
  else if o.opcode = 8 then
    let row := rowOf (o.td 3 0) i
    match scatterSum rd o row i.i0 with
    | some x => f32Val x
    | none => elemVal rd (o.td 2 0) (vIdx (dTr o.words 2) (vRow (dTr o.words 2) (o.td 2 0) row i.i0))
  else f32Val (opF32 rd o slot member i)

/-! ### Elements moved unchanged: GATHER, SCATTER variant 0, COPY -/

/-- The source of an element moved unchanged: the tensor and its stored index; none when no source names it (an index
out of range, R44). -/
def moveSource (rd : Nat → Byte) (o : Op) (i : Idx) : Option (TD × Idx) :=
  let z := o.td 3 0
  match o.opcode with
  | 7 =>
    let row := indexAt rd o (rowOf z i)
    let tr := dTr o.words 0
    if row < vDim1 tr (o.td 0 0) then some (o.td 0 0, vIdx tr ⟨i.i0, row, 0, 0⟩) else none
  | 8 =>
    match (positionsOf rd o (rowOf z i)).getLast? with
    | some p => some (o.td 0 0, vIdx (dTr o.words 0) (vRow (dTr o.words 0) (o.td 0 0) p i.i0))
    | none => some (o.td 2 0, vIdx (dTr o.words 2) (vRow (dTr o.words 2) (o.td 2 0) (rowOf z i) i.i0))
  | _ => some (o.td 0 0, vIdx (dTr o.words 0) (vAt (dTr o.words 0) (o.td 0 0) (tdPos z i)))

/-- The scale byte a moved block takes: the one its elements' sources share; a free value where they differ
(log entry 13). -/
def movedScale (rd : Nat → Byte) (o : Op) (i : Idx) : Nat :=
  let z := o.td 3 0
  let srcs := (blockIdx z i).map (fun j => (moveSource rd o j).map (fun p => elemScale rd p.1 p.2))
  match srcs with
  | some e :: rest => if rest.all (fun x => x = some e) then e else (Sys2Proof.Config.movedScale (tdScaleAddr z i)).toNat
  | _ => (Sys2Proof.Config.movedScale (tdScaleAddr z i)).toNat

/-- The writes of one moved element. -/
def moveWrites (rd : Nat → Byte) (o : Op) (i : Idx) : List BitWrite :=
  let z := o.td 3 0
  match moveSource rd o i with
  | none => []
  | some (t, j) =>
    let first := decide ((blockIdx z i).head? = some i)
    elemWrite z z.format i (elemCode rd t j) ::
      (if isMx z && first then [scaleWrite z i (movedScale rd o i)] else [])

/-- An index at or beyond DIM1 of the table (R44). -/
def indexOutOfRange (rd : Nat → Byte) (o : Op) : Bool :=
  if o.opcode = 7 then
    (List.range (indexCount o)).any (fun p => decide (vDim1 (dTr o.words 0) (o.td 0 0) ≤ indexAt rd o p))
  else if o.opcode = 8 then
    (List.range (indexCount o)).any (fun p => decide (vDim1 (dTr o.words 2) (o.td 2 0) ≤ indexAt rd o p))
  else false

/-! ### Packed output of an element -/

/-- What the Drain writes for element `i` of output (slot, member), and what it adds to GLB_NAN_SQUASH. SCATTER
variant 1 keeps T2's bytes where no index names the row, or the MX block (R44). -/
def outWrites (rd : Nat → Byte) (o : Op) (slot member : Nat) (i : Idx) : List BitWrite × Nat :=
  let z := o.td slot member
  let q := slot + 8 * member
  if o.opcode = 7 || o.opcode = 10 || (o.opcode = 8 && o.variant = 0) then (moveWrites rd o i, 0)
  else if o.opcode = 8 then
    let rows := if isMx z then (blockIdx z i).map (fun j => rowOf z j) else [rowOf z i]
    if rows.all (fun r => (positionsOf rd o r).isEmpty) then
      let j := vIdx (dTr o.words 2) (vRow (dTr o.words 2) (o.td 2 0) (rowOf z i) i.i0)
      let first := decide ((blockIdx z i).head? = some i)
      (elemWrite z z.format i (elemCode rd (o.td 2 0) j) ::
        (if isMx z && first then [scaleWrite z i (elemScale rd (o.td 2 0) j)] else []), 0)
    else packElem o.round o.seed q z z.format (opVal rd o slot member) i
  else packElem o.round o.seed q z z.format (opVal rd o slot member) i

end Sys2Proof.Machine
end

