-- ==== Sys2Proof/Machine/Ops.lean ====
section
/-!
DEFINITION. The named operations on memory, units, records, rings, the stale list, sync objects and the stud book that
the commands share.
-/
namespace Sys2Proof.Machine

/-- The outcome of a command that has its effect. -/
abbrev Res := Host.Outcome State Fault Refusal

/-- Run `f` where the named unit exists, else stop: no such unit (Table 0-4). -/
def onUnit (ok : Bool) (t : State) : Res := if ok then .next t else .fault .noSuchUnit

/-! ### Memory -/

/-- The canonical form: addresses strictly rising and no byte equal to 0, the byte an unlisted address reads as. -/
def Memory.wf : Mem → Bool
  | [] => true
  | [c] => decide (c.2 ≠ 0)
  | c :: d :: m => decide (c.2 ≠ 0) && decide (c.1 < d.1) && Memory.wf (d :: m)

/-- The byte at an address. -/
def memGet : Mem → Nat → Byte
  | [], _ => 0
  | c :: m, a => if c.1 = a then c.2 else if a < c.1 then 0 else memGet m a

/-- Write one byte. -/
def memSet : Mem → Nat → Byte → Mem
  | [], a, b => if b = 0 then [] else [(a, b)]
  | c :: m, a, b =>
    if c.1 < a then c :: memSet m a b
    else if c.1 = a then (if b = 0 then m else (a, b) :: m)
    else if b = 0 then c :: m
    else (a, b) :: c :: m

/-- Write a list of bytes, the first one first. -/
def memWrite (m : Mem) (cells : List Host.Cell) : Mem := cells.foldl (fun acc c => memSet acc c.1 c.2) m

/-- Keep the bytes whose address satisfies a test; every other address reads 0. -/
def memKeep (m : Mem) (p : Nat → Bool) : Mem := m.filter (fun c => p c.1)

/-- The cells of a list of bytes from an address on. -/
def cellsAt (a : Nat) (bs : List Byte) : List Host.Cell := bs.zipIdx.map (fun p => (a + p.2, p.1))

/-! ### Units -/

def fieldAt (s : State) (f : Nat) : Field := s.fields.getD f Field.reset
def modField (s : State) (f : Nat) (g : Field → Field) : State := { s with fields := s.fields.modify f g }
def regionAt (s : State) (r : Nat) : Region := s.regions.getD r Region.reset
def modRegion (s : State) (r : Nat) (g : Region → Region) : State := { s with regions := s.regions.modify r g }
def stackAt (s : State) (m : Nat) : Stack := s.memStacks.getD m Stack.reset
def modStack (s : State) (m : Nat) (g : Stack → Stack) : State := { s with memStacks := s.memStacks.modify m g }
def linkAt (s : State) (l : Nat) : Link := s.lnk.links.getD l Link.reset
def modLink (s : State) (l : Nat) (g : Link → Link) : State :=
  { s with lnk := { s.lnk with links := s.lnk.links.modify l g } }
def ringAt (s : State) (r : Nat) : Ring := s.hst.rings.getD r Ring.reset
def modRing (s : State) (r : Nat) (g : Ring → Ring) : State :=
  { s with hst := { s.hst with rings := s.hst.rings.modify r g } }
def edgeAt (s : State) (f e : Nat) : Edge := (fieldAt s f).edges.getD e Edge.reset
def modEdge (s : State) (f e : Nat) (g : Edge → Edge) : State :=
  modField s f (fun x => { x with edges := x.edges.modify e g })

def modMaster (s : State) (g : Master → Master) : State := { s with master := g s.master }
def modGlb (s : State) (g : Glb → Glb) : State := { s with glb := g s.glb }
def modPwr (s : State) (g : Power → Power) : State := { s with pwr := g s.pwr }
def modClk (s : State) (g : Clock → Clock) : State := { s with clk := g s.clk }
def modHst (s : State) (g : Hst → Hst) : State := { s with hst := g s.hst }
def modNa (s : State) (g : Adapter → Adapter) : State := { s with na := g s.na }
def modSec (s : State) (g : Sec → Sec) : State := { s with sec := g s.sec }
def modSide (s : State) (g : Side → Side) : State := { s with side := g s.side }
def modBoot (s : State) (g : Boot → Boot) : State := { s with boot := g s.boot }
def modLnk (s : State) (g : Lnk → Lnk) : State := { s with lnk := g s.lnk }
def modFarrier (s : State) (g : Farrier → Farrier) : State := { s with farrier := g s.farrier }

/-- Position of a block in `State.blocks`. -/
def blkNum : Blk → Nat
  | .glb => 0 | .fld => 1 | .rgn => 2 | .mem => 3 | .lnk => 4 | .hst => 5 | .pwr => 6 | .clk => 7 | .sec => 8

def ctlAt (s : State) (b : Blk) : BlockCtl := s.blocks.getD (blkNum b) BlockCtl.reset
def modCtl (s : State) (b : Blk) (g : BlockCtl → BlockCtl) : State := { s with blocks := s.blocks.modify (blkNum b) g }

/-- A counter that stops at a bound. -/
def capAdd (top n d : Nat) : Nat := if top ≤ n + d then top else n + d

def top16 : Nat := 65535
def top32 : Nat := 4294967295

/-- The field of a region, and its place in the field (Table 0-4). -/
def fieldOf (r : Nat) : Nat := r / 6
def regionsOf (f : Nat) : List Nat := (List.range 6).map (fun n => 6 * f + n)

/-- The stake map a region has: physical stakes it bypasses, from the fuses, the stud book and the tests (R106). -/
def popcount (n w : Nat) : Nat := ((List.range w).filter (fun k => bit n k)).length

/-- w of a region in the published weave (R95, R107). -/
def widthOf (r : Region) : Nat := 512 - popcount r.pubMap.toNat 512

/-! ### The weave -/

/-- The regions of the published weave, in region order. -/
def liveRegions (s : State) : List Nat := (List.range 96).filter (fun r => (regionAt s r).pubLive)

/-- The stacks the address map lists (R232). -/
def mapStacks (s : State) : List Nat := (List.range 16).filter (fun m => (stackAt s m).inMap)

/-- Bytes of the DRAM range (R230). -/
def dramBytes (s : State) : Nat := (mapStacks s).length * 2 ^ 37

/-- A region that placement may use (R115): live in the published weave, not marked for switch-off for heat (R325), and
not taken by a farrier session (R365). -/
def takesTiles (s : State) (r : Nat) : Bool :=
  (regionAt s r).pubLive && (regionAt s r).live && !(regionAt s r).heatPending &&
    !(regionAt s r).leavePending && !(s.farrier.session.elim false (fun x => decide (x.region = r)))

/-! ### Addresses (Table 9-2) -/

def spadBase : Nat := 2 ^ 46
def hostBase : Nat := 2 ^ 47
def spadEnd : Nat := 2 ^ 46 + 96 * 2 ^ 26

def taskBase (s : State) : Nat := s.glb.taskBase.toNat * 65536
def taskBound (s : State) : Nat := s.glb.taskBound.toNat * 65536

def isDram (s : State) (a : Nat) : Bool := decide (a < dramBytes s)
def isSpad (a : Nat) : Bool := decide (spadBase ≤ a) && decide (a < spadEnd)
def isHost (a : Nat) : Bool := decide (hostBase ≤ a) && decide (a < 2 ^ 48)

/-- Slot and offset of a window address (R208). -/
def slotOf (a : Nat) : Nat := (a - spadBase) / 2 ^ 26
def slotAddr (slot : Nat) : Nat := spadBase + slot * 2 ^ 26
def slotAt (s : State) (k : Nat) : Slot := s.slots.getD k .unmapped

/-- The physical place of a window address: region * 2^26 + in-region offset (R211); none outside a mapped slot. -/
def spadPlace (s : State) (a : Nat) : Option Nat :=
  match slotAt s (slotOf a) with
  | .mapped r => some (r * 2 ^ 26 + taskBase s + (a - spadBase) % 2 ^ 26)
  | _ => none

/-- TASK_BASE + a below TASK_BOUND (R211). -/
def inTask (s : State) (a : Nat) : Bool := decide (taskBase s + (a - spadBase) % 2 ^ 26 < taskBound s)

/-- The byte an operation reads at a module address. -/
def readByte (s : State) (a : Nat) : Byte :=
  if isHost a then memGet s.host a
  else if isSpad a then
    (match spadPlace s a with
      | some p => if inTask s a then memGet s.spad p else 0
      | none => 0)
  else if isDram s a then memGet s.dram a
  else 0

/-- One byte written at a module address by the Drain; a byte outside the task range is not written (R212). -/
def writeByte (s : State) (a : Nat) (b : Byte) : State :=
  if isHost a then { s with host := memSet s.host a b }
  else if isSpad a then
    (match spadPlace s a with
      | some p => if inTask s a then { s with spad := memSet s.spad p b } else s
      | none => s)
  else if isDram s a then { s with dram := memSet s.dram a b }
  else s

def writeCells (s : State) (cells : List Host.Cell) : State := cells.foldl (fun t c => writeByte t c.1 c.2) s

/-- Host memory as the host has left it: the bytes that came with the command, in the host range. -/
def hostMerge (s : State) (cells : List Host.Cell) : State :=
  { s with host := memWrite s.host (cells.filter (fun c => isHost c.1)) }

def hostByte (s : State) (a : Nat) : Byte := memGet s.host a

/-- Write bytes into host memory. -/
def hostWrite (s : State) (a : Nat) (bs : List Byte) : State :=
  { s with host := memWrite s.host (cellsAt a bs) }

/-- The scratchpad as the window shows it, address by address. -/
def spadView (s : State) : Mem :=
  (List.range 96).flatMap (fun k =>
    match slotAt s k with
    | .mapped r =>
      (s.spad.filter (fun c => decide (r * 2 ^ 26 + taskBase s ≤ c.1) && decide (c.1 < r * 2 ^ 26 + taskBound s))).map
        (fun c => (slotAddr k + (c.1 - r * 2 ^ 26 - taskBase s), c.2))
    | _ => [])

/-- The bytes of a list of footprints as they stand: what a Loader brings into its buffers. -/
def snapshot (s : State) (foots : List Interval) : Mem :=
  let inside (c : Host.Cell) := foots.any (fun f => decide (f.1 ≤ c.1) && decide (c.1 ≤ f.2))
  s.dram.filter (fun c => isDram s c.1 && inside c) ++ (spadView s).filter inside ++ s.host.filter inside

/-! ### Time (11 R283, R285) -/

def gtcNs (s : State) : Word64 := s.clk.gtc
/-- Life time in seconds (15 R368). -/
def lifeTime (s : State) : Nat := s.clk.lifeBase + s.clk.upNs / 1000000000

/-! ### Error and event records (15 R370, R371) -/

/-- PHASE of the record of count n in a ring of N entries: 1 on the first pass, inverted on each later one. -/
def phaseOf (n size : Nat) : Nat := if n / size % 2 = 0 then 1 else 0

/-- N of a ring: SIZE_LOG2 below 6 is used as 6, above 16 as 16. -/
def ringSize (r : Ring) : Nat :=
  let k := r.sizeLog2.toNat
  2 ^ (if k < 6 then 6 else if 16 < k then 16 else k)

def unitCode : UnitKind → Nat
  | .none => 0 | .region => 1 | .stake => 2 | .bank => 3 | .ivrPhase => 4 | .stack => 5 | .link => 6 | .lane => 7
  | .subLink => 8 | .spine => 9 | .ioDie => 10 | .plane => 11 | .kLanding => 12

/-- Raise an MSI-X vector (17 R398). -/
def raiseMsix (s : State) (v : Nat) : State := modNa s (fun n => { n with msix := n.msix ||| BitVec.ofNat 20 (2 ^ v) })

/-- The full condition of rings 16 and 17: tail - HEAD = N (R408). -/
def recordRingFull (r : Ring) : Bool := decide ((r.posted - r.head).toNat = ringSize r)

/-- Post a 64-byte record whose bytes 4 to 59 are `body` to ring 16 or 17: SEQ in front, PHASE behind. -/
def postRecord64 (s : State) (ring : Nat) (body : List Byte) : State :=
  let r := ringAt s ring
  let n := ringSize r
  let a := r.base + 64 * (r.posted.toNat % n)
  let bytes := natBytes 4 r.posted.toNat ++ body ++ natBytes 4 (phaseOf r.posted.toNat n)
  raiseMsix (modRing (hostWrite s a bytes) ring (fun x => { x with posted := x.posted + 1 })) ring

/-- What an error record says (Table 15-8). -/
structure ErrRec where
  kind : Nat
  unitKind : UnitKind
  unit : Nat
  addr : Option Nat
  op : Option (Word × Nat × Nat)
  detail : Nat
  count : Nat
deriving DecidableEq, Repr

def errBody (s : State) (e : ErrRec) : List Byte :=
  natBytes 1 e.kind ++ natBytes 1 (unitCode e.unitKind) ++ natBytes 2 e.unit ++ natBytes 8 (gtcNs s).toNat ++
  natBytes 8 (match e.addr with | some a => a % 2 ^ 48 + 2 ^ 63 | none => 0) ++
  (match e.op with
    | some (tag, ring, entry) => natBytes 4 tag.toNat ++ natBytes 4 (ring + 16 + entry * 65536)
    | none => natBytes 8 0) ++
  natBytes 4 e.detail ++ natBytes 4 e.count ++ natBytes 20 0

/-- Post an error record, or drop and count it (R370, R408). -/
def postError (s : State) (e : ErrRec) : State :=
  let r := ringAt s 16
  if !r.en || recordRingFull r then modGlb s (fun g => { g with errDropped := capAdd top32 g.errDropped 1 })
  else postRecord64 s 16 (errBody s e)

/-- The sequence number the next error record takes; none when it will be dropped. -/
def nextErrSeq (s : State) : Option Word :=
  let r := ringAt s 16
  if !r.en || recordRingFull r then none else some r.posted

def noErr : ErrRec := { kind := 0, unitKind := .none, unit := 0, addr := none, op := none, detail := 0, count := 0 }

def eventBody (time : Word64) (code : Nat) (kind : UnitKind) (unit detail : Nat) : List Byte :=
  natBytes 2 code ++ natBytes 1 (unitCode kind) ++ natBytes 1 0 ++ natBytes 8 time.toNat ++ natBytes 2 unit ++ natBytes 2 0 ++
  natBytes 8 detail ++ natBytes 32 0

/-- Post an event record with its time, or drop and count it. -/
def postEventAt (s : State) (time : Word64) (code : Nat) (kind : UnitKind) (unit detail : Nat) : State :=
  let r := ringAt s 17
  if !r.en || recordRingFull r then modHst s (fun h => { h with evtDropped := capAdd top32 h.evtDropped 1 })
  else postRecord64 s 17 (eventBody time code kind unit detail)

/-- An event raised on K carries GTC time (R371). -/
def postEvent (s : State) (code : Nat) (kind : UnitKind) (unit detail : Nat) : State :=
  postEventAt s (gtcNs s) code kind unit detail

/-! ### The VIN blades (20 R461) -/

/-- The lowest voltage of the four VIN blades. -/
def lowestVin (s : State) : Nat := (s.pwr.vin.min?).getD 0

/-- All four blades are in the window of R290. -/
def bladesIn (l : List Nat) : Bool := decide (l.length = 4) && l.all (fun v => decide (48000 ≤ v) && decide (v ≤ 58000))

/-! ### The stud book (15 R368) -/

def day : Nat := 86400

def studUnit (s : State) (k : UnitKind) (i : Nat) : StudUnit :=
  (s.stud.units.find? (fun u => decide (u.kind = k) && decide (u.index = i))).getD
    { kind := k, index := i, retired := false, reason := 0, retiredAt := 0, faults := [], life := 0, copiesBad := (false, false) }

def sameUnit (u x : StudUnit) : Bool := decide (x.kind = u.kind) && decide (x.index = u.index)

/-- A record in both its copies, written anew; one that no longer reads stays so (R369). -/
def bothCopies (u : StudUnit) : StudUnit := { u with copiesBad := if u.copiesBad = (true, true) then (true, true) else (false, false) }

/-- The stud book holds one record of a unit: this one. -/
def unitPut (s : State) (u : StudUnit) : State :=
  { s with stud := { s.stud with units := u :: s.stud.units.filter (fun x => !(sameUnit u x)) } }

/-- A unit's record is written. -/
def studPut (s : State) (u : StudUnit) : State := unitPut s (bothCopies u)

/-- A repair goes to the stud book, stamped in life time (R241, R260, R368). -/
def noteRepairs (s : State) (k : UnitKind) (i n : Nat) : State :=
  { s with stud := { s.stud with repairs := s.stud.repairs ++ [(k, i, n, lifeTime s)] } }

/-- An e-fuse opening goes to the stud book (12 R302). -/
def noteOpening (s : State) (r : Nat) : State :=
  { s with stud := { s.stud with openings := s.stud.openings ++ [(r, lifeTime s)] } }

def isRetired (s : State) (k : UnitKind) (i : Nat) : Bool := (studUnit s k i).retired

/-- Faults within the last 24 hours of life time. -/
def recentFaults (s : State) (u : StudUnit) : List Nat := u.faults.filter (fun t => decide (lifeTime s < t + day))

/-- Retire a unit for good, with event 0x0003 (R368). -/
def retireUnit (s : State) (k : UnitKind) (i : Nat) (reason : Byte) : State :=
  if isRetired s k i then s
  else postEvent (studPut s { studUnit s k i with retired := true, reason := reason, retiredAt := lifeTime s }) 0x0003 k i reason.toNat

/-- Record a fault; the second within 24 hours retires the unit, with the reason given. -/
def recordFault (s : State) (k : UnitKind) (i : Nat) (reason : Byte) : State :=
  let u := studUnit s k i
  let n := recentFaults s u
  let t := studPut s { u with faults := lifeTime s :: n, life := capAdd top16 u.life 1 }
  if 1 ≤ n.length then retireUnit t k i reason else t

/-- A fault of a kind the repeat mode does not count toward the threshold (R363). -/
def recordFaultOnly (s : State) (k : UnitKind) (i : Nat) : State :=
  let u := studUnit s k i
  studPut s { u with life := capAdd top16 u.life 1 }

/-! ### Tiles that leave (07 R181 to R183) -/

def modTiles (s : State) (f : Tile → Tile) : State :=
  modMaster s (fun m => { m with tiles := m.tiles.map f, preTiles := m.preTiles.map f })

def modTile (s : State) (id : Nat) (f : Tile → Tile) : State := modTiles s (fun t => if t.id = id then f t else t)

/-- The tile's stationary buffer, or its streaming buffer, is released: its generation number counts (R183). -/
def releaseStat (s : State) (t : Tile) : State :=
  modRegion s t.region (fun x => { x with statGen := x.statGen.modify t.buf (· + 1) })
def releaseStrm (s : State) (t : Tile) : State :=
  modRegion s t.region (fun x => { x with strmGen := x.strmGen.modify t.buf (· + 1) })

/-- The tile holds its stationary buffer until its load into the shadow bank ends, and its streaming buffer until its last
vector is presented (R182). -/
def holdsStat (t : Tile) : Bool := t.st = .loading || t.st = .resident || (t.st = .issued && t.arr = .shadow)
def holdsStrm (t : Tile) : Bool := holdsStat t || (t.st = .issued && t.arr = .working)

/-- Whatever buffers a tile holds are released. -/
def releaseTile (s : State) (t : Tile) : State :=
  let u := if holdsStat t then releaseStat s t else s
  if holdsStrm t then releaseStrm u t else u

/-! ### Queues (R181, R184, R357, R362) -/

/-- Copies go ahead of a region's own tiles, votes and repeats first. -/
def tileRank (t : Tile) : Nat :=
  match t.role with
  | .vote _ => 0 | .again _ _ => 0 | .duplicate _ => 1 | .original => 2

/-- The first tile of a list that waits for an entry of region r's queue: copies first, then the region's own in run order. -/
def firstDealt (l : List Tile) (r : Nat) : Option Tile :=
  let c := l.filter (fun t => decide (t.region = r) && decide (t.st = .dealt))
  (c.find? (fun t => tileRank t = 0)).or ((c.find? (fun t => tileRank t = 1)).or (c.find? (fun t => tileRank t = 2)))

/-- The next tile a region's queue takes: those of a pre-selected operation last. -/
def nextForQueue (s : State) (r : Nat) : Option Tile := (firstDealt s.master.tiles r).or (firstDealt s.master.preTiles r)

/-- One free entry of a queue refilled; a tile queued ends the idleness of its field (R314). -/
def refillOne (s : State) (r : Nat) : State :=
  if (regionAt s r).queue.length < 4 then
    match nextForQueue s r with
    | some t =>
      let u := modRegion (modTile s t.id (fun x => { x with st := .assigned })) r (fun x => { x with queue := x.queue ++ [t.id] })
      modField u (r / 6) (fun x => if x.idle then { x with idle := false, idleExit := true } else x)
    | none => s
  else s

/-- A tile of a pre-selected operation as it was before it was queued. -/
def unqueued (t : Tile) : Tile :=
  { t with st := .dealt, arr := .outside, buf := 0, statGen := 0, strmGen := 0, invalid := false, snap := [], inPlace := [] }

/-- Tiles of a pre-selected operation that hold entries or buffers of a region's queue. -/
def queuedPre (s : State) (r : Nat) : List Tile := s.master.preTiles.filter (fun t => decide (t.region = r) && t.st ≠ .dealt)

/-- Tiles of the current operation come before those of a pre-selected one (R184): where one is dealt to a region whose queue
already holds pre-selected tiles, as a replay or a copy may be, these give up entries and buffers: DESIGN CHOICE, log entry 154. -/
def yieldPre (s : State) (r : Nat) : State :=
  let ts := queuedPre s r
  modRegion (modMaster (ts.foldl releaseTile s) (fun m =>
    { m with preTiles := m.preTiles.map (fun t => if t.region = r && t.st ≠ .dealt then unqueued t else t) }))
    r (fun x => { x with queue := x.queue.filter (fun q => !ts.any (fun t => t.id = q)) })

def refillRegion (s : State) (r : Nat) : State :=
  let u := if (firstDealt s.master.tiles r).isSome && !(queuedPre s r).isEmpty then yieldPre s r else s
  refillOne (refillOne (refillOne (refillOne u r) r) r) r

/-- Entries that have become free are refilled. -/
def refillAll (s : State) : State :=
  let rs := (List.range 96).filter (fun r => (s.master.tiles ++ s.master.preTiles).any (fun t => decide (t.region = r) && decide (t.st = .dealt)))
  rs.foldl refillRegion s

/-- Queues hold only tiles that still exist. -/
def sweepQueues (s : State) : State :=
  let ids := (s.master.tiles ++ s.master.preTiles).map (·.id)
  { s with regions := s.regions.map (fun r => { r with queue := r.queue.filter (fun q => ids.contains q) }) }

/-- Tiles that a test does not keep leave the scoreboards and queues and release their buffers; the entries they free are
refilled (R181). -/
def keepTiles (s : State) (keep keepPre : Tile → Bool) : State :=
  let gone := s.master.tiles.filter (fun t => !keep t) ++ s.master.preTiles.filter (fun t => !keepPre t)
  refillAll (sweepQueues (modMaster (gone.foldl releaseTile s) (fun m =>
    { m with tiles := m.tiles.filter keep, preTiles := m.preTiles.filter keepPre })))

/-- The placement and the loads of a pre-selected operation are discarded (R178). -/
def dropPre (s : State) : State :=
  modMaster (keepTiles s (fun _ => true) (fun _ => false)) (fun m => { m with pre := none })

/-- The pre-selection itself ends too. -/
def dropPreSel (s : State) : State := modMaster (dropPre s) (fun m => { m with preSel := none })

/-! ### A ring that stops (02 R61) -/

/-- The wait of an entry that is not accepted ends without a record, and begins afresh at a restart (R61); the entry's
state never moves back (R66). -/
def unwait (e : Entry) : Entry :=
  match e.st with
  | .accepted => e
  | .running => e
  | _ => { e with begun := false, satisfied := false, released := false, ended := none }

/-- Stop a ring (R61, R405): its waits end but for those a test keeps. -/
def stopRing (keep : Entry → Bool) (status : Byte) (db : Bool) (r : Ring) : Ring :=
  { r with
    stopped := true
    stopDb := db
    stopStatus := status
    entries := r.entries.map (fun e => if keep e then e else unwait e) }

/-- The spine that holds an object is on (R194). -/
def syncAvailable (s : State) (o : Nat) : Bool := (fieldAt s (o / 4096)).spineOn

/-- An entry that was waiting when its object's spine went off: the record R194 gives it is still to come (log entry 135). -/
def lostWait (s : State) (e : Entry) : Bool :=
  dWaitEn e.words && e.begun && !e.satisfied && e.ended.isNone && !syncAvailable s (dWaitObj e.words)

def collStarted (o : Op) : Bool := o.coll.elim false (·.started)

/-! ### Numbers of collectives (16 R387, R388, R392) -/

/-- The key under which collectives are numbered: those of a communicator together, its sends and its recvs by peer. -/
def collKey (comm variant : Nat) (peer : BitVec 48) : Nat × Nat × Nat :=
  if variant = 4 then (comm, 1, peer.toNat) else if variant = 5 then (comm, 2, peer.toNat) else (comm, 0, 0)

/-- The number of the next collective of a key. -/
def nextColl (s : State) (k : Nat × Nat × Nat) : Nat := ((s.lnk.collSeq.find? (fun p => p.1 = k)).map (·.2)).getD 0

def setColl (s : State) (k : Nat × Nat × Nat) (n : Nat) : State :=
  modLnk s (fun l => { l with collSeq := (k, n) :: l.collSeq.filter (fun p => p.1 ≠ k) })

/-- The key of an operation's collective. -/
def opCollKey (o : Op) (c : Coll) : Nat × Nat × Nat := collKey c.comm c.variant (c.list.getD (dParam o.words 1).toNat 0)

/-- A collective that goes back to its ring is reached again under its number. -/
def uncount (s : State) (o : Op) : State :=
  match o.coll with
  | some c => setColl s (opCollKey o c) (min c.num (nextColl s (opCollKey o c)))
  | none => s

/-- A COLLECTIVE in its readiness exchange: not accepted yet. -/
def collWaits (o : Op) : Bool := o.coll.isSome && !collStarted o

/-- What the master has of a ring that stops, ahead of acceptance, stops with it: a selected and a pre-selected entry, and a
COLLECTIVE in its readiness exchange, the first of a group too. -/
def dropRing (s : State) (ring : Nat) : State :=
  let pre := s.master.pre.any (fun o => o.ring = ring) || s.master.preSel.any (fun x => x.ring = ring)
  let t := if pre then dropPreSel s else s
  let mine (o : Op) : Bool := decide (o.ring = ring) && collWaits o
  let first := t.master.done.isEmpty && t.master.op.elim true collWaits
  let gone := t.master.colls.filter mine ++ (if first then t.master.op.toList.filter mine else [])
  modMaster (gone.foldl uncount t) (fun m =>
    { m with
      colls := m.colls.filter (fun o => !mine o)
      op := if first then m.op.filter (fun o => !mine o) else m.op
      sel := if first then m.sel.filter (fun x => x.ring ≠ ring) else m.sel })

/-- A ring stops. -/
def ringStops (s : State) (ring : Nat) (status : Byte) (db : Bool) : State := dropRing (modRing s ring (stopRing (lostWait s) status db)) ring

/-- Every op ring that is enabled stops. -/
def stopAllRings (s : State) (status : Byte) : State :=
  (List.range 16).foldl (fun u r => if (ringAt u r).en && !(ringAt u r).stopped then ringStops u r status false else u) s

/-! ### The stale list (02 R64) -/

/-- Enter one interval. -/
def enterStale (s : State) (iv : Interval) : State :=
  if s.master.stale.any (fun x => covers x iv) then s
  else if s.master.stale.length < 64 then modMaster s (fun m => { m with stale := m.stale ++ [iv] })
  else
    let t := modMaster s (fun m => { m with staleFull := true })
    postError (stopAllRings t 0) { noErr with kind := 9 }

def enterStales (s : State) (ivs : List Interval) : State := ivs.foldl enterStale s

/-- A committed output that covers an interval entirely removes it. -/
def clearStale (s : State) (outs : List Interval) : State :=
  modMaster s (fun m => { m with stale := m.stale.filter (fun x => ! outs.any (fun o => covers o x)) })

/-! ### Sync objects (07 R189 to R194) -/

def syncGet (s : State) (o : Nat) : Word64 := ((s.sync.find? (fun p => p.1 = o)).map (·.2)).getD 0

/-- Objects are kept in rising order, an object equal to 0 unlisted. -/
def syncPut : List (Nat × Word64) → Nat → Word64 → List (Nat × Word64)
  | [], o, v => if v = 0 then [] else [(o, v)]
  | p :: l, o, v =>
    if p.1 < o then p :: syncPut l o v
    else if p.1 = o then (if v = 0 then l else (o, v) :: l)
    else if v = 0 then p :: l
    else (o, v) :: p :: l

/-- Mark the waits an object's value satisfies: once satisfied, a later set to a lower value does not undo it (R189). -/
def markWaits (s : State) (o : Nat) : State :=
  let v := (syncGet s o).toNat
  modHst s (fun h => { h with rings := h.rings.map (fun r => { r with entries := r.entries.map (fun e =>
    if e.begun && dWaitObj e.words = o && dWaitThreshold e.words ≤ v then { e with satisfied := true } else e) }) })

/-- Set or add, with no wait looked at yet. -/
def syncRaw (s : State) (o : Nat) (set : Bool) (v : Word64) : State :=
  { s with sync := syncPut s.sync o (if set then v else syncGet s o + v) }

/-- One command from the host or a peer (R191). -/
def syncApply (s : State) (o : Nat) (set : Bool) (v : Word64) : State := markWaits (syncRaw s o set v) o

/-- The signals of one commit: one event, waits looked at only after all of them (R191). -/
def applySignals (s : State) (sigs : List Signal) : State :=
  let t := sigs.foldl (fun u g => syncRaw u g.obj g.set (BitVec.ofNat 64 g.value)) s
  sigs.foldl (fun u g => markWaits u g.obj) t

/-! ### Completion records (02 R67) -/

/-- Status codes (Table 2-11). -/
def stOk : Byte := 0x00
def stNotInContract : Byte := 0x01
def stBadField : Byte := 0x02
def stBadFormat : Byte := 0x03
def stBadShape : Byte := 0x04
def stBadAlign : Byte := 0x05
def stBadAddress : Byte := 0x06
def stAlias : Byte := 0x07
def stGroupLimit : Byte := 0x08
def stStale : Byte := 0x09
def stBound : Byte := 0x10
def stUncorrectable : Byte := 0x11
def stFault : Byte := 0x12
def stTimeout : Byte := 0x13
def stGroupAbandoned : Byte := 0x14
def stHaltered : Byte := 0x15

/-- What one completion record says; `gtc` is the time of the commit or the abandonment. -/
structure Completion where
  tag : Word
  count : Word
  status : Byte
  group : Bool
  replayed : Bool
  detail : Word
  dupChecks : Nat
  gtc : Word64
deriving DecidableEq, Repr

def completionBytes (r : Ring) (c : Completion) : List Byte :=
  let n := ringSize r
  natBytes 4 c.tag.toNat ++
  natBytes 4 (c.status.toNat + (if c.group then 256 else 0) + (if c.replayed then 512 else 0)
    + 65536 * (c.count.toNat % n)) ++
  natBytes 8 c.gtc.toNat ++ natBytes 4 c.detail.toNat ++ natBytes 4 c.dupChecks ++ natBytes 4 r.posted.toNat ++
  natBytes 4 (phaseOf r.posted.toNat n)

/-- Post one completion record of an op ring; its entry leaves the ring's held entries. -/
def postCompletion (s : State) (ring : Nat) (c : Completion) : State :=
  let r := ringAt s ring
  let a := r.cqBase + 32 * (c.count.toNat % ringSize r)
  raiseMsix (modRing (hostWrite s a (completionBytes r c)) ring (fun x =>
    { x with posted := x.posted + 1, entries := x.entries.filter (fun e => e.count ≠ c.count) })) ring

def postCompletions (s : State) (ring : Nat) (cs : List Completion) : State :=
  cs.foldl (fun t c => postCompletion t ring c) s

/-! ### Free values -/

/-- The counter that numbers the uses of free values goes on by one. -/
def bumpFree (s : State) : State := { s with free := s.free + 1 }

end Sys2Proof.Machine
end

