-- ==== Sys2Proof/Machine/Place.lean ====
section
/-!
DEFINITION. The canonical grid, the choice of orientation, the stage space and the placement of work over the regions
(04_array.md R110 to R116, 05_stages.md R121, R141, R143, R146).
-/
namespace Sys2Proof.Machine

/-- A region that takes tiles, with its width. -/
structure Taker where
  region : Nat
  w : Nat
deriving DecidableEq, Repr

/-- The regions that take tiles, in region order (R115). -/
def takers (s : State) : List Taker :=
  ((List.range 96).filter (takesTiles s)).map (fun r => { region := r, w := widthOf (regionAt s r) })

/-! ### The grid (R111) -/

/-- g: 32 when the output carries MX scales along DIM0, else 8. -/
def groupOf (t : TD) : Nat := if t.layout = 1 then 32 else 8

def gemmG (o : Op) : Nat := groupOf (o.td 3 0)
def gemmGroups (o : Op) : Nat := ceilDiv (gemmN o) (gemmG o)
def gemmPanels (o : Op) : Nat := ceilDiv (gemmRows o) (gemmRate o).panel

/-! ### Dealing runs in rounds (R113) -/

/-- Insert by falling q, after every equal one. -/
def insertByQ (x : Nat × Nat) : List (Nat × Nat) → List (Nat × Nat)
  | [] => [x]
  | y :: l => if y.2 < x.2 then x :: y :: l else y :: insertByQ x l

/-- (region, q) in placement order: falling q, ties in region order. -/
def placementOrder (ts : List Taker) (g : Nat) : List (Nat × Nat) :=
  (ts.map (fun t => (t.region, t.w / g))).foldl (fun acc x => insertByQ x acc) []

/-- What every share of a list of work has in common: its kind, its wave with its size, and its output number. -/
structure WorkKind where
  kind : TileKind
  unit : Nat
  wave : Nat
  out : Nat
deriving DecidableEq, Repr

/-- Work of an operation with no waves. -/
def plainWork (k : TileKind) : WorkKind := { kind := k, unit := 0, wave := 0, out := 0 }

/-- A panel that still has column groups: batch, panel, the groups left, in increasing order. -/
structure PanelWork where
  batch : Nat
  panel : Nat
  groups : List Nat
deriving DecidableEq, Repr

def workLeft (ws : List PanelWork) : Nat := (ws.map (·.groups.length)).foldl (· + ·) 0

/-- Take up to `want` groups from the head panel. -/
def takeHead (want : Nat) : List PanelWork → Option (PanelWork × List PanelWork)
  | [] => none
  | p :: ws =>
    let k := min want p.groups.length
    if k = 0 then none
    else some ({ p with groups := p.groups.take k }, if k = p.groups.length then ws else { p with groups := p.groups.drop k } :: ws)

/-- Consecutive groups joined: (first, number). -/
def joinGroups : List Nat → List (Nat × Nat)
  | [] => []
  | g :: gs =>
    match joinGroups gs with
    | [] => [(g, 1)]
    | (h, n) :: rest => if h = g + 1 then (g, n + 1) :: rest else (g, 1) :: (h, n) :: rest

/-- The runs over a list of groups of one panel: one for each stretch of consecutive groups, since a run covers a column
range (R112). Groups that a re-placement leaves apart make several runs of one region: DESIGN CHOICE, log entry 127. -/
def stretchShares (region : Nat) (w : WorkKind) (batch part : Nat) (groups : List Nat) : List Share :=
  (joinGroups groups).map (fun p =>
    { region := region, kind := w.kind, unit := w.unit, wave := w.wave, out := w.out, batch := batch, part := part, lo := p.1, n := p.2, run := 0 })

/-- The shares of one round: region, q and share. -/
def roundShares (regions : List (Nat × Nat)) (left : Nat) : List (Nat × Nat × Nat) :=
  let qsum := (regions.map (·.2)).foldl (· + ·) 0
  if qsum ≤ left then regions.map (fun r => (r.1, r.2, r.2))
  else
    let base := regions.map (fun r => (r.1, r.2, left * r.2 / qsum))
    let more := left - (base.map (fun r => r.2.2)).foldl (· + ·) 0
    base.zipIdx.map (fun p => (p.1.1, p.1.2.1, p.1.2.2 + (if p.2 < more then 1 else 0)))

/-- One pass over the regions in placement order. -/
def dealRound (w : WorkKind) : List (Nat × Nat × Nat) → Nat → List PanelWork → List Share → List Share × List PanelWork
  | [], _, ws, acc => (acc, ws)
  | (r, q, share) :: rest, carry, ws, acc =>
    let want := min (share + carry) q
    match takeHead want ws with
    | none => dealRound w rest want ws acc
    | some (p, ws') =>
      dealRound w rest (want - p.groups.length) ws' (acc ++ stretchShares r w p.batch p.panel p.groups)

/-- Rounds until the work is empty; a round that deals nothing ends the dealing. -/
def dealRounds (w : WorkKind) (regions : List (Nat × Nat)) : Nat → List PanelWork → List Share → List Share
  | 0, _, acc => acc
  | k + 1, ws, acc =>
    if ws.isEmpty then acc
    else
      let r := dealRound w (roundShares regions (workLeft ws)) 0 ws []
      if r.1.isEmpty then acc else dealRounds w regions k r.2 (acc ++ r.1)

/-- R113 over a work list. -/
def dealNormal (w : WorkKind) (ts : List Taker) (g : Nat) (ws : List PanelWork) : List Share :=
  dealRounds w (placementOrder ts g) (workLeft ws) ws []

/-! ### Dealing units (R114) -/

/-- A unit of the exchanged orientation: batch element, chunk, column group. -/
abbrev WorkUnit := Nat × Nat × Nat

/-- Every unit, batch element by batch element in chunk-major order (R114, R116). -/
def allUnits (batches nch gcount : Nat) : List WorkUnit :=
  (List.range batches).flatMap (fun b => (List.range nch).flatMap (fun j => (List.range gcount).map (fun n => (b, j, n))))

/-- One tile for each chunk a region's units touch. -/
def unitShares (region : Nat) (w : WorkKind) (us : List WorkUnit) : List Share :=
  ((us.map (fun u => (u.1, u.2.1))).eraseDups).flatMap (fun c =>
    stretchShares region w c.1 c.2 ((us.filter (fun u => decide (u.1 = c.1) && decide (u.2.1 = c.2))).map (·.2.2)))

/-- The regions that can hold every row as a stake take units i * u / nr to (i + 1) * u / nr - 1 of a list. -/
def dealUnits (w : WorkKind) (ts : List Taker) (m : Nat) (us : List WorkUnit) : List Share :=
  let rs := ts.filter (fun t => decide (m ≤ t.w))
  let u := us.length
  rs.zipIdx.flatMap (fun p =>
    unitShares p.1.region w ((us.drop (p.2 * u / rs.length)).take ((p.2 + 1) * u / rs.length - p.2 * u / rs.length)))

/-! ### Array operations -/

def gemmWork (o : Op) : List PanelWork :=
  (List.range (gemmBatches o)).flatMap (fun b => (List.range (gemmPanels o)).map (fun p =>
    { batch := b, panel := p, groups := List.range (gemmGroups o) }))

def gemmShares (o : Op) (orient : Orient) (ts : List Taker) : List Share :=
  if gemmRows o = 0 then []
  else
    match orient with
    | .exchanged => dealUnits (plainWork .array) ts (gemmRows o) (allUnits (gemmBatches o) (gemmChunks o) (gemmGroups o))
    | _ => dealNormal (plainWork .array) ts (gemmG o) (gemmWork o)

/-! ### Bypass operations (R141) -/

/-- A list of rows dealt by R141: region i of nr takes places i * rows / nr to (i + 1) * rows / nr - 1 of the list, each
division point rounded down to a multiple of `unit`; a share is a stretch of consecutive rows. -/
def dealRowList (ts : List Taker) (rows : List Nat) (unit part : Nat) : List Share :=
  let nr := ts.length
  let n := rows.length
  let cut (i : Nat) := if i = nr then n else i * n / nr / unit * unit
  ts.zipIdx.flatMap (fun p => stretchShares p.1.region { kind := .bypass, unit := 0, wave := 0, out := part } 0 part
    ((rows.drop (cut p.2)).take (cut (p.2 + 1) - cut p.2)))

def dealRows (ts : List Taker) (rows unit part : Nat) : List Share := dealRowList ts (List.range rows) unit part

/-- A list of 4 KiB pages of an output footprint dealt the same way: spans in bytes, cut at the ends of the footprint. -/
def dealPages (ts : List Taker) (foot : Interval) (pages : List Nat) (part : Nat) : List Share :=
  (dealRowList ts pages 1 part).map (fun x =>
    let lo := max foot.1 (x.lo * 4096)
    { x with lo := lo, n := min (foot.2 + 1) ((x.lo + x.n) * 4096) - lo })

/-- The pages a footprint touches. -/
def footPages (foot : Interval) : List Nat := (List.range (foot.2 / 4096 + 1 - foot.1 / 4096)).map (fun k => foot.1 / 4096 + k)

def dealSpans (ts : List Taker) (foot : Interval) (part : Nat) : List Share := dealPages ts foot (footPages foot) part

/-- Families dealt by spans of their output footprints. -/
def spanWise (o : Op) : Bool := o.opcode = 9 || o.opcode = 10 || o.opcode = 11 || o.opcode = 14

/-- Rows the row-wise families deal: those of x for REDUCE variants 0 and 1, the output rows for the others. -/
def bypassRows (o : Op) : Nat :=
  if o.opcode = 6 && o.variant ≤ 1 then vRows (dTr o.words 0) (o.td 0 0) else tdRows (o.td 3 0)

/-- Rows of a division unit: 32 for a SCATTER with MX scales along DIM1. -/
def rowUnit (o : Op) : Nat := if o.opcode = 8 && (o.td 3 0).layout = 2 then 32 else 1

/-- A NORM gradient forms column sums beside its rows (6 R155). -/
def hasColSums (o : Op) : Bool := o.opcode = 4 && decide (2 ≤ o.variant)

/-- The share that forms the running sums and the chunk trees of the column sums from the exact partials of every row
share (6 R155: "wherever they are formed"): the first region that takes tiles, log entry 34. -/
def colShare (o : Op) (ts : List Taker) : List Share := if hasColSums o then dealRows (ts.take 1) (o.td 4 0).dim0 1 1 else []

/-- The footprints that are dealt in spans. Those of an OPTSTEP's w' are: a tile takes the elements of w' in its span with the
same elements of m' and v', so that each element is updated once from the values it had, in place too (R173, R175): DESIGN
CHOICE, log entry 155. -/
def spanFoots (o : Op) : List Interval := if o.opcode = 14 then [tdDataFoot (o.td 3 0)] else o.outFoots

def bypassShares (o : Op) (ts : List Taker) : List Share :=
  if spanWise o then (spanFoots o).zipIdx.flatMap (fun p => dealSpans ts p.1 p.2)
  else dealRows ts (bypassRows o) (rowUnit o) 0 ++ colShare o ts

/-! ### ATTN (R143 to R148, R156 to R159) -/

/-- The pieces of at most `size` of a range. -/
def pieces (lo n size : Nat) : List (Nat × Nat) :=
  (List.range (ceilDiv n size)).map (fun k => (lo + k * size, min size (n - k * size)))

/-- Rows of a panel of the second pass (Table 4-7, with P in the place of A). -/
def attnPanel2 (o : Op) : Nat := ((rateOf 3 (attnV o).format).getD .once).panel

def attnHeadsK (o : Op) : Nat := (attnK o).dim2

/-- Rows of a panel of the first pass (R143), never more than those of a wave. -/
def attnPanel1 (o : Op) : Nat := if o.variant = 0 then min 256 o.unitRows else 256

/-- Key groups of 32 that a panel of query rows needs (R143): tiles whose every t is -Inf are not issued. -/
def keyGroups (o : Op) (last : Nat) : Nat :=
  let groups := ceilDiv (attnLk o) 32
  if attnCausal o then min groups ((last + attnDelta o) / 32 + 1) else groups

/-- The first pass over query rows [row0, row0 + rows) of a head and the key groups [g0, g1): panels of rows by key groups. -/
def scoreWork (o : Op) (batch row0 rows g0 g1 : Nat) : List PanelWork :=
  let h := attnPanel1 o
  ((List.range (ceilDiv (row0 + rows) h - row0 / h)).map (fun k =>
    let p := row0 / h + k
    let top := min g1 (keyGroups o (min (row0 + rows) (h * (p + 1)) - 1))
    { batch := batch, panel := p, groups := (List.range (top - g0)).map (fun g => g0 + g) })).filter (fun p => !p.groups.isEmpty)

/-- Pass 1 takes the exchanged orientation where R110 says so of its grid, M = L_q and N = L_k. -/
def scoresExchanged (o : Op) (ts : List Taker) : Bool :=
  decide (attnLq o ≤ 256) && decide (1024 ≤ attnLk o) && ts.any (fun t => decide (attnLq o ≤ t.w))

/-- The shares of a list of first-pass work. -/
def dealScores (o : Op) (ts : List Taker) (wave : Nat) (ws : List PanelWork) : List Share :=
  let w : WorkKind := { kind := .attn1, unit := o.unitRows, wave := wave, out := 0 }
  if o.scoresEx then dealUnits w ts (attnLq o) (ws.flatMap (fun p => p.groups.map (fun g => (p.batch, p.panel, g))))
  else dealNormal w ts 32 ws

/-- Bytes of the attention buffer a packed block of 32 takes: 32 codes, its scale byte, mb. -/
def blockBytes : Nat := 37

/-- Packed blocks a region holds for each block of scores: P, and in the backward operation P along j, dS along k and dS
along j (R158). -/
def blocksPer (o : Op) : Nat := if o.variant = 0 then 1 else 3

/-- The operand that steps 7, 8 and 9 contract with dS or P: K, Q, dO (R157). -/
def bwdOther (o : Op) (m : Nat) : TD := if m = 0 then attnK o else if m = 1 then attnQ o else bwdTd o 1

/-- Bytes of a region's attention buffer that hold the re-packed columns of K, Q or dO of one share over `len` positions
(R158). -/
def repackBytes (o : Op) (len : Nat) (x : Share) : Nat :=
  let t := bwdOther o x.out
  let g := groupOf (o.td 3 x.out)
  if isMx t then min (x.n * g) (attnD o - x.lo * g) * (ceilDiv (len * fmtBits t.format) 8 + ceilDiv len 32) else 0

/-- One share of each output, batch and column range: the others of a region use the same columns. -/
def columnsOnce (xs : List Share) : List Share :=
  xs.foldl (fun acc x => if acc.any (fun y => decide (y.out = x.out) && decide (y.batch = x.batch) && decide (y.lo = x.lo) &&
    decide (y.n = x.n)) then acc else acc ++ [x]) []

/-- What a wave needs fits in the attention buffer of every region (R148, R158, R159): its blocks, and the re-packed columns of
its second pass, whose contractions have `lens` positions in the wave, output by output. -/
def waveFits (o : Op) (lens : List Nat) (shares : List Share) : Bool :=
  ((shares.map (·.region)).eraseDups).all (fun r =>
    let mine := shares.filter (fun x => x.region = r)
    let blocks := ((mine.filter (fun x => x.kind = .attn1)).map (fun x => x.n * attnPanel1 o)).foldl (· + ·) 0
    let packs := if o.variant = 0 then 0
      else ((columnsOnce (mine.filter (fun x => x.kind = .attn2))).map (fun x => repackBytes o (lens.getD x.out 0) x)).foldl (· + ·) 0
    decide (blocks * blocksPer o * blockBytes + packs ≤ 16777216))

/-- The waves of variant 0: batch and head, and the query rows, in order. -/
def attnWaves (o : Op) : List (Nat × Nat) :=
  (List.range (attnHeads o * attnBatches o)).flatMap (fun w => (List.range (ceilDiv (attnLq o) o.unitRows)).map (fun p => (w, p)))

/-- Both passes of wave number `wave` of variant 0. -/
def forwardWave (o : Op) (ts : List Taker) (wave : Nat) (x : Nat × Nat) : List Share :=
  let row0 := x.2 * o.unitRows
  let rows := min o.unitRows (attnLq o - row0)
  dealScores o ts wave (scoreWork o x.1 row0 rows 0 (ceilDiv (attnLk o) 32)) ++
    dealNormal { kind := .attn2, unit := o.unitRows, wave := wave, out := 0 } ts (groupOf (o.td 3 0))
      [{ batch := x.1, panel := x.2, groups := List.range (ceilDiv (attnD o + 1) (groupOf (o.td 3 0))) }]

/-- Chunks of j, the position index of dK and dV. -/
def bwdChunks (o : Op) : Nat := ceilDiv (attnG o * attnLq o) bwdKc

/-- Chunks of k, the position index of dQ. -/
def bwdKeyChunks (o : Op) : Nat := ceilDiv (attnLk o) bwdKc

/-- A wave of variant 1: batch and key head, a range of chunks of j and a range of chunks of k. -/
structure BwdWave where
  head : Nat
  c0 : Nat
  nc : Nat
  k0 : Nat
  nk : Nat
deriving DecidableEq, Repr

/-- The waves of variant 1: `unitRows` chunks of j over every key, or, where it is 0, one chunk of j over one chunk of k (log
entry 128). -/
def bwdWaves (o : Op) : List BwdWave :=
  (List.range (attnHeadsK o * attnBatches o)).flatMap (fun w => (pieces 0 (bwdChunks o) (max 1 o.unitRows)).flatMap (fun p =>
    (pieces 0 (bwdKeyChunks o) (if o.unitRows = 0 then 1 else bwdKeyChunks o)).map (fun q =>
      { head := w, c0 := p.1, nc := p.2, k0 := q.1, nk := q.2 })))

def bwdWaveAt (o : Op) (wave : Nat) : BwdWave := (bwdWaves o).getD wave { head := 0, c0 := 0, nc := 0, k0 := 0, nk := 0 }

/-- The query rows of group head g whose j lies in chunks [c0, c0 + n): first row and number (R158: j runs from the last query
down). -/
def waveQueries (o : Op) (c0 n g : Nat) : Nat × Nat :=
  let lo := ceilDiv (c0 * bwdKc - g) (attnG o)
  let hi := min (attnLq o) (ceilDiv ((c0 + n) * bwdKc - g) (attnG o))
  (attnLq o - hi, hi - lo)

/-- The head and batch pair of group head g of a wave. -/
def waveHeadOf (o : Op) (w g : Nat) : Nat := w / attnHeadsK o * attnHeads o + w % attnHeadsK o * attnG o + g

/-- Step 2 to 6 of a wave: the scores of its query rows. -/
def bwdScoreWork (o : Op) (v : BwdWave) : List PanelWork :=
  (List.range (attnG o)).flatMap (fun g =>
    let q := waveQueries o v.c0 v.nc g
    if q.2 = 0 then []
    else scoreWork o (waveHeadOf o v.head g) q.1 q.2 (v.k0 * bwdKc / 32) (min (ceilDiv (attnLk o) 32) ((v.k0 + v.nk) * bwdKc / 32)))

/-- Rows of a panel of steps 7 to 9: the pair of E4M3 with K, Q or dO. -/
def bwdPanel (o : Op) (m : Nat) : Nat := ((rateOf 3 (bwdOther o m).format).getD .once).panel

def panelsOf (batch row0 rows h groups : Nat) : List PanelWork :=
  (List.range (ceilDiv (row0 + rows) h - row0 / h)).map (fun k =>
    { batch := batch, panel := row0 / h + k, groups := List.range groups })

/-- The key rows of a wave: the first and their number. -/
def waveKeys (o : Op) (v : BwdWave) : Nat × Nat := (v.k0 * bwdKc, min (attnLk o) ((v.k0 + v.nk) * bwdKc) - v.k0 * bwdKc)

/-- Steps 7 to 9 of a wave: dQ of its query rows over its keys; dK and dV of its key rows over its chunks of j. -/
def bwdShares (o : Op) (ts : List Taker) (v : BwdWave) (wave : Nat) : List Share :=
  let cols (m : Nat) := ceilDiv (attnD o) (groupOf (o.td 3 m))
  let deal (m : Nat) (ws : List PanelWork) :=
    dealNormal { kind := .attn2, unit := o.unitRows, wave := wave, out := m } ts (groupOf (o.td 3 m)) ws
  let keys := waveKeys o v
  deal 0 ((List.range (attnG o)).flatMap (fun g =>
    let q := waveQueries o v.c0 v.nc g
    if q.2 = 0 then [] else panelsOf (waveHeadOf o v.head g) q.1 q.2 (bwdPanel o 0) (cols 0))) ++
  deal 1 (panelsOf v.head keys.1 keys.2 (bwdPanel o 1) (cols 1)) ++ deal 2 (panelsOf v.head keys.1 keys.2 (bwdPanel o 2) (cols 2))

/-- Both passes of wave number `wave` of variant 1. -/
def backwardWave (o : Op) (ts : List Taker) (wave : Nat) (v : BwdWave) : List Share :=
  dealScores o ts wave (bwdScoreWork o v) ++ bwdShares o ts v wave

/-- The waves of a test, dealt in order. -/
def waveShares (o : Op) (ts : List Taker) (p : Nat → Bool) : List Share :=
  if o.variant = 0 then ((attnWaves o).zipIdx.filter (fun x => p x.2)).flatMap (fun x => forwardWave o ts x.2 x.1)
  else ((bwdWaves o).zipIdx.filter (fun x => p x.2)).flatMap (fun x => backwardWave o ts x.2 x.1)

/-- The sizes a wave can have, largest first: query rows in variant 0, a panel of the second pass, 256, 32 or one; in variant 1
all chunks of j, one, or (0) one over one chunk of k. DESIGN CHOICE, log entry 128: R148 and R159 leave the composition open. -/
def waveSizes (o : Op) : List Nat :=
  if o.variant ≠ 0 then [max 1 (bwdChunks o), 1, 0]
  else if (o.td 3 0).layout = 2 then [attnPanel2 o, 256, 32]
  else [attnPanel2 o, 256, 32, 1]

/-- A wave of a size fits: the first of variant 1, the last of variant 0, which have the most work. -/
def sizeFits (o : Op) (ts : List Taker) (size : Nat) : Bool :=
  let p := { o with unitRows := size }
  if o.variant = 0 then
    waveFits p [] (dealScores p ts 0 (scoreWork p 0 (attnLq o - min size (attnLq o)) (min size (attnLq o)) 0 (ceilDiv (attnLk o) 32)))
  else
    let v := bwdWaveAt p 0
    let js := min (v.nc * bwdKc) (attnG o * attnLq o)
    waveFits p [(waveKeys p v).2, js, js] (backwardWave p ts 0 v)

/-- The largest size of a list at which a wave fits, else the last. -/
def firstFit (o : Op) (ts : List Taker) : List Nat → Nat
  | [] => 1
  | [n] => n
  | n :: ns => if sizeFits o ts n then n else firstFit o ts ns

/-- The size of a wave: query rows in variant 0, chunks of j in variant 1. -/
def waveUnit (o : Op) (ts : List Taker) : Nat := if o.opcode ≠ 3 then 1 else firstFit o ts (waveSizes o)

def attnShares (o : Op) (ts : List Taker) : List Share := waveShares o ts (fun _ => true)

/-- An operation with the size of its waves and the orientation of its first pass. -/
def sized (o : Op) (ts : List Taker) : Op :=
  let p := { o with scoresEx := decide (o.opcode = 3) && scoresExchanged o ts }
  { p with unitRows := waveUnit p ts }

/-- Families that run on the pipeline of the regions. -/
def hasTiles (o : Op) : Bool := !(o.opcode = 12 || o.opcode = 13 || o.opcode = 15)

/-- The work of a sized operation over the regions that take tiles (R113, R114, R141). -/
def sharesOf (o : Op) (orient : Orient) (ts : List Taker) : List Share :=
  if o.isArray then gemmShares o orient ts
  else if o.opcode = 3 then attnShares o ts
  else if hasTiles o then bypassShares o ts
  else []

/-! ### Stage space (R121, R122) -/

/-- 8.5 MiB, 4 MiB and 16 MiB. -/
def opBufBytes : Nat := 8912896
def stagingBytes : Nat := 4194304
def attnBytes : Nat := 16777216

/-- The widest run of a region, in columns. -/
def widestRun (shares : List Share) (n g region : Nat) : Nat :=
  (shares.filter (fun x => x.region = region)).foldl (fun a x => max a (min (x.n * g) (n - x.lo * g))) 0

/-- Columns whose chunk 0 a region runs. -/
def homedCols (shares : List Share) (n g region : Nat) : Nat :=
  ((shares.filter (fun x => decide (x.region = region) && decide (x.part = 0))).map
    (fun x => min (x.n * g) (n - x.lo * g))).foldl (· + ·) 0

/-- Chunks of the values of output m of ATTN's second pass, the rows of a panel of it, and its columns (R146, R158). -/
def attnGrid (o : Op) (m : Nat) : Nat × Nat × Nat :=
  if o.variant = 0 then (ceilDiv (attnLk o) (attnKc2 o), min (attnLq o) (attnPanel2 o), attnD o + 1)
  else (if m = 0 then bwdKeyChunks o else bwdChunks o, min (if m = 0 then attnLq o else attnLk o) (bwdPanel o m), attnD o)

/-- Tree slots of the runs of output m of ATTN's second pass in a region (Table 5-2, normal orientation). -/
def attnTreeBytes (o : Op) (shares : List Share) (region m : Nat) : Nat :=
  let q := attnGrid o m
  if q.1 ≤ 1 then 0
  else Nat.log2 q.1 * q.2.1 * widestRun (shares.filter (fun x => x.kind = .attn2 && x.out = m)) q.2.2 (groupOf (o.td 3 m)) region * 4

/-- Tree slots (Table 5-2): the partials of a run, the largest over the outputs of an ATTN, or every chunk result of the columns
a region is home of. -/
def treeBytes (o : Op) (orient : Orient) (shares : List Share) (region : Nat) : Nat :=
  if o.opcode = 3 then
    (if o.variant = 0 then attnTreeBytes o shares region 0
     else max (attnTreeBytes o shares region 0) (max (attnTreeBytes o shares region 1) (attnTreeBytes o shares region 2)))
  else if !o.isArray || gemmChunks o ≤ 1 then 0
  else
    match orient with
    | .exchanged => gemmChunks o * gemmRows o * homedCols shares (gemmN o) (gemmG o) region * 4
    | _ => Nat.log2 (gemmChunks o) * min (gemmRows o) (gemmRate o).panel * widestRun shares (gemmN o) (gemmG o) region * 4

/-- The stage space of one region. -/
def stageBytes (o : Op) (orient : Orient) (shares : List Share) (region : Nat) : Nat :=
  if !hasTiles o then 0
  else if o.opcode = 11 then stagingBytes
  else opBufBytes + stagingBytes + treeBytes o orient shares region + (if o.opcode = 3 then attnBytes else 0)

/-- Every region's stage space lies above the task bound. -/
def stageFits (s : State) (o : Op) (orient : Orient) (shares : List Share) (ts : List Taker) : Bool :=
  ts.all (fun t => decide (stageBytes o orient shares t.region + taskBound s ≤ 2 ^ 26))

/-- The orientation (R110, R121). -/
def orientOf (s : State) (o : Op) (ts : List Taker) : Orient :=
  if !o.isArray then .bypass
  else if 0 < gemmRows o && gemmRows o ≤ 256 && 1024 ≤ gemmN o && ts.any (fun t => decide (gemmRows o ≤ t.w)) &&
      stageFits s o .exchanged (gemmShares o .exchanged ts) (ts.filter (fun t => decide (gemmRows o ≤ t.w))) then .exchanged
  else .normal

/-! ### Tiles (R112, R179, R180) -/

/-- A tile of a share over chunk `chunk`, rows [row0, row0 + rows) and columns [col0, col0 + cols). -/
def newTile (x : Share) (chunk row0 rows col0 cols : Nat) : Tile :=
  { id := 0, region := x.region, run := x.run, part := x.part, wave := x.wave, out := x.out, role := .original, kind := x.kind,
    unit := x.unit, st := .dealt, arr := .outside, chunk := chunk, batch := x.batch, row0 := row0, rows := rows, col0 := col0, cols := cols,
    sampled := false, voting := false, buf := 0, statGen := 0, strmGen := 0, invalid := false, rewritten := false, statsSent := false, squash := 0,
    snap := [], inPlace := [], foot := [], arrived := false, checksum := none }

/-- Chunks of pass 2 that some row of a panel needs (R146). -/
def attn2Chunks (o : Op) (row0 rows : Nat) : Nat := ceilDiv (attnKeys o (row0 + rows - 1)) (attnKc2 o)

/-- The rows a share of variant 1 has of its panel: the query rows, or for dK and dV the key rows, of its wave (log entry
128). -/
def bwdRowsOf (o : Op) (x : Share) (h : Nat) : Nat × Nat :=
  let v := bwdWaveAt o x.wave
  let q := if x.kind = .attn2 && x.out ≠ 0 then waveKeys o v else waveQueries o v.c0 v.nc (x.batch % attnHeads o % attnG o)
  let lo := max q.1 (x.part * h)
  (lo, min (q.1 + q.2) ((x.part + 1) * h) - lo)

/-- Chunks of steps 7 to 9 of a panel in its wave: those of k that a row needs, or those of j that a key row needs. -/
def bwdTileChunks (o : Op) (x : Share) (row0 rows : Nat) : List Nat :=
  let v := bwdWaveAt o x.wave
  if x.out = 0 then
    ((List.range v.nk).map (fun k => v.k0 + k)).filter (fun c => decide (c * bwdKc < attnKeys o (row0 + rows - 1)))
  else ((List.range v.nc).map (fun k => v.c0 + k)).filter (fun c => decide (c * bwdKc < bwdK o row0))

/-- The tiles of one share, in increasing chunk order (R112, R179, R180). -/
def shareTiles (o : Op) (orient : Orient) (x : Share) : List Tile :=
  match x.kind with
  | .array =>
    let g := gemmG o
    let col0 := x.lo * g
    let cols := min (x.n * g) (gemmN o - col0)
    match orient with
    | .exchanged => [newTile x x.part 0 (gemmRows o) col0 cols]
    | _ =>
      let h := (gemmRate o).panel
      let row0 := x.part * h
      (List.range (gemmChunks o)).map (fun j => newTile x j row0 (min h (gemmRows o - row0)) col0 cols)
  | .attn1 =>
    let p := { o with unitRows := x.unit }
    let h := attnPanel1 p
    let r := if o.variant = 0 then (x.part * h, min h (attnLq o - x.part * h)) else bwdRowsOf p x h
    [newTile x 0 r.1 r.2 (x.lo * 32) (min (x.n * 32) (attnLk o - x.lo * 32))]
  | .attn2 =>
    let g := groupOf (o.td 3 x.out)
    if o.variant = 0 then
      let row0 := x.part * x.unit
      let rows := min x.unit (attnLq o - row0)
      (List.range (attn2Chunks o row0 rows)).map (fun j => newTile x j row0 rows (x.lo * g) (min (x.n * g) (attnD o + 1 - x.lo * g)))
    else
      let p := { o with unitRows := x.unit }
      let r := bwdRowsOf p x (bwdPanel o x.out)
      (bwdTileChunks p x r.1 r.2).map (fun j => newTile x j r.1 r.2 (x.lo * g) (min (x.n * g) (attnD o - x.lo * g)))
  | .bypass =>
    (pieces x.lo x.n (if spanWise o then 1048576 else 2048)).map (fun p => newTile x 0 p.1 p.2 0 0)

/-- Number the runs of a list of shares from the next free number. -/
def numberShares (shares : List Share) (run0 : Nat) : List Share := shares.zipIdx.map (fun p => { p.1 with run := run0 + p.2 })

/-- The tiles of numbered shares, numbered from the next free number. -/
def numberTiles (o : Op) (orient : Orient) (shares : List Share) (tile0 : Nat) : List Tile :=
  let raw := shares.flatMap (shareTiles o orient)
  raw.zipIdx.map (fun p => { p.1 with id := tile0 + p.2 })

end Sys2Proof.Machine
end

