-- ==== Sys2Proof/Machine/Accept.lean ====
section
/-!
DEFINITION. The acceptance checks (02_contract.md R49) in their order, with the fault DETAIL names (R472): opcode, fields,
formats, shapes, alignment, addresses, aliasing, group limits and stale inputs.
-/
namespace Sys2Proof.Machine

/-! ### Faults and DETAIL -/

/-- A faulty field: slot (15 the operation descriptor, 14 no field), list member, whether OFFSET counts within the tensor
descriptor, byte offset. -/
structure DF where
  slot : Nat
  member : Nat
  inTd : Bool
  off : Nat
deriving DecidableEq, Repr

/-- The order of R472: slot 15 below slot 0, slot 14 above slot 4. -/
def dfKey (d : DF) : Nat :=
  (if d.slot = 15 then 0 else if d.slot = 14 then 6 else d.slot + 1) * 65536 + d.member * 4096 + d.off

def dfMin : List DF → Option DF
  | [] => none
  | d :: ds => match dfMin ds with
    | none => some d
    | some e => some (if dfKey e < dfKey d then e else d)

/-- DETAIL of a fault. -/
def dfWord (d : DF) : Word :=
  if d.slot = 14 then 14
  else BitVec.ofNat 32 (d.slot + d.member * 16 + (if d.inTd then 128 else 0) + d.off * 256)

def opF (off : Nat) : DF := { slot := 15, member := 0, inTd := false, off := off }
def slotF (s off : Nat) : DF := { slot := s, member := 0, inTd := false, off := 16 + 8 * s + off }
def tdF (s m off : Nat) : DF := { slot := s, member := m, inTd := true, off := off }

def faultIf (c : Bool) (d : DF) : List DF := if c then [d] else []

/-- What the checks find. -/
inductive Verdict where
  | ok
  | reject (status : Byte) (detail : Word)
  | bad (addr : Nat)
deriving DecidableEq, Repr

def verdictOf (status : Byte) (ds : List DF) : Verdict :=
  match dfMin ds with
  | none => .ok
  | some d => .reject status (dfWord d)

/-- The first verdict that is no `ok`. -/
def firstBad : List Verdict → Verdict
  | [] => .ok
  | .ok :: vs => firstBad vs
  | v :: _ => v

/-! ### Check 1 (R40, R48) -/

def variantsOf (op : Nat) : Nat :=
  match op with
  | 0x01 => 2 | 0x02 => 1 | 0x03 => 2 | 0x04 => 4 | 0x05 => 6 | 0x06 => 3 | 0x07 => 1 | 0x08 => 2 | 0x09 => 1 | 0x0A => 1
  | 0x0B => 1 | 0x0C => 6 | 0x0D => 1 | 0x0E => 3 | 0x0F => 1 | _ => 0

def implemented (ws : List Word) : Bool := decide (dVariant ws < variantsOf (dOpcode ws))

/-! ### Check 2, first part: the operation descriptor (R30 to R34, R471) -/

/-- How a family uses a slot. -/
inductive SlotUse where
  | no | req | opt | list (n : Nat) | reqAny | optAny | optPair
deriving DecidableEq, Repr

def slotUses (op v : Nat) : List SlotUse :=
  match op with
  | 0x01 => if v = 1 then [.req, .req, .req, .req, .no] else [.req, .req, .optPair, .req, .opt]
  | 0x02 => [.req, .req, .optPair, .req, .opt]
  | 0x03 => if v = 0 then [.req, .req, .req, .req, .opt] else [.list 3, .list 2, .req, .list 3, .no]
  | 0x04 =>
    match v with
    | 0 => [.req, .req, .req, .req, .req]
    | 1 => [.req, .req, .no, .req, .req]
    | 2 => [.req, .req, .list 2, .req, .list 2]
    | _ => [.req, .req, .list 2, .req, .req]
  | 0x05 => if v = 0 || v = 3 then [.req, .no, .no, .req, .no] else [.req, .req, .no, .req, .no]
  | 0x06 => if v = 2 then [.reqAny, .optAny, .no, .req, .no] else [.req, .no, .no, .req, .no]
  | 0x07 => [.req, .req, .no, .req, .no]
  | 0x08 => [.req, .req, .req, .req, .no]
  | 0x09 => [.req, .no, .no, .req, .no]
  | 0x0A => [.req, .no, .no, .req, .no]
  | 0x0B => [.no, .no, .no, .req, .no]
  | 0x0C => if v = 4 then [.req, .no, .no, .no, .no] else if v = 5 then [.no, .no, .no, .req, .no] else [.req, .no, .no, .req, .no]
  | 0x0E => if v = 0 then [.list 2, .req, .no, .list 2, .no] else [.list 2, .list 2, .no, .list 2, .req]
  | 0x0F => [.no, .no, .no, .req, .no]
  | _ => [.no, .no, .no, .no, .no]

def slotUseFault (u : SlotUse) (present list : Bool) (n : Nat) : Bool :=
  match u with
  | .no => present
  | .req => !present || list
  | .opt => present && list
  | .list k => !present || !list || n ≠ k
  | .reqAny => !present
  | .optAny => false
  | .optPair => present && list && n ≠ 2

/-- The bits a family and variant use in PARAM0 to PARAM7. -/
def paramMask (op v : Nat) : List Nat :=
  let m32 := 2 ^ 32 - 1
  match op with
  | 0x01 => if v = 1 then [m32, 255, 0, 1] else [m32, 255, m32]
  | 0x02 => [m32, 255, m32]
  | 0x03 => [m32, 1, 65535]
  | 0x04 => if v ≤ 1 then [m32] else []
  | 0x05 =>
    match v with
    | 0 => [m32]
    | 3 => [0, 0, 255]
    | 4 => [0, 0, 255]
    | 5 => [m32, m32]
    | _ => []
  | 0x0C => if v = 4 then [65535, m32, 65535, m32] else if v = 5 then [65535, m32] else [65535]
  | 0x0E => if v = 0 then [m32, m32, 0, 0, m32] else [m32, m32, m32, m32, m32, m32]
  | _ => []

def paramFaults (ws : List Word) : List DF :=
  (List.range 8).flatMap (fun p =>
    let m := (paramMask (dOpcode ws) (dVariant ws)).getD p 0
    let v := (dParam ws p).toNat
    let off := 56 + 4 * p
    let extra := if m = 255 then 1 else if m = 65535 then 2 else 0
    faultIf (v &&& (2 ^ 32 - 1 - m) ≠ 0) (opF (off + extra)))

/-- Parameter codes: ACT, G, the step of OPTSTEP. -/
def codeFaults (ws : List Word) : List DF :=
  let op := dOpcode ws
  let v := dVariant ws
  faultIf ((op = 1 || op = 2) && 6 < bits (dParam ws 1).toNat 7 0) (opF 60) ++
  faultIf (op = 5 && (v = 3 || v = 4) && 6 < bits (dParam ws 2).toNat 7 0) (opF 64) ++
  faultIf (op = 3 && bits (dParam ws 2).toNat 15 0 = 0) (opF 64) ++
  faultIf (op = 14 && 1 ≤ v && (dParam ws 5).toNat = 0) (opF 76)

def slotWordFaults (ws : List Word) : List DF :=
  (List.range 5).flatMap (fun s =>
    let w := dSlot ws s
    let list := dIsList ws s
    if !dPresent ws s then
      faultIf (bits w 47 1 ≠ 0) (slotF s 0) ++ faultIf (bits w 63 48 ≠ 0) (slotF s 6) ++
        faultIf (slotUseFault ((slotUses (dOpcode ws) (dVariant ws)).getD s .no) false false 0) (slotF s 0)
    else
      faultIf (dTr ws s && 3 ≤ s) (slotF s 0) ++
      faultIf (!list && dListLen ws s ≠ 0) (slotF s 0) ++
      faultIf (list && dListLen ws s = 0) (slotF s 0) ++
      faultIf (bits w 63 48 ≠ 0) (slotF s 6) ++
      faultIf (slotUseFault ((slotUses (dOpcode ws) (dVariant ws)).getD s .no) true list (dCount ws s)) (slotF s 0))

/-- The fields of the wait. That WAIT_OBJ's spine is on is tested when the descriptor becomes head and while it waits, not
here (R49, R194). -/
def waitFaults (ws : List Word) (firstMember : Bool) : List DF :=
  faultIf (bits (dW ws 22) 31 16 ≠ 0) (opF 90) ++
  (if dWaitEn ws then faultIf (!firstMember) (opF 2)
  else
    faultIf (dWaitObj ws ≠ 0) (opF 88) ++ faultIf (dWaitTimeout ws ≠ 0) (opF 92) ++
      faultIf (dWaitThreshold ws ≠ 0) (opF 96))

def signalFaults (s : State) (ws : List Word) : List DF :=
  (List.range 3).flatMap (fun n =>
    let w := dW ws (26 + 2 * n)
    let g := dSignal ws n
    let off := 104 + 8 * n
    faultIf (bits w 31 18 ≠ 0) (opF (off + 2)) ++
    (if g.enable then faultIf (!syncAvailable s g.obj) (opF off)
    else faultIf (g.obj ≠ 0) (opF off) ++ faultIf g.set (opF (off + 2)) ++ faultIf (g.value ≠ 0) (opF (off + 4))))

/-- REDUCE variant 2 adds at least two and at most eight inputs (R44): a field fault. -/
def reduceCountFaults (ws : List Word) : List DF :=
  if dOpcode ws = 6 && dVariant ws = 2 then
    let n := dCount ws 0 + (if dPresent ws 1 then dCount ws 1 else 0)
    faultIf (n < 2 || 8 < n) (slotF 0 0)
  else []

def fieldCheck (s : State) (ws : List Word) (firstMember : Bool) : Verdict :=
  verdictOf stBadField
    (faultIf (bits (dW ws 0) 31 23 ≠ 0) (opF 2) ++ faultIf (dRound ws = 3) (opF 2) ++
      faultIf (bits (dW ws 3) 31 16 ≠ 0) (opF 14) ++ slotWordFaults ws ++ paramFaults ws ++ codeFaults ws ++
      waitFaults ws firstMember ++ signalFaults s ws ++ reduceCountFaults ws)

/-! ### Reading what the descriptor names -/

/-- The bytes [a, a + n) lie wholly within one range of R39. -/
def oneRange (s : State) (a n : Nat) : Bool :=
  decide (a + n ≤ dramBytes s) || (decide (spadBase ≤ a) && decide (a + n ≤ spadEnd)) ||
    (decide (hostBase ≤ a) && decide (a + n ≤ 2 ^ 48))

/-- The unit of ECC a module address lies in is known to be uncorrectable (R352). -/
def badAt (s : State) (badReads : List Nat) (a : Nat) : Bool :=
  badReads.any (fun b => b / 64 = a / 64) ||
  (if isSpad a then (match spadPlace s a with | some p => s.badSpad.contains (p / 8 * 8) | none => false)
   else isDram s a && s.badDram.contains (a / 64 * 64))

/-- The first bad address of [a, a + n). -/
def firstBadIn (s : State) (badReads : List Nat) (a n : Nat) : Option Nat :=
  (List.range (n / 8 + 1)).findSome? (fun k =>
    let b := a + 8 * k
    if b < a + n && badAt s badReads b then some b else none)

def slotTdAddrs (ws : List Word) (s : Nat) : List Nat :=
  if dPresent ws s then (List.range (dCount ws s)).map (fun m => dTdAddr ws s + 64 * m) else []

/-- The TD_ADDR check of check 2, ahead of its rest. -/
def tdAddrCheck (s : State) (ws : List Word) : Verdict :=
  verdictOf stBadAddress ((List.range 5).flatMap (fun k =>
    faultIf (dPresent ws k && !oneRange s (dTdAddr ws k) (64 * dCount ws k)) (slotF k 0)))

def tdReadCheck (s : State) (ws : List Word) (badReads : List Nat) : Verdict :=
  match ((List.range 5).flatMap (slotTdAddrs ws)).findSome? (fun a => firstBadIn s badReads a 64) with
  | some a => .bad a
  | none => .ok

def tdBytes (s : State) (a : Nat) : List Byte := readBytes (readByte s) a 64

/-- The tensor descriptors of a slot, as read. -/
def slotTds (s : State) (ws : List Word) (k : Nat) : List TD :=
  (slotTdAddrs ws k).map (fun a => tdParse a (tdBytes s a))

/-- (slot, member, TD) of every tensor. -/
def refsOf (slots : List (List TD)) : List (Nat × Nat × TD) :=
  slots.zipIdx.flatMap (fun p => p.1.zipIdx.map (fun q => (p.2, q.2, q.1)))

/-! ### Check 2, last part: the tensor descriptors' zero bits (Table 2-4) -/

def tdZeroFaults (k m : Nat) (bs : List Byte) : List DF :=
  let n (a w : Nat) := leNat ((bs.drop a).take w)
  let layout := bits (n 0 8) 54 52
  faultIf (3 < layout) (tdF k m 6) ++ faultIf (bits (n 0 8) 63 57 ≠ 0) (tdF k m 7) ++
  (List.range 3).flatMap (fun i => faultIf (bits (n (24 + 8 * i) 8) 63 48 ≠ 0) (tdF k m (24 + 8 * i))) ++
  faultIf (bits (n 48 8) 63 48 ≠ 0) (tdF k m 54) ++
  faultIf (layout = 0 && bits (n 48 8) 47 0 ≠ 0) (tdF k m 48) ++
  faultIf (layout ≠ 1 && layout ≠ 2 && n 56 4 ≠ 0) (tdF k m 56) ++
  faultIf (bits (n 60 4) 31 12 ≠ 0) (tdF k m 61) ++
  faultIf (bits (n 0 8) 51 48 ≠ 15 && bits (n 60 4) 11 0 ≠ 0) (tdF k m 60)

/-- Two ADVISED outputs of one operation that name one slot (R164). -/
def sameAdvisor (slots : List (List TD)) : List DF :=
  let outs := (refsOf slots).filter (fun r => decide (3 ≤ r.1) && r.2.2.advised)
  outs.flatMap (fun r => faultIf (1 < (outs.filter (fun q => q.2.2.advisor = r.2.2.advisor)).length) (tdF r.1 r.2.1 60))

def tdFieldFaults (s : State) (ws : List Word) (slots : List (List TD)) : List DF :=
  (List.range 5).flatMap (fun k => (slotTdAddrs ws k).zipIdx.flatMap (fun p => tdZeroFaults k p.2 (tdBytes s p.1))) ++
    sameAdvisor slots

/-! ### The communicator (16 R385) -/

def commEntry (s : State) (ws : List Word) : Nat := s.lnk.commBase + 64 * bits (dParam ws 0).toNat 15 0
def commRanks (s : State) (ws : List Word) : Nat := readNat (readByte s) (commEntry s ws) 4
def commOwn (s : State) (ws : List Word) : Nat := readNat (readByte s) (commEntry s ws + 4) 4
def commPlanes (s : State) (ws : List Word) : List Nat :=
  let v := readNat (readByte s) (commEntry s ws + 8) 12
  (List.range 96).filter (bit v)
def commList (s : State) (ws : List Word) : List (BitVec 48) :=
  let a := readNat (readByte s) (commEntry s ws + 24) 8
  (List.range (commRanks s ws)).map (fun r => BitVec.ofNat 48 (readNat (readByte s) (a + 8 * r) 6))

/-- A link that carries traffic: live, with a plane no other link has (R376). -/
def linkWorks (l : Link) : Bool := (l.st = .live2 || l.st = .live1) && !l.conflict && l.plane.isSome

/-- The working planes of the module. -/
def workingPlanes (s : State) : List Nat := s.lnk.links.filterMap (fun l => if linkWorks l then l.plane else none)

def commFaults (s : State) (ws : List Word) : List DF :=
  let idx := bits (dParam ws 0).toNat 15 0
  let p := commRanks s ws
  let own := commOwn s ws
  let peer := (dParam ws 1).toNat
  let two := dVariant ws = 4 || dVariant ws = 5
  if 256 ≤ idx || !s.lnk.commEn then [opF 56]
  else if p = 0 then [opF 56]
  else
    faultIf (p ≤ own) (opF 56) ++
    faultIf (own < p && (!s.lnk.coordValid || (commList s ws).getD own 0 ≠ s.lnk.coord)) (opF 56) ++
    faultIf ((commPlanes s ws).isEmpty || (commPlanes s ws).any (fun q => !(workingPlanes s).contains q)) (opF 56) ++
    faultIf (two && (p ≤ peer || peer = own)) (opF 60)

/-- The communicator's entry may be read: its index is in the table, which is in use and lies in DRAM (Table 16-10). -/
def commUsable (s : State) (ws : List Word) : Bool :=
  decide (bits (dParam ws 0).toNat 15 0 < 256) && s.lnk.commEn && decide (s.lnk.commBase + 16384 ≤ dramBytes s)

/-- Where the rank list of a communicator stands. -/
def commListAddr (s : State) (ws : List Word) : Nat := readNat (readByte s) (commEntry s ws + 24) 8

/-- The last part of check 2: the zero bits of the tensor descriptors and the communicator. Faults of both parts together
name one field (R472); a table that lies outside DRAM or cannot be read speaks only when no zero bit is wrong. BAD_ADDRESS of
the table is tied to no field, SLOT 0xE: DESIGN CHOICE, log entry 152. -/
def lastFieldCheck (s : State) (ws : List Word) (slots : List (List TD)) (badReads : List Nat) : Verdict :=
  let zs := tdFieldFaults s ws slots
  if dOpcode ws ≠ 12 then verdictOf stBadField zs
  else
    let usable := commUsable s ws
    let a := commListAddr s ws
    if zs.isEmpty && s.lnk.commEn && dramBytes s < s.lnk.commBase + 16384 then .reject stBadAddress 14
    else
    match if zs.isEmpty && usable then (firstBadIn s badReads (commEntry s ws) 64).or (firstBadIn s badReads a (8 * commRanks s ws))
      else none with
    | some b => .bad b
    | none => verdictOf stBadField (zs ++ commFaults s ws)

/-! ### The advisor's entries (06 R164 to R169) -/

def advEntry (s : State) (slot : Nat) : Nat := s.glb.advBase + 256 * slot

/-- NEXT as a format: E4M3, E5M2, else BF16. -/
def advFormat (n : Nat) : Nat := if n = 3 then 3 else if n = 4 then 4 else 6

/-- The format the group's earlier members wrote a slot in, the last one first (R169). -/
def groupWritten (done : List Op) (slot : Nat) : Option Nat :=
  ((done.reverse.flatMap (·.advStats)).find? (fun a => a.slot = slot)).map (·.fmt)

/-- Byte 0 of every entry of the advisor table that is not zero: the table as a group finds it when it starts. -/
def advTable (s : State) : List (Nat × Byte) :=
  (s.dram.filter (fun c => decide (s.glb.advBase ≤ c.1) && decide (c.1 < s.glb.advBase + 2 ^ 20) &&
    decide ((c.1 - s.glb.advBase) % 256 = 0))).map (fun c => ((c.1 - s.glb.advBase) / 256, c.2))

/-- A group starts: NEXT is read from the table as it stands now (R169). -/
def startGroup (s : State) : State := modMaster s (fun m => { m with advisorStart := advTable s, done := [] })

/-- NEXT of an entry as the table stood when the group started. -/
def advNext (s : State) (slot : Nat) : Nat :=
  advFormat (bits ((s.master.advisorStart.find? (fun p => p.1 = slot)).elim 0 (fun p => p.2.toNat)) 3 0)

def advWritten (s : State) (slot : Nat) : Nat :=
  match groupWritten s.master.done slot with
  | some f => f
  | none => bits (readByte s (advEntry s slot)).toNat 7 4

/-- The tensor with its advised format. -/
def resolveTd (s : State) (slot : Nat) (t : TD) : TD :=
  if t.advised then { t with format := if 3 ≤ slot then advNext s t.advisor else advWritten s t.advisor } else t

def resolveSlots (s : State) (slots : List (List TD)) : List (List TD) :=
  slots.zipIdx.map (fun p => p.1.map (resolveTd s p.2))

def usesAdvisor (slots : List (List TD)) : Bool := (refsOf slots).any (fun r => r.2.2.advised)

/-! ### Check 3: formats (R36, R37, R81, R84) -/

def fmtF (k m : Nat) : DF := tdF k m 6

/-- R81 and R164 for one tensor. -/
def tdFormatFaults (s : State) (op : Nat) (k m : Nat) (t : TD) : List DF :=
  let idxOk := ((op = 7 || op = 8) && k = 1) || op = 10 || op = 15
  faultIf (8 < t.format) (fmtF k m) ++
  faultIf (t.format = 8 && !idxOk) (fmtF k m) ++
  faultIf (t.format = 8 && t.layout ≠ 0) (fmtF k m) ++
  faultIf (t.format = 7 && isMx t) (fmtF k m) ++
  faultIf (3 ≤ k && t.layout = 3) (fmtF k m) ++
  faultIf (t.advised && !s.glb.advEn) (fmtF k m) ++
  faultIf (t.advised && 3 ≤ k && !isMx t) (fmtF k m) ++
  faultIf (t.advised && k < 3 && t.format = 0) (fmtF k m)

/-- A statistics record: FP32 without scales (R153). -/
def statFmtFaults (k m : Nat) (t : TD) : List DF := faultIf (t.format ≠ 7 || t.layout ≠ 0 || t.advised) (fmtF k m)

/-- An array input whose MX blocks do not run along K (R37). -/
def mxDirFaults (k m : Nat) (tr : Bool) (t : TD) (dim : Nat) : List DF := faultIf (isMx t && vMxDim tr t ≠ dim) (fmtF k m)

/-- The format rules of the families. The MX scales of V run along DIM0 in ATTN variant 1, as R37 asks of the contraction
over d of step 5, though R142 lets V of the forward operation have any scale layout: DESIGN CHOICE, log entry 144. -/
def familyFormatFaults (o : Op) : List DF :=
  let t (k m : Nat) := o.td k m
  let ws := o.words
  match o.opcode with
  | 1 | 2 =>
    faultIf (rateOf (t 0 0).format (t 1 0).format = none) (fmtF 0 0) ++
    mxDirFaults 0 0 (dTr ws 0) (t 0 0) 0 ++ mxDirFaults 1 0 (dTr ws 1) (t 1 0) 1 ++
    (if o.masked then
      faultIf ((t 2 0).format ≠ 5 || (t 2 0).layout ≠ 0) (fmtF 2 0) ++
      faultIf (!bit (o.param 3).toNat 0 && (t 3 0).layout = 2) (opF 68)
    else []) ++
    (if o.has 4 then statFmtFaults 4 0 (t 4 0) else [])
  | 3 =>
    let q := (0, 0)
    let k := if o.variant = 0 then (1, 0) else (0, 1)
    let v := if o.variant = 0 then (2, 0) else (0, 2)
    faultIf (rateOf (attnQ o).format (attnK o).format = none) (fmtF q.1 q.2) ++
    faultIf ((attnQ o).format = 5) (fmtF q.1 q.2) ++ faultIf ((attnK o).format = 5) (fmtF k.1 k.2) ++
    faultIf (!((attnV o).format ≤ 4 || (attnV o).format = 6)) (fmtF v.1 v.2) ++
    mxDirFaults q.1 q.2 (attnTrQ o) (attnQ o) 0 ++ mxDirFaults k.1 k.2 (attnTrK o) (attnK o) 0 ++
    (if o.variant = 0 then (if o.has 4 then statFmtFaults 4 0 (t 4 0) else [])
    else
      faultIf (rateOf (bwdTd o 1).format (attnV o).format = none) (fmtF 0 2) ++
      mxDirFaults 1 1 (dTr ws 1) (bwdTd o 1) 0 ++ mxDirFaults 0 2 (attnTrV o) (attnV o) 0 ++ statFmtFaults 2 0 (t 2 0))
  | 4 =>
    if o.variant ≤ 1 then statFmtFaults 4 0 (t 4 0) else statFmtFaults 2 1 (t 2 1)
  | 7 =>
    faultIf ((t 1 0).format ≠ 8) (fmtF 1 0) ++
    faultIf ((t 3 0).format ≠ (t 0 0).format || (t 3 0).layout ≠ (t 0 0).layout) (fmtF 0 0) ++
    faultIf (1 < (t 3 0).layout) (fmtF 3 0) ++ faultIf (1 < (t 0 0).layout) (fmtF 0 0)
  | 8 =>
    faultIf ((t 1 0).format ≠ 8) (fmtF 1 0) ++
    faultIf ((t 3 0).format ≠ (t 2 0).format || (t 3 0).layout ≠ (t 2 0).layout) (fmtF 0 0) ++
    faultIf ((t 0 0).format ≠ (t 2 0).format || (t 0 0).layout ≠ (t 2 0).layout) (fmtF 0 0) ++
    faultIf (o.variant = 0 && (t 0 0).layout = 2) (fmtF 0 0)
  | 10 => faultIf ((t 3 0).format ≠ (t 0 0).format) (fmtF 0 0)
  | 12 =>
    let zFp := (t 3 0).format = 7 || (t 3 0).format = 6
    match o.variant with
    | 0 | 2 => faultIf (!zFp || (t 3 0).layout ≠ 0) (fmtF 3 0)
    | 4 => faultIf ((t 0 0).layout ≠ 0) (fmtF 0 0)
    | 5 => faultIf ((t 3 0).layout ≠ 0) (fmtF 3 0)
    | _ => faultIf ((t 3 0).format ≠ (t 0 0).format) (fmtF 0 0) ++ faultIf ((t 0 0).layout ≠ 0) (fmtF 0 0) ++
      faultIf ((t 3 0).layout ≠ 0) (fmtF 3 0)
  | 14 =>
    let st (k m : Nat) := faultIf (((t k m).format ≠ 7 && (t k m).format ≠ 6) || (t k m).layout ≠ 0 || (t k m).advised) (fmtF k m)
    st 0 0 ++ st 1 0 ++ st 3 0 ++ st 3 1 ++ (if o.variant = 0 then [] else st 1 1 ++ st 4 0)
  | 15 => faultIf ((t 3 0).layout ≠ 0 || (t 3 0).advised) (fmtF 3 0)
  | _ => []

def formatFaults (s : State) (o : Op) : List DF :=
  (refsOf o.slots).flatMap (fun r => tdFormatFaults s o.opcode r.1 r.2.1 r.2.2) ++ familyFormatFaults o

/-- The advisor table does not lie wholly in DRAM (R165). -/
def advOutside (s : State) : Bool := decide (dramBytes s < s.glb.advBase + 2 ^ 20)

/-- The operation with one format in the place of every advised one. -/
def withAdvised (o : Op) (f : Nat) : Op :=
  { o with slots := o.slots.map (fun l => l.map (fun t => if t.advised then { t with format := f } else t)) }

/-- Check 3. An advised format cannot be read from a table outside DRAM, whose BAD_ADDRESS check 6 gives (R165): then only what
is wrong with every format an entry can hold counts. -/
def formatCheck (s : State) (o : Op) : Verdict :=
  verdictOf stBadFormat (if usesAdvisor o.slots && s.glb.advEn && advOutside s then
      let fs := [3, 4, 6].map (fun f => formatFaults s (withAdvised o f))
      if fs.any (·.isEmpty) then [] else fs.flatten
    else formatFaults s o)

/-! ### Check 4: shapes (R35, R37, R38 and the families) -/

def tdDim (t : TD) (i : Nat) : Nat := match i with | 0 => t.dim0 | 1 => t.dim1 | 2 => t.dim2 | _ => t.dim3
def tdStride (t : TD) (i : Nat) : Nat := match i with | 1 => t.stride1 | 2 => t.stride2 | 3 => t.stride3 | _ => 0

def tdShapeFaults (k m : Nat) (t : TD) : List DF :=
  let z := if t.advised then { t with format := 6 } else t
  (List.range 4).flatMap (fun i =>
    faultIf (tdDim t i = 0 || 2 ^ 31 ≤ tdDim t i) (tdF k m (8 + 4 * i)) ++
    faultIf (t.rank ≤ i && tdDim t i ≠ 1) (tdF k m 6)) ++
  faultIf (isMx t && t.scaleStride < tdScaleRowBytes t) (tdF k m 6) ++
  (if 3 ≤ k then
    (List.range 3).flatMap (fun j =>
      let i := j + 1
      let inner := tdRowBytes z + ((List.range (i - 1)).map (fun q => (tdDim t (q + 1) - 1) * tdStride t (q + 1))).foldl (· + ·) 0
      faultIf (1 < tdDim t i && tdStride t i < inner) (tdF k m 6))
  else [])

/-- A tensor of the operation with the way it is read. -/
structure Ref where
  slot : Nat
  member : Nat
  tr : Bool
  td : TD
deriving DecidableEq, Repr

def Op.ref (o : Op) (k m : Nat) : Ref := { slot := k, member := m, tr := dTr o.words k, td := o.td k m }

/-- Extent i as read, and the byte offset of its field. -/
def refDim (r : Ref) (i : Nat) : Nat := (vShape r.tr r.td).getD i 1
def refOff (r : Ref) (i : Nat) : Nat := 8 + 4 * (if r.tr && i ≤ 1 then 1 - i else i)
def refF (r : Ref) (i : Nat) : DF := tdF r.slot r.member (refOff r i)

/-- Extent i of a differs from extent j of b: the lower field of the two. -/
def mism (a b : Ref) (i j : Nat) : List DF :=
  if refDim a i = refDim b j then [] else (dfMin [refF a i, refF b j]).toList

def sameShape (a b : Ref) : List DF := (List.range 4).flatMap (fun i => mism a b i i)

/-- An extent that must have one value. -/
def mustBe (a : Ref) (i n : Nat) : List DF := faultIf (refDim a i ≠ n) (refF a i)

/-- A tensor of rank 1. -/
def rankOne (a : Ref) : List DF := faultIf (a.td.rank ≠ 1) (tdF a.slot a.member 6) ++ mustBe a 1 1 ++ mustBe a 2 1 ++ mustBe a 3 1

/-- A rank-1 tensor as long as extent j of another. -/
def vecShape (src : Ref) (j : Nat) (a : Ref) : List DF := mism src a j 0 ++ rankOne a

/-- A mask of rows: one element a row of A, or one per 32 rows; PARAM3 takes part in its length (R161). -/
def maskShape (a r : Ref) (per32 : Bool) : List DF :=
  faultIf (refDim r 0 ≠ (if per32 then ceilDiv (refDim a 1) 32 else refDim a 1)) (opF 68) ++ rankOne r

def batchShape (a d : Ref) : List DF :=
  [2, 3].flatMap (fun i => if refDim a i = 1 then [] else mism a d i i)

def gemmShapeFaults (o : Op) : List DF :=
  let a := o.ref 0 0
  let b := o.ref 1 0
  let d := o.ref 3 0
  let terms := o.members 2
  let batched := o.opcode = 2
  let resid (r : Ref) := mism b r 0 0 ++ mism a r 1 1 ++ (if batched then batchShape r d else mustBe r 2 1 ++ mustBe r 3 1)
  mism a b 0 1 ++ mism a d 1 1 ++ mism b d 0 0 ++
  faultIf (4095 < gemmChunks o) (tdF 0 0 6) ++
  (if batched then
    faultIf (d.td.rank < 3) (tdF 3 0 6) ++ batchShape a d ++ batchShape b d
  else [a, b, d].flatMap (fun r => mustBe r 2 1 ++ mustBe r 3 1)) ++
  (if o.masked then
    maskShape a (o.ref 2 0) (bit (o.param 3).toNat 0)
  else
    match terms with
    | [t] => if t.rank = 1 then vecShape b 0 (o.ref 2 0) else resid (o.ref 2 0)
    | [t, u] =>
      (if t.rank = 1 then vecShape b 0 (o.ref 2 0) else [tdF 2 0 6]) ++
        (if u.rank < 2 then [tdF 2 1 6] else resid (o.ref 2 1))
    | _ => []) ++
  (if o.has 4 then
    let st := o.ref 4 0
    mism a st 1 0 ++ mustBe st 1 4 ++ mism d st 2 2 ++ mism d st 3 3
  else [])

/-- Shapes of ATTN (R142, R156). A head count that does not fit names PARAM2, a causal length PARAM1: slot 0xF is the lowest of
the fields that take part (R472). -/
def attnShapeFaults (o : Op) : List DF :=
  let q := o.ref 0 0
  let k := if o.variant = 0 then o.ref 1 0 else o.ref 0 1
  let v := if o.variant = 0 then o.ref 2 0 else o.ref 0 2
  let g := attnG o
  let stats (r : Ref) := mism q r 1 0 ++ mustBe r 1 2 ++ mism q r 2 2 ++ mism q r 3 3
  faultIf (refDim q 0 % 32 ≠ 0 || refDim q 0 < 32 || 256 < refDim q 0) (refF q 0) ++
  mism q k 0 0 ++ sameShape k v ++ faultIf (refDim q 2 ≠ g * refDim k 2) (opF 64) ++ mism q k 3 3 ++
  faultIf (attnCausal o && refDim k 1 < refDim q 1) (opF 60) ++
  (if o.variant = 0 then sameShape q (o.ref 3 0) ++ (if o.has 4 then stats (o.ref 4 0) else [])
  else
    sameShape q (o.ref 1 0) ++ sameShape q (o.ref 1 1) ++ sameShape q (o.ref 3 0) ++ sameShape k (o.ref 3 1) ++
      sameShape k (o.ref 3 2) ++ stats (o.ref 2 0))

def normShapeFaults (o : Op) : List DF :=
  let x := o.ref 0 0
  let rows := refDim x 1 * refDim x 2 * refDim x 3
  let stats (r : Ref) (k : Nat) := faultIf (refDim r 0 ≠ rows) (refF x 1) ++ mustBe r 1 k ++ mustBe r 2 1 ++ mustBe r 3 1
  let k := if o.variant = 0 || o.variant = 2 then 2 else 1
  sameShape x (o.ref 3 0) ++
  (if o.variant ≤ 1 then
    vecShape x 0 (o.ref 1 0) ++ (if o.variant = 0 then vecShape x 0 (o.ref 2 0) else []) ++ stats (o.ref 4 0) k
  else
    sameShape x (o.ref 1 0) ++ vecShape x 0 (o.ref 2 0) ++ stats (o.ref 2 1) k ++ vecShape x 0 (o.ref 4 0) ++
      (if o.variant = 2 then vecShape x 0 (o.ref 4 1) else []))

def elems (r : Ref) : Nat := tdElems r.td

/-- Every extent of a tensor takes part in its element count: the lowest is DIM0 as stored (R472). -/
def countF (r : Ref) : DF := tdF r.slot r.member 8

def collShapeFaults (s : State) (o : Op) : List DF :=
  let x := o.ref 0 0
  let z := o.ref 3 0
  let p := commRanks s o.words
  match o.variant with
  | 0 => faultIf (elems z ≠ elems x) (countF x)
  | 1 => faultIf (elems z ≠ p * elems x) (countF x)
  | 2 => faultIf (elems x ≠ p * elems z) (countF x)
  | 3 => sameShape x z ++ faultIf (elems x % p ≠ 0) (countF x)
  | _ => []

/-- The shapes of the families. Where three or more tensors must agree (ELEMWISE, REDUCE variant 2) each input is compared
with z, so that an odd input names itself: DESIGN CHOICE, log entry 151. -/
def familyShapeFaults (s : State) (o : Op) : List DF :=
  let x := o.ref 0 0
  let z := o.ref 3 0
  let one (r : Ref) := mustBe r 2 1 ++ mustBe r 3 1
  let rowsOf (r : Ref) := refDim r 1 * refDim r 2 * refDim r 3
  match o.opcode with
  | 1 | 2 => gemmShapeFaults o
  | 3 => attnShapeFaults o
  | 4 => normShapeFaults o
  | 5 => sameShape x z ++ (if o.has 1 then sameShape (o.ref 1 0) z else [])
  | 6 =>
    if o.variant ≤ 1 then mism x z 1 0 ++ mism x z 2 1 ++ mism x z 3 2 ++ mustBe z 3 1
    else
      ((List.range (o.members 0).length).flatMap (fun m => sameShape (o.ref 0 m) z)) ++
        ((List.range (o.members 1).length).flatMap (fun m => sameShape (o.ref 1 m) z))
  | 7 =>
    one x ++ mism x z 0 0 ++ faultIf (rowsOf z ≠ elems (o.ref 1 0)) (countF (o.ref 1 0))
  | 8 =>
    let base := o.ref 2 0
    one base ++ sameShape base z ++ mism x base 0 0 ++ faultIf (rowsOf x ≠ elems (o.ref 1 0)) (refF x 1)
  | 9 => sameShape x z
  | 10 => faultIf (elems x ≠ elems z) (countF x)
  | 12 => collShapeFaults s o
  | 14 =>
    let w := x
    sameShape w (o.ref 0 1) ++ sameShape w (o.ref 1 0) ++ sameShape w (o.ref 3 0) ++ sameShape w (o.ref 3 1) ++
      (if o.variant = 0 then [] else sameShape w (o.ref 1 1) ++ sameShape w (o.ref 4 0))
  | 15 => faultIf ((tdDataFoot z.td).2 + 1 < (tdDataFoot z.td).1 + 256) (tdF 3 0 6)
  | _ => []

def shapeCheck (s : State) (o : Op) : Verdict :=
  verdictOf stBadShape ((refsOf o.slots).flatMap (fun r => tdShapeFaults r.1 r.2.1 r.2.2) ++ familyShapeFaults s o)

/-! ### Checks 5 and 6: alignment and addresses -/

/-- Check 5. A stride counts here even for a dimension of extent 1: Table 2-4 makes every stride a multiple of 64, and R38,
which does not check such a stride of an output, is taken to speak of its size (DESIGN CHOICE, log entry 129). -/
def alignCheck (o : Op) : Verdict :=
  verdictOf stBadAlign ((refsOf o.slots).flatMap (fun r =>
    let t := r.2.2
    faultIf (t.base % 64 ≠ 0) (tdF r.1 r.2.1 0) ++
    [1, 2, 3].flatMap (fun i => faultIf (tdStride t i % 64 ≠ 0) (tdF r.1 r.2.1 (16 + 8 * i))) ++
    faultIf (t.scaleBase % 64 ≠ 0) (tdF r.1 r.2.1 48) ++ faultIf (t.scaleStride % 64 ≠ 0) (tdF r.1 r.2.1 56)))

/-- Every slot a scratchpad footprint touches is one it may touch (R210). -/
def slotsOk (s : State) (output : Bool) (f : Interval) : Bool :=
  (List.range (slotOf f.2 + 1 - slotOf f.1)).all (fun k =>
    match slotAt s (slotOf f.1 + k) with
    | .mapped _ => true
    | .lost => !output
    | .unmapped => false)

def footOk (s : State) (output : Bool) (f : Interval) : Bool :=
  if f.2 < dramBytes s then true
  else if spadBase ≤ f.1 && f.2 < spadEnd then slotsOk s output f
  else decide (hostBase ≤ f.1) && decide (f.2 < 2 ^ 48)

/-- A tensor as the checks of R38, R39 and R50 see it: an ADVISED one with the row bytes of BF16 (R164). -/
def checkTd (t : TD) : TD := if t.advised then { t with format := 6 } else t

/-- Check 6. An advisor table outside DRAM is tied to no field of the descriptor, SLOT 0xE: DESIGN CHOICE, log entry 152. -/
def addressCheck (s : State) (o : Op) : Verdict :=
  let feet := (refsOf o.slots).flatMap (fun r =>
    let t := checkTd r.2.2
    faultIf (!footOk s (3 ≤ r.1) (tdDataFoot t)) (tdF r.1 r.2.1 0) ++
      (tdScaleFoot t).flatMap (fun f => faultIf (!footOk s (3 ≤ r.1) f) (tdF r.1 r.2.1 6)))
  let adv := faultIf (usesAdvisor o.slots && advOutside s) { slot := 14, member := 0, inTd := false, off := 0 }
  let ts := takers s
  let p := sized o ts
  let or := orientOf s o ts
  let stage := faultIf (!stageFits s o or (sharesOf p or ts) (if or = .exchanged then ts.filter (fun t => decide (gemmRows o ≤ t.w)) else ts))
    { slot := 14, member := 0, inTd := false, off := 0 }
  verdictOf stBadAddress (feet ++ adv ++ (if feet.isEmpty then stage else []))

/-! ### Checks 7 to 9 -/

def outFootsC (o : Op) : List Interval := o.outputs.flatMap (fun t => tdFoots (checkTd t))
def inFootsC (o : Op) : List Interval := o.inputs.flatMap (fun t => tdFoots (checkTd t))

/-- Aliasing (R50, R52, R58): `earlier` are the input footprints of the group's earlier members. -/
def aliasCheck (o : Op) (earlier : List Interval) : Verdict :=
  let outs := o.outputs.map (fun t => tdFoots (checkTd t))
  let cross := outs.zipIdx.any (fun p => outs.zipIdx.any (fun q =>
    decide (p.2 < q.2) && p.1.any (fun a => q.1.any (overlaps a))))
  let ins := inFootsC o ++ earlier
  if cross then .reject stAlias 0
  else if !dNonreplayable o.words && (outFootsC o).any (fun a => ins.any (overlaps a)) then .reject stAlias 0
  else .ok

def noEntry : Entry :=
  { count := 0, st := .fetched, words := [], since := 0, begun := false, satisfied := false, released := false, ended := none }

/-- Group limits (R57): more than 16 members fails the 16th, more than 8 signals the first. -/
def groupCheck (members : List Entry) (idx : Nat) : Verdict :=
  let above := members.length = 16 && dGroupNext ((members.getD 15 noEntry).words)
  let sigs := (members.map (fun e => (dSignals e.words).length)).foldl (· + ·) 0
  if (above && idx = 15) || (idx = 0 && 8 < sigs) then .reject stGroupLimit 0 else .ok

def staleCheck (s : State) (o : Op) : Verdict :=
  if o.inFoots.any (fun f => s.master.stale.any (overlaps f)) then .reject stStale 0 else .ok

/-! ### The whole sequence -/

/-- The trainable rows the mask marks (R161, R162). Mask bytes in the scratchpad window outside the task range read as 0, a
frozen row, without BOUND: DESIGN CHOICE, log entry 153. -/
def maskRows (s : State) (o : Op) : List Nat :=
  if !o.masked then []
  else
    let t := o.td 2 0
    let block := bit (o.param 3).toNat 0
    (List.range (gemmM o)).filter (fun m =>
      elemCode (readByte s) t (vIdx (dTr o.words 2) ⟨if block then m / 32 else m, 0, 0, 0⟩) ≠ 0)

/-- An operation as parsed, nothing of it run. -/
def newOp (ring : Nat) (e : Entry) (slots : List (List TD)) : Op :=
  { ring := ring, count := e.count, words := e.words, slots := slots, orient := .bypass, trainable := [], advStats := [],
    advParts := [], frozenLeft := false, placed := false, dealt := false, share := [], tree := [], leaves := [], stats := [], pBlocks := [],
    rowMax := [], scores := [], unitRows := 1, scoresEx := false, colParts := [], replayed := false, dupChecks := 0, recount := 0,
    coll := none, capRecord := [] }

/-- The advisor entries an operation reads at its format checks. -/
def advReadCheck (s : State) (slots : List (List TD)) (badReads : List Nat) : Verdict :=
  if !s.glb.advEn || advOutside s then .ok
  else match ((refsOf slots).filter (fun r => r.2.2.advised)).findSome? (fun r => firstBadIn s badReads (advEntry s r.2.2.advisor) 256) with
    | some a => .bad a
    | none => .ok

def maskReadCheck (s : State) (o : Op) (badReads : List Nat) : Verdict :=
  if !o.masked then .ok
  else
    let f := tdDataFoot (o.td 2 0)
    match firstBadIn s badReads f.1 (f.2 + 1 - f.1) with
    | some a => .bad a
    | none => .ok

/-- The operation a descriptor names, with its advised formats. -/
def parseOp (s : State) (ring : Nat) (e : Entry) : Op :=
  let o := newOp ring e (resolveSlots s ((List.range 5).map (slotTds s e.words)))
  { o with trainable := maskRows s o }

/-- Checks 1 and 2 of R49. -/
def checks12 (s : State) (e : Entry) (firstMember : Bool) (badReads : List Nat) : Verdict :=
  let ws := e.words
  if !implemented ws then .reject stNotInContract 0
  else
    let raw := (List.range 5).map (slotTds s ws)
    firstBad [fieldCheck s ws firstMember, tdAddrCheck s ws,
      tdReadCheck s ws badReads, lastFieldCheck s ws raw badReads]

/-- Checks 3 to 8 of R49, and 9 when `withStale`. -/
def checks39 (s : State) (o : Op) (members : List Entry) (idx : Nat) (earlier : List Interval) (withStale : Bool) : Verdict :=
  firstBad [formatCheck s o, shapeCheck s o, alignCheck o, addressCheck s o, aliasCheck o earlier, groupCheck members idx,
    (if withStale then staleCheck s o else .ok)]

/-- Checks 1 to 8 of R49, and 9 when `withStale`; then the mask is read (R162). -/
def acceptVerdict (s : State) (ring : Nat) (members : List Entry) (idx : Nat) (e : Entry) (earlier : List Interval)
    (badReads : List Nat) (withStale : Bool) : Verdict :=
  match checks12 s e (idx = 0) badReads with
  | .ok =>
    let o := parseOp s ring e
    firstBad [advReadCheck s ((List.range 5).map (slotTds s e.words)) badReads, checks39 s o members idx earlier withStale,
      maskReadCheck s o badReads]
  | v => v

/-- What check 2 reads of a COLLECTIVE's communicator: its entry and its rank list (R385). -/
def commReads (s : State) (ws : List Word) : List Interval :=
  if dOpcode ws = 12 && (tdFieldFaults s ws ((List.range 5).map (slotTds s ws))).isEmpty && commUsable s ws then
    (commEntry s ws, commEntry s ws + 63) ::
      (if commRanks s ws = 0 then [] else [(commListAddr s ws, commListAddr s ws + 8 * commRanks s ws - 1)])
  else []

/-- What the checks read, in their order, each part only when every check before it has passed: tensor descriptors, communicator
and rank list, advisor entries, mask (R49, R162, R385). -/
def acceptReads (s : State) (ring : Nat) (members : List Entry) (idx : Nat) (e : Entry) (earlier : List Interval)
    (withStale : Bool) : List Interval :=
  let ws := e.words
  if !(implemented ws && decide (firstBad [fieldCheck s ws (idx = 0), tdAddrCheck s ws] = .ok)) then []
  else
    let raw := (List.range 5).map (slotTds s ws)
    let tds := ((List.range 5).flatMap (slotTdAddrs ws)).map (fun a => (a, a + 63))
    let comm := commReads s ws
    if decide (lastFieldCheck s ws raw [] ≠ .ok) then tds ++ comm
    else
      let adv := if s.glb.advEn && !advOutside s then
          ((refsOf raw).filter (fun r => r.2.2.advised)).map (fun r => (advEntry s r.2.2.advisor, advEntry s r.2.2.advisor + 255))
        else []
      let o := parseOp s ring e
      tds ++ comm ++ adv ++ (if o.masked && decide (checks39 s o members idx earlier withStale = .ok) then [tdDataFoot (o.td 2 0)] else [])

end Sys2Proof.Machine
end

