-- ==== Sys2Proof/Machine/Banks.lean ====
section
/-!
DEFINITION. Bank power (08_scratchpad.md R217 to R219), the slot map (R209, R224, R225) and the place of a DRAM address
(09_memory.md R232).
-/
namespace Sys2Proof.Machine

/-! ### Banks -/

/-- Banks that hold a byte of [lo, hi). -/
def banksOf (lo hi : Nat) : List Nat := (List.range 32).filter (fun j => decide (j * 2 ^ 21 < hi) && decide (lo < (j + 1) * 2 ^ 21))

def bankMask (js : List Nat) : BitVec 32 := js.foldl (fun m j => m ||| BitVec.ofNat 32 (2 ^ j)) 0

/-- The operations placed: the current one and a pre-selected one. -/
def placedOps (s : State) : List Op := s.master.op.toList ++ s.master.pre.toList

/-- The stage space a region needs: of an operation whose shares it has, or one of whose tiles, copies included, it runs. -/
def stageTop (s : State) (r : Nat) : Nat :=
  let here (o : Op) (ts : List Tile) : Nat :=
    if o.share.any (fun x => x.region = r) || ts.any (fun t => t.region = r) then stageBytes o o.orient o.share r else 0
  (s.master.op.toList.map (fun o => here o s.master.tiles) ++ s.master.pre.toList.map (fun o => here o s.master.preTiles)).foldl max 0

def sessionHolds (s : State) (r : Nat) : Bool :=
  match s.farrier.session with
  | some x => x.held && decide (x.region = r)
  | none => false

/-- The banks R217 keeps on in a region: task range and stage space in a live one, the session area in one a session holds. -/
def bankNeeds (s : State) (r : Nat) : BitVec 32 :=
  if !(regionAt s r).powered then 0
  else
    (if (regionAt s r).live then
      bankMask (banksOf (taskBase s) (taskBound s)) |||
        (let t := stageTop s r
         if t = 0 then 0 else bankMask (banksOf (2 ^ 26 - t) (2 ^ 26)))
     else 0) |||
      (if sessionHolds s r then bankMask (banksOf (taskBound s) (2 ^ 26)) else 0)

/-- Physical places of a region's banks that a mask does not keep lose their content. -/
def dropBanks (s : State) (r : Nat) (keep : BitVec 32) : State :=
  { s with
    spad := memKeep s.spad (fun p => !(decide (p / 2 ^ 26 = r)) || keep.getLsbD (p % 2 ^ 26 / 2 ^ 21))
    before := s.before.filter (fun c => !(decide (c.1 / 2 ^ 26 = r)) || keep.getLsbD (c.1 % 2 ^ 26 / 2 ^ 21))
    badSpad := s.badSpad.filter (fun p => !(decide (p / 2 ^ 26 = r)) || keep.getLsbD (p % 2 ^ 26 / 2 ^ 21)) }

/-- Switch a region's banks as R217 requires; a bank switched on is ready at its BANK_READY. -/
def updBanks (s : State) (r : Nat) : State :=
  let need := bankNeeds s r
  modRegion (dropBanks s r need) r (fun x => { x with bankOn := need, bankReady := x.bankReady &&& need })

def updAllBanks (s : State) : State := (List.range 96).foldl updBanks s

/-- Every bank of a region that is on is ready (R219). -/
def banksReady (s : State) (r : Nat) : Bool := decide ((regionAt s r).bankOn = (regionAt s r).bankReady)

/-- A region's domain switches off: its banks, its tiles' buffers and its content go. -/
def regionOff (s : State) (r : Nat) : State :=
  modRegion (dropBanks s r 0) r (fun x =>
    { x with
      powered := false
      bankOn := 0
      bankReady := 0
      queue := []
      banks := [CellBank.reset, CellBank.reset]
      working := 0 })

/-! ### The slot map -/

/-- R209: slot i goes to the (i + 1)th live region; a region that has failed since the publication is left out (R228). -/
def buildSlots (s : State) : List Slot :=
  let l := (liveRegions s).filter (fun r => (regionAt s r).live)
  (List.range 96).map (fun i => match l[i]? with
    | some r => .mapped r
    | none => .unmapped)

/-- The slot a region holds. -/
def slotOfRegion (s : State) (r : Nat) : Option Nat := (List.range 96).find? (fun k => slotAt s k = .mapped r)

/-- The highest mapped slot of 90 or above other than k. -/
def donorSlot (s : State) (k : Nat) : Option Nat :=
  ((List.range 6).map (fun i => 95 - i)).find? (fun t => decide (t ≠ k) && (match slotAt s t with | .mapped _ => true | _ => false))

def setSlot (s : State) (k : Nat) (x : Slot) : State := { s with slots := s.slots.modify k (fun _ => x) }

/-- The interval of a slot's task range (R225). -/
def slotInterval (s : State) (k : Nat) : Interval := (slotAddr k, slotAddr k + taskBound s - taskBase s - 1)

/-- The slot of a region that leaves the weave (R224): re-pointed to a donor's region, or lost, with its stale intervals. -/
def leaveSlot (s : State) (r : Nat) : State :=
  match slotOfRegion s r with
  | none => s
  | some k =>
    match donorSlot s k with
    | some t =>
      let u := setSlot (setSlot s k (slotAt s t)) t .lost
      enterStales u [slotInterval u k, slotInterval u t]
    | none =>
      let u := setSlot s k .lost
      enterStale u (slotInterval u k)

/-- Slots a departure of region r changes: its own and the donor. -/
def leaveSlots (s : State) (r : Nat) : List Nat :=
  match slotOfRegion s r with
  | none => []
  | some k => k :: (donorSlot s k).toList

/-! ### DRAM -/

/-- Stack and pseudo-channel of a DRAM address (R232). -/
def dramPlace (s : State) (a : Nat) : Nat × Nat :=
  let l := mapStacks s
  let n := l.length
  let p := a / 4096
  if n = 0 then (0, 0)
  else
    let q := p / n
    let i := (p % n + q % n + p / (n * n) % n) % n
    (l.getD i 0, q % 64)

/-- stack_address of R232. -/
def stackAddress (s : State) (a : Nat) : Nat :=
  let n := (mapStacks s).length
  if n = 0 then 0 else a / 4096 / n * 4096 + a % 4096

/-! ### The error record of a read -/

/-- Which operation an error failed: DESC_TAG, ring, entry. -/
def opRef (s : State) (o : Op) : Word × Nat × Nat := (dTag o.words, o.ring, o.count.toNat % ringSize (ringAt s o.ring))

/-- The codeword or line an address lies in. -/
def unitOfAddr (a : Nat) : Nat := if isSpad a then a / 128 * 128 else a / 64 * 64

/-- The record of an uncorrectable read at a module address (Table 15-9). -/
def readErr (s : State) (a : Nat) (op : Option (Word × Nat × Nat)) (merge : Bool) : ErrRec :=
  if isDram s a then
    let p := dramPlace s a
    { kind := if merge then 2 else 1, unitKind := .stack, unit := p.1, addr := some (unitOfAddr a), op := op, detail := p.1 + 16 * p.2,
      count := 0 }
  else
    match spadPlace s a with
    | some p =>
      { kind := 4, unitKind := .bank, unit := p / 2 ^ 26 * 32 + p % 2 ^ 26 / 2 ^ 21, addr := some (unitOfAddr a), op := op,
        detail := p % 2 ^ 26 / 2 ^ 21 + 32 * (p % 2 ^ 21 / 128), count := 0 }
    | none => { noErr with kind := 4, addr := some (unitOfAddr a), op := op }

/-- A unit of ECC is known bad until it is written whole (R352). -/
def markBad (s : State) (a : Nat) : State :=
  if isSpad a then
    (match spadPlace s a with
      | some p => { s with badSpad := if s.badSpad.contains (p / 8 * 8) then s.badSpad else p / 8 * 8 :: s.badSpad }
      | none => s)
  else if isDram s a then
    { s with badDram := if s.badDram.contains (a / 64 * 64) then s.badDram else a / 64 * 64 :: s.badDram }
  else s

/-- A retraining is queued (R243): a live stack, at most once in the queue. -/
def queueRetrain (s : State) (m : Nat) : State :=
  if (stackAt s m).live && !(stackAt s m).failed && !s.glb.retrainQueue.contains m then
    modGlb s (fun g => { g with retrainQueue := g.retrainQueue ++ [m] })
  else s

/-- One uncorrectable codeword of a stack: counted, and more than 100 within 24 hours of life time are a fault of the
stack (R236, Table 15-7). -/
def stackUncorr (s : State) (m : Nat) : State :=
  let log := lifeTime s :: (stackAt s m).uncorrLog.filter (fun t => decide (lifeTime s < t + day))
  let t := modStack s m (fun x =>
    { x with
      eccUncorr := capAdd top32 x.eccUncorr 1
      uncorrLog := if 100 < log.length then [] else log })
  if 100 < log.length then recordFault t .stack m 0x0D else t

/-- A fault of a bank; one that is retired by it takes its region out of the weave at the next operation boundary (R338, R368; log
entry 168). -/
def bankFault (s : State) (r bank : Nat) : State :=
  let t := recordFault s .bank (r * 32 + bank) 0x0D
  if (regionAt t r).live && isRetired t .bank (r * 32 + bank) then modRegion t r (fun x => { x with leavePending := true }) else t

/-- A fault counted for the unit an uncorrectable error lies in: a bank at once, a stack's codewords over 24 hours
(Table 15-7). -/
def countBad (s : State) (a : Nat) : State :=
  if isSpad a then
    (match spadPlace s a with
      | some p => bankFault s (p / 2 ^ 26) (p % 2 ^ 26 / 2 ^ 21)
      | none => s)
  else if isDram s a then stackUncorr s (dramPlace s a).1
  else s

/-- One corrected codeword of a pseudo-channel: counted, and more than 1,000 within 1 s queue a retraining (R236, R243). -/
def stackCorr (s : State) (m pc : Nat) : State :=
  let now := (gtcNs s).toNat
  let log := (pc, gtcNs s) :: (stackAt s m).corrLog.filter (fun e => decide (now < e.2.toNat + 1000000000))
  let t := modStack s m (fun x => { x with eccCorr := capAdd top32 x.eccCorr 1, corrLog := log })
  if 1000 < (log.filter (fun e => decide (e.1 = pc))).length then queueRetrain t m else t

/-- One corrected word of a bank: more than 1,000 within one hour of life time are a fault of the bank (Table 15-7). -/
def bankCorrected (s : State) (r bank : Nat) : State :=
  let log := (bank, lifeTime s) :: (regionAt s r).bankCorr.filter (fun e => decide (lifeTime s < e.2 + 3600))
  let above := decide (1000 < (log.filter (fun e => decide (e.1 = bank))).length)
  let t := modRegion s r (fun x =>
    { x with bankCorr := if above then log.filter (fun e => decide (e.1 ≠ bank)) else log })
  if above then bankFault t r bank else t

/-- A read corrected an error at a module address. -/
def noteCorrected (s : State) (a : Nat) : State :=
  if isSpad a then
    (match spadPlace s a with
      | some p => bankCorrected s (p / 2 ^ 26) (p % 2 ^ 26 / 2 ^ 21)
      | none => s)
  else if isDram s a then stackCorr s (dramPlace s a).1 (dramPlace s a).2
  else s

/-- The addresses of distinct codewords or lines among a list, in order. -/
def distinctUnits : List Nat → List Nat
  | [] => []
  | a :: l => a :: (distinctUnits l).filter (fun b => unitOfAddr b ≠ unitOfAddr a)

/-- Bad words or codewords that a list of written addresses touches without replacing them whole; a byte outside the task range
is not written (R212). -/
def mergeBad (s : State) (addrs : List Nat) : List Nat :=
  let touch (p : Nat → Option Nat) (u n : Nat) : Option Nat :=
    let inU := addrs.filter (fun a => match p a with | some q => decide (u ≤ q) && decide (q < u + n) | none => false)
    if inU.isEmpty || decide (n ≤ inU.eraseDups.length) then none else inU.head?
  s.badSpad.filterMap (fun u => touch (fun a => if isSpad a && inTask s a then spadPlace s a else none) u 8) ++
    s.badDram.filterMap (fun u => touch (fun a => if isDram s a then some a else none) u 64)

/-- Units a write touches lose their mark: `mergeBad` has been tested before. -/
def healUnits (s : State) (addrs : List Nat) : State :=
  { s with
    badSpad := s.badSpad.filter (fun u => !(addrs.any (fun a => isSpad a && (match spadPlace s a with
      | some p => decide (p / 8 * 8 = u) | none => false))))
    badDram := s.badDram.filter (fun u => !(addrs.any (fun a => isDram s a && decide (a / 64 * 64 = u)))) }

/-- Post the records of the errors one operation meets: at most 16, the 16th counting the rest (R354). Answers the
sequence number of the first. -/
def postReadErrs (s : State) (addrs : List Nat) (op : Option (Word × Nat × Nat)) (merge : Bool) : State × Option Word :=
  let us := distinctUnits addrs
  let seq := nextErrSeq s
  let t := (us.take 16).zipIdx.foldl (fun acc p =>
    postError acc { readErr acc p.1 op merge with count := if p.2 = 15 then us.length - 16 else 0 }) s
  (t, if us.isEmpty then none else seq)

/-- The window address at which a physical scratchpad byte of the task range is seen (R211). -/
def windowOf (s : State) (p : Nat) : Option Nat :=
  match slotOfRegion s (p / 2 ^ 26) with
  | some k => if taskBase s ≤ p % 2 ^ 26 && p % 2 ^ 26 < taskBound s then some (slotAddr k + (p % 2 ^ 26 - taskBase s)) else none
  | none => none

/-- Addresses of known bad words and codewords inside a list of footprints (R352). -/
def knownBadIn (s : State) (foots : List Interval) : List Nat :=
  let hit (a n : Nat) := foots.any (fun f => decide (f.1 < a + n) && decide (a ≤ f.2))
  s.badDram.filter (fun a => hit a 64) ++ (s.badSpad.filterMap (windowOf s)).filter (fun a => hit a 8)

/-- The footprint reaches a page of stack m (R232): at most 2n pages need be looked at, since n pages with one q visit
every stack. -/
def touchesStack (s : State) (m : Nat) (f : Interval) : Bool :=
  let n := (mapStacks s).length
  decide (f.1 < dramBytes s) &&
    (List.range (min (2 * n) (f.2 / 4096 + 1 - f.1 / 4096))).any (fun k =>
      let a := (f.1 / 4096 + k) * 4096
      decide (a < dramBytes s) && decide ((dramPlace s a).1 = m))

/-! ### Accesses of operations and of the collective engine (05 R124, 08 R204, R212, R219, 09 R236, R240, R244, R245) -/

/-- Every granule of an interval lies in the task range (R212). -/
def spanInTask (s : State) (f : Interval) : Bool :=
  if !isSpad f.1 then true
  else if slotOf f.1 = slotOf f.2 then inTask s f.1 && inTask s f.2
  else decide (taskBase s = 0) && decide (taskBound s = 2 ^ 26)

/-- A failed stack that holds a page of the footprints (R245). -/
def failedStack (s : State) (foots : List Interval) : Option Nat :=
  (List.range 16).find? (fun m => (stackAt s m).failed && foots.any (touchesStack s m))

/-- A stack that accepts no access now holds a page of the footprints (R240, R244). -/
def waitsOnStack (s : State) (foots : List Interval) : Bool :=
  (List.range 16).any (fun m => ((stackAt s m).retraining || (stackAt s m).hotSelfRefresh) && foots.any (touchesStack s m))

/-- The window addresses of bank j of the region behind slot k. -/
def bankWindow (s : State) (k j : Nat) : Interval :=
  (slotAddr k + (j * 2 ^ 21 - taskBase s), slotAddr k + ((j + 1) * 2 ^ 21 - taskBase s) - 1)

/-- A bank in the interval has not ended its clear: no access is granted to it yet (R219). -/
def waitsOnBank (s : State) (f : Interval) : Bool :=
  isSpad f.1 && (List.range (slotOf f.2 + 1 - slotOf f.1)).any (fun d =>
    let k := slotOf f.1 + d
    match slotAt s k with
    | .mapped r =>
      !banksReady s r && (List.range 32).any (fun j =>
        (regionAt s r).bankOn.getLsbD j && !(regionAt s r).bankReady.getLsbD j && overlaps (bankWindow s k j) f)
    | _ => false)

/-- What an access meets. -/
inductive AccessEnd where
  | ok
  | waits
  | failed (stack : Nat)
  | bad (addrs : List Nat)
  | bound
deriving DecidableEq, Repr

def accessOf (s : State) (spans : List Interval) (bad : List Nat) (inRange : Bool) : AccessEnd :=
  match failedStack s spans with
  | some m => .failed m
  | none =>
    if waitsOnStack s spans || spans.any (waitsOnBank s) then .waits
    else if !bad.isEmpty then .bad bad
    else if inRange then .ok
    else .bound

/-- A granule outside the task range is neither read nor written (R212). -/
def reached (s : State) (a : Nat) : Bool := !isSpad a || inTask s a

/-- Reads of a list of intervals, with the errors the reads found beside those already known. -/
def readAccess (s : State) (spans : List Interval) (found : List Nat) : AccessEnd :=
  accessOf s spans (found.filter (reached s) ++ (knownBadIn s spans).filter (fun a => !found.contains a)) (spans.all (spanInTask s))

/-- Writes of a list of bytes, with the errors that merges found beside those already known. -/
def writeAccess (s : State) (addrs : List Nat) (found : List Nat) : AccessEnd :=
  accessOf s (addrs.map (fun a => (a, a))) (found.filter (reached s) ++ (mergeBad s addrs).filter (fun a => !found.contains a))
    (addrs.all (reached s))

/-! ### What reads bring back (R204, R220, R234) -/

/-- The unit of n bytes in which an address lies overlaps an interval of a list. -/
def inUnits (spans : List Interval) (n a : Nat) : Bool := spans.any (overlaps (a / n * n, a / n * n + n - 1))

/-- The word of the scratchpad or the codeword of DRAM in which an address lies overlaps an interval of a list. -/
def inEcc (spans : List Interval) (a : Nat) : Bool := inUnits spans (if isSpad a then 8 else 64) a

/-- The part of an outcome that a test of addresses and one of lines keep. -/
def keepOutcome (out : ReadOutcome) (p line : Nat → Bool) : ReadOutcome :=
  { out with
    corrected := out.corrected.filter p
    uncorrectable := out.uncorrectable.filter p
    wrong := out.wrong.filter (fun w => p w.1)
    met := out.met.filter line }

/-- What the reads of some intervals brought, among the reads of one command, and what its other reads brought. -/
def outcomeOf (out : ReadOutcome) (spans : List Interval) : ReadOutcome := keepOutcome out (inEcc spans) (inUnits spans 128)
def outcomeBeside (out : ReadOutcome) (spans : List Interval) : ReadOutcome :=
  keepOutcome out (fun a => !inEcc spans a) (fun a => !inUnits spans 128 a)

/-- Bytes that a write is about to replace: what a read that meets it returns (R220). The bytes of a line the write touches
that an earlier write wrote can be met no more. -/
def keepBefore (s : State) (addrs : List Nat) : State :=
  let ps := addrs.filterMap (fun a => if isSpad a && inTask s a then spadPlace s a else none)
  { s with before := ps.map (fun p => (p, memGet s.spad p)) ++ s.before.filter (fun c => !ps.any (fun p => p / 128 = c.1 / 128)) }

/-- The bytes, as they were before the last write, of the lines a read met that write on (R220). -/
def metCells (s : State) (met : List Nat) : List Host.Cell :=
  s.before.filterMap (fun c => match windowOf s c.1 with
    | some a => if met.any (fun b => b / 128 = a / 128) then some (a, c.2) else none
    | none => none)

/-- Every corrected codeword or word of an access is counted (R236). -/
def noteReads (s : State) (out : ReadOutcome) : State := out.corrected.foldl noteCorrected s

/-- Data with the bits that a wrong correction turned (R234). -/
def turned (m : Mem) (wrong : List (Nat × Byte)) : Mem := wrong.foldl (fun acc w => memSet acc w.1 (memGet acc w.1 ^^^ w.2)) m

/-- Bytes that a wrong correction turned in the words and codewords a part write merges with: they are written back (R204,
R235). -/
def mergeTurned (s : State) (cells : List Host.Cell) (merge : ReadOutcome) : List Host.Cell :=
  let word (a : Nat) : Nat := if isSpad a then a / 8 else a / 64
  (merge.wrong.filter (fun w => (isSpad w.1 && inTask s w.1 || isDram s w.1) && cells.any (fun c => word c.1 = word w.1) &&
    cells.all (fun c => c.1 ≠ w.1))).map (fun w => (w.1, readByte s w.1 ^^^ w.2))

/-- The byte a read sees at an address: as it was before a write the read met, with the bits a wrong correction turned. -/
def seenByte (s : State) (out : ReadOutcome) (a : Nat) : Byte :=
  out.wrong.foldl (fun b w => if w.1 = a then b ^^^ w.2 else b)
    (((metCells s out.met).find? (fun c => c.1 = a)).elim (readByte s a) (fun c => c.2))

/-- What reads of a list of footprints bring into buffers. -/
def seenMem (s : State) (foots : List Interval) (out : ReadOutcome) : Mem :=
  let inside (a : Nat) : Bool := foots.any (fun f => decide (f.1 ≤ a) && decide (a ≤ f.2))
  turned (memWrite (snapshot s foots) ((metCells s out.met).filter (fun c => inside c.1))) out.wrong

end Sys2Proof.Machine
end

