-- ==== Sys2Proof/Machine/Sched.lean ====
section
/-!
DEFINITION. The scheduler master: heads and waits, selection, acceptance, pre-selection, abandonment, the records of a
group, and commit (02_contract.md R26 to R28, R49 to R67, 07_scheduler.md R176 to R178, 06_backward.md R168, R169).
-/
namespace Sys2Proof.Machine

/-- K reaches no field: both of its landings are lost (1 R17). -/
def kCutOff (s : State) : Bool := s.pwr.kLandingOk.all (fun b => !b)

/-- The master works: bring-up step 9 is done, K reaches the fields and no halter runs. -/
def masterOn (s : State) : Bool :=
  s.boot.done.getLsbD 9 && !kCutOff s && s.hst.halterReq.isNone && s.hst.halterRun.isNone

/-! ### Heads (R27) -/

/-- The head's members: one descriptor, or a whole commit group once every member is fetched. -/
def membersOf : Nat → List Entry → Option (List Entry)
  | 0, _ => some []
  | _, [] => none
  | k + 1, e :: es =>
    if dGroupNext e.words then (match k with
      | 0 => some [e]
      | _ => (membersOf k es).map (fun l => e :: l))
    else some [e]

/-- A later member of the commit group in flight: no head of its ring (R57, R59). -/
def inOpenGroup (s : State) (ring : Nat) (e : Entry) : Bool :=
  match s.master.sel with
  | some sel => decide (sel.ring = ring) && decide (0 < sel.next) && sel.members.any (fun x => x.count = e.count)
  | none => false

/-- Entries of a ring that the master has neither accepted nor rejected. -/
def freshEntries (s : State) (ring : Nat) : List Entry :=
  (ringAt s ring).entries.filter (fun e => (e.st = .fetched || e.st = .waiting) && !inOpenGroup s ring e)

/-- The members of the head of a ring. -/
def headOf (s : State) (ring : Nat) : Option (List Entry) :=
  if (ringAt s ring).en && !(ringAt s ring).stopped then
    (match membersOf 16 (freshEntries s ring) with
      | some (e :: es) => some (e :: es)
      | _ => none)
  else none

/-- The COLLECTIVE, in flight or set aside, whose entry this is. -/
def collOfEntry (s : State) (ring : Nat) (count : Word) : Option Op :=
  (s.master.op.toList ++ s.master.colls).find? (fun o => decide (o.ring = ring) && decide (o.count = count) && o.coll.isSome)

/-- A head whose wait, if any, is satisfied and released, and which is no COLLECTIVE in its readiness exchange. -/
def headReady (s : State) (ring : Nat) : Option (List Entry) :=
  match headOf s ring with
  | some (e :: es) =>
    if e.ended.isNone && (collOfEntry s ring e.count).isNone && (!dWaitEn e.words || e.released) then some (e :: es) else none
  | _ => none

def modEntry (s : State) (ring : Nat) (count : Word) (f : Entry → Entry) : State :=
  modRing s ring (fun r => { r with entries := r.entries.map (fun e => if e.count = count then f e else e) })

/-! ### A head that fails before it is accepted (R49, R59, R61, R67) -/

/-- The records of a group whose first member ends with a status before it is accepted. -/
def failRecords (members : List Entry) (status : Byte) (detail : Word) (gtc : Word64) : List Completion :=
  members.zipIdx.map (fun p =>
    { tag := dTag p.1.words, count := p.1.count, status := if p.2 = 0 then status else stGroupAbandoned,
      group := decide (1 < members.length), replayed := false, detail := if p.2 = 0 then detail else 0, dupChecks := 0, gtc := gtc })

/-- The records are posted together and the ring stops. -/
def endHead (s : State) (ring : Nat) (members : List Entry) (status : Byte) (detail : Word) (gtc : Word64) : State :=
  updAllBanks (ringStops (postCompletions s ring (failRecords members status detail gtc)) ring status false)

/-- The key under which a descriptor's collective is numbered, where it names a communicator. -/
def entryKey (s : State) (ws : List Word) : Option (Nat × Nat × Nat) :=
  if dOpcode ws = 12 && dVariant ws ≤ 5 && decide (bits (dParam ws 0).toNat 15 0 < 256) then
    some (collKey (bits (dParam ws 0).toNat 15 0) (dVariant ws)
      (BitVec.ofNat 48 (readNat (readByte s) (commListAddr s ws + 8 * (dParam ws 1).toNat) 6)))
  else none

/-- COLLECTIVEs that end without having been reached take their numbers with them (R388). -/
def passColls (s : State) (es : List Entry) : State :=
  es.foldl (fun acc e => match entryKey acc e.words with
    | some k => setColl acc k (nextColl acc k + 1)
    | none => acc) s

/-- Records of one ring are posted in ring order (R67): a head that ends while an earlier entry of its ring is uncompleted
keeps its end until that entry has its record. DESIGN CHOICE, log entry 130. -/
def closeHead (s : State) (ring : Nat) (members : List Entry) (status : Byte) (detail : Word) : State :=
  match members, (ringAt s ring).entries with
  | m :: _, e :: _ =>
    if m.count = e.count then endHead s ring members status detail (gtcNs s)
    else modEntry s ring m.count (fun x => { x with ended := some (status, detail, gtcNs s) })
  | _, _ => s

/-- A head ends before it is accepted. -/
def failHead (s : State) (ring : Nat) (members : List Entry) (status : Byte) (detail : Word) : State :=
  closeHead (passColls s members) ring members status detail

/-- The record that an entry at the front of its ring has been owing. -/
def settleHead (s : State) (ring : Nat) : State :=
  match (ringAt s ring).entries with
  | e :: es =>
    (match e.ended with
      | some (status, detail, gtc) => endHead s ring ((membersOf 16 (e :: es)).getD [e]) status detail gtc
      | none => s)
  | [] => s

/-! ### The end of an operation or group in flight (R57, R59, R61) -/

/-- Withdraw every tile from the region queues. -/
def clearQueues (s : State) : State := { s with regions := s.regions.map (fun r => { r with queue := [] }) }

/-- The accepted members of the group in flight, the running one last. -/
def acceptedOps (s : State) : List Op := s.master.done ++ s.master.op.toList

def sameOp (a b : Op) : Bool := decide (a.ring = b.ring) && decide (a.count = b.count)

/-- COLLECTIVEs that are Accepted and wait for the one in flight to end. -/
def asideOps (s : State) : List Op := s.master.colls.filter collStarted

/-- Members that are Accepted, and may have written: a COLLECTIVE still in its readiness exchange is not, and has not (R61,
R388). -/
def writtenOps (s : State) : List Op := (acceptedOps s).filter (fun o => !collWaits o)

/-- A COLLECTIVE set aside ends without OK, with its record; its outputs are stale if it was accepted (R61, R64). -/
def endAside (s : State) (o : Op) (status : Byte) (detail : Word) : State :=
  let t := if collStarted o then enterStales s o.outFoots else s
  closeHead (modMaster t (fun m => { m with colls := m.colls.filter (fun x => !sameOp x o) })) o.ring
    ((ringAt s o.ring).entries.filter (fun e => e.count = o.count)) status detail

/-- The records of a group that ends without commit: member `idx` carries the status, every other one GROUP_ABANDONED; each
its own counts (Table 2-10). -/
def groupRecords (s : State) (sel : Selection) (idx : Nat) (status : Byte) (detail : Word) : List Completion :=
  sel.members.zipIdx.map (fun p =>
    let o := (acceptedOps s)[p.2]?
    { tag := dTag p.1.words, count := p.1.count, status := if p.2 = idx then status else stGroupAbandoned,
      group := decide (1 < sel.members.length), replayed := o.elim false (·.replayed),
      detail := if p.2 = idx then detail else 0, dupChecks := o.elim 0 (·.dupChecks), gtc := gtcNs s })

/-- The operation or group in flight ends without OK (R61): its written outputs become stale (R64), the
records are posted together, the ring stops. The footprint of an ADVISED output is that of the format written, as at the
commit that clears it: DESIGN CHOICE, log entry 141. -/
def endGroup (s : State) (idx : Nat) (status : Byte) (detail : Word) : State :=
  match s.master.sel with
  | none => s
  | some sel =>
    if (acceptedOps s).isEmpty then s
    else
      let t := passColls (enterStales s ((writtenOps s).flatMap (fun o => o.outFoots))) (sel.members.drop (acceptedOps s).length)
      let u := keepTiles (postCompletions t sel.ring (groupRecords s sel idx status detail)) (fun _ => false) (fun _ => true)
      updAllBanks (ringStops (modMaster u (fun m => { m with sel := none, op := none, done := [] })) sel.ring status false)

/-- The member that runs, or the one that ran last. -/
def runningIdx (s : State) : Nat := (acceptedOps s).length - 1

/-- The running operation ends without OK. -/
def abandon (s : State) (status : Byte) (detail : Word) : State := endGroup s (runningIdx s) status detail

/-- The operation meets uncorrectable errors at module addresses (R61, R63, R354): their records first, then the
completion that names the first of them. -/
def abandonBad (s : State) (addrs : List Nat) (merge : Bool) : State :=
  let ref := s.master.op.map (opRef s)
  let t := addrs.foldl (fun acc a => countBad (markBad acc a) a) s
  let p := postReadErrs t addrs ref merge
  abandon p.1 stUncorrectable (p.2.getD 0)

/-- The error record of a failed unit and the end of member `idx` that needed it (R202, R355). -/
def abandonUnitAt (s : State) (idx : Nat) (kind : UnitKind) (unit : Nat) : State :=
  if (acceptedOps s).isEmpty then s
  else
    let seq := nextErrSeq s
    let t := postError s { noErr with kind := 7, unitKind := kind, unit := unit, op := ((acceptedOps s)[idx]?).map (opRef s) }
    endGroup t idx stUncorrectable (seq.getD 0)

def abandonUnit (s : State) (kind : UnitKind) (unit : Nat) : State := abandonUnitAt s (runningIdx s) kind unit

/-- A COLLECTIVE set aside needed a unit that failed. -/
def abandonAside (s : State) (o : Op) (kind : UnitKind) (unit : Nat) : State :=
  let seq := nextErrSeq s
  let t := postError s { noErr with kind := 7, unitKind := kind, unit := unit, op := some (opRef s o) }
  endAside t o stUncorrectable (seq.getD 0)

def setOp (s : State) (f : Op → Op) : State := modMaster s (fun m => { m with op := m.op.map f })

/-- What an access meets (R204, R212, R235, R236, R244, R245): it goes on, it waits, or the operation in flight ends. -/
def accessMeets (s : State) (access : AccessEnd) (merge : Bool) (out inside : State → State) : State :=
  match access with
  | .ok => out s
  | .waits => s
  | .failed m => abandonUnit s .stack m
  | .bad addrs => abandonBad s addrs merge
  | .bound => abandon (inside s) stBound 0

/-- Reads of the operation in flight: what follows them once they are served. -/
def readNow (s : State) (spans : List Interval) (reads : ReadOutcome) (after : State → State) : State :=
  accessMeets s (readAccess s spans reads.uncorrectable) false (fun t => after (noteReads t reads)) (fun t => t)

/-- Bytes written with what their merges read back; reads that meet the write return what stood there before (R220). -/
def putCells (s : State) (cells : List Host.Cell) (merge : ReadOutcome) : State :=
  let addrs := cells.map (·.1)
  writeCells (healUnits (keepBefore (noteReads s merge) addrs) addrs) cells

/-- The reads of merges among those of a command: those of the words and codewords that the cells lie in. -/
def mergesOf (merge : ReadOutcome) (cells : List Host.Cell) : ReadOutcome := outcomeOf merge (cells.map (fun c => (c.1, c.1)))

/-- The running operation writes bytes at once, merged with what its part writes read back. -/
def writeNow (s : State) (cells : List Host.Cell) (merge : ReadOutcome) (after : State → State) : State :=
  let m := mergesOf merge cells
  accessMeets s (writeAccess s (cells.map (·.1)) m.uncorrectable) true
    (fun t => after (putCells t (cells ++ mergeTurned t cells m) m)) (fun t => putCells t (cells.filter (fun c => reached s c.1)) m)

/-! ### Waits (R49, R190, R192, R194) -/

/-- A descriptor with WAIT_EN has become head: its early check, and the start of its wait at that moment. An object that
stands at the threshold satisfies it at once. While the clearing of a job that has ended is due or runs, no wait begins: the
next job finds the objects cleared (8 R227). -/
def headUpdate (s : State) (ring : Nat) : State :=
  match headOf s ring with
  | some (e :: es) =>
    if dWaitEn e.words && !e.begun && e.ended.isNone && !s.glb.zeroDue && !s.glb.zeroing then
      if !syncAvailable s (dWaitObj e.words) then
        failHead s ring (e :: es) stBadField (dfWord (opF 88))
      else
        let ok := decide (dWaitThreshold e.words ≤ (syncGet s (dWaitObj e.words)).toNat)
        modEntry s ring e.count (fun x =>
          { x with st := if ok then x.st else .waiting, since := gtcNs s, begun := true, satisfied := ok, released := ok })
    else s
  | _ => s

def updateHeads (s : State) : State := (List.range 16).foldl headUpdate s

/-! ### Selection (R27) -/

/-- The lowest-numbered ring whose head is ready. -/
def readyRing (s : State) : Option (Nat × List Entry) :=
  (List.range 16).findSome? (fun r => (headReady s r).map (fun es => (r, es)))

/-- Bring-up step 9 is done, no halter runs, no job-end zeroing runs and no rebuild is pending: an operation may be
selected and accepted. -/
def mayRun (s : State) : Bool := masterOn s && !s.glb.zeroing && !s.glb.zeroDue && s.master.recovery.isNone && !s.clk.asleep

/-- A new operation may start: the module is not on its way into deep sleep (11 R273); a group in flight goes on. -/
def mayStart (s : State) : Bool := mayRun s && !s.clk.entering

/-- Take the next head: a pre-selected one first (R178). -/
def selectNext (s : State) : State :=
  match s.master.sel with
  | some _ => s
  | none =>
    match s.master.preSel with
    | some p => modMaster s (fun m => { m with sel := some { p with next := 0 }, preSel := none })
    | none =>
      match readyRing s with
      | some (r, es) => modMaster s (fun m => { m with sel := some { ring := r, members := es, next := 0 } })
      | none => s

/-- Work already placed on a region: a share of an operation or a tile (R325). -/
def placedWork (s : State) (r : Nat) : Bool :=
  (s.master.done ++ placedOps s).any (fun o => o.share.any (fun x => decide (x.region = r))) ||
    (s.master.tiles ++ s.master.preTiles).any (fun t => decide (t.region = r))

/-- Nothing is accepted and uncommitted, a COLLECTIVE set aside included: an operation boundary (R224). -/
def atBoundary (s : State) : Bool := (writtenOps s).isEmpty && (asideOps s).isEmpty

/-- A region leaves the weave at this boundary: marked for heat with no placed work, made not live by a session, or under
CAP_POLICY with two lost phases (R224, R298, R325, R366). -/
def leavesNow (s : State) (r : Nat) : Bool :=
  (regionAt s r).live && (((regionAt s r).heatPending && !placedWork s r) || (regionAt s r).leavePending ||
    (s.pwr.capPolicy && decide (popcount (regionAt s r).phaseLost.toNat 12 = 2)))

/-- Acceptance waits for the regions that leave at the boundary (R224). -/
def boundaryClear (s : State) : Bool := !atBoundary s || (List.range 96).all (fun r => !leavesNow s r)

/-! ### Acceptance (R49, R110 to R116, R121) -/

/-- The first acceptance of a job (R410): the job begins, GLB_NAN_SQUASH clears (R75) and the sampler is seeded (R356). -/
def jobBegins (s : State) : State :=
  if s.hst.active then s
  else
    let t := modHst s (fun h => { h with active := true })
    let u := modGlb t (fun g => { g with nanSquash := 0 })
    let d := Sys2Proof.Config.firstDuplicateStart % 96
    modMaster u (fun m => { m with seed := gtcNs s, draws := 0, dupNext := d })

/-- An acceptance: the job begins with the first, and GLB_DUP_CTRL takes effect (15 R372). -/
def acceptance (s : State) : State :=
  modMaster (jobBegins s) (fun m => { m with rateInForce := s.glb.dupRate, repeatInForce := s.glb.dupRepeat })

/-- A new advisor statistic for every ADVISED output (R167). -/
def newAdvStats (o : Op) : List AdvStat :=
  (o.outputs.filter (·.advised)).map (fun t =>
    { slot := t.advisor, run := 0, fmt := t.format, amax := 0, count := 0, nf := 0, bins := List.replicate 16 0 })

/-- Frozen rows of a masked product (R162). -/
def frozenRows (o : Op) : List Nat := if o.masked then (List.range (gemmM o)).filter (fun m => !o.trainable.contains m) else []

/-- Place an operation over the regions that take tiles (R110 to R116, R141). -/
def placeOp (s : State) (o : Op) : Op :=
  let ts := takers s
  let p := sized o ts
  let or := orientOf s p ts
  { p with
    orient := or
    share := sharesOf p or ts
    placed := true
    frozenLeft := !(frozenRows o).isEmpty
    advStats := newAdvStats o
    advParts := [] }

/-- What opens the acceptance of member `idx`. -/
def openMember (s : State) (idx : Nat) : State := if idx = 0 then startGroup s else s

def earlierFoots (s : State) (idx : Nat) : List Interval := if idx = 0 then [] else s.master.done.flatMap inFootsC

def unrun (x : Share) : Share := { x with run := 0 }

/-- The pre-selected operation, when it is this one as placed now: same tensors, same rows, same work (R177, R178). -/
def keptPre (s : State) (o : Op) : Option Op :=
  s.master.pre.filter (fun p => decide (p.ring = o.ring) && decide (p.count = o.count) && p.dealt && decide (p.orient = o.orient) &&
    decide (p.share.map unrun = o.share) && decide (p.slots = o.slots) && decide (p.trainable = o.trainable))

/-- A member passes its checks and becomes Accepted. Work dealt ahead is kept with its tiles and loads (R184); the next entry
of the ring may become its head. -/
def takeMember (s : State) (sel : Selection) (e : Entry) (o : Op) : State :=
  let t := modEntry (acceptance s) sel.ring e.count (fun x => { x with st := .accepted })
  let placed := placeOp s o
  let next : Selection := { sel with next := sel.next + 1 }
  let u := match keptPre s placed with
    | some p => modMaster t (fun m =>
        { m with
          sel := some next
          op := some { placed with dealt := true, share := p.share }
          tiles := m.preTiles
          pre := none
          preTiles := [] })
    | none => modMaster (dropPre t) (fun m => { m with sel := some next, op := some placed, tiles := [] })
  headUpdate (updAllBanks u) sel.ring

/-! ### Is the current operation finished? -/

/-- A tile whose work is over: verified, or a copy that was compared. -/
def tileDone (t : Tile) : Bool :=
  match t.role with
  | .original => t.st = .verified
  | _ => true

/-- Everything of the operation is written, drained and verified, and no re-placement is due (R54). -/
def opVerified (s : State) (o : Op) : Bool :=
  s.master.recovery.isNone &&
    (match o.coll with
      | some c => c.done && !c.stalled
      | none =>
        if hasTiles o then o.dealt && !o.frozenLeft && s.master.tiles.all tileDone
        else o.opcode ≠ 15 || o.dealt)

/-- The record of a CAPQUERY is written when the member runs, so that later members of its group see it (R47, R56): 256 bytes
at an address that is a multiple of 64, whole words and codewords that no read is merged with (R204, R235). -/
def runRecord (s : State) : State :=
  match s.master.op with
  | some o =>
    if o.opcode = 15 && !o.dealt then
      writeNow s (cellsAt (o.td 3 0).base o.capRecord) ReadOutcome.clean (fun t => setOp t (fun x => { x with dealt := true }))
    else s
  | none => s

/-- The current member, drained and verified inside a group, stands until the group's commit (R56, R60). -/
def closeMember (s : State) : State :=
  let s := runRecord s
  match s.master.sel, s.master.op with
  | some sel, some o =>
    if sel.next < sel.members.length && opVerified s o then
      updAllBanks (modMaster (keepTiles s (fun _ => false) (fun _ => true)) (fun m => { m with op := none, done := m.done ++ [o] }))
    else s
  | _, _ => s

/-- The whole selection has run and is verified. -/
def readyToCommit (s : State) : Bool :=
  match s.master.sel, s.master.op with
  | some sel, some o => decide (sel.next = sel.members.length) && opVerified s o
  | _, _ => false

/-! ### CAPQUERY (R47) -/

def variantCode (s : State) : Nat := if s.fuses.orderCode ≤ 2 then 25 else if s.fuses.orderCode ≤ 4 then 23 else 21

/-- Links fitted and not capped (Table 14-12). -/
def linkFitted (code l : Nat) : Bool :=
  match code with
  | 1 => decide (l % 24 < 16)
  | 3 => decide (l < 48)
  | 4 => decide (l < 48) && decide (l % 24 < 16)
  | 6 => decide (l % 24 < 16)
  | _ => true

def capRecord (s : State) : List Byte :=
  let live := liveRegions s
  natBytes 2 3 ++ natBytes 2 0 ++ natBytes 4 (variantCode s) ++ natBytes 8 0xFF ++ natBytes 4 live.length ++
  natBytes 4 ((live.map (fun r => widthOf (regionAt s r))).foldl (· + ·) 0) ++ natBytes 8 (dramBytes s) ++
  natBytes 2 ((List.range 96).filter (linkFitted s.fuses.orderCode)).length ++
  natBytes 2 ((s.lnk.links.filter (fun l => l.st = .live2 || l.st = .live1)).length) ++ natBytes 4 65536 ++
  natBytes 4 65536 ++ natBytes 4 (if s.glb.floor then 1 else 0) ++ natBytes 208 0

/-! ### The advisor's update (R167, R168) -/

def advU (s : State) (a n : Nat) : Nat := readNat (memGet s.dram) a n

/-- NEXT after a write. -/
def advDecide (cur pin next : Nat) (st : AdvStat) : Nat :=
  if pin ≠ 0 then (if pin = 1 then 3 else if pin = 2 then 4 else 6)
  else if 0 < st.nf || st.count = 0 then next
  else
    let l4 := ((st.bins.drop 9).take 7).foldl (· + ·) 0
    let l5 := st.bins.getD 15 0
    let t4 := if cur = 3 then 16 else 1
    let t5 := if cur = 3 || cur = 4 then 16 else 1
    if l4 * 65536 ≤ st.count * t4 then 3 else if l5 * 65536 ≤ st.count * t5 then 4 else 6

/-- The 256 bytes of an entry after a committed write. -/
def advEntryBytes (s : State) (st : AdvStat) : List Byte :=
  let a := advEntry s st.slot
  let b0 := advU s a 1
  let b1 := advU s (a + 1) 1
  let next := advDecide st.fmt (bits b1 1 0) (bits b0 3 0) st
  let nonf := if 0 < st.nf then 1 else bits b1 2 2
  natBytes 1 (next + 16 * st.fmt) ++ natBytes 1 (bits b1 1 0 + 4 * nonf) ++ natBytes 2 0 ++
  natBytes 4 (advU s (a + 4) 4 + 1) ++ natBytes 4 st.amax.toNat ++ natBytes 4 0 ++ natBytes 8 st.count ++
  natBytes 8 st.nf ++ st.bins.flatMap (natBytes 8) ++ natBytes 96 0

def advCommit (s : State) (st : AdvStat) : State :=
  { s with dram := memWrite s.dram (cellsAt (advEntry s st.slot) (advEntryBytes s st)) }

/-- The statistics of two parts of one tensor together. -/
def advJoin (a b : AdvStat) : AdvStat :=
  { a with
    amax := f32Max a.amax b.amax
    count := a.count + b.count
    nf := a.nf + b.nf
    bins := a.bins.zipWith (· + ·) b.bins }

/-- The statistics of every ADVISED output, over all runs. -/
def advTotals (o : Op) : List AdvStat := o.advStats.map (fun b => (o.advParts.filter (fun p => p.slot = b.slot)).foldl advJoin b)

/-! ### Commit (R53, R56, R191) -/

def okRecords (sel : Selection) (ops : List Op) (gtc : Word64) : List Completion :=
  sel.members.zipIdx.map (fun p =>
    let o := ops[p.2]?
    { tag := dTag p.1.words, count := p.1.count, status := stOk, group := decide (1 < sel.members.length),
      replayed := o.elim false (·.replayed), detail := 0, dupChecks := o.elim 0 (·.dupChecks), gtc := gtc })

/-! ### Flits that leave (16 R374, R376, R379) -/

/-- The link that carries a plane. -/
def planeLink (s : State) (p : Nat) : Option Nat :=
  (List.range 96).find? (fun l => linkWorks (linkAt s l) && decide ((linkAt s l).plane = some p))

/-- A link sends flits, in order; its retry buffer holds the last 256. -/
def linkSends (fs : List Flit) (x : Link) : Link :=
  { x with txSeq := x.txSeq + fs.length, retry := (x.retry ++ fs).drop ((x.retry ++ fs).length - 256) }

/-- Flits leave, each on its link. -/
def putFlits (s : State) (fs : List (Nat × Flit)) : State :=
  modSide (modLnk s (fun l =>
    { l with links := l.links.zipIdx.map (fun p => linkSends ((fs.filter (fun q => q.1 = p.2)).map (·.2)) p.1) }))
    (fun d => { d with flits := d.flits ++ fs.map (·.2) })

/-- Flits leave on the links of their planes; a plane without a working link carries no traffic (R376). -/
def sendFlits (s : State) (fs : List Flit) : State := putFlits s (fs.filterMap (fun f => (planeLink s f.plane).map (fun l => (l, f))))

/-- A flit of this module to a fabric address. -/
def ownFlit (s : State) (dest : BitVec 48) (type : Byte) (plane comm slot index : Nat) (payload : List Byte) : Flit :=
  { dest := dest, src := s.lnk.coord, type := type, plane := plane, comm := comm, slot := slot, jobTag := s.lnk.jobTag,
    index := index, len := payload.length, payload := payload }

/-- A send's remote add (R46, R392): one SYNC_ADD flit to the peer, on the plane that carried the last of the data. -/
def sendAdd (s : State) (o : Op) : State :=
  if o.opcode = 12 && o.variant = 4 then
    match o.coll with
    | none => s
    | some c =>
      sendFlits s [ownFlit s (c.list.getD (o.param 1).toNat 0) 5 (c.planes.getLastD 0) c.comm 0 0
        (natBytes 2 (bits (o.param 2).toNat 15 0) ++ natBytes 6 0 ++ natBytes 8 (o.param 3).toNat)]
  else s

/-- The first member, in ring order, with an enabled signal whose spine is off (R194). -/
def signalLost (s : State) (members : List Entry) : Option Nat :=
  members.zipIdx.findSome? (fun p =>
    if (dSignals p.1.words).any (fun g => !syncAvailable s g.obj) then some p.2 else none)

/-- Slots of a collective (16 R389). -/
def lastSlot (c : Coll) : Nat := if c.variant = 0 then 2 * c.ranks - 2 else c.ranks - 1

/-- Collectives that commit with slots still to be sent: their z is written, and R393 asks no more; the engine sends what is
left (R389), from the tensors as they stand at the commit (log entry 158). -/
def unsentColls (s : State) (ops : List Op) : List Tail :=
  (ops.filter (fun o => o.coll.elim false (fun c => decide (c.variant ≤ 3) && decide (c.slotNext ≤ lastSlot c)))).map (fun o =>
    { op := o, data := snapshot s (o.inFoots ++ o.outFoots) })

/-- The commit: records, signals, advisor and visibility in one event; then the record of a head that has waited for it. -/
def commitNow (s : State) : State :=
  match s.master.sel with
  | none => s
  | some sel =>
    let ops := acceptedOps s
    let t := ops.foldl (fun acc o => (advTotals o).foldl advCommit acc) s
    let u := applySignals t (sel.members.flatMap (fun e => dSignals e.words))
    let v := ops.foldl sendAdd (clearStale u (ops.flatMap (fun o => o.outFoots)))
    let w := keepTiles (postCompletions v sel.ring (okRecords sel ops (gtcNs s))) (fun _ => false) (fun _ => true)
    settleHead (updAllBanks (modMaster w (fun m => { m with sel := none, op := none, done := [], tail := m.tail ++ unsentColls s ops }))) sel.ring

end Sys2Proof.Machine
end

