-- ==== Sys2Proof/Machine/Tiles.lean ====
section
/-!
DEFINITION. Tiles: sampling and duplicates, queues and scoreboards, what a tile computes at the foot and in the Packer,
and what its Drain writes (04_array.md R101, R112, 05_stages.md R124 to R137, 07_scheduler.md R179 to R184,
15_integrity_faults.md R356 to R361).
-/
namespace Sys2Proof.Machine

/-! ### Tiles of the master -/

def tileAt (s : State) (id : Nat) : Option Tile := (s.master.tiles ++ s.master.preTiles).find? (fun t => t.id = id)

def isPre (s : State) (id : Nat) : Bool := s.master.preTiles.any (fun t => t.id = id)

/-- The operation a tile belongs to. -/
def opOfTile (s : State) (id : Nat) : Option Op := if isPre s id then s.master.pre else s.master.op

/-! ### Sampling (15 R356, R357) -/

/-- Families whose tiles are drawn. -/
def isDrawn (o : Op) : Bool :=
  match o.opcode with
  | 1 | 2 | 3 | 4 | 5 | 6 | 9 | 14 => true
  | 8 => o.variant = 1
  | _ => false

/-- N = 2^RATE, as GLB_DUP_CTRL stood at the last acceptance (15 R372). -/
def dupRateLog (s : State) : Nat :=
  let r := s.master.rateInForce.toNat
  if r < 6 then 6 else if 12 < r then 12 else r

/-- The rows of a tile's stationary operand take the stakes: the exchanged orientation of a GEMM or of an attention's first
pass (R110, R143). -/
def rowsOnStakes (o : Op) (t : Tile) : Bool := (t.kind = .array && o.orient = .exchanged) || (t.kind = .attn1 && o.scoresEx)

/-- Stakes a tile takes. -/
def tileStakes (o : Op) (t : Tile) : Nat := if rowsOnStakes o t then t.rows else t.cols

/-- Regions a copy of tile t may run on (R357): live, held by no session, not marked for heat, not in the fields named,
and wide enough for an array tile. -/
def eligible (s : State) (o : Op) (t : Tile) (fields : List Nat) (r : Nat) : Bool :=
  (regionAt s r).pubLive && (regionAt s r).live && !sessionHolds s r && !(regionAt s r).heatPending &&
    !fields.contains (fieldOf r) &&
    (t.kind = .bypass || decide (tileStakes o t ≤ widthOf (regionAt s r)))

/-- The first eligible region after the last one chosen, in region order. -/
def nextEligible (s : State) (o : Op) (t : Tile) (fields : List Nat) : Option Nat :=
  ((List.range 96).map (fun k => (s.master.dupNext + k) % 96)).find? (eligible s o t fields)

/-- A copy of a tile on another region, not started. -/
def copyTile (id region : Nat) (role : TileRole) (t : Tile) : Tile :=
  { t with
    id := id
    region := region
    role := role
    st := .dealt
    arr := .outside
    sampled := false
    voting := false
    buf := 0
    statGen := 0
    strmGen := 0
    invalid := false
    snap := []
    inPlace := []
    foot := []
    arrived := false
    checksum := none
    squash := 0 }

/-- One draw, in dealing order: the tile, marked when it is sampled, with its duplicate. -/
def drawTile (s : State) (o : Op) (t : Tile) (pre : Bool) : State :=
  let put (u : State) (ts : List Tile) : State :=
    modMaster u (fun m => if pre then { m with preTiles := m.preTiles ++ ts } else { m with tiles := m.tiles ++ ts })
  if !isDrawn o then put s [t]
  else
    let v := Sys2Proof.Config.drawBits s.master.seed s.master.draws
    let u := modMaster s (fun m => { m with draws := m.draws + 1 })
    if v.toNat * 2 ^ dupRateLog s < 2 ^ 32 then
      (match nextEligible u o t [fieldOf t.region] with
        | some r =>
          let n := u.master.nextTile
          put (modMaster u (fun m => { m with nextTile := n + 1, dupNext := r + 1 }))
            [{ t with sampled := true }, copyTile n r (.duplicate t.id) t]
        | none => put (modGlb u (fun g => { g with skipped := capAdd top16 g.skipped 1 })) [t])
    else put u [t]

/-- Deal a list of numbered shares: number the tiles, draw each tile. -/
def dealShares (s : State) (o : Op) (shares : List Share) (pre : Bool) : State :=
  let ts := numberTiles o o.orient shares s.master.nextTile
  let u := modMaster s (fun m => { m with nextTile := m.nextTile + ts.length, nextRun := m.nextRun + shares.length })
  ts.foldl (fun acc t => drawTile acc o t pre) u

/-! ### Queues (R181) -/

def leaveQueue (s : State) (t : Tile) : State :=
  refillRegion (modRegion s t.region (fun x => { x with queue := x.queue.filter (fun q => q ≠ t.id) })) t.region

/-! ### Frozen rows of a masked product (R162) -/

/-- +0 in every element of a frozen row, E = 0x7F in every MX block that lies wholly in frozen rows. -/
def frozenWrites (o : Op) : List BitWrite :=
  let z := o.td 3 0
  (frozenRows o).flatMap (fun m => (List.range z.dim0).flatMap (fun n =>
    let i : Idx := ⟨n, m, 0, 0⟩
    elemWrite z z.format i 0 ::
      (if isMx z && (blockIdx z i).head? = some i then [scaleWrite z i 127] else [])))

/-! ### Applying bit writes -/

/-- The bytes a list of bit writes leaves, from what stands at their addresses. -/
def cellsOf (rd : Nat → Byte) (ws : List BitWrite) : List Host.Cell :=
  ws.foldl (fun acc w =>
    (bitWriteAddrs w).foldl (fun l a =>
      let old := ((l.find? (fun c => c.1 = a)).map (·.2)).getD (rd a)
      (a, applyBit a old w) :: l.filter (fun c => c.1 ≠ a)) acc) []

/-! ### The rows of a tile -/

/-- The rows of a tile in the order they leave the foot, each with its (work row, column) places: rows of the output, and in
the exchanged orientation columns of it (R102, R110). -/
def tileLines (o : Op) (t : Tile) : List (List (Nat × Nat)) :=
  if rowsOnStakes o t then
    (List.range t.cols).map (fun c => (List.range t.rows).map (fun r => (t.row0 + r, t.col0 + c)))
  else (List.range t.rows).map (fun r => (List.range t.cols).map (fun c => (t.row0 + r, t.col0 + c)))

def tilePairs (o : Op) (t : Tile) : List (Nat × Nat) := (tileLines o t).flatten

/-- Index of D. -/
def dIdx (o : Op) (batch m n : Nat) : Idx := ⟨n, m, batch % (o.td 3 0).dim2, batch / (o.td 3 0).dim2⟩

/-- The work row of row m of D. -/
def workRow (o : Op) (m : Nat) : Nat := if o.masked then o.trainable.findIdx (fun x => x = m) else m

/-- Head and batch of a batch-and-head pair of query heads. -/
def waveHead (o : Op) (w : Nat) : Nat := w % attnHeads o
def waveBatch (o : Op) (w : Nat) : Nat := w / attnHeads o

/-- The index in its output of row m, column n of a second-pass tile: key heads for dK and dV, query heads else. -/
def attnIdx (o : Op) (t : Tile) (m n : Nat) : Idx :=
  let heads := if o.variant ≠ 0 && t.out ≠ 0 then attnHeadsK o else attnHeads o
  ⟨n, m, t.batch % heads, t.batch / heads⟩

/-! ### The stored blocks of ATTN -/

/-- The stored P row of a query (R144, R145). -/
def pRow (o : Op) (w i : Nat) : List PPack :=
  (List.range (attnBlocks o)).map (fun b =>
    ((o.pBlocks.find? (fun x => decide (x.batch = w) && decide (x.i = i) && decide (x.blk = b))).map
      (fun x => ({ codes := x.codes.map (·.toNat), scale := x.scale.toNat, mb := x.mb, squash := 0 } : PPack))).getD
        { codes := [], scale := 127, mb := f32Inf true, squash := 0 })

def rowMaxOf (o : Op) (w i : Nat) : F32 :=
  ((o.rowMax.find? (fun x => decide (x.1 = w) && decide (x.2.1 = i))).map (·.2.2)).getD (f32Inf true)

/-- P or dS of head h, query i, key k as the first pass left it; +0 for a place no tile forms (step 4 and 6 of masked entries). -/
def scoreAt (o : Op) (b : Nat) (f : ScoreEl → F32) : ScoreFn := fun h i k =>
  ((o.scores.find? (fun x => decide (x.batch = b * attnHeads o + h) && decide (x.i = i) && decide (x.k = k))).map f).getD 0

/-- What packing P along j, and dS along k and along j, adds to GLB_NAN_SQUASH for row i of a head and key k: each block
counts at its first element (R83, R158). Blocks that no step of R157 packs do not count (log entry 156); those of a re-packed K, Q or
dO are counted by `repackSquash` (log entry 157). -/
def bwdCounts (rd : Nat → Byte) (o : Op) (b h i k : Nat) : Nat :=
  let e := h / attnG o
  let j := (attnLq o - 1 - i) * attnG o + h % attnG o
  let col (vs : List F32) : Nat := packCount (((vs.take (bwdK o k)).drop j).take 32)
  (if k % 32 = 0 then packCount ((keysOf o (k / 32)).map (bwdDS rd o (bwdRow rd o b h i) b h i)) else 0) +
    (if j % 32 = 0 then col (scoreCol o e k (bwdPAt rd o b)) + col (scoreCol o e k (bwdDSAt rd o b)) else 0)

/-- The blocks of row r of a first-pass tile. -/
def tileBlocks (t : Tile) : List Nat := (List.range (ceilDiv t.cols 32)).map (fun b => t.col0 / 32 + b)

def scorePack (rd : Nat → Byte) (o : Op) (t : Tile) (r blk : Nat) : PPack :=
  attnPack rd o (waveBatch o t.batch) (waveHead o t.batch) (t.row0 + r) blk

/-- Block blk of query row i holds an unmasked key: only such a block is packed in variant 1 (R157 step 2), and only such a one
counts in either, since how many others the tiles of a weave take in is the placement's (R75): DESIGN CHOICE for variant 0, log
entry 156. -/
def blockUnmasked (o : Op) (i blk : Nat) : Bool := !attnCausal o || decide (32 * blk ≤ i + attnDelta o)

/-- What the blocks of a first-pass tile add to GLB_NAN_SQUASH: of P, those with a key that the mask leaves (log entry 156). -/
def scoreSquash (rd : Nat → Byte) (o : Op) (t : Tile) : Nat :=
  ((List.range t.rows).map (fun r =>
    (((tileBlocks t).filter (blockUnmasked o (t.row0 + r))).map (fun b => (scorePack rd o t r b).squash)).foldl (· + ·) 0 +
      (if o.variant = 0 then 0
       else ((List.range t.cols).map (fun c =>
          bwdCounts rd o (waveBatch o t.batch) (waveHead o t.batch) (t.row0 + r) (t.col0 + c))).foldl (· + ·) 0))).foldl (· + ·) 0

/-! ### What a tile forms at the foot (R97 to R105) -/

/-- The contraction whose chunk a tile forms for row m, column n. -/
def tileArgs (rd : Nat → Byte) (o : Op) (t : Tile) (m n : Nat) : DotArgs :=
  match t.kind with
  | .attn1 =>
    let h := waveHead o t.batch
    rowDot rd (attnQ o) (attnK o) (fun c => attnAt (attnTrQ o) c m h (waveBatch o t.batch))
      (fun c => attnAt (attnTrK o) c n (h / attnG o) (waveBatch o t.batch)) (attnD o)
  | .attn2 =>
    if o.variant = 0 then attnArgs2 rd o (pRow o t.batch m) (waveBatch o t.batch) (waveHead o t.batch) m n
    else
      let i := attnIdx o t m n
      bwdArgs rd o (scoreAt o i.i3 (·.p)) (scoreAt o i.i3 (·.ds)) t.out i
  | _ => gemmArgs rd o t.batch (gemmRow o m) n

/-- The rate class of a tile's operands (R84, R103). -/
def tileRate (o : Op) (t : Tile) : Rate :=
  match t.kind with
  | .attn1 => (rateOf (attnQ o).format (attnK o).format).getD .once
  | .attn2 =>
    if o.variant = 0 then (rateOf 3 (attnV o).format).getD .once
    else (rateOf 3 (if t.out = 0 then (attnK o).format else if t.out = 1 then (attnQ o).format else (bwdTd o 1).format)).getD .once
  | _ => gemmRate o

/-- The number of chunks row m of an output is contracted over. -/
def rowChunks (o : Op) (out m : Nat) : Nat :=
  if o.opcode ≠ 3 then gemmChunks o
  else if o.variant = 0 then ceilDiv (attnKeys o m) (attnKc2 o)
  else ceilDiv (if out = 0 then attnKeys o m else bwdK o m) bwdKc

def tileFootVal (rd : Nat → Byte) (o : Op) (t : Tile) (p : Nat × Nat) : FootVal :=
  if t.kind = .array && gemmInt o then .int (dotChunkInt (tileArgs rd o t p.1 p.2) (tileRate o t).kc t.chunk)
  else .f32 (dotChunk (tileArgs rd o t p.1 p.2) (tileRate o t).kc t.chunk)

/-- The foot values of a tile, foot row by foot row; of a first-pass tile the codes its Packer makes of them. -/
def tileFoot (rd : Nat → Byte) (o : Op) (t : Tile) : List FootVal :=
  match t.kind with
  | .bypass => []
  | .attn1 => (List.range t.rows).flatMap (fun r =>
      (tileBlocks t).flatMap (fun b => (scorePack rd o t r b).codes.map (fun c : Nat => FootVal.int (c : Int))))
  | _ => (tilePairs o t).map (tileFootVal rd o t)

/-- Block n of row r of a first-pass tile, with the codes as they left the Packer. -/
def tilePack (rd : Nat → Byte) (o : Op) (t : Tile) (r n : Nat) : PPack :=
  let codes := (t.foot.drop (r * t.cols + 32 * n)).take (min 32 (t.cols - 32 * n))
  { scorePack rd o t r (t.col0 / 32 + n) with codes := codes.map (fun v => match v with
      | .int i => (i % 256).toNat
      | .f32 _ => 0) }

/-- The P blocks of a first-pass tile of variant 0 (R144). -/
def pBlocksOf (rd : Nat → Byte) (o : Op) (t : Tile) : List PBlock :=
  (List.range t.rows).flatMap (fun r => (List.range (tileBlocks t).length).map (fun n =>
    let p := tilePack rd o t r n
    { batch := t.batch, i := t.row0 + r, blk := t.col0 / 32 + n, codes := p.codes.map (fun c => BitVec.ofNat 8 c),
      scale := BitVec.ofNat 8 p.scale, mb := p.mb, rewritten := false }))

/-- P and dS of a first-pass tile of variant 1 (steps 3 to 6): its blocks take the place of those of its rows. -/
def scoresOf (rd : Nat → Byte) (o : Op) (t : Tile) : List ScoreEl :=
  let h := waveHead o t.batch
  let b := waveBatch o t.batch
  (List.range t.rows).flatMap (fun r =>
    let i := t.row0 + r
    let raw := (List.range (attnBlocks o)).map (attnPack rd o b h i)
    let mhat := bwdStat rd o 0 b h i
    let bad := f32Bad mhat || raw.any (fun p => f32Bad p.mb)
    let own (x : PPack × Nat) : PPack :=
      if (tileBlocks t).contains x.2 then tilePack rd o t r (x.2 - t.col0 / 32) else x.1
    let ps := raw.zipIdx.map (fun x => attnRewrite mhat bad (own x))
    (List.range t.cols).map (fun c =>
      { batch := t.batch, i := i, k := t.col0 + c, p := bwdP rd o ps b h i (t.col0 + c), ds := bwdDS rd o ps b h i (t.col0 + c) }))

/-- An upset of the arithmetic: XOR into the code of one foot value. -/
def upsetFoot (vs : List FootVal) (ups : List (Nat × Word)) : List FootVal :=
  vs.zipIdx.map (fun p => ups.foldl (fun v u =>
    if u.1 = p.2 then (match v with
      | .f32 x => .f32 (x ^^^ u.2)
      | .int i => .int (i + (u.2.toNat : Int))) else v) p.1)

/-! ### The stationary banks (R94 to R99, R103, R107) -/

/-- The live physical stakes in ascending order: logical stakes 0, 1, ... (R95, Table 4-3). -/
def liveStakes (map : BitVec 512) : List Nat := (List.range 512).filter (fun k => !map.getLsbD k)

/-- The physical stake of logical stake n. -/
def physStake (map : BitVec 512) (n : Nat) : Option Nat := (liveStakes map)[n]?

/-- The row and the product slot of chunk-local K index k (Table 4-2). -/
def Rate.row : Rate → Nat → Nat
  | .twice, k => k / 2
  | _, k => k
def Rate.slot : Rate → Nat → Nat
  | .twice, k => k % 2
  | _, _ => 0

/-- The chunk-local K indices of a row: one for each product slot. -/
def Rate.indices : Rate → Nat → List Nat
  | .twice, r => [2 * r, 2 * r + 1]
  | _, r => [r]

/-- The rows of K-block b: the first and their number (Table 4-2). -/
def Rate.blockRows : Rate → Nat → Nat × Nat
  | .twice, b => (16 * b, 16)
  | _, b => (32 * b, 32)

/-- The row of a tile with the longest contraction: the last, and the first of dK and dV, whose contraction shortens with the
key (R146, R158). -/
def deepRow (o : Op) (t : Tile) : Nat :=
  if t.kind = .attn2 && o.variant ≠ 0 && t.out ≠ 0 then t.row0 else t.row0 + t.rows - 1

/-- The stationary operand of a tile: value and scale of column c at K index k, the same for every row that contracts so far. In
the exchanged orientation the rows of A take the stakes (R110). -/
def stationary (rd : Nat → Byte) (o : Op) (t : Tile) (c k : Nat) : Val × Nat :=
  if rowsOnStakes o t then
    let d := tileArgs rd o t (t.row0 + c) t.col0
    (d.a k, d.ea k)
  else
    let d := tileArgs rd o t (deepRow o t) (t.col0 + c)
    (d.b k, d.eb k)

/-- K indices of a tile's chunk. -/
def tileKs (rd : Nat → Byte) (o : Op) (t : Tile) : List Nat :=
  let kc := (tileRate o t).kc
  let k := (tileArgs rd o t (deepRow o t) t.col0).k
  (List.range (min kc (k - t.chunk * kc))).map (fun i => t.chunk * kc + i)

/-- A row as it is loaded (R97): no K index beyond K, the scales with the first row of each K-block. -/
def loadRow (rd : Nat → Byte) (o : Op) (t : Tile) (r : Nat) : ArrayRow :=
  let c := tileRate o t
  let ks := (c.indices r).filterMap (fun i => (tileKs rd o t)[i]?)
  let cols := List.range (tileStakes o t)
  { vals := cols.map (fun n => ks.map (fun k => (stationary rd o t n k).1))
    scales := if r % (c.blockRows 0).2 = 0 then cols.map (fun n => ((ks.head?).map (fun k => (stationary rd o t n k).2)).getD 127) else [] }

/-- The stationary load of a tile (R97): its rows in ascending order, its stakes valid. -/
def loadedBank (rd : Nat → Byte) (o : Op) (t : Tile) (map : BitVec 512) : CellBank :=
  let rows := ((tileKs rd o t).map (fun k => (tileRate o t).row (k - t.chunk * (tileRate o t).kc))).eraseDups
  { tile := some t.id
    stakes := ((liveStakes map).take (tileStakes o t)).foldl (fun m k => m ||| BitVec.ofNat 512 (2 ^ k)) 0
    rows := rows.map (loadRow rd o t) }

/-- The bank of row 0 that receives loads; between swaps it is that of every row. -/
def shadowBank (x : Region) : Nat := if x.working.getLsbD 0 then 0 else 1

/-- Tiles of a region in one phase of the array. -/
def inPhase (s : State) (r : Nat) (p : ArrPhase) : List Tile :=
  s.master.tiles.filter (fun t => decide (t.region = r) && t.st = .issued && t.arr = p)

/-- Another tile's load lies in the shadow bank of the region (R98). That of a pre-selected tile gives way to a tile of the
current operation (log entry 154). -/
def shadowTaken (s : State) (t : Tile) : Bool :=
  (s.master.tiles ++ (if isPre s t.id then s.master.preTiles else [])).any (fun x =>
    decide (x.region = t.region) && decide (x.id ≠ t.id) && x.arr = .shadow)

/-- The load of a pre-selected tile that lay in the shadow bank is lost to another tile. -/
def yieldShadow (s : State) (t : Tile) : State :=
  modMaster s (fun m => { m with preTiles := m.preTiles.map (fun x =>
    if x.region = t.region && x.id ≠ t.id && x.arr = .shadow then { x with arr := .outside } else x) })

/-- A tile's stationary load goes into the shadow bank (R97, R98). -/
def loadShadow (s : State) (o : Op) (t : Tile) : State :=
  modRegion (modTile (yieldShadow s t) t.id (fun x => { x with arr := .shadow })) t.region (fun x =>
    { x with banks := x.banks.modify (shadowBank x) (fun _ => loadedBank (memGet t.snap) o t x.pubMap) })

/-- Beats pass in the array of a region: the working tile presents its last vector and frees its streaming buffer; the tile
in the shadow bank, loaded, frees its stationary buffer and swaps in (R99, R182). Its rows exchange their banks in this
command; the beat of each is timing (log entry 145). -/
def advanceArray (s : State) (r : Nat) : State :=
  let u := (inPhase s r .working).foldl (fun acc t => modTile (releaseStrm acc t) t.id (fun x => { x with arr := .passed })) s
  (inPhase s r .shadow).foldl (fun acc t =>
    modRegion (modTile (releaseStat acc t) t.id (fun x => { x with arr := .working })) r (fun x => { x with working := ~~~ x.working })) u

/-- A tile enters the array: its load, unless it lies in the shadow bank already (R96), and the swap at once where no tile
streams. -/
def enterArray (s : State) (o : Op) (t : Tile) : State :=
  let u := if t.arr = .shadow then s else loadShadow s o t
  if (inPhase s t.region .working).isEmpty then advanceArray u t.region else u

/-! ### Trees (R112, R127, R128) -/

def sameVal (t : Tile) (m n : Nat) (x : TreeVal) : Bool :=
  decide (x.out = t.out) && decide (x.batch = t.batch) && decide (x.m = m) && decide (x.n = n)

/-- Put a node to the value at row m, column n of a tile's output. -/
def putNode (t : Tile) (m n : Nat) (ins : List Node → List Node) (vs : List TreeVal) : List TreeVal :=
  if vs.any (sameVal t m n) then vs.map (fun x => if sameVal t m n x then { x with nodes := ins x.nodes } else x)
  else vs ++ [{ out := t.out, batch := t.batch, m := m, n := n, nodes := ins [] }]

/-- Put a tile's chunk results into the tree; a row whose contraction ends before the chunk has none. In the exchanged
orientation the copies of the home tile have them too (15 R359). -/
def treePut (o : Op) (t : Tile) : Op :=
  (tilePairs o t).zipIdx.foldl (fun acc p =>
    let n := rowChunks o t.out p.1.1
    let node : Node := { level := 0, idx := t.chunk, val := t.foot.getD p.2 (.f32 0) }
    if n ≤ t.chunk then acc
    else
      { acc with
        tree := putNode t p.1.1 p.1.2 (fun ns => treeInsert n 64 ns node) acc.tree
        leaves := if o.orient = .exchanged then putNode t p.1.1 p.1.2 (fun ns => node :: ns) acc.leaves else acc.leaves }) o

/-- The reduced value of row m, column n of a tile's output; none while a chunk is missing. -/
def treeVal (o : Op) (t : Tile) (m n : Nat) : Option FootVal :=
  match o.tree.find? (sameVal t m n) with
  | some x => treeRoot (rowChunks o t.out m) x.nodes
  | none => none

/-- The tile completes its values: the last chunk of a run, or chunk 0 of a group at its home (R112). -/
def tileCompletes (o : Op) (t : Tile) : Bool :=
  match t.kind with
  | .array => if o.orient = .exchanged then t.chunk = 0 else t.chunk + 1 = gemmChunks o
  | .attn1 => false
  | .attn2 => t.chunk + 1 = rowChunks o t.out (deepRow o t)
  | .bypass => true

/-- The work rows that a block along DIM1 takes with row m of a second-pass tile. -/
def blockRowsOf (o : Op) (t : Tile) (m n : Nat) : List Nat :=
  if (o.td 3 t.out).layout = 2 then (blockIdx (o.td 3 t.out) (attnIdx o t m n)).map (·.i1) else [m]

/-- Every value a completing tile needs is in the tree: for ATTN the column of row sums and the rows of its blocks too. -/
def tileReady (o : Op) (t : Tile) : Bool :=
  if !tileCompletes o t then true
  else
    match t.kind with
    | .array => (tilePairs o t).all (fun p => (treeVal o t p.1 p.2).isSome)
    | .attn2 => (tilePairs o t).all (fun p => (blockRowsOf o t p.1 p.2).all (fun m =>
        (treeVal o t m p.2).isSome && (o.variant ≠ 0 || (treeVal o t m (attnD o)).isSome)))
    | _ => true

/-- Statistics blocks of a row that are in (R133). -/
def statsIn (o : Op) (t : Tile) : Bool :=
  !o.has 4 || !o.isArray || t.col0 ≠ 0 || !tileCompletes o t ||
    (List.range t.rows).all (fun r => (List.range (ceilDiv (gemmN o) 8)).all (fun b =>
      o.stats.any (fun x => decide (x.batch = t.batch) && decide (x.m = t.row0 + r) && decide (x.blk = b))))

/-! ### Values that a completing tile packs -/

/-- Chunk j of row m, column n as a copy of a tile has it (R359): its own foot value; in the exchanged orientation the result
multicast by the group; else the copy's own run of that chunk. -/
def copyLeaf (rd : Nat → Byte) (o : Op) (t : Tile) (m n j : Nat) : FootVal :=
  let own := (tilePairs o t).findIdx (fun p => p = (m, n))
  if j = t.chunk && own < t.foot.length then t.foot.getD own (.f32 0)
  else if t.kind = .array && o.orient = .exchanged then
    (((o.leaves.find? (sameVal t m n)).bind (fun x => x.nodes.find? (fun y => y.idx = j))).map (·.val)).getD (.f32 0)
  else tileFootVal rd o { t with chunk := j } (m, n)

/-- The tree a copy forms of its chunk results. -/
def copyRoot (rd : Nat → Byte) (o : Op) (t : Tile) (m n : Nat) : FootVal :=
  let nch := rowChunks o t.out m
  (treeRoot nch ((List.range nch).foldl (fun ns j => treeInsert nch 64 ns { level := 0, idx := j, val := copyLeaf rd o t m n j }) [])).getD (.f32 0)

/-- The contraction of row m, column n: from the tree at the home region, a copy's from its own (R359). -/
def rootOf (rd : Nat → Byte) (o : Op) (t : Tile) (m n : Nat) : F32 :=
  (if t.role = .original then (treeVal o t m n).getD (.f32 0) else copyRoot rd o t m n).toF32

/-- The FP32 value of D at work row r, column n. -/
def arrayVal (rd : Nat → Byte) (o : Op) (t : Tile) (r n : Nat) : F32 := gemmEpilogue rd o t.batch (gemmRow o r) n (rootOf rd o t r n)

/-- The contraction of row m, column n of a second-pass tile. -/
def attnRoot (rd : Nat → Byte) (o : Op) (t : Tile) (m n : Nat) : F32 := rootOf rd o t m n

/-- The value of an output of ATTN at row m, column n (R147, steps 7 to 9 of R157). -/
def attnVal (rd : Nat → Byte) (o : Op) (t : Tile) (m n : Nat) : F32 :=
  if o.variant = 0 then attnOut rd o (attnRoot rd o t m n) (attnRoot rd o t m (attnD o))
  else bwdFinish rd o t.out (attnRoot rd o t m n)

/-- The statistics blocks a completing tile sends to the statistics home. -/
def tileStats (rd : Nat → Byte) (o : Op) (t : Tile) : List StatBlock :=
  (List.range t.rows).flatMap (fun r => (List.range (ceilDiv t.cols 8)).map (fun b =>
    let lo := t.col0 + 8 * b
    { batch := t.batch, m := t.row0 + r, blk := lo / 8,
      node := statBlock ((List.range (min 8 (gemmN o - lo))).map (fun c => arrayVal rd o t (t.row0 + r) (lo + c))) }))

def sameBlock (a b : StatBlock) : Bool := decide (a.batch = b.batch) && decide (a.m = b.m) && decide (a.blk = b.blk)

/-- The statistics blocks of a tile as it has sent them, or as it forms them. -/
def sentStats (rd : Nat → Byte) (o : Op) (t : Tile) : List StatBlock :=
  (tileStats rd o t).map (fun b => if t.role = .original then (o.stats.find? (sameBlock b)).getD b else b)

/-- An upset in the Epilogue's statistics, which no check sees (R351): XOR into the code of the n-th statistic sent. -/
def upsetStats (ups : List (Nat × Word)) (bs : List StatBlock) : List StatBlock :=
  let turn (n : Nat) (v : F32) : F32 := ups.foldl (fun x u => if u.1 = n then x ^^^ u.2 else x) v
  bs.zipIdx.map (fun p =>
    { p.1 with node := { mx := turn (4 * p.2) p.1.node.mx, se := turn (4 * p.2 + 1) p.1.node.se,
                         sm := turn (4 * p.2 + 2) p.1.node.sm, sq := turn (4 * p.2 + 3) p.1.node.sq } })

/-! ### Packed output (R135 to R137) -/

/-- One row that leaves the Packer: its packed elements, the scale bytes beside them, what it adds to GLB_NAN_SQUASH. -/
structure OutRow where
  data : List BitWrite
  side : List BitWrite
  squash : Nat
deriving DecidableEq, Repr

/-- A row of elements, each written as its code and, in an MX block, its scale byte. -/
def outRow (els : List (List BitWrite × Nat)) : OutRow :=
  { data := els.flatMap (fun e => e.1.take 1), side := els.flatMap (fun e => e.1.drop 1), squash := (els.map (·.2)).foldl (· + ·) 0 }

/-- Each scale byte is written once. -/
def sidesOnce : List Nat → List OutRow → List OutRow
  | _, [] => []
  | seen, r :: rs =>
    let own := r.side.foldl (fun acc w => if seen.contains w.addr || acc.any (fun x => x.addr = w.addr) then acc else acc ++ [w]) []
    { r with side := own } :: sidesOnce (seen ++ own.map (·.addr)) rs

def arrayRows (rd : Nat → Byte) (o : Op) (t : Tile) : List OutRow :=
  (tileLines o t).map (fun l => outRow (l.map (fun p =>
    packElem o.round o.seed 3 (o.td 3 0) (o.td 3 0).format (fun j => f32Val (arrayVal rd o t (workRow o j.i1) j.i0))
      (dIdx o t.batch (gemmRow o p.1) p.2))))

/-- The statistics record of the rows whose home this tile is (R133, Table 6-2). -/
def statWrites (o : Op) (t : Tile) : List BitWrite :=
  if o.has 4 && o.isArray && t.col0 = 0 && tileCompletes o t then
    let z := o.td 4 0
    (List.range t.rows).flatMap (fun r =>
      let blocks := (List.range (ceilDiv (gemmN o) 8)).filterMap (fun b =>
        (o.stats.find? (fun x => decide (x.batch = t.batch) && decide (x.m = t.row0 + r) && decide (x.blk = b))).map (·.node))
      let st := statTree blocks
      let at_ (k : Nat) (v : F32) := elemWrite z 7 ⟨gemmRow o (t.row0 + r), k, t.batch % z.dim2, t.batch / z.dim2⟩ v.toNat
      [at_ 0 st.mx, at_ 1 st.se, at_ 2 st.sm, at_ 3 st.sq])
  else []

/-- Rows of a second-pass tile: its columns below d, and the record from the tile that holds column d (R147). -/
def attn2Rows (rd : Nat → Byte) (o : Op) (t : Tile) : List OutRow :=
  let z := o.td 3 t.out
  (tileLines o t).map (fun l => outRow (l.flatMap (fun p =>
    let i := attnIdx o t p.1 p.2
    if p.2 < attnD o then
      [packElem o.round o.seed (3 + 8 * t.out) z z.format (fun j => f32Val (attnVal rd o t j.i1 j.i0)) i]
    else if o.has 4 then
      [([elemWrite (o.td 4 0) 7 ⟨p.1, 0, i.i2, i.i3⟩ (rowMaxOf o t.batch p.1).toNat], 0),
       ([elemWrite (o.td 4 0) 7 ⟨p.1, 1, i.i2, i.i3⟩ (attnRoot rd o t p.1 (attnD o)).toNat], 0)]
    else [])))

/-- Index of element c of linear row r of a tensor. -/
def rowIdx (z : TD) (r c : Nat) : Idx := ⟨c, r % z.dim1, r / z.dim1 % z.dim2, r / z.dim1 / z.dim2⟩

def rowElems (z : TD) (r : Nat) : List Idx := (List.range z.dim0).map (fun c => rowIdx z r c)
def elemsOfRows (z : TD) (row0 rows : Nat) : List Idx := (List.range rows).flatMap (fun k => rowElems z (row0 + k))

/-- What a row keeps of a span of an output footprint. -/
def cutRow (span : Interval) (r : OutRow) : OutRow :=
  let inside (w : BitWrite) : Bool := (bitWriteAddrs w).any (fun a => decide (span.1 ≤ a) && decide (a ≤ span.2))
  { r with data := r.data.filter inside, side := r.side.filter inside }

/-- The first byte of an element. -/
def elemAddr (z : TD) (i : Idx) : Nat := tdRowAddr z i + i.i0 * fmtBits z.format / 8

/-- The interval a bypass tile of a span covers. -/
def tileSpan (t : Tile) : Interval := (t.row0, t.row0 + t.rows - 1)

/-- Indexes a completing tile owns of output (slot, member): each element of an output belongs to one tile. A span tile owns
the elements that begin in its span, one of an OPTSTEP those whose w' begins there. -/
def tileIdx (o : Op) (t : Tile) (slot member : Nat) : List Idx :=
  let z := o.td slot member
  match t.kind with
  | .array => if slot = 3 then (tilePairs o t).map (fun p => dIdx o t.batch (gemmRow o p.1) p.2) else []
  | .attn1 => []
  | .attn2 =>
    if slot = 3 && member = t.out then ((tilePairs o t).filter (fun p => decide (p.2 < attnD o))).map (fun p => attnIdx o t p.1 p.2) else []
  | .bypass =>
    if spanWise o then
      (let y := if o.opcode = 14 then o.td 3 0 else z
       (elemsOfRows z 0 (tdRows z)).filter (fun i => decide (t.row0 ≤ elemAddr y i) && decide (elemAddr y i < t.row0 + t.rows)))
    else if t.part = 1 then
      (if slot = 4 then (List.range t.rows).map (fun c => ⟨t.row0 + c, 0, 0, 0⟩) else [])
    else if slot = 3 then
      (if o.opcode = 6 && o.variant ≤ 1 then (List.range t.rows).map (fun k => tdIdx z (t.row0 + k)) else elemsOfRows z t.row0 t.rows)
    else if hasColSums o then []
    else (List.range t.rows).flatMap (fun k => (List.range z.dim1).map (fun q => ⟨t.row0 + k, q, 0, 0⟩))

/-- Rows of a column-sum output: the values the exact partials of every region give (R155). -/
def colElem (o : Op) (member : Nat) (i : Idx) : List BitWrite × Nat :=
  let z := o.td 4 member
  packElem o.round o.seed (4 + 8 * member) z z.format
    (fun j => f32Val (colFromParts o.colParts (vRows (dTr o.words 0) (o.td 0 0)) member j.i0)) i

/-- Rows of a bypass tile: its rows, or its span of one output footprint. -/
def bypassRowsOut (rd : Nat → Byte) (o : Op) (t : Tile) : List OutRow :=
  if o.opcode = 14 then
    o.outputsQ.map (fun z => outRow ((tileIdx o t (z.1 % 8) (z.1 / 8)).map (outWrites rd o (z.1 % 8) (z.1 / 8))))
  else if spanWise o then
    o.outputsQ.flatMap (fun z => (List.range (tdRows z.2)).map (fun r =>
      let q := outRow ((rowElems z.2 r).map (fun i =>
        let w := outWrites rd o (z.1 % 8) (z.1 / 8) i
        (w.1, if (tileIdx o t (z.1 % 8) (z.1 / 8)).contains i then w.2 else 0)))
      cutRow (tileSpan t) q))
  else if t.part = 1 then
    (o.members 4).zipIdx.map (fun z => outRow ((tileIdx o t 4 z.2).map (colElem o z.2)))
  else if o.opcode = 6 && o.variant ≤ 1 then [outRow ((tileIdx o t 3 0).map (outWrites rd o 3 0))]
  else
    (List.range t.rows).map (fun k => outRow ((rowElems (o.td 3 0) (t.row0 + k)).map (outWrites rd o 3 0))) ++
      [outRow ((o.members 4).zipIdx.flatMap (fun z => (tileIdx o t 4 z.2).map (outWrites rd o 4 z.2)))]

/-- What re-packing K, Q or dO adds to GLB_NAN_SQUASH (R83, R158): each re-packed block counts once, with the tile of its chunk
and columns whose rows contract furthest in the first query head, or in dK and dV: DESIGN CHOICE, log entry 157. -/
def repackSquash (rd : Nat → Byte) (o : Op) (t : Tile) : Nat :=
  let i := attnIdx o t 0 0
  let x := bwdOther o t.out
  let first := if t.out = 0 then i.i2 % attnG o = 0 && t.row0 + t.rows = attnLq o else t.row0 = 0
  if !isMx x || !first then 0
  else
    let at_ (c k : Nat) : Idx :=
      if t.out = 0 then attnAt (attnTrK o) c k (i.i2 / attnG o) i.i3
      else
        let r := (bwdRows o i.i2).getD k (0, 0)
        if t.out = 1 then attnAt (attnTrQ o) c r.2 r.1 i.i3 else bwdAt o c r.2 r.1 i.i3
    let n := if t.out = 0 then attnLk o else attnG o * attnLq o
    ((List.range t.cols).flatMap (fun c => (List.range 32).map (fun b =>
      let lo := t.chunk * bwdKc + 32 * b
      (packBlock x.format (((List.range (min 32 (n - lo))).map (fun k => (elemVal rd x (at_ (t.col0 + c) (lo + k)), RoundMode.rne))))).2.2))).foldl (· + ·) 0

/-- What a tile's Packer puts out: an original from the trees of the operation, a copy from its own whole values (R359). The
blocks of a first-pass tile go to the attention buffers; only their count is put out. -/
def tileOut (rd : Nat → Byte) (o : Op) (t : Tile) : List OutRow :=
  if o.opcode = 11 then []
  else if t.kind = .attn1 then [{ data := [], side := [], squash := scoreSquash rd o t }]
  else
    (if !tileCompletes o t then []
     else
       sidesOnce [] (match t.kind with
         | .array => arrayRows rd o t
         | .attn2 => attn2Rows rd o t
         | _ => bypassRowsOut rd o t)) ++
      (if t.kind = .attn2 && o.variant ≠ 0 then [{ data := [], side := [], squash := repackSquash rd o t }] else [])

/-- The rows of a tile with the statistics record it writes behind them. -/
def withStats (o : Op) (t : Tile) (rows : List OutRow) : List OutRow := rows ++ [{ data := statWrites o t, side := [], squash := 0 }]

def xorWrite (ups : List (Nat × Nat)) (n : Nat) (w : BitWrite) : BitWrite :=
  { w with code := ups.foldl (fun c u => if u.1 = n then c ^^^ (u.2 % 2 ^ w.width) else c) w.code }

/-- Upsets that no check sees: XOR into the code of the n-th write, counted row by row. -/
def upsetRows (ups : List (Nat × Nat)) : Nat → List OutRow → List OutRow
  | _, [] => []
  | n, r :: rs =>
    { r with
      data := r.data.zipIdx.map (fun p => xorWrite ups (n + p.2) p.1)
      side := r.side.zipIdx.map (fun p => xorWrite ups (n + r.data.length + p.2) p.1) } ::
      upsetRows ups (n + r.data.length + r.side.length) rs

def rowWrites (rows : List OutRow) : List BitWrite := rows.flatMap (fun r => r.data ++ r.side)
def rowSquash (rows : List OutRow) : Nat := (rows.map (·.squash)).foldl (· + ·) 0

/-! ### The checksum (15 R359, R360) -/

def rotl5 (x : Word64) : Word64 := (x <<< 5) ||| (x >>> 59)

def checksumWords (ws : List Word64) : Word64 :=
  ws.zipIdx.foldl (fun c p => (rotl5 c ^^^ (p.1 * 0x9E3779B97F4A7C15#64)) + BitVec.ofNat 64 p.2) 0x243F6A8885A308D3#64

def padTo8 (bs : List Byte) : List Byte := bs ++ List.replicate ((8 - bs.length % 8) % 8) 0

def wordsOfBytes : Nat → List Byte → List Word64
  | 0, _ => []
  | k + 1, bs => BitVec.ofNat 64 (leNat (bs.take 8)) :: wordsOfBytes k (bs.drop 8)

def footBytes : FootVal → List Byte
  | .f32 x => natBytes 4 x.toNat
  | .int i => natBytes 8 (i % 2 ^ 64).toNat

/-- The codes of a row packed from bit 0 on. -/
def packedBytes (ws : List BitWrite) : List Byte :=
  let bits_ := ws.foldl (fun (acc : Nat × Nat) w => (acc.1 + w.code % 2 ^ w.width * 2 ^ acc.2, acc.2 + w.width)) (0, 0)
  natBytes (ceilDiv bits_.2 8) bits_.1

def statBytes (b : StatBlock) : List Byte :=
  natBytes 4 b.node.mx.toNat ++ natBytes 4 b.node.se.toNat ++ natBytes 4 b.node.sm.toNat ++ natBytes 4 b.node.sq.toNat

/-- The checksum covers foot rows: a chunk that does not complete its values, a long run, the exchanged orientation. -/
def coversFoot (o : Op) (t : Tile) : Bool :=
  (t.kind = .array || t.kind = .attn2) &&
    (!tileCompletes o t || 256 < rowChunks o t.out (t.row0 + t.rows - 1) || (t.kind = .array && o.orient = .exchanged))

/-- The checksum covers packed output. -/
def coversPacked (o : Op) (t : Tile) : Bool :=
  tileCompletes o t && (!coversFoot o t || (t.kind = .array && o.orient = .exchanged))

/-- Foot rows as they leave, each padded to whole words. -/
def footRowBytes (o : Op) (t : Tile) : List Byte :=
  let n := ((tileLines o t).headD []).length
  (List.range (tileLines o t).length).flatMap (fun r => padTo8 (((t.foot.drop (r * n)).take n).flatMap footBytes))

/-- Packed rows, each padded to whole words, then scale bytes in block order, then the tile's statistics blocks in row order. -/
def packedRowBytes (rd : Nat → Byte) (o : Op) (t : Tile) (rows : List OutRow) : List Byte :=
  rows.flatMap (fun r => padTo8 (packedBytes r.data)) ++ (rows.flatMap (·.side)).map (fun w => BitVec.ofNat 8 w.code) ++
    (if o.has 4 && o.isArray then (sentStats rd o t).flatMap statBytes else [])

/-- Packed P blocks before the rewrite: rows of codes, scale bytes, mb values. -/
def scoreBytes (rd : Nat → Byte) (o : Op) (t : Tile) : List Byte :=
  let row (r : Nat) : List PPack := (List.range (tileBlocks t).length).map (tilePack rd o t r)
  (List.range t.rows).flatMap (fun r => padTo8 ((row r).flatMap (fun p => p.codes.map (fun c => BitVec.ofNat 8 c)))) ++
    (List.range t.rows).flatMap (fun r => (row r).map (fun p => BitVec.ofNat 8 p.scale)) ++
    (List.range t.rows).flatMap (fun r => (row r).flatMap (fun p => natBytes 4 p.mb.toNat))

/-- The bytes the checksum of a tile covers (Table 15-3). -/
def coveredBytes (rd : Nat → Byte) (o : Op) (t : Tile) (rows : List OutRow) : List Byte :=
  if t.kind = .attn1 then scoreBytes rd o t
  else
    (if coversFoot o t then footRowBytes o t else []) ++ (if coversPacked o t then packedRowBytes rd o t rows else [])

/-- The last word is filled up with zero bytes where the scale bytes leave it short: DESIGN CHOICE, log entry 131. -/
def tileChecksum (rd : Nat → Byte) (o : Op) (t : Tile) (rows : List OutRow) : Word64 :=
  let bs := padTo8 (coveredBytes rd o t rows)
  checksumWords (wordsOfBytes (bs.length / 8) bs)

/-! ### Advisor statistics (06 R167) -/

def advBin (d : Int) : Nat :=
  if d < 28 then (d / 2).toNat else if d < 32 then 14 else 15

/-- The statistics of one block's FP32 values: zeros and non-finite values have no part in the amax (DESIGN CHOICE for the
non-finite ones, log entry 132). -/
def advAdd (st : AdvStat) (vs : List F32) : AdvStat :=
  let nf := (vs.filter (fun v => f32IsNan v || f32IsInf v)).length
  let fin := vs.filter (fun v => !(f32IsNan v || f32IsInf v))
  let a := (amaxLog2 (fin.map f32Val)).getD 0
  let nz := fin.filter (fun v => !f32IsZero v)
  { st with
    amax := fin.foldl (fun m v => f32Max m (f32Abs v)) st.amax
    count := st.count + nz.length
    nf := st.nf + nf
    bins := nz.foldl (fun bs v => bs.modify (advBin (a - f32Log2 v)) (· + 1)) st.bins }

/-- The FP32 value a tile forms at an index of an output. What a family without an Epilogue step contributes to the advisor is a
DESIGN CHOICE, log entry 173. -/
def outF32 (rd : Nat → Byte) (o : Op) (t : Tile) (slot member : Nat) (i : Idx) : F32 :=
  match t.kind with
  | .array => arrayVal rd o t (workRow o i.i1) i.i0
  | .attn2 => attnVal rd o t i.i1 i.i0
  | _ =>
    if o.opcode = 9 || o.opcode = 8 then rne32 (opVal rd o slot member i)
    else if t.part = 1 && !spanWise o then colFromParts o.colParts (vRows (dTr o.words 0) (o.td 0 0)) member i.i0
    else opF32 rd o slot member i

/-- The statistics of the blocks a completing tile owns, one entry for each ADVISED output (R134, R167): each block counts at
its first element. -/
def advGather (rd : Nat → Byte) (o : Op) (t : Tile) : List AdvStat :=
  if !tileCompletes o t then []
  else o.advStats.map (fun st =>
    (o.outputsQ.filter (fun p => p.2.advised && decide (p.2.advisor = st.slot))).foldl (fun acc p =>
      let slot := p.1 % 8
      let member := p.1 / 8
      ((tileIdx o t slot member).filter (fun i => (blockIdx p.2 i).head? = some i)).foldl (fun a i =>
        advAdd a ((blockIdx p.2 i).map (outF32 rd o t slot member))) acc) { st with run := t.run })

/-- An upset in the advisor's statistics, which no check sees (R351): XOR into the amax and into the count of the parts, numbered
from n on. -/
def upsetAdv (ups : List (Nat × Nat)) (n : Nat) (ps : List AdvStat) : List AdvStat :=
  let turn (k v : Nat) : Nat := ups.foldl (fun x u => if u.1 = k then x ^^^ u.2 else x) v
  ps.zipIdx.map (fun p =>
    { p.1 with amax := BitVec.ofNat 32 (turn (n + 2 * p.2) p.1.amax.toNat), count := turn (n + 2 * p.2 + 1) p.1.count })

/-! ### What a tile reads (R124, R212, R244) -/

/-- The bytes of element i of a tensor: its code, its MX scale byte, the tensor's scale. -/
def elemReads (z : TD) (i : Idx) : List Interval :=
  let w := fmtBits z.format
  (elemAddr z i, tdRowAddr z i + (i.i0 * w + w - 1) / 8) :: (if isMx z then [(tdScaleAddr z i, tdScaleAddr z i)] else tdScaleFoot z)

/-- Element i of every member of a slot, as the slot reads it. -/
def slotReads (o : Op) (slot : Nat) (i : Idx) : List Interval := (o.members slot).flatMap (fun z => elemReads z (vIdx (dTr o.words slot) i))

/-- Row r of a tensor of a slot. -/
def rowReads (o : Op) (slot member r : Nat) : List Interval :=
  let z := o.td slot member
  (List.range (vDim0 (dTr o.words slot) z)).flatMap (fun c => elemReads z (vIdx (dTr o.words slot) (vRow (dTr o.words slot) z r c)))

def arrayReads (rd : Nat → Byte) (o : Op) (t : Tile) : List Interval :=
  let d := o.td 3 0
  let b2 := t.batch % d.dim2
  let b3 := t.batch / d.dim2
  let rows := (List.range t.rows).map (fun r => gemmRow o (t.row0 + r))
  let cols := (List.range t.cols).map (fun c => t.col0 + c)
  (tileKs rd o t).flatMap (fun k =>
    rows.flatMap (fun m => elemReads (gemmA o) (vIdx (gemmTrA o) (batchIdx (gemmA o) k m b2 b3))) ++
      cols.flatMap (fun n => elemReads (gemmB o) (vIdx (gemmTrB o) (batchIdx (gemmB o) n k b2 b3)))) ++
  (if !tileCompletes o t then []
   else
    (gemmBias o).toList.flatMap (fun z => cols.flatMap (fun n => elemReads z (vIdx (dTr o.words 2) (if dTr o.words 2 then ⟨0, n, 0, 0⟩ else ⟨n, 0, 0, 0⟩)))) ++
    (gemmResidual o).toList.flatMap (fun z => rows.flatMap (fun m => cols.flatMap (fun n => elemReads z (vIdx (dTr o.words 2) (batchIdx z n m b2 b3))))))

/-- First pass: the queries and keys of the tile; in variant 1 dO, O, V and the record too. -/
def attn1Reads (o : Op) (t : Tile) : List Interval :=
  let h := waveHead o t.batch
  let b := waveBatch o t.batch
  let e := h / attnG o
  let rows := (List.range t.rows).map (fun r => t.row0 + r)
  let keys := (List.range t.cols).map (fun c => t.col0 + c)
  let back := o.variant ≠ 0
  (List.range (attnD o)).flatMap (fun c =>
    rows.flatMap (fun i => elemReads (attnQ o) (attnAt (attnTrQ o) c i h b) ++
      (if back then elemReads (bwdTd o 0) (bwdAt o c i h b) ++ elemReads (bwdTd o 1) (bwdAt o c i h b) else [])) ++
    keys.flatMap (fun k => elemReads (attnK o) (attnAt (attnTrK o) c k e b) ++
      (if back then elemReads (attnV o) (attnAt (attnTrV o) c k e b) else []))) ++
  (if back then rows.flatMap (fun i => [0, 1].flatMap (fun w => elemReads (o.td 2 0) (vIdx (dTr o.words 2) ⟨i, w, h, b⟩))) else [])

/-- Second pass: V of the chunk's keys, or K, Q or dO along the chunk; P and dS lie in the attention buffers. -/
def attn2Reads (rd : Nat → Byte) (o : Op) (t : Tile) : List Interval :=
  let cols := ((List.range t.cols).map (fun c => t.col0 + c)).filter (fun c => decide (c < attnD o))
  let i := attnIdx o t 0 0
  (tileKs rd o t).flatMap (fun k => cols.flatMap (fun c =>
    if o.variant = 0 then elemReads (attnV o) (attnAt (attnTrV o) c k (i.i2 / attnG o) i.i3)
    else if t.out = 0 then elemReads (attnK o) (attnAt (attnTrK o) c k (i.i2 / attnG o) i.i3)
    else
      let r := (bwdRows o i.i2).getD k (0, 0)
      if t.out = 1 then elemReads (attnQ o) (attnAt (attnTrQ o) c r.2 r.1 i.i3)
      else elemReads (bwdTd o 1) (bwdAt o c r.2 r.1 i.i3))) ++
  (if o.variant = 0 || t.out = 2 then tdScaleFootOf (attnV o) else [])
where
  tdScaleFootOf (z : TD) : List Interval := if z.layout = 3 then tdScaleFoot z else []

/-- The sources of one element of an output of a family dealt by rows or spans. -/
def elemSources (rd : Nat → Byte) (o : Op) (i : Idx) : List Interval :=
  match o.opcode with
  | 5 => slotReads o 0 i ++ slotReads o 1 i
  | 6 => slotReads o 0 i ++ slotReads o 1 i
  | 7 =>
    elemReads (o.td 1 0) (vIdx (dTr o.words 1) (vAt (dTr o.words 1) (o.td 1 0) (rowOf (o.td 3 0) i))) ++
      ((moveSource rd o i).toList.flatMap (fun p => elemReads p.1 p.2))
  | 8 =>
    (List.range (indexCount o)).flatMap (fun p => elemReads (o.td 1 0) (vIdx (dTr o.words 1) (vAt (dTr o.words 1) (o.td 1 0) p))) ++
      elemReads (o.td 2 0) (vIdx (dTr o.words 2) (vRow (dTr o.words 2) (o.td 2 0) (rowOf (o.td 3 0) i) i.i0)) ++
      (positionsOf rd o (rowOf (o.td 3 0) i)).flatMap (fun p =>
        elemReads (o.td 0 0) (vIdx (dTr o.words 0) (vRow (dTr o.words 0) (o.td 0 0) p i.i0)))
  | 9 => slotReads o 0 i
  | 10 => (moveSource rd o i).toList.flatMap (fun p => elemReads p.1 p.2)
  | 14 => slotReads o 0 i ++ slotReads o 1 i
  | _ => []

/-- Elements whose values a tile's blocks need. -/
def neededIdx (z : TD) (is : List Idx) : List Idx := if isMx z then (is.flatMap (blockIdx z)).eraseDups else is

/-- Elements of an output with a byte in a span. -/
def spanIdx (z : TD) (f : Interval) : List Idx :=
  (elemsOfRows z 0 (tdRows z)).filter (fun i => (elemReads z i).any (overlaps f))

def bypassReads (rd : Nat → Byte) (o : Op) (t : Tile) : List Interval :=
  if o.opcode = 14 then (tileIdx o t 3 0).flatMap (elemSources rd o)
  else if spanWise o then
    (if o.opcode = 11 then []
     else o.outputs.flatMap (fun z => (neededIdx z (spanIdx z (tileSpan t))).flatMap (elemSources rd o)))
  else if t.part = 1 then []
  else if o.opcode = 4 then
    (List.range t.rows).flatMap (fun k =>
      rowReads o 0 0 (t.row0 + k) ++
        (if hasColSums o then rowReads o 1 0 (t.row0 + k) ++
          (List.range (vDim1 (dTr o.words 2) (o.td 2 1))).flatMap (fun w => elemReads (o.td 2 1) (vIdx (dTr o.words 2) ⟨t.row0 + k, w, 0, 0⟩))
         else [])) ++
      (if hasColSums o then [tdDataFoot (o.td 2 0)] ++ tdScaleFoot (o.td 2 0)
       else (o.members 1 ++ o.members 2).flatMap tdFoots)
  else if o.opcode = 6 && o.variant ≤ 1 then (List.range t.rows).flatMap (fun k => rowReads o 0 0 (t.row0 + k))
  else (neededIdx (o.td 3 0) (tileIdx o t 3 0)).flatMap (elemSources rd o)

/-- Every byte a tile reads. -/
def tileReads (rd : Nat → Byte) (o : Op) (t : Tile) : List Interval :=
  match t.kind with
  | .array => arrayReads rd o t
  | .attn1 => attn1Reads o t
  | .attn2 => attn2Reads rd o t
  | .bypass => bypassReads rd o t

/-- An index at or beyond DIM1 of the table among those a tile reads (R44). -/
def tileIndexBad (rd : Nat → Byte) (o : Op) (t : Tile) : Bool :=
  if o.opcode = 7 then
    (List.range t.rows).any (fun k => decide (vDim1 (dTr o.words 0) (o.td 0 0) ≤ indexAt rd o (t.row0 + k)))
  else indexOutOfRange rd o

/-! ### In-place reads (08 R222) -/

/-- Footprints of unfenced inputs that lie in the tile's own region's slot: the Feeder reads them in place after issue. -/
def inPlaceFoots (s : State) (o : Op) (t : Tile) : List Interval :=
  match slotOfRegion s t.region with
  | some k => ((List.range 3).filter (dUnfenced o.words)).flatMap (fun n => (o.members n).flatMap (fun z =>
      if (tdFoots z).all (fun f => isSpad f.1 && decide (slotOf f.1 = k) && decide (slotOf f.2 = k)) then tdFoots z else []))
  | none => []

def anyFoot (fs : List Interval) (a : Nat) : Bool := fs.any (fun f => decide (f.1 ≤ a) && decide (a ≤ f.2))

/-- The reads of the Loader, and those the Feeder makes in place. -/
def loaderReads (s : State) (rd : Nat → Byte) (o : Op) (t : Tile) : List Interval :=
  (tileReads rd o t).filter (fun f => !(inPlaceFoots s o t).any (fun g => covers g f))
def feederReads (s : State) (rd : Nat → Byte) (o : Op) (t : Tile) : List Interval :=
  (tileReads rd o t).filter (fun f => (inPlaceFoots s o t).any (fun g => covers g f))

/-- What the Feeder read in place: a line of `early` as it stood when the tile issued, any other line as it stands (R220).
Versions of a line between the two are not told apart: DESIGN CHOICE, log entry 136. -/
def feederSees (s : State) (o : Op) (t : Tile) (early : List (Nat × Bool)) (reads : ReadOutcome) : Mem :=
  let now := seenMem s (inPlaceFoots s o t) { reads with wrong := [] }
  let old (a : Nat) : Bool := early.any (fun l => l.1 / 128 = a / 128)
  let mixed := t.inPlace.filter (fun c => old c.1) ++ now.filter (fun c => !old c.1)
  turned (memWrite t.snap mixed) (reads.wrong.filter (fun w => anyFoot (inPlaceFoots s o t) w.1))

/-! ### The Drain's reservation (R125) -/

/-- Scale bytes of the MX blocks of a list of elements of a tensor: each block counts at its first element. -/
def scaleBytes (z : TD) (is : List Idx) : Nat := if isMx z then (is.filter (fun i => (blockIdx z i).head? = some i)).length else 0

/-- Bytes of the record T4 that a completing tile writes beside its packed output (R133, R147). -/
def recordBytes (o : Op) (t : Tile) : Nat :=
  if t.kind = .attn2 && o.variant = 0 && o.has 4 && t.col0 ≤ attnD o && attnD o < t.col0 + t.cols then 8 * t.rows
  else 4 * (statWrites o t).length

/-- Bytes that a completing tile puts into staging: elements, scale bytes and its record. -/
def outBytes (o : Op) (t : Tile) : Nat :=
  if t.kind = .attn1 || !tileCompletes o t then 0
  else if t.kind = .bypass && spanWise o && o.opcode ≠ 14 then t.rows
  else
    (o.outputsQ.map (fun z =>
      let is := tileIdx o t (z.1 % 8) (z.1 / 8)
      (is.length * fmtBits z.2.format + 7) / 8 + scaleBytes z.2 is)).foldl (· + ·) 0 + recordBytes o t

/-- The spans a completing tile writes. -/
def tileWrites (o : Op) (t : Tile) : List Interval :=
  if !tileCompletes o t then []
  else if t.kind = .bypass && spanWise o && o.opcode ≠ 14 then [tileSpan t]
  else o.outputsQ.flatMap (fun z => (tileIdx o t (z.1 % 8) (z.1 / 8)).flatMap (elemReads z.2)) ++
    (statWrites o t).map (fun w => (w.addr, w.addr + 3))

/-- The tile holds space in staging: issued or emitted, not drained. -/
def inStaging (o : Op) (r : Nat) (x : Tile) : Bool :=
  decide (x.region = r) && (x.st = .issued || x.st = .emitted) && decide (0 < outBytes o x)

/-- The Drain can reserve space for what the tile produces: staging has room, and no drain of the region waits on a stack that
is retraining (R125, 05 "When the Drain's destination is slow"). A tile larger than staging takes it whole. -/
def drainReserved (s : State) (o : Op) (t : Tile) : Bool :=
  let held := s.master.tiles.filter (inStaging o t.region)
  outBytes o t = 0 || ((held.isEmpty || decide ((held.map (outBytes o)).foldl (· + ·) 0 + outBytes o t ≤ stagingBytes)) &&
    !held.any (fun x => x.st = .emitted && waitsOnStack s (tileWrites o x)))

/-! ### Buffers (R121, R181 to R184) -/

/-- Tiles of a region that hold operand buffers. -/
def holders (s : State) (r : Nat) : List Tile :=
  (s.master.tiles ++ s.master.preTiles).filter (fun t => decide (t.region = r) && holdsStrm t)

/-- A pair of operand buffers of which none is held. -/
def freeBuf (s : State) (r : Nat) : Option Nat := [0, 1].find? (fun b => !(holders s r).any (fun t => t.buf = b))

/-- A buffer is written and read only under the generation the tile holds (R183). -/
def ownGens (s : State) (t : Tile) : Bool :=
  decide ((regionAt s t.region).statGen.getD t.buf 0 = t.statGen) && decide ((regionAt s t.region).strmGen.getD t.buf 0 = t.strmGen)

/-- Copies of votes come first, then the tiles of the current operation, then those of a pre-selected one, each in queue order
(R184, R362). -/
def mayTakeBuffers (s : State) (t : Tile) : Bool :=
  let queue := (regionAt s t.region).queue
  let ahead := ((queue.takeWhile (fun q => q ≠ t.id)).filter (fun q => isPre s t.id || !isPre s q)) ++
    (if isPre s t.id then queue.filter (fun q => !isPre s q) else [])
  t.st = .assigned && (freeBuf s t.region).isSome && (tileRank t = 0 || (ahead.filterMap (tileAt s)).all (fun x => x.st ≠ .assigned))

/-- Outputs that are not committed yet: those of the operation or group in flight and of COLLECTIVEs set aside. -/
def openOuts (s : State) : List Interval := (acceptedOps s ++ asideOps s).flatMap (fun x => x.outFoots)

/-- Loads of a pre-selected operation may start: no FENCE_PREV while an operation is uncommitted, and no fenced input overlaps
an uncommitted output (R28, R55, R222). -/
def preMayLoad (s : State) (o : Op) : Bool :=
  !dFencePrev o.words && (List.range 3).all (fun k =>
    dUnfenced o.words k || (o.members k).all (fun t => (tdFoots t).all (fun f => !(openOuts s).any (overlaps f))))

end Sys2Proof.Machine
end

