-- ==== Sys2Proof/Machine/Replace.lean ====
section
/-!
DEFINITION. The published weave, region failure, quarantine, rebuild and re-placement, and the votes
(07_scheduler.md R197 to R202, 08_scratchpad.md R224, R225, 15_integrity_faults.md R361 to R363, 14_bringup.md R5).
-/
namespace Sys2Proof.Machine

/-! ### Publication -/

/-- Live regions, their stakes, and whether the weave is below the floor of R5. -/
def weaveCounts (s : State) : Nat × Nat × Bool :=
  let l := (List.range 96).filter (fun r => (regionAt s r).live)
  let w (r : Nat) := 512 - popcount (regionAt s r).testMap.toNat 512
  (l.length, (l.map w).foldl (· + ·) 0, decide (l.length < 90) || l.any (fun r => decide (w r < 496)))

/-- The map a region shows: the stakes of a region that is not live are not live, and bypassed (R341, Table 14-8). -/
def shownMap (r : Region) : BitVec 512 := if r.live then r.testMap else BitVec.allOnes 512

/-- The weave as it now stands is published: the registers of R108 read it. The floor flag is formed anew at every publication,
so that it returns to 0 when a later one brings the weave back to the floor: DESIGN CHOICE, log entry 133. -/
def publishWeave (s : State) : State :=
  let c := weaveCounts s
  modGlb { s with regions := s.regions.map (fun r => { r with pubLive := r.live, pubMap := shownMap r }) }
    (fun g => { g with liveRegions := c.1, liveStakes := c.2.1, floor := c.2.2 })

/-- DETAIL of the weave-change event. -/
def weaveDetail (s : State) : Nat :=
  (if s.glb.floor then 1 else 0) + s.glb.liveRegions * 2 ^ 16 + s.glb.liveStakes * 2 ^ 32

def publishEvent (s : State) : State :=
  let t := publishWeave s
  postEvent t 0x0001 .none 0 (weaveDetail t)

/-- A rebuild begins, or a failure joins the one in progress (R200). -/
def startRebuild (s : State) (failed runs : List Nat) (copies : List TileRole) : State :=
  modMaster s (fun m =>
    { m with recovery := some (match m.recovery with
        | some r => { r with failed := r.failed ++ failed, runs := r.runs ++ runs, copies := r.copies ++ copies }
        | none => { failed := failed, runs := runs, copies := copies, halted := false }) })

/-! ### Leaving the weave -/

/-- A region leaves the weave: its domain switches off and its slot is handled (R224). -/
def leaveWeave (s : State) (r : Nat) : State :=
  modRegion (leaveSlot (regionOff s r) r) r (fun x => { x with live := false })

/-- Some footprint lies in a slot. -/
def touchesSlot (o : Op) (k : Nat) : Bool :=
  (o.inFoots ++ outFootsC o).any (fun f => overlaps f (slotAddr k, slotAddr k + 2 ^ 26 - 1))

/-- R201: the operation in flight cannot be replayed after region r's failure. -/
def notReplayable (s : State) (r : Nat) : Bool :=
  let ks := leaveSlots s r
  (match s.master.op with
    | some o => dNonreplayable o.words && hasTiles o
    | none => false) ||
  (acceptedOps s).any (fun o => ks.any (touchesSlot o))

/-- The stop step keeps a tile: ISSUED or further, and not one the failed region was still working on. -/
def staysAfterStop (r : Nat) (t : Tile) : Bool :=
  (t.region ≠ r || t.st = .drained || t.st = .verified) &&
    (t.st = .issued || t.st = .emitted || t.st = .drained || t.st = .verified)

/-- Runs that lose a tile of their own to the stop step: none of them is verified (R199). -/
def lostRuns (s : State) (r : Nat) : List Nat :=
  ((s.master.tiles.filter (fun t => t.role = .original && !staysAfterStop r t)).map (·.run)).eraseDups

/-- The original of a copy. -/
def originalOf : TileRole → Option Nat
  | .original => none
  | .duplicate n => some n
  | .vote n => some n
  | .again n _ => some n

/-- Copies that the stop step takes, of originals whose own region works on: where one of them ran on the failed region, each is
dealt again to another (15 R363, "When the duplicate or vote region fails first"). -/
def lostCopies (s : State) (r : Nat) : List TileRole :=
  let gone := s.master.tiles.filter (fun t => !staysAfterStop r t)
  let ids := (gone.filter (fun t => decide (t.region = r))).filterMap (fun t => originalOf t.role)
  (gone.filter (fun t => match originalOf t.role with
    | some n => ids.contains n && s.master.tiles.any (fun x => decide (x.id = n) && decide (x.region ≠ r) && x.st = .drained)
    | none => false)).map (·.role)

/-- Tiles before ISSUED are withdrawn with their buffers, those of the failed region drop with their writes; pre-selected
ones go, and their operation is placed again after the rebuild (R178, R198). -/
def stopTiles (s : State) (r : Nat) : State :=
  modMaster (keepTiles s (staysAfterStop r) (fun _ => false)) (fun m => { m with pre := m.pre.map (fun o => { o with dealt := false }) })

/-- R198, steps 1 to 3: stop, quarantine, start of the rebuild; an operation that cannot be replayed ends, and so does a
COLLECTIVE set aside with a footprint in the slot (R201, R393). -/
def failRegion (s : State) (r : Nat) : State :=
  if !(regionAt s r).live then s
  else
    let lost := notReplayable s r
    let colls := (asideOps s).filter (fun o => (leaveSlots s r).any (touchesSlot o))
    let t := stopTiles s r
    let u := colls.foldl (fun acc o => endAside acc o stFault 0) (if lost then abandon t stFault 0 else t)
    startRebuild (modRegion (leaveWeave u r) r (fun x =>
      { x with quarantined := true, heatPending := false, darkUntil := gtcNs s + 1000000000 })) [r] (lostRuns s r) (lostCopies s r)

/-! ### The replay set (R199) -/

/-- A run is verified: none of its tiles is lost, and each is verified. A drained tile that waits only for a copy to be dealt
again does not bring its run into the replay set: R363 deals the copy again instead (log entry 149). -/
def runVerified (s : State) (lost : List Nat) (copies : List TileRole) (run : Nat) : Bool :=
  let waits := copies.filterMap originalOf
  !lost.contains run && (s.master.tiles.filter (fun t => decide (t.run = run) && t.role = .original)).all (fun t =>
    t.st = .verified || (t.st = .drained && waits.contains t.id))

/-- What is replayed as one wave: a wave of variant 0; in variant 1 every wave of a batch and key head, whose partials of dK
and dV stay together (log entry 128). -/
def waveOf (o : Op) (x : Share) : Nat × Nat :=
  if o.variant = 0 then (x.unit, x.wave) else (0, (bwdWaveAt { o with unitRows := x.unit } x.wave).head)

/-- A share of an array operation that forms output values: every run, and in the exchanged orientation the units of chunk 0,
which lie at the home region of their columns (R112, R128). -/
def formsValues (o : Op) (x : Share) : Bool := o.orient ≠ .exchanged || decide (x.part = 0)

/-- Share x gives statistics blocks to the statistics home y of its rows (5 R133). -/
def feedsStats (o : Op) (x y : Share) : Bool :=
  o.has 4 && formsValues o x && formsValues o y && decide (y.lo = 0) && decide (y.batch = x.batch) && decide (y.part = x.part)

/-- The home unit y forms the value to which column group g of another chunk's share x contributes. -/
def feedsHome (x y : Share) (g : Nat) : Bool :=
  decide (y.part = 0) && decide (y.batch = x.batch) && decide (y.lo ≤ g) && decide (g < y.lo + y.n)

/-- The replay set that a list of shares brings with it (R199). An ATTN wave is replayed whole. A unit of the exchanged
orientation stands unverified until the value it contributes to is drained, and every unit that contributes to a value whose home
is replayed is replayed with it, column group by column group; so is what gives a statistics record its blocks (log entry 28). -/
def closeShares (o : Op) (hits : List Share) : List Share :=
  if o.opcode = 3 then o.share.filter (fun x => hits.any (fun y => waveOf o y = waveOf o x))
  else if !o.isArray then hits
  else
    let mine (x : Share) : Bool := hits.any (fun y => y.run = x.run)
    let forms := o.share.filter (fun x => formsValues o x && (mine x || hits.any (feedsStats o x)))
    let feeds := (o.share.filter (fun x => !formsValues o x)).flatMap (fun x =>
      if mine x then [x]
      else (joinGroups (((List.range x.n).map (fun k => x.lo + k)).filter (fun g => forms.any (fun y => feedsHome x y g)))).map (fun p =>
        { x with lo := p.1, n := p.2 }))
    forms ++ feeds

/-- What the failure itself brings into the replay set (R199): what was dealt to a failed region, and what is not verified; of an
ATTN what is not verified alone. -/
def failedShares (s : State) (o : Op) (rec : Recovery) : List Share :=
  o.share.filter (fun x => (o.opcode ≠ 3 && rec.failed.contains x.region) || !runVerified s rec.runs rec.copies x.run)

/-- The replay set of R199 after a failure. -/
def replayShares (s : State) (o : Op) (rec : Recovery) : List Share := closeShares o (failedShares s o rec)

/-- What stays of a share of an array operation beside the groups of it that are replayed. -/
def keptPart (o : Op) (xs : List Share) (x : Share) : List Share :=
  let ys := xs.filter (fun y => y.run = x.run)
  if ys.isEmpty then [x]
  else if !o.isArray then []
  else
    (joinGroups (((List.range x.n).map (fun k => x.lo + k)).filter (fun g => !ys.any (fun y => decide (y.lo ≤ g) && decide (g < y.lo + y.n))))).map
      (fun p => { x with lo := p.1, n := p.2 })

/-- A share covers a group of a panel or chunk. -/
def inShares (xs : List Share) (batch part g : Nat) : Bool :=
  xs.any (fun x => decide (x.batch = batch) && decide (x.part = part) && decide (x.lo ≤ g) && decide (g < x.lo + x.n))

/-- The work of a list that a replay set holds: the groups of one panel together. -/
def workIn (xs : List Share) (ws : List PanelWork) : List PanelWork :=
  (ws.map (fun p => { p with groups := p.groups.filter (inShares xs p.batch p.panel) })).filter (fun p => !p.groups.isEmpty)

/-- A bypass replay set dealt by R141 over the list of its rows or pages, output by output. -/
def redealBypass (o : Op) (ts : List Taker) (xs : List Share) : List Share :=
  let mine (part : Nat) := xs.filter (fun x => x.part = part)
  if spanWise o then
    (spanFoots o).zipIdx.flatMap (fun p => dealPages ts p.1
      ((footPages p.1).filter (fun k => (mine p.2).any (fun x => overlaps (x.lo, x.lo + x.n - 1) (k * 4096, k * 4096 + 4095)))) p.2)
  else
    dealRowList ts ((List.range (bypassRows o)).filter (fun r => (mine 0).any (fun x => decide (x.lo ≤ r) && decide (r < x.lo + x.n))))
      (rowUnit o) 0 ++ (if (mine 1).isEmpty then [] else colShare o ts)

/-- Wave w' of q' does work of wave w of q, an operation with larger waves. -/
def sameWaveWork (q q' : Op) (w w' : Nat) : Bool :=
  if q.variant ≠ 0 then decide ((bwdWaveAt q w).head = (bwdWaveAt q' w').head)
  else
    let a := (attnWaves q).getD w (0, 0)
    let b := (attnWaves q').getD w' (0, 0)
    decide (a.1 = b.1) && decide (a.2 * q.unitRows ≤ b.2 * q'.unitRows) && decide (b.2 * q'.unitRows < (a.2 + 1) * q.unitRows)

/-- The waves of a replay set dealt again, in waves that fit the regions there are now, cut smaller where they must be (R148,
R159, log entry 128). -/
def replayWaves (o : Op) (ts : List Taker) (xs : List Share) : List Share :=
  ((xs.map (·.unit)).eraseDups).flatMap (fun u =>
    let q := { o with unitRows := u }
    let q' := { o with unitRows := firstFit o ts ((waveSizes o).filter (fun n => decide (n ≤ u))) }
    waveShares q' ts (fun w => xs.any (fun x => decide (x.unit = u) && sameWaveWork q q' x.wave w)))

/-- A replay set dealt over the regions that take tiles now, with the original orientation (R198 step 4). -/
def redeal (o : Op) (ts : List Taker) (xs : List Share) : List Share :=
  if o.isArray then
    match o.orient with
    | .exchanged => dealUnits (plainWork .array) ts (gemmRows o)
        ((allUnits (gemmBatches o) (gemmChunks o) (gemmGroups o)).filter (fun u => inShares xs u.1 u.2.1 u.2.2))
    | _ => dealNormal (plainWork .array) ts (gemmG o) (workIn xs (gemmWork o))
  else if o.opcode = 3 then replayWaves o ts xs
  else redealBypass o ts xs

/-- Tiles that cover a place of an output or of a first pass. -/
def tilesCover (ts : List Tile) (kind : TileKind) (out batch m n : Nat) : Bool :=
  ts.any (fun t => t.kind = kind && decide (t.out = out) && decide (t.batch = batch) && decide (t.row0 ≤ m) &&
    decide (m < t.row0 + t.rows) && decide (t.col0 ≤ n) && decide (n < t.col0 + t.cols))

/-- What the operation forgets of the shares it replays: the partials, statistics and blocks of the values they form, and what
these values counted. -/
def forget (o : Op) (xs : List Share) : Op :=
  let ts := (xs.filter (fun x => !o.isArray || formsValues o x)).flatMap (shareTiles o o.orient)
  let runs := xs.map (·.run)
  let k := if o.isArray then TileKind.array else .attn2
  { o with
    tree := o.tree.filter (fun v => !tilesCover ts k v.out v.batch v.m v.n)
    leaves := o.leaves.filter (fun v => !tilesCover ts k v.out v.batch v.m v.n)
    stats := o.stats.filter (fun v => !tilesCover ts .array 0 v.batch v.m (8 * v.blk))
    pBlocks := o.pBlocks.filter (fun p => !tilesCover ts .attn1 0 p.batch p.i (32 * p.blk))
    scores := o.scores.filter (fun p => !tilesCover ts .attn1 0 p.batch p.i p.k)
    rowMax := o.rowMax.filter (fun p => !ts.any (fun t => t.kind = .attn1 && decide (t.batch = p.1) && decide (t.row0 ≤ p.2.1) &&
      decide (p.2.1 < t.row0 + t.rows)))
    advParts := o.advParts.filter (fun p => !runs.contains p.run)
    colParts := o.colParts.filter (fun p => !runs.contains p.run) }

/-- The replay set of an exchanged operation in the normal orientation, when no region can take it exchanged (R201): every
panel of the columns it holds. Units of other chunks that stay are needed no more: their values are formed. -/
def normalInstead (o : Op) (ts : List Taker) (xs : List Share) : Op × List Share :=
  let held (b g : Nat) : Bool := xs.any (fun x => decide (x.batch = b) && decide (x.lo ≤ g) && decide (g < x.lo + x.n))
  let work := ((gemmWork o).map (fun p => { p with groups := p.groups.filter (held p.batch) })).filter (fun p => !p.groups.isEmpty)
  ({ forget o xs with orient := .normal, share := o.share.filter (formsValues o) }, dealNormal (plainWork .array) ts (gemmG o) work)

/-- The replay set as dealt now, and the operation without what it forms again. -/
def redealt (s : State) (o : Op) (xs : List Share) : Op × List Share :=
  if o.orient = .exchanged && !((takers s).any (fun t => decide (gemmRows o ≤ t.w))) then normalInstead o (takers s) xs
  else (forget o xs, redeal o (takers s) xs)

/-- Steps 4 and 5 of R198 for a replay set; no region to take it ends the operation (R201). -/
def replayDeal (s : State) (o : Op) (xs : List Share) : State :=
  let r := redealt s o xs
  if r.2.isEmpty then abandon s stFault 0
  else
    let kept := r.1.share.flatMap (keptPart o xs)
    let gone (t : Tile) : Bool := xs.any (fun x => x.run = t.run) && !kept.any (fun x => x.run = t.run)
    let again := ((s.master.tiles.filter gone).map (·.squash)).foldl (· + ·) 0
    let ys := numberShares r.2 s.master.nextRun
    let p := { r.1 with
               replayed := true
               recount := r.1.recount + again
               share := kept ++ ys }
    let t := setOp (keepTiles s (fun t => !gone t) (fun _ => true)) (fun _ => p)
    refillAll (updAllBanks (dealShares t p ys false))

/-- Work that was placed and has not been dealt is placed anew over the rebuilt weave; where no region can take it, the operation
ends (R201). -/
def placeAnew (s : State) (o : Op) : State :=
  let p := placeOp s o
  if p.share.isEmpty && !o.share.isEmpty then abandon s stFault 0 else setOp s (fun _ => p)

/-- Steps 4 and 5 of R198 over the rebuilt weave. -/
def replace (s : State) (rec : Recovery) : State :=
  match s.master.op with
  | none => s
  | some o =>
    if !hasTiles o then s
    else if !o.dealt then placeAnew s o
    else
      let xs := replayShares s o rec
      if xs.isEmpty then s else replayDeal s o xs

/-! ### Votes (R362, R363) -/

/-- Deal a vote tile of an original and its duplicate; none where no region is eligible. -/
def dealCopy (s : State) (o : Op) (t : Tile) (fields : List Nat) (role : TileRole) : Option State :=
  (nextEligible s o t fields).map (fun r =>
    let n := s.master.nextTile
    refillRegion (updBanks (modMaster s (fun m => { m with nextTile := n + 1, dupNext := r + 1, tiles := m.tiles ++ [copyTile n r role t] })) r) r)

def dupOf (s : State) (id : Nat) : Option Tile := s.master.tiles.find? (fun t => t.role = .duplicate id)
def voteOf (s : State) (id : Nat) : Option Tile := s.master.tiles.find? (fun t => t.role = .vote id)
def againOf (s : State) (id k : Nat) : Option Tile := s.master.tiles.find? (fun t => t.role = .again id k)

/-- The error record of a mismatch (Table 15-9): the original region, the others, the verdict; it names the operation only where it
fails one (Table 15-8). -/
def dupRecord (s : State) (orig dup : Nat) (vote : Option Nat) (verdict : Nat) (repeatMode : Bool) (cls : Nat) (fails : Bool) : State :=
  postError s { kind := 8, unitKind := .region, unit := orig, addr := none, op := if fails then s.master.op.map (opRef s) else none,
                detail := dup + 2 ^ 8 * (vote.getD 0x7F) + verdict * 2 ^ 16 + (if repeatMode then 2 ^ 18 else 0)
                  + cls * 2 ^ 19,
                count := 0 }

/-- The copies of one original leave. -/
def dropCopies (s : State) (id : Nat) : State :=
  keepTiles s (fun t =>
    match t.role with
    | .original => true
    | .duplicate k => k ≠ id
    | .vote k => k ≠ id
    | .again k _ => k ≠ id) (fun _ => true)

def verifyTile (s : State) (id : Nat) : State := modTile s id (fun t => { t with st := .verified })

/-- No region is eligible for a vote: the record without verdict, and the end of the operation. -/
def noVerdict (s : State) (t d : Tile) : State :=
  let seq := nextErrSeq s
  abandon (dupRecord s t.region d.region none 3 s.master.repeatInForce 0 true) stUncorrectable (seq.getD 0)

/-- A copy lost to a failure of its region, dealt again to another eligible one (15 R363). Where none is, a duplicate is skipped
as at a draw (R357), and a vote or a repeat has no verdict. -/
def dealAgain (s : State) (role : TileRole) : State :=
  match (originalOf role).bind (tileAt s), s.master.op with
  | some t, some o =>
    if t.st ≠ .drained || !t.sampled then s
    else
      (match dupOf s t.id with
        | some d => (dealCopy s o t [fieldOf t.region, fieldOf d.region] role).getD (noVerdict s t d)
        | none => (dealCopy s o t [fieldOf t.region] role).getD
            (verifyTile (modGlb s (fun g => { g with skipped := capAdd top16 g.skipped 1 })) t.id))
  | _, _ => s

/-- The rebuild ends: the weave is published with its event, the slot map stands as changed, the replay set and lost copies are
dealt, a pre-selected operation is placed again (R178, R198). -/
def rebuildDone (s : State) : State :=
  match s.master.recovery with
  | none => s
  | some rec =>
    let t := modMaster (publishEvent s) (fun m => { m with recovery := none })
    let u := rec.copies.foldl dealAgain (replace t rec)
    updAllBanks (modMaster u (fun m => { m with pre := m.pre.map (fun o => placeOp u { o with dealt := false }) }))

end Sys2Proof.Machine
end

