-- ==== Sys2Proof/Machine/CollOps.lean ====
section
/-!
DEFINITION. The collective engine: communicators, the readiness exchange, slots and stripes, transfers, the rendezvous of a
send and a recv, and ABORT (16_fabric_links.md R382 to R394). The bodies of READY, START, SLOT_ADJ and ABORT are laid out
as log entry 19 says.
-/
namespace Sys2Proof.Machine

/-! ### Flits -/

/-- The flit types (Table 16-3). -/
def ftData : Byte := 1
def ftSendData : Byte := 2
def ftReady : Byte := 3
def ftStart : Byte := 4
def ftSyncAdd : Byte := 5
def ftTimeReq : Byte := 6
def ftTimeResp : Byte := 7
def ftSlotAdj : Byte := 8
def ftLinkCtrl : Byte := 9
def ftAbort : Byte := 10

def knownType (t : Byte) : Bool := decide (1 ≤ t.toNat) && decide (t.toNat ≤ 10)

/-- Types that carry a job tag (R382). -/
def taggedType (t : Byte) : Bool := t = ftData || t = ftSendData || t = ftReady || t = ftStart || t = ftSyncAdd || t = ftSlotAdj || t = ftAbort

/-- The 1,056 bytes of a flit on the lane (Table 16-2): unused payload bytes are zero, and the CRC stands behind them. -/
def flitBytes (f : Flit) : List Byte :=
  let bs := natBytes 6 f.dest.toNat ++ natBytes 6 f.src.toNat ++ natBytes 1 f.type.toNat ++ natBytes 1 f.plane ++ natBytes 1 f.comm ++
    natBytes 3 f.slot ++ natBytes 4 f.jobTag.toNat ++ natBytes 4 f.index ++ natBytes 2 f.len ++
    (f.payload.take f.len ++ List.replicate 1024 0).take 1024
  bs ++ natBytes 4 (Sys2Proof.Config.crc32 bs).toNat

/-- The flit that 1,056 bytes are, when their CRC is right. -/
def flitOf (bs : List Byte) : Option Flit :=
  let n (a w : Nat) : Nat := leNat ((bs.drop a).take w)
  if bs.length = 1056 && decide (n 1052 4 = (Sys2Proof.Config.crc32 (bs.take 1052)).toNat) then
    some { dest := BitVec.ofNat 48 (n 0 6), src := BitVec.ofNat 48 (n 6 6), type := BitVec.ofNat 8 (n 12 1), plane := n 13 1,
           comm := n 14 1, slot := n 15 3, jobTag := BitVec.ofNat 32 (n 18 4), index := n 22 4, len := n 26 2,
           payload := (bs.drop 28).take (n 26 2) }
  else none

/-- The payload bytes a flit uses; the rest are ignored (R374). -/
def flitBody (f : Flit) : List Byte := f.payload.take f.len

/-- A flit reaches the module on a working plane (R376): dropped and counted for an unknown TYPE (R374), ignored while the module
has no coordinates unless it is a LINK_CTRL or a time message (R375), dropped and counted for its job tag (R382); accepted
otherwise. That the absence of coordinates goes before the tag is a DESIGN CHOICE, log entry 161. -/
def flitGate (s : State) (f : Flit) : State × Bool :=
  if f.type ≠ ftLinkCtrl && (planeLink s f.plane).isNone then (s, false)
  else if !knownType f.type then (modLnk s (fun l => { l with dropType := capAdd top16 l.dropType 1 }), false)
  else if !taggedType f.type then (s, true)
  else if !s.lnk.coordValid then (s, false)
  else if s.lnk.jobTag = 0 || f.jobTag ≠ s.lnk.jobTag then
    (modLnk s (fun l => { l with dropTag := capAdd top16 l.dropTag 1 }), false)
  else (s, true)

/-! ### Widths and rates (R389, R390) -/

/-- Lanes of the module's link on a plane. -/
def planeWidth (s : State) (p : Nat) : Nat :=
  match planeLink s p with
  | some l => if (linkAt s l).st = .live2 then 2 else 1
  | none => 0

/-- R_p in units of 10 MB/s: 96.97 GB/s at x2 and 48.48 GB/s at x1. -/
def planeRate (w : Nat) : Nat := if w = 2 then 9697 else 4848

def sumRates (ws : List Nat) : Nat := (ws.map planeRate).foldl (· + ·) 0

/-- S of R389, in ns. -/
def slotLength (b : Nat) (widths : List Nat) : Nat := ceilDiv (b * 100) (sumRates widths) + 64

/-- The stripes of a transfer: (plane, first byte, bytes) (R390). -/
def stripes (bytes : Nat) (planes widths : List Nat) : List (Nat × Nat × Nat) :=
  let tot := sumRates widths
  let cut (i : Nat) : Nat := if i + 1 = planes.length then bytes else bytes * planeRate (widths.getD i 2) / (64 * tot) * 64
  let rec go : List Nat → Nat → Nat → List (Nat × Nat × Nat)
    | [], _, _ => []
    | p :: ps, i, at_ =>
      let n := if i + 1 = planes.length then bytes - at_ else min (cut i) (bytes - at_)
      (p, at_, n) :: go ps (i + 1) (at_ + n)
  go planes 0 0

/-! ### Elements and transfers (R386) -/

/-- Elements of block r of a tensor of e elements: first and number. -/
def blockOf (e p r : Nat) : Nat × Nat := (r * e / p, (r + 1) * e / p - r * e / p)

/-- Codes of a width packed from bit 0 on. -/
def packCodes (w : Nat) (cs : List Nat) : List Byte :=
  natBytes (ceilDiv (cs.length * w) 8) (cs.reverse.foldl (fun n c => n * 2 ^ w + c % 2 ^ w) 0)

def codeAt (w : Nat) (bs : List Byte) (i : Nat) : Nat :=
  let b0 := i * w / 8
  leNat ((bs.drop b0).take 3) / 2 ^ (i * w % 8) % 2 ^ w

def codeAt32 (bs : List Byte) (i : Nat) : Nat := leNat ((bs.drop (4 * i)).take 4)

/-- The code of element i of packed bytes in a format. -/
def packedCode (fmt : Nat) (bs : List Byte) (i : Nat) : Nat :=
  if fmtBits fmt = 32 then codeAt32 bs i else codeAt (fmtBits fmt) bs i

def collX (o : Op) : TD := o.td 0 0
def collZ (o : Op) : TD := o.td 3 0
def xIdx (o : Op) (p : Nat) : Idx := vIdx (dTr o.words 0) (vAt (dTr o.words 0) (collX o) p)

/-- The bytes of elements [p0, p0 + n) of x: packed codes, then with MX scales one scale byte for each element, with a
tensor scale its four bytes (log entry 19). -/
def xBytes (rd : Nat → Byte) (o : Op) (p0 n : Nat) : List Byte :=
  let x := collX o
  packCodes (fmtBits x.format) ((List.range n).map (fun i => elemCode rd x (xIdx o (p0 + i)))) ++
    (if isMx x then (List.range n).map (fun i => BitVec.ofNat 8 (elemScale rd x (xIdx o (p0 + i)))) else []) ++
    (if x.layout = 3 then natBytes 4 (((tdTensorScale rd x).getD 0).toNat) else [])

/-- The length of that transfer. -/
def xLen (o : Op) (n : Nat) : Nat :=
  let x := collX o
  ceilDiv (n * fmtBits x.format) 8 + (if isMx x then n else 0) + (if x.layout = 3 then 4 else 0)

/-- The FP32 value of element i of a contribution of n elements (R92). -/
def contribF32 (o : Op) (bs : List Byte) (n i : Nat) : F32 :=
  let x := collX o
  let base := ceilDiv (n * fmtBits x.format) 8
  let code := packedCode x.format bs i
  let raw := decodeCode x.format code
  let v := if x.format = 5 && isMx x then raw.scale (-6) else raw
  let e := (bs.getD (base + i) 127).toNat
  let v := if isMx x then (if e = 255 then Val.nan else v.scale ((e : Int) - 127)) else v
  if x.layout = 3 then rne32 (v.mul (f32Val (BitVec.ofNat 32 (leNat ((bs.drop base).take 4))))) else rne32 v

/-- The bytes of elements [p0, p0 + n) of z as they stand. -/
def zBytes (rd : Nat → Byte) (o : Op) (p0 n : Nat) : List Byte :=
  let z := collZ o
  packCodes (fmtBits z.format) ((List.range n).map (fun i => elemCode rd z (tdIdx z (p0 + i))))

/-- Elements counted for blocks: those of x, and of z for an all-gather. -/
def collElems (o : Op) : Nat := if o.variant = 1 then tdElems (collZ o) else tdElems (collX o)

/-- The block of x this rank sends to rank q in the first phase; an all-gather sends the whole of x. -/
def sendBlock (o : Op) (c : Coll) (q : Nat) : Nat × Nat :=
  if o.variant = 1 then (0, tdElems (collX o)) else blockOf (collElems o) c.ranks q

/-- The block of this rank's contributions. -/
def ownBlock (o : Op) (c : Coll) : Nat × Nat := blockOf (collElems o) c.ranks c.rank

/-- Slot k lies in the all-gather of an all-reduce. -/
def gatherSlot (c : Coll) (k : Nat) : Bool := c.variant = 0 && decide (c.ranks ≤ k)

/-- The distance of slot k: k, and in the all-gather of an all-reduce k - (P - 1) (log entry 20). -/
def slotStep (c : Coll) (k : Nat) : Nat := if gatherSlot c k then k - (c.ranks - 1) else k
def slotPeer (c : Coll) (k : Nat) : Nat := (c.rank + slotStep c k) % c.ranks
def slotSource (c : Coll) (k : Nat) : Nat := (c.rank + c.ranks - slotStep c k % c.ranks) % c.ranks

/-- The bytes of slot k's transfer to this rank's peer. -/
def slotBytes (rd : Nat → Byte) (o : Op) (c : Coll) (k : Nat) : List Byte :=
  if gatherSlot c k then
    let b := ownBlock o c
    zBytes rd o b.1 b.2
  else
    let b := sendBlock o c (slotPeer c k)
    xBytes rd o b.1 b.2

/-- The bytes slot k brings from its source. -/
def slotLen (o : Op) (c : Coll) (k : Nat) : Nat :=
  if gatherSlot c k then ceilDiv ((blockOf (collElems o) c.ranks (slotSource c k)).2 * fmtBits (collZ o).format) 8
  else
    match c.variant with
    | 1 => xLen o (tdElems (collX o))
    | _ => xLen o (ownBlock o c).2

/-- B: the largest number of bytes any rank sends to one peer in one slot. -/
def largestTransfer (o : Op) (c : Coll) : Nat :=
  let top := ceilDiv (collElems o) c.ranks
  if o.variant = 1 then xLen o (tdElems (collX o))
  else if o.variant = 0 then max (xLen o top) (ceilDiv (top * fmtBits (collZ o).format) 8)
  else xLen o top

/-! ### Bytes of a send (R386, R392) -/

/-- Rows of a tensor, whole, in linear order: "byte for byte". -/
def rowwise (rd : Nat → Byte) (t : TD) (at_ : Nat → Idx) : List Byte :=
  (List.range (tdRows t)).flatMap (fun r => readBytes rd (tdRowAddr t (at_ r)) (tdRowBytes t))
def sendBytes (rd : Nat → Byte) (o : Op) : List Byte :=
  rowwise rd (collX o) (fun r => rowIdx (collX o) r 0)
def recvLen (o : Op) : Nat := tdRows (collZ o) * tdRowBytes (collZ o)

/-! ### The collective among the operations of the master -/

/-- The first collective of a communicator, in issue order, that a test accepts; a stalled one takes part in nothing (R381). -/
def collWhere (s : State) (comm : Nat) (p : Coll → Bool) : Option Op :=
  (s.master.op.toList ++ s.master.colls).find? (fun o => match o.coll with
    | some c => decide (c.comm = comm) && !c.stalled && p c
    | none => false)

/-- Change one operation of the master, in flight or set aside. -/
def setOpOf (s : State) (o : Op) : State :=
  modMaster s (fun m =>
    { m with
      op := m.op.map (fun x => if sameOp x o then o else x)
      colls := m.colls.map (fun x => if sameOp x o then o else x) })

def putColl (o : Op) (c : Coll) : Op := { o with coll := some c }

def inFlight (s : State) (o : Op) : Bool := match s.master.op with
  | some x => sameOp x o
  | none => false

/-- A collective ends without OK: in flight under R61, or set aside with its record alone. -/
def endColl (s : State) (o : Op) (status : Byte) (detail : Word) : State :=
  if inFlight s o then abandon s status detail else endAside s o status detail

/-- The peers of a collective but this rank. -/
def others (c : Coll) : List Nat := (List.range c.ranks).filter (fun r => r ≠ c.rank)

def toRank (s : State) (c : Coll) (type : Byte) (r : Nat) (payload : List Byte) : Flit :=
  ownFlit s (c.list.getD r 0) type (c.planes.headD 0) c.comm 0 0 payload

/-- Whom the ABORT of a failing rank goes to (R388). -/
def abortTargets (c : Coll) (peer : Nat) : List Nat :=
  if c.variant = 4 || c.variant = 5 then [peer]
  else if c.rank = 0 then others c
  else [0]

/-- The collective of a descriptor that passed check 2, with its number (R388). -/
def newColl (s : State) (ws : List Word) : Coll :=
  { variant := dVariant ws, comm := bits (dParam ws 0).toNat 15 0, num := ((entryKey s ws).map (nextColl s)).getD 0,
    ranks := commRanks s ws, rank := commOwn s ws, planes := commPlanes s ws, list := commList s ws, ready := [],
    told := (commPlanes s ws).map (planeWidth s), agreed := false, started := false, t0 := 0, widths := [], begun := false, sched := [],
    slotNext := 1, early := [], slotsIn := [], got := [], ownDone := false, gathered := [], sent := false, stalled := false,
    done := false }

def collPeer (o : Op) : Nat := (o.param 1).toNat

/-- The number of a collective as messages carry it (log entry 19). -/
def numBytes (c : Coll) : List Byte := natBytes 2 (c.num % 65536)

/-- The body of ABORT: the status and the variant it ends, then the number (log entry 19). -/
def abortBody (c : Coll) (status : Byte) : List Byte := [status, BitVec.ofNat 8 c.variant] ++ numBytes c

/-- Send ABORT with a status (R388). -/
def sendAbort (s : State) (c : Coll) (peer : Nat) (status : Byte) : State :=
  sendFlits s ((abortTargets c peer).map (fun r => toRank s c ftAbort r (abortBody c status)))

/-! ### READY -/

/-- The body of READY: variant, x's format, number, element count, widths of the planes of the set. -/
def readyBody (s : State) (o : Op) (c : Coll) : List Byte :=
  let t := if o.variant = 5 then collZ o else collX o
  natBytes 1 c.variant ++ natBytes 1 t.format ++ numBytes c ++
    natBytes 8 (if o.variant = 5 then recvLen o else tdElems t) ++
    c.planes.map (fun p => BitVec.ofNat 8 (planeWidth s p))

def readyCount (b : List Byte) : Nat := leNat ((b.drop 4).take 8)
def readyAgrees (a b : List Byte) : Bool :=
  decide (a.getD 0 0 = b.getD 0 0) && decide (readyCount a = readyCount b) &&
    decide (fmtBits (a.getD 1 0).toNat = fmtBits (b.getD 1 0).toNat)

/-- The narrower width of each plane over a list of READY bodies. -/
def minWidths (n : Nat) (bs : List (List Byte)) : List Nat :=
  (List.range n).map (fun i => bs.foldl (fun w b => min w (b.getD (12 + i) 2).toNat) 2)

/-! ### Mail: messages that come before their collective is reached -/

def rankOf (c : Coll) (a : BitVec 48) : Nat := c.list.findIdx (fun x => x = a)

/-- The variant a READY or an ABORT names. -/
def flitVariant (f : Flit) : Nat := (if f.type = ftAbort then (flitBody f).getD 1 0 else (flitBody f).getD 0 0).toNat

/-- The number of the collective a message is for (log entry 19). -/
def flitNum (f : Flit) : Nat :=
  let at_ := if f.type = ftStart then 12 else if f.type = ftSlotAdj then 8 else 2
  leNat (((flitBody f).drop at_).take 2)

/-- A message is for this collective: communicator and number (R387, R388). -/
def forColl (c : Coll) (f : Flit) : Bool := decide (f.comm = c.comm) && decide (flitNum f = c.num % 65536)

/-- A READY or an ABORT is of the kind a collective takes: a send takes those of a recv, a recv the ABORT of a send, every
other variant those of its own kind (R387, R388, R392). -/
def flitFits (c : Coll) (f : Flit) : Bool :=
  match c.variant with
  | 4 => decide (flitVariant f = 5)
  | 5 => f.type = ftAbort && decide (flitVariant f = 4)
  | _ => decide (flitVariant f ≤ 3)

/-- The key of the collectives here that a READY or an ABORT is for. -/
def flitKey (f : Flit) : Nat × Nat × Nat :=
  collKey f.comm (if flitVariant f = 5 then 4 else if flitVariant f = 4 then 5 else 0) f.src

/-- The collective a message is for has not been reached here (R388). -/
def notReached (s : State) (f : Flit) : Bool := decide ((flitNum f + 65536 - nextColl s (flitKey f) % 65536) % 65536 < 32768)

/-- The message from a rank that waits for this collective. -/
def mailFrom (s : State) (c : Coll) (r : Nat) : Option Flit :=
  s.lnk.mail.find? (fun f => forColl c f && decide (f.src = c.list.getD r 0) && flitFits c f)

def dropMail (s : State) (f : Flit) : State := modLnk s (fun l => { l with mail := l.mail.erase f })

/-! ### Accesses of the engine (R212, R235, R236, R244, R245) -/

/-- The COLLECTIVE in flight. -/
def flightColl (s : State) : Option (Op × Coll) := s.master.op.bind (fun o => o.coll.map (fun c => (o, c)))

/-- Bytes of elements [p0, p0 + n) of x as read. -/
def xSpans (o : Op) (p0 n : Nat) : List Interval := (List.range n).flatMap (fun i => elemReads (collX o) (xIdx o (p0 + i)))
def zSpans (o : Op) (p0 n : Nat) : List Interval := (List.range n).flatMap (fun i => elemReads (collZ o) (tdIdx (collZ o) (p0 + i)))

/-- Write what the engine has for z, and what follows once it is written. -/
def collWrite (s : State) (ws : List BitWrite) (merge : ReadOutcome) (after : State → State) : State :=
  writeNow s (cellsOf (readByte s) ws) merge after

def zWrites (o : Op) (p0 : Nat) (codes : List Nat) : List BitWrite :=
  codes.zipIdx.map (fun p => elemWrite (collZ o) (collZ o).format (tdIdx (collZ o) (p0 + p.2)) p.1)

/-! ### Reduction at the owner (R391) -/

/-- Rank src's contribution of n elements joins the trees over rank. -/
def reduceIn (o : Op) (ranks src n : Nat) (bs : List Byte) : Op :=
  (List.range n).foldl (fun acc i =>
    let node : Node := { level := 0, idx := src, val := .f32 (contribF32 o bs n i) }
    if acc.tree.any (fun x => x.n = i) then
      { acc with tree := acc.tree.map (fun x => if x.n = i then { x with nodes := treeInsert ranks 64 x.nodes node } else x) }
    else { acc with tree := acc.tree ++ [{ out := 0, batch := 0, m := 0, n := i, nodes := treeInsert ranks 64 [] node }] }) o

/-- The reduced value of element i, once every rank's contribution is in. -/
def reducedAt (o : Op) (ranks i : Nat) : Option FootVal := (o.tree.find? (fun x => x.n = i)).elim none (fun x => treeRoot ranks x.nodes)

/-- The owner rounds each tree result once into z's format. -/
def reducedCodes (o : Op) (c : Coll) (n : Nat) : List Nat :=
  (List.range n).map (fun i =>
    (encodeVal (collZ o).format (modeAt o.round o.seed 3 i)
      (f32Val (((reducedAt o c.ranks i).getD (.f32 0)).toF32))).1)

/-- The own block is written once every contribution is in. -/
def tryReduce (s : State) (merge : ReadOutcome) : State :=
  match flightColl s with
  | some (o, c) =>
    let b := ownBlock o c
    if c.begun && !c.ownDone && (c.variant = 0 || c.variant = 2) && (List.range b.2).all (fun i => (reducedAt o c.ranks i).isSome) then
      collWrite s (zWrites o (if c.variant = 0 then b.1 else 0) (reducedCodes o c b.2)) merge
        (fun t => setOpOf t (putColl o { c with ownDone := true }))
    else s
  | none => s

/-- Blocks of z that peers bring whole. -/
def wanted (o : Op) (c : Coll) : List Nat :=
  match c.variant with
  | 0 => (others c).filter (fun r => decide (0 < (blockOf (collElems o) c.ranks r).2))
  | 1 => (others c).filter (fun r => decide (0 < (blockOf (collElems o) c.ranks r).2))
  | 3 => (others c).filter (fun r => decide (0 < (blockOf (tdElems (collZ o)) c.ranks r).2))
  | _ => []

/-- Every byte of z is written (R393); slots of this rank that are still to be sent do not hold the commit. -/
def checkDone (s : State) : State :=
  match flightColl s with
  | some (o, c) =>
    if c.variant ≤ 3 && c.begun && (c.ownDone || c.variant = 1 || c.variant = 3) && (wanted o c).all (fun r => c.gathered.contains r) then setOpOf s (putColl o { c with done := true })
    else s
  | none => s

/-! ### Going into flight -/

/-- Flits of a transfer, stripe by stripe. -/
def transferFlits (s : State) (c : Coll) (ws : List Nat) (type : Byte) (dest slot : Nat) (bs : List Byte) : List Flit :=
  (stripes bs.length c.planes ws).flatMap (fun p =>
    (pieces p.2.1 p.2.2 1024).zipIdx.map (fun q =>
      ownFlit s (c.list.getD dest 0) type p.1 c.comm slot q.2 ((bs.drop q.1.1).take q.1.2)))

/-- What the engine reads of x when its data phase begins: a send's rows, an all-gather's whole x, else the own block. -/
def beginSpans (o : Op) (c : Coll) : List Interval :=
  match c.variant with
  | 4 => (List.range (tdRows (collX o))).map (fun r =>
      (tdRowAddr (collX o) (rowIdx (collX o) r 0), tdRowAddr (collX o) (rowIdx (collX o) r 0) + tdRowBytes (collX o) - 1))
  | 5 => []
  | 1 => xSpans o 0 (tdElems (collX o))
  | _ => xSpans o (ownBlock o c).1 (ownBlock o c).2

/-- The data phase has begun: the entry is Running (Table 2-9). -/
def nowBegun (s : State) (o : Op) (c : Coll) : State :=
  setOpOf (modEntry s o.ring o.count (fun e => { e with st := .running })) (putColl o { c with begun := true })

/-- The codes of elements [p0, p0 + n) of x moved into z from element z0 on. -/
def moveOwn (s : State) (o : Op) (c : Coll) (rd : Nat → Byte) (z0 p0 n : Nat) (merge : ReadOutcome) : State :=
  collWrite s (zWrites o z0 ((List.range n).map (fun i => elemCode rd (collX o) (xIdx o (p0 + i))))) merge
    (fun t => nowBegun t o c)

/-- What an operation in flight does at once: its own block, or a send's data; it waits while its reads wait. `own` tells of these
reads, `merge` of those of the part writes of its own block. -/
def collBegin (s : State) (o : Op) (c : Coll) (own merge : ReadOutcome) : State :=
  readNow s (beginSpans o c) own (fun t =>
    let rd := seenByte t own
    match c.variant with
    | 4 => nowBegun (sendFlits t (transferFlits t c c.widths ftSendData (collPeer o) (c.num % 2 ^ 24) (sendBytes rd o))) o { c with sent := true }
    | 5 => nowBegun t o c
    | 1 => moveOwn t o c rd (blockOf (collElems o) c.ranks c.rank).1 0 (tdElems (collX o)) merge
    | 3 => moveOwn t o c rd (ownBlock o c).1 (ownBlock o c).1 (ownBlock o c).2 merge
    | _ => nowBegun t (reduceIn o c.ranks c.rank (ownBlock o c).2 (xBytes rd o (ownBlock o c).1 (ownBlock o c).2)) c)

/-! ### Slots and arriving data (R389 to R391) -/

/-- The scheduled start of slot k. -/
def slotStart (c : Coll) (k : Nat) : Nat :=
  match (c.sched.filter (fun p => decide (p.k ≤ k))).getLast? with
  | some p => p.start + (k - p.k) * p.len
  | none => c.t0

/-- The widths the planes have in slot k. -/
def slotWidths (c : Coll) (k : Nat) : List Nat :=
  match (c.sched.filter (fun p => decide (p.k ≤ k))).getLast? with
  | some p => p.widths
  | none => c.widths

/-- The first slot that starts at a time or later; the one after the last slot when none does. -/
def firstSlotFrom (c : Coll) (t : Nat) : Nat :=
  (((List.range (lastSlot c + 1)).drop 1).find? (fun k => decide (t ≤ slotStart c k))).getD (lastSlot c + 1)

/-- From slot k1 on, slots last S' and the planes have new widths (R394). -/
def reschedule (c : Coll) (k1 len : Nat) (ws : List Nat) : Coll :=
  { c with sched := c.sched ++ [{ k := k1, start := slotStart c k1, len := len, widths := ws }] }

/-- What slot k's transfer reads: the reduced own block of z in an all-gather phase, else a block of x. -/
def slotSpans (o : Op) (c : Coll) (k : Nat) : List Interval :=
  if gatherSlot c k then zSpans o (ownBlock o c).1 (ownBlock o c).2
  else xSpans o (sendBlock o c (slotPeer c k)).1 (sendBlock o c (slotPeer c k)).2

/-- A collective after a SLOT_ADJ: a plane any member runs x1 counts as x1 (R389, R394). -/
def adjusted (c : Coll) (f : Flit) : Coll :=
  let ws := (slotWidths c (lastSlot c + 1)).zipWith min (((flitBody f).drop 10).map (·.toNat))
  reschedule c (leNat (((flitBody f).drop 4).take 4)) (leNat ((flitBody f).take 4)) ws

/-- The body of SLOT_ADJ: S', k1, the number and the widths of the planes (R394, log entry 19). -/
def slotAdjBody (c : Coll) (len k1 : Nat) (ws : List Nat) : List Byte :=
  natBytes 4 len ++ natBytes 4 k1 ++ numBytes c ++ ws.map (fun w => BitVec.ofNat 8 w)

/-- The widths of a collective's slots with this member's links as they now are. -/
def narrowed (s : State) (c : Coll) : List Nat :=
  (c.planes.zip (slotWidths c (lastSlot c + 1))).map (fun q => if planeWidth s q.1 = 1 then 1 else q.2)

/-- This member's link on a plane of the set has changed its width: it sends SLOT_ADJ and follows it (R394). -/
def adjustColl (s : State) (o : Op) (c : Coll) : State :=
  let ws := narrowed s c
  let len := slotLength (largestTransfer o c) ws
  let k1 := firstSlotFrom c ((gtcNs s).toNat + 20000)
  setOpOf (sendFlits s ((others c).map (fun r => toRank s c ftSlotAdj r (slotAdjBody c len k1 ws))))
    (putColl o (reschedule c k1 len ws))

/-- The flits of the next slot's transfer. -/
def slotFlits (s : State) (rd : Nat → Byte) (o : Op) (c : Coll) : List Flit :=
  transferFlits s c (slotWidths c c.slotNext) ftData (slotPeer c c.slotNext) c.slotNext (slotBytes rd o c c.slotNext)

/-- This rank sends the next slot. -/
def sendSlot (s : State) (o : Op) (c : Coll) (reads : ReadOutcome) : State :=
  let own := outcomeOf reads (slotSpans o c c.slotNext)
  readNow s (slotSpans o c c.slotNext) own (fun t =>
    setOpOf (sendFlits t (slotFlits t (seenByte t own) o c)) (putColl o { c with slotNext := c.slotNext + 1 }))

/-- The first of the collectives that have committed sends its next slot; the last one ends it. -/
def tailSent (s : State) (x : Tail) (c : Coll) (own : ReadOutcome) (ts : List Tail) : State :=
  let t := sendFlits (noteReads s own) (slotFlits s (memGet (turned x.data own.wrong)) x.op c)
  let y : Tail := { x with op := putColl x.op { c with slotNext := c.slotNext + 1 } }
  modMaster t (fun m => { m with tail := if lastSlot c ≤ c.slotNext then ts else y :: ts })

/-- Its reads meet what those of an operation meet (R236, R244, R245); an error has its record and ends the sending, and fails no
operation: DESIGN CHOICE, log entry 158. -/
def sendTail (s : State) (x : Tail) (c : Coll) (reads : ReadOutcome) (ts : List Tail) : State :=
  let own := outcomeOf reads (slotSpans x.op c c.slotNext)
  let stop (u : State) : State := modMaster u (fun m => { m with tail := ts })
  match readAccess s (slotSpans x.op c c.slotNext) own.uncorrectable with
  | .waits => s
  | .failed m => stop (postError s { noErr with kind := 7, unitKind := .stack, unit := m })
  | .bad addrs => stop (postReadErrs (addrs.foldl (fun acc a => countBad (markBad acc a) a) s) addrs none false).1
  | _ => tailSent s x c own ts

/-- Insert by plane and INDEX. -/
def insertGot (x : GotFlit) : List GotFlit → List GotFlit
  | [] => [x]
  | y :: l => if x.plane < y.plane || (x.plane = y.plane && x.index ≤ y.index) then x :: y :: l else y :: insertGot x l

def gotBytes (got : List GotFlit) (slot : Nat) : List Byte :=
  ((got.filter (fun g => g.slot = slot)).foldl (fun acc g => insertGot g acc) []).flatMap (·.bytes)

/-- A whole transfer of slot k in flight: it joins the trees, or its block of z is written. -/
def slotArrived (s : State) (o : Op) (c : Coll) (k : Nat) (bs : List Byte) (merge : ReadOutcome) : State :=
  let src := slotSource c k
  let d := { c with got := c.got.filter (fun g => g.slot ≠ k), slotsIn := k :: c.slotsIn }
  if !gatherSlot c k && (c.variant = 0 || c.variant = 2) then
    tryReduce (setOpOf s (putColl (reduceIn o c.ranks src (ownBlock o c).2 bs) d)) merge
  else
    let b := blockOf (if c.variant = 3 then tdElems (collZ o) else collElems o) c.ranks src
    collWrite s (zWrites o b.1 ((List.range b.2).map (packedCode (collZ o).format bs))) merge
      (fun t => setOpOf t (putColl o { d with gathered := src :: c.gathered }))

/-- The transfer of slot k, once the data phase has begun and every byte of it is there. -/
def replayGot (s : State) (k : Nat) (merge : ReadOutcome) : State :=
  match flightColl s with
  | some (o, c) =>
    let bs := gotBytes c.got k
    if c.variant ≤ 3 && c.begun && c.got.any (fun g => g.slot = k) && slotLen o c k ≤ bs.length then slotArrived s o c k bs merge else s
  | none => s

/-- The recv's acknowledgement leaves (R392): no flit type is given for it, log entry 40. -/
def acknowledge (s : State) (o : Op) (c : Coll) : State :=
  modSide s (fun d => { d with acks := d.acks ++ [(c.list.getD (collPeer o) 0, c.comm, c.num)] })

/-- A recv in flight whose data is whole writes it into z, byte for byte, and acknowledges it (R386, R392); bytes beyond z are no part
of it (R65). The bits behind the last element of a row come with its bytes, though R71 writes zeros there: DESIGN CHOICE, log entry
162. -/
def recvWhole (s : State) (merge : ReadOutcome) : State :=
  match flightColl s with
  | some (o, c) =>
    let bs := gotBytes c.got 0
    if c.variant ≠ 5 || !c.begun || c.done || bs.length < recvLen o then s
    else
      let n := tdRowBytes (collZ o)
      let ws := (bs.take (recvLen o)).zipIdx.map (fun p =>
        ({ addr := tdRowAddr (collZ o) (rowIdx (collZ o) (p.2 / n) 0) + p.2 % n, off := 0, width := 8, code := p.1.toNat } : BitWrite))
      collWrite s ws merge (fun t => acknowledge (setOpOf t (putColl o { c with got := [], sent := true, done := true })) o c)
  | none => s

/-- The collective in flight does whatever it can: its data phase begins, whole transfers are taken, the own block and a recv's
data are written. What must wait for a stack or a bank is tried again. `reads` tells of its reads and of those of its part
writes. -/
def collKick (s : State) (reads : ReadOutcome) : State :=
  match flightColl s with
  | some (o, c) =>
    if !c.started || c.stalled || c.done || !masterOn s then s
    else
      let merge := if c.begun then reads else outcomeBeside reads (beginSpans o c)
      let t := if c.begun then s else collBegin s o c (outcomeOf reads (beginSpans o c)) merge
      let u := (c.got.map (·.slot)).eraseDups.foldl (fun acc k => replayGot acc k merge) t
      checkDone (recvWhole (tryReduce u merge) merge)
  | none => s

/-- A DATA flit of slot k (R389 to R391). -/
def dataArrived (s : State) (o : Op) (c : Coll) (f : Flit) (merge : ReadOutcome) : State :=
  let t := setOpOf s (putColl o { c with got := c.got ++ [{ slot := f.slot, plane := f.plane, index := f.index, bytes := flitBody f }] })
  if masterOn s then checkDone (replayGot t f.slot merge) else t

/-- A SEND_DATA flit of the recv's peer. -/
def sendDataArrived (s : State) (o : Op) (c : Coll) (f : Flit) (merge : ReadOutcome) : State :=
  let t := setOpOf s (putColl o { c with got := c.got ++ [{ slot := 0, plane := f.plane, index := f.index, bytes := flitBody f }] })
  if masterOn s then recvWhole t merge else t

/-- A collective set aside is stalled (R381). -/
def stalledOp (o : Op) : Bool := o.coll.elim false (·.stalled)

/-- A collective set aside goes into flight when nothing else is; a stalled one never does. -/
def takeColl (s : State) (reads : ReadOutcome) : State :=
  match s.master.sel, ((asideOps s).filter (fun o => !stalledOp o)).head? with
  | none, some o =>
    let es := (ringAt s o.ring).entries.filter (fun e => e.count = o.count)
    collKick (modMaster s (fun m =>
      { m with
        sel := some { ring := o.ring, members := es, next := es.length }
        op := some o
        done := []
        tiles := []
        colls := m.colls.filter (fun x => !sameOp x o) })) reads
  | _, _ => s

/-- The widths that this member's READY told hold no more: it sends SLOT_ADJ (R394). -/
def matchWidths (s : State) (o : Op) (c : Coll) : State :=
  if c.variant ≤ 3 && decide (c.planes.map (planeWidth s) ≠ c.told) then adjustColl s o c else s

/-- A collective becomes Accepted (R387, R388): its entry, and its start when it is in flight or nothing else is. The next
entry of its ring may become head. -/
def collAccepted (s : State) (o : Op) (c : Coll) (reads : ReadOutcome) : State :=
  let d := { c with agreed := true, started := true }
  let t := setOpOf (modEntry (acceptance s) o.ring o.count (fun e => { e with st := .accepted })) (putColl o d)
  let u := headUpdate (matchWidths (if c.variant = 5 then sendFlits t [toRank t c ftReady (collPeer o) (readyBody t o c)] else t) (putColl o d) d)
    o.ring
  if inFlight u o then collKick u reads else if mayRun u then takeColl u reads else u

/-- The exchange of a collective is over. It is accepted once no rebuild runs, the module is not on its way into deep sleep (R273)
and no region has to leave the weave at this boundary; checks 6 and 9 then see the slots and the stale list as they stand
(R224): DESIGN CHOICE, log entry 159. -/
def collAgreed (s : State) (o : Op) (c : Coll) (reads : ReadOutcome) : State :=
  if !(mayRun s && (!s.clk.entering || !s.master.done.isEmpty) && boundaryClear s) then setOpOf s (putColl o { c with agreed := true })
  else
    match firstBad [addressCheck s o, staleCheck s o] with
    | .reject status detail => endColl (sendAbort s c (collPeer o) status) o status detail
    | _ => collAccepted s o c reads

/-- A collective whose acceptance has waited. -/
def acceptAgreed (s : State) (reads : ReadOutcome) : State :=
  match (s.master.op.toList ++ s.master.colls).findSome? (fun o =>
      (o.coll.filter (fun c => c.agreed && !c.started && !c.stalled)).map (fun c => (o, c))) with
  | some (o, c) => collAgreed s o c reads
  | none => s

/-! ### The readiness exchange (R387, R388) -/

/-- START arrives, or rank 0 has sent it; SLOT_ADJ messages that came before it apply now. -/
def collStart (s : State) (o : Op) (c : Coll) (t0 len : Nat) (widths : List Nat) (reads : ReadOutcome) : State :=
  let d := { c with t0 := t0, widths := widths, sched := [{ k := 1, start := t0, len := len, widths := widths }], early := [] }
  collAgreed s o (c.early.foldl adjusted d) reads

/-- The body of START: T0, S, the number and the widths (log entry 19). -/
def startBody (c : Coll) (t0 len : Nat) (widths : List Nat) : List Byte :=
  natBytes 8 t0 ++ natBytes 4 len ++ numBytes c ++ widths.map (fun w => BitVec.ofNat 8 w)

/-- Rank 0 has every rank's READY: agreement, then START or ABORT. -/
def collCheck (s : State) (o : Op) (c : Coll) (reads : ReadOutcome) : State :=
  if (others c).all (fun r => c.ready.any (fun p => p.1 = r)) then
    let own := readyBody s o c
    if c.ready.all (fun p => readyAgrees own p.2) then
      let t0 := (gtcNs s).toNat + 20000
      let ws := minWidths c.planes.length (own :: c.ready.map (·.2))
      let len := slotLength (largestTransfer o c) ws
      collStart (sendFlits s ((others c).map (fun r => toRank s c ftStart r (startBody c t0 len ws)))) o
        { c with told := c.planes.map (planeWidth s) } t0 len ws reads
    else endColl (sendFlits s ((others c).map (fun r => toRank s c ftAbort r (abortBody c stBadShape)))) o stBadShape 14
  else s

/-- DETAIL of a status that an ABORT brings: a BAD_* status is tied to no field here (R472), so SLOT reads 0xE; of any other it is 0, of
UNCORRECTABLE too, which has no error record here for R67 to name: DESIGN CHOICE, log entry 134. -/
def abortDetail (status : Byte) : Word := if stBadField.toNat ≤ status.toNat && status.toNat ≤ stBadAddress.toNat then 14 else 0

/-- An ABORT for a collective here: rank 0 sends it on to the others (R388). The status is the byte the flit carries; a byte
that Table 2-11 does not name, or none, is taken as it comes, 0 for none: DESIGN CHOICE, log entry 134. -/
def collAborted (s : State) (o : Op) (c : Coll) (src : Nat) (status : Byte) : State :=
  let t := if c.variant ≤ 3 && c.rank = 0 then
      sendFlits s (((others c).filter (fun r => r ≠ src)).map (fun r => toRank s c ftAbort r (abortBody c status)))
    else s
  endColl t o status (abortDetail status)

/-- A READY for a collective here. -/
def collReady (s : State) (o : Op) (c : Coll) (src : Nat) (body : List Byte) (reads : ReadOutcome) : State :=
  if c.variant = 4 then
    if readyCount body = (sendBytes (readByte s) o).length then
      collAgreed s o { c with widths := minWidths c.planes.length [readyBody s o c, body] } reads
    else endColl (sendAbort s c (collPeer o) stBadShape) o stBadShape 14
  else
    let d := { c with ready := c.ready ++ [(src, body)] }
    collCheck (setOpOf s (putColl o d)) (putColl o d) d reads

/-- What waits in the mail for a collective that is reached now; then its own first message. -/
def collExchange (s : State) (o : Op) (c : Coll) (reads : ReadOutcome) : State :=
  match c.variant with
  | 4 =>
    (match mailFrom s c (collPeer o) with
      | some f => if f.type = ftAbort then collAborted (dropMail s f) o c (collPeer o) ((flitBody f).headD 0)
                  else collReady (dropMail s f) o c (collPeer o) (flitBody f) reads
      | none => s)
  | 5 =>
    (match mailFrom s c (collPeer o) with
      | some f => collAborted (dropMail s f) o c (collPeer o) ((flitBody f).headD 0)
      | none => collAgreed s o c reads)
  | _ =>
    if c.rank ≠ 0 then
      (match mailFrom s c 0 with
        | some f => collAborted (dropMail s f) o c 0 ((flitBody f).headD 0)
        | none => sendFlits s [toRank s c ftReady 0 (readyBody s o c)])
    else
      let fs := (others c).filterMap (fun r => (mailFrom s c r).map (fun f => (r, f)))
      let t := fs.foldl (fun acc p => dropMail acc p.2) s
      match fs.find? (fun p => p.2.type = ftAbort) with
      | some p => collAborted t o c p.1 ((flitBody p.2).headD 0)
      | none =>
        let d := { c with ready := fs.map (fun p => (p.1, flitBody p.2)) }
        collCheck (setOpOf t (putColl o d)) (putColl o d) d reads

/-- Stage 1 is passed (R388): outside a group the entry waits aside; inside one it waits in flight. -/
def collReached (s : State) (sel : Selection) (e : Entry) (o : Op) (reads : ReadOutcome) : State :=
  let c := newColl s e.words
  let p := putColl (placeOp s o) c
  let t := updAllBanks (dropPre (modEntry (passColls s [e]) sel.ring e.count (fun x => { x with st := .waiting })))
  let u := if sel.members.length = 1 then modMaster t (fun m => { m with sel := none, op := none, colls := m.colls ++ [p] })
    else modMaster t (fun m => { m with sel := some { sel with next := sel.next + 1 }, op := some p })
  collExchange u p c reads

end Sys2Proof.Machine
end

