-- ==== Sys2Proof/Machine/Gaits.lean ====
section
/-!
DEFINITION. The field grid, the gaits, the granted gait and the modes of the crossings (01_module.md R15,
11_clocks_time.md R269 to R278, 13_gaits_thermal.md R312 to R314).
-/
namespace Sys2Proof.Machine

/-! ### The grid (R15, Table 1-2) -/

def gridRow (f : Nat) : Nat := 2 * (f / 8) + f % 4 / 2
def gridCol (f : Nat) : Nat := 2 * (f / 4 % 2) + f % 2
def fieldAtGrid (r c : Nat) : Nat := 8 * (r / 2) + 4 * (c / 2) + 2 * (r % 2) + c % 2

/-- The field beyond an edge: 0 north, 1 east, 2 south, 3 west (Table 10-5). -/
def neighbour (f d : Nat) : Option Nat :=
  let r := gridRow f
  let c := gridCol f
  match d with
  | 0 => if 0 < r then some (fieldAtGrid (r - 1) c) else none
  | 1 => if c < 3 then some (fieldAtGrid r (c + 1)) else none
  | 2 => if r < 3 then some (fieldAtGrid (r + 1) c) else none
  | 3 => if 0 < c then some (fieldAtGrid r (c - 1)) else none
  | _ => none

def opposite (d : Nat) : Nat := (d + 2) % 4

/-- Both fields lie in one compute die: a seam, else a bridge. -/
def isSeam (f n : Nat) : Bool := decide (f / 4 = n / 4)

/-- Sub-links of a join and how many it needs to be up (R261, Table 10-1). -/
def joinWidth (f n : Nat) : Nat := if isSeam f n then 32 else 24
def joinNeed (f n : Nat) : Nat := if isSeam f n then 24 else 18

/-- Live sub-links of an edge. -/
def liveSubLinks (e : Edge) : Nat := popcount e.live.toNat 32

/-- The stud-book index of sub-link k of a join, seen from the lower-numbered field (Table 15-7). -/
def subLinkIndex (f d k : Nat) : Nat :=
  match neighbour f d with
  | some n => if f < n then (4 * f + d) * 32 + k else (4 * n + opposite d) * 32 + k
  | none => (4 * f + d) * 32 + k

/-- The edge of a join as its index names it: seen from the lower-numbered field. -/
def lowEdge (f d : Nat) : Nat :=
  match neighbour f d with
  | some n => if f < n then d else opposite d
  | none => d

/-- Every join once: the lower-numbered field and its edge. -/
def allJoins : List (Nat × Nat) :=
  (List.range 16).flatMap (fun f => (List.range 4).filterMap (fun d =>
    match neighbour f d with
    | some n => if f < n then some (f, d) else none
    | none => none))

/-- Both ends of the join on an edge have their spine on (Tables 10-6 and 14-10). -/
def joinSpines (s : State) (f d : Nat) : Bool :=
  (fieldAt s f).spineOn && (neighbour f d).elim false (fun n => (fieldAt s n).spineOn)

/-! ### Gaits (Table 11-1) -/

def gaitNum : Gait → Nat
  | .walk => 0 | .trot => 1 | .canter => 2 | .gallop => 3

def gaitOf : Nat → Gait
  | 0 => .walk | 1 => .trot | 2 => .canter | _ => .gallop

def gaitMin (a b : Gait) : Gait := if gaitNum a ≤ gaitNum b then a else b
def gaitBelow (g : Gait) : Gait := gaitOf (gaitNum g - 1)
def gaitAbove (g : Gait) : Gait := gaitOf (gaitNum g + 1)
def gaitLt (a b : Gait) : Bool := decide (gaitNum a < gaitNum b)

/-- The divider of a gait, and its nominal core setpoint in mV. -/
def gaitDivider : Gait → Nat
  | .walk => 12 | .trot => 8 | .canter => 6 | .gallop => 5
def gaitSetpoint : Gait → Nat
  | .walk => 520 | .trot => 560 | .canter => 620 | .gallop => 700

/-- The core setpoint of a region at a gait, in mV: the nominal value and its trim, in steps of 5 mV (R312, R315). -/
def coreSetpoint (g : Gait) (delta : Int) : Int := (gaitSetpoint g : Int) + 5 * delta

/-- Lost IVR phases of a region. -/
def phasesLost (r : Region) : Nat := popcount r.phaseLost.toNat 12

/-- What a live region's lost phases allow (R297, R298): with CAP_POLICY = 1 a region with two lost phases is switched off
at the next boundary and its field keeps the gait it would otherwise run. -/
def phaseCap (policy : Bool) (r : Region) : Gait :=
  match phasesLost r with
  | 0 => .gallop
  | 1 => .canter
  | _ => if policy then .gallop else .trot

/-- What a live region allows its field: its lost phases and its trim cap (R298, R317). -/
def regionCap (policy : Bool) (r : Region) : Gait :=
  if r.live then gaitMin (phaseCap policy r) (if r.trimCap then .trot else .gallop) else .gallop

/-- A gallop limit is in force for a field (R318). -/
def gallopLimited (s : State) (x : Field) : Bool := s.pwr.elecModule || x.planeLimit || x.thermLimit || x.wearLimit

/-- Table 13-2 without the demotion term. -/
def grantedOther (s : State) (f : Nat) : Gait :=
  let x := fieldAt s f
  let caps := (regionsOf f).foldl (fun g r => gaitMin g (regionCap s.pwr.capPolicy (regionAt s r))) .gallop
  gaitMin (gaitOf s.pwr.maxGait.toNat)
    (gaitMin (if x.idle && s.pwr.idleWalkEn then .walk else .gallop)
      (gaitMin caps
        (gaitMin (if 1 ≤ x.stageFailed || x.localSense then .canter else .gallop)
          (gaitMin (if gallopLimited s x then .canter else .gallop)
            (gaitMin x.capLimit (gaitMin x.tempLimit x.stackLimit))))))

/-- The granted gait of a field (R313): the lowest of the gaits of Table 13-2. -/
def grantedGait (s : State) (f : Nat) : Gait := gaitMin (grantedOther s f) (fieldAt s f).demoteLimit

/-- CURB_N is low: driven by the module or by the tray. -/
def curbLow (s : State) : Bool := s.pwr.curbOwn || s.pwr.curbExt

/-- No assertion of CURB_N holds the fields at walk (R309, R310). -/
def mayRise (s : State) : Bool := !curbLow s && s.pwr.curbHigh10ms

/-! ### Crossings (R275 to R278) -/

/-- A crossing FIFO that holds n entries, 8 at most: each is one beat of the sub-link's data, whose bits no command tells (log
entry 146). -/
def fifoOf (s : State) (f d k n : Nat) : List (BitVec 256) := (List.range (min 8 n)).map (Config.crossingBeat s.free f d k)

/-- The mode a crossing between two fields enters: mesochronous, through alignment, at equal gaits, else ratio. -/
def modeFor (s : State) (f n : Nat) : CrossMode := if (fieldAt s f).gait = (fieldAt s n).gait then .aligning else .ratio

/-- One crossing changes mode: it stops passing flits and drains (R278). -/
def changeCrossing (s : State) (f d : Nat) : State :=
  match neighbour f d with
  | none => s
  | some n =>
    if (edgeAt s f d).mode = .idle then s
    else
      let m := modeFor s f n
      let g (e : Edge) : Edge := { e with mode := m, draining := true }
      modEdge (modEdge s f d g) n (opposite d) g

def changeCrossings (s : State) (f : Nat) : State := (List.range 4).foldl (fun t d => changeCrossing t f d) s

/-- The field clock runs. -/
def fieldRuns (s : State) (f : Nat) : Bool := (fieldAt s f).spineOn && (fieldAt s f).pllLock && !(fieldAt s f).halted

/-- The slower of the fields of a crossing: the counts of Table 8-7, Table 10-3 and R233 hold in its beats (R256, R278). -/
def slowerGait (s : State) (f d : Nat) : Gait :=
  match neighbour f d with
  | some n => gaitMin (fieldAt s f).gait (fieldAt s n).gait
  | none => (fieldAt s f).gait

/-- Periods of the 3.6 GHz VCO that n beats of a gait last (R268, R269). -/
def vcoPeriods (g : Gait) (n : Nat) : Nat := n * gaitDivider g

/-- Nanoseconds that a number of beats takes at a gait's nominal beat, rounded down. -/
def beatsNs (g : Gait) (beats : Nat) : Nat := vcoPeriods g beats * 10 / 36

/-- Nanoseconds that a count across a crossing takes at most. -/
def crossingNs (s : State) (f d beats : Nat) : Nat := beatsNs (slowerGait s f d) beats

/-- A field takes a gait (R271), and its crossings change mode; a halted field keeps the gait it halted in (R270). -/
def setGait (s : State) (f : Nat) (g : Gait) : State :=
  if (fieldAt s f).halted then s
  else if (fieldAt s f).gait = g then modField s f (fun x => { x with rising := none })
  else changeCrossings (modField s f (fun x => { x with gait := g, rising := none })) f

/-- A field above its granted gait drops to it; a rise past it is abandoned (R314, R318). -/
def dropGait (s : State) (f : Nat) : State :=
  let g := grantedGait s f
  let x := fieldAt s f
  if gaitLt g x.gait then setGait s f g
  else match x.rising with
    | some r => if gaitLt g r then modField s f (fun y => { y with rising := none }) else s
    | none => s

def dropAll (s : State) : State := (List.range 16).foldl dropGait s

/-- The rise of one gait toward the granted gait begins: the voltage rises first (R271, R314). -/
def startRise (s : State) (f : Nat) : State :=
  let x := fieldAt s f
  if x.spineOn && x.pllLock && !x.halted && mayRise s && x.rising.isNone && gaitLt x.gait (grantedGait s f) then
    modField s f (fun y => { y with rising := some (gaitAbove y.gait) })
  else s

/-- A field that has left idleness waits at walk for its rise before its first tile issues (R314). -/
def awaitsRise (s : State) (f : Nat) : Bool :=
  (fieldAt s f).idleExit && mayRise s && gaitLt (fieldAt s f).gait (grantedGait s f)

/-! ### The copies of the GTC, and timestamps taken in a field (R284, R285) -/

/-- The time code brings the whole value to every spine and landing that is on: those of the I/O dies, two each, then those of
K. -/
def copyGtc (s : State) : State :=
  let t := { s with fields := s.fields.map (fun x => if x.spineOn then { x with gtcCopy := s.clk.gtc, beats := 0 } else x) }
  modClk t (fun c => { c with landGtc := c.landGtc.zipIdx.map (fun p =>
    if (if p.2 < 8 then s.pwr.ioCoreOn.getD (p.2 / 2) false else true) then c.gtc else p.1) })

/-- The GTC copy at a landing of an I/O die. -/
def landTime (s : State) (die : Nat) : Word64 := s.clk.landGtc.getD (2 * die) 0

/-- Beats have passed in a running field since its last timestamp: they count in beat time. -/
def passBeats (s : State) (f : Nat) : State :=
  if s.clk.beatTime && fieldRuns s f then
    bumpFree (modField s f (fun x => { x with beats := x.beats + Config.beatsPassed s.free }))
  else s

/-- A field's timestamp: its GTC copy or, in beat time, the copy at the last whole microsecond and the beats since then, below
the next microsecond. -/
def fieldTime (s : State) (f : Nat) : Word64 :=
  let x := fieldAt s f
  if s.clk.beatTime then x.gtcCopy + BitVec.ofNat 64 (min 999 (beatsNs x.gait x.beats)) else x.gtcCopy

/-- One sample of the core rail, with its field's time (R307). -/
def sampleRail (time : Word64) (mv : Nat) (x : Region) : Region :=
  if x.vminValid && decide (x.vmin ≤ mv) then x else { x with vmin := mv, vminValid := true, vminTime := time }

/-- A sample of a region's core rail, taken `age` ns ago; a value beyond the ten bits of VMIN tells of none. -/
def noteRail (s : State) (r mv : Nat) (age : Nat := 0) : State :=
  if 1023 < mv then s
  else
    let t := passBeats s (fieldOf r)
    modRegion t r (sampleRail (fieldTime t (fieldOf r) - BitVec.ofNat 64 age) mv)

/-- An event that a field originates (R371). -/
def postFieldEvent (s : State) (f code : Nat) (kind : UnitKind) (unit detail : Nat) : State :=
  let t := passBeats s f
  postEventAt t (fieldTime t f) code kind unit detail

end Sys2Proof.Machine
end

