-- ==== Sys2Proof/Machine/SchedCmds.lean ====
section
/-!
DEFINITION. Meanings of the scheduler's commands: heads, waits, acceptance, pre-selection, tiles, votes, commit,
heartbeats, region failure and the rebuild (02_contract.md R49 to R67, 04_array.md R112, 05_stages.md R124 to R145,
07_scheduler.md R176 to R202, 15_integrity_faults.md R356 to R363). A command whose event cannot occur in the present
state leaves the state as it is (log entry 21).
-/
namespace Sys2Proof.Machine

/-! ### Selection and fetch -/

/-- SELECT_OPERATION (R27, R49): heads make their early check and start their waits; then the ready head of the
lowest-numbered ring is taken, a collective that waits to go into flight first, whose reads `reads` tells of. -/
def execSelectOperation (s : State) (reads : ReadOutcome := ReadOutcome.clean) : Res :=
  .next (if masterOn s then
      let t := updateHeads s
      let u := if mayRun t then takeColl (acceptAgreed t reads) reads else t
      if mayStart u then selectNext u else u
    else s)

/-- The bytes of a descriptor in host memory. -/
def descriptorAt (s : State) (r : Ring) : List Byte :=
  readBytes (readByte s) (r.base + 128 * (r.fetch.toNat % ringSize r)) 128

/-- A posted descriptor may be fetched: the ring is enabled and not stopped, the host link is up, nothing sleeps. -/
def mayFetch (s : State) (ring : Nat) : Bool :=
  let r := ringAt s ring
  decide (ring < 16) && masterOn s && r.en && !r.stopped && decide (r.fetch ≠ r.tail) && s.na.up && !s.clk.entering &&
    !s.clk.asleep

/-- DESCRIPTOR_FETCH (R66): the 128 bytes are read and the entry is Fetched; as a head it makes its early check. -/
def execDescriptorFetch (ring : Nat) (host : List Host.Cell) (s : State) : Res :=
  let t := hostMerge s host
  .next (if mayFetch t ring then
      let r := ringAt t ring
      let e : Entry := { noEntry with count := r.fetch, words := wordsOf (descriptorAt t r) }
      headUpdate (modRing t ring (fun x => { x with fetch := x.fetch + 1, entries := x.entries ++ [e] })) ring
    else t)

/-- The head of a ring, when it waits on its sync object. -/
def waitingHead (s : State) (ring : Nat) : Option Entry :=
  match headOf s ring with
  | some (e :: _) => if e.begun && e.ended.isNone && (collOfEntry s ring e.count).isNone then some e else none
  | _ => none

/-- WAIT_SATISFIED (R192): the waiting descriptor whose object has reached the threshold is released. -/
def execWaitSatisfied (ring : Nat) (s : State) : Res :=
  .next (match waitingHead s ring with
    | some e => if e.satisfied then modEntry s ring e.count (fun x => { x with released := true }) else s
    | none => s)

/-- The timeout of an entry has run: 0 means none (Table 2-1), microseconds of GTC time. -/
def timeoutRun (s : State) (e : Entry) : Bool :=
  dWaitEn e.words && decide (0 < dWaitTimeout e.words) &&
    decide (e.since.toNat + dWaitTimeout e.words * 1000 ≤ (gtcNs s).toNat)

/-- The COLLECTIVE of a ring in its readiness exchange, with its entry. -/
def exchanging (s : State) (ring : Nat) : Option (Op × Entry) :=
  ((s.master.op.toList ++ s.master.colls).find? (fun o => decide (o.ring = ring) &&
    o.coll.elim false (fun c => !c.started && !c.agreed && !c.stalled))).bind (fun o =>
      ((ringAt s ring).entries.find? (fun e => e.count = o.count)).map (fun e => (o, e)))

/-- The end of a wait whose timeout has run with no satisfying value seen; it covers a readiness exchange (R192, R387). -/
def expireWait (s : State) (ring : Nat) : State :=
  match exchanging s ring with
  | some (o, e) => if timeoutRun s e then endColl s o stTimeout 0 else s
  | none =>
    match waitingHead s ring with
    | some e => if !e.satisfied && timeoutRun s e then failHead s ring ((headOf s ring).getD [e]) stTimeout 0 else s
    | none => s

/-- WAIT_TIMEOUT_EXPIRY (R192): an expiry in deep sleep is taken at wake (R274). -/
def execWaitTimeoutExpiry (ring : Nat) (s : State) : Res := .next (if s.clk.asleep then s else expireWait s ring)

/-! ### A spine off (R194) -/

/-- The end of a group that signals an object of a spine that is off, with its record: member `idx` names it. -/
def abandonSignal (s : State) (sel : Selection) (idx : Nat) : State :=
  let ws := (sel.members.getD idx noEntry).words
  abandonUnitAt s idx .spine (((dSignals ws).find? (fun g => !syncAvailable s g.obj)).elim 0 (fun g => g.obj / 4096))

/-- The accepted members of the open selection. -/
def acceptedMembers (s : State) (sel : Selection) : List Entry := sel.members.take (acceptedOps s).length

/-- An accepted operation that signals an object of a spine that is off ends. -/
def endLostSignals (s : State) : State :=
  match s.master.sel with
  | some sel =>
    (match signalLost s (acceptedMembers s sel) with
      | some idx => abandonSignal s sel idx
      | none => s)
  | none => s

/-- A COLLECTIVE set aside that signals such an object. -/
def endLostAside (s : State) (o : Op) : State :=
  match (dSignals o.words).find? (fun g => !syncAvailable s g.obj) with
  | some g => abandonAside s o .spine (g.obj / 4096)
  | none => s

/-- The descriptor of a ring that was waiting when its object's spine went off completes with BAD_FIELD; the ring may have
stopped with the joins of the field by then (log entry 135). -/
def failLostWait (s : State) (ring : Nat) : State :=
  match freshEntries s ring with
  | e :: es =>
    if lostWait s e then
      failHead s ring ((membersOf 16 (e :: es)).getD [e]) stBadField (dfWord (opF 88))
    else s
  | [] => s

/-- SPINE_OFF_LEARNT (R194): within 10 us the master learns that the spine of a field is off. -/
def execSpineOffLearnt (field : Nat) (s : State) : Res :=
  onUnit (decide (field < 16))
    (if (fieldAt s field).spineOn then s
     else
      let t := endLostSignals ((List.range 16).foldl failLostWait s)
      (asideOps t).foldl endLostAside t)

/-! ### Acceptance -/

/-- The record a CAPQUERY will write, as its acceptance finds the module (R47). -/
def withRecord (s : State) (o : Op) : Op := if o.opcode = 15 then { o with capRecord := capRecord s } else o

/-- A member fails a check: alone before any member is accepted, else the whole group (R49, R59, R61). -/
def rejectMember (s : State) (sel : Selection) (idx : Nat) (status : Byte) (detail : Word) : State :=
  if idx = 0 then modMaster (failHead s sel.ring sel.members status detail) (fun m => { m with sel := none, done := [] })
  else endGroup s idx status detail

/-- A descriptor, tensor descriptor or table that cannot be read: its record, then UNCORRECTABLE (R49, R354). -/
def rejectBad (s : State) (sel : Selection) (idx : Nat) (e : Entry) (addr : Nat) : State :=
  let ref := (dTag e.words, sel.ring, e.count.toNat % ringSize (ringAt s sel.ring))
  let p := postReadErrs (countBad (markBad s addr) addr) [addr] (some ref) false
  rejectMember p.1 sel idx stUncorrectable (p.2.getD 0)

/-- What acceptance reads lies on a failed stack (R202, R245). -/
def rejectUnit (s : State) (sel : Selection) (idx : Nat) (e : Entry) (stack : Nat) : State :=
  let ref := (dTag e.words, sel.ring, e.count.toNat % ringSize (ringAt s sel.ring))
  let seq := (nextErrSeq s).getD 0
  rejectMember (postError s { noErr with kind := 7, unitKind := .stack, unit := stack, op := some ref }) sel idx stUncorrectable seq

/-- A rejected COLLECTIVE whose communicator passed check 2 sends ABORT (R388). -/
def rejectAbort (s : State) (e : Entry) (badReads : List Nat) (first : Bool) (status : Byte) : State :=
  if dOpcode e.words = 12 && decide (checks12 s e first badReads = .ok) then
    sendAbort s (newColl s e.words) (dParam e.words 1).toNat status
  else s

/-- The module as reads show it that met a write, or were corrected wrongly (R220, R234). -/
def seenState (s : State) (reads : ReadOutcome) : State :=
  reads.wrong.foldl (fun acc w => writeByte acc w.1 (readByte acc w.1 ^^^ w.2)) (writeCells s (metCells s reads.met))

/-- A member passes every check. -/
def acceptMember (s : State) (sel : Selection) (e : Entry) (o : Op) (reads : ReadOutcome) : State :=
  if o.opcode = 12 then collReached s sel e o reads else runRecord (takeMember s sel e (withRecord s o))

/-- Checks 1 to 9 on the next member, and what follows (R49); they wait while a read of theirs waits (R219, R244). What the command
tells of other reads is for what an accepted member reads then. -/
def acceptNext (s : State) (sel : Selection) (reads : ReadOutcome) : State :=
  match sel.members[sel.next]? with
  | none => s
  | some e =>
    let t := openMember s sel.next
    let v := seenState t reads
    let earlier := earlierFoots t sel.next
    let spans := acceptReads v sel.ring sel.members sel.next e earlier true
    let own := outcomeOf reads spans
    let u := noteReads t own
    let bad := own.uncorrectable
    match readAccess t spans [] with
    | .waits => s
    | .failed m =>
      rejectUnit (if (failedStack t (commReads v e.words)).isNone then rejectAbort u e bad (sel.next = 0) stUncorrectable else u)
        sel sel.next e m
    | _ =>
      match acceptVerdict v sel.ring sel.members sel.next e earlier bad true with
      | .ok => acceptMember u sel e (parseOp v sel.ring e) (outcomeBeside reads spans)
      | .reject status detail => rejectMember (rejectAbort u e bad (sel.next = 0) status) sel sel.next status detail
      | .bad addr => rejectBad (rejectAbort u e bad (sel.next = 0) stUncorrectable) sel sel.next e addr

/-- A member may be accepted now: the first one starts an operation, the others go on with one. -/
def mayAccept (s : State) (sel : Selection) : Bool := (if sel.next = 0 then mayStart s else mayRun s) && boundaryClear s

/-- ACCEPT_OPERATION (R49): the next member of the selection is checked and becomes Accepted, or completes with the
failing status. -/
def execAcceptOperation (host : List Host.Cell) (reads : ReadOutcome) (s : State) : Res :=
  let t := hostMerge s host
  .next (if mayRun t then
      let u := closeMember t
      (match u.master.sel, u.master.op with
        | some sel, none => if mayAccept u sel then acceptNext u sel reads else u
        | _, _ => u)
    else t)

/-- The last work of the current operation has been dealt to the agents (R178). -/
def allDealt (s : State) : Bool :=
  match s.master.sel, s.master.op with
  | some sel, some o => decide (sel.next = sel.members.length) && (!hasTiles o || o.dealt)
  | _, _ => false

/-- The advisor's table as the pre-selected operation finds it. -/
def openPre (s : State) : State := { s with master := { s.master with advisorStart := advTable s, done := [] } }

/-- The first member of a pre-selected entry is checked and, if it passes, placed; the entry stays Fetched. -/
def preAccept (s : State) (ring : Nat) (e : Entry) (members : List Entry) (reads : ReadOutcome) : State :=
  let t := noteReads s reads
  let v := seenState (openPre t) reads
  match acceptVerdict v ring members 0 e [] reads.uncorrectable false with
  | .ok =>
    let o := parseOp v ring e
    if hasTiles o then updAllBanks (modMaster t (fun m => { m with pre := some (placeOp t o) })) else t
  | _ => t

/-- PRESELECT_NEXT (R178): while the current operation runs, the next one is chosen, checked and placed. -/
def execPreselectNext (host : List Host.Cell) (reads : ReadOutcome) (s : State) : Res :=
  let t := hostMerge s host
  .next (if mayStart t && allDealt t && t.master.preSel.isNone then
      let u := updateHeads t
      match readyRing u with
      | some (r, e :: es) =>
        let keep := modMaster u (fun m => { m with preSel := some { ring := r, members := e :: es, next := 0 } })
        let spans := acceptReads (seenState (openPre u) reads) r (e :: es) 0 e [] false
        (match readAccess u spans [] with
          | .waits => u
          | .failed _ => keep
          | _ => preAccept keep r e (e :: es) (outcomeOf reads spans))
      | _ => u
    else t)

/-- The Drain writes the frozen rows of a masked product (R162). -/
def writeFrozen (s : State) (merge : ReadOutcome) : State :=
  match s.master.op with
  | some o =>
    if o.frozenLeft && o.dealt then
      writeNow s (cellsOf (readByte s) (frozenWrites o)) merge (fun t => setOp t (fun x => { x with frozenLeft := false }))
    else s
  | none => s

/-- The work of the current operation, or of the pre-selected one, goes to the agents. -/
def dealOp (s : State) (o : Op) (pre : Bool) : State :=
  let p := { o with dealt := true, share := numberShares o.share s.master.nextRun }
  let t := modMaster s (fun m => if pre then { m with pre := some p } else { m with op := some p })
  refillAll (updAllBanks (dealShares t p p.share pre))

/-- The operation has work for the pipeline and no region took any of it at its placement: DESIGN CHOICE, log entry 174. -/
def stranded (o : Op) : Bool := hasTiles o && o.share.isEmpty && !(o.masked && o.trainable.isEmpty)

/-- PLACEMENT_DEALT (R177, R179, R180): the agents expand the work of the current operation, else of the pre-selected one,
into tiles and fill the queues; the frozen rows of a masked product are written, once their writes are served: `merge` tells of
the reads of their part writes (R235). -/
def execPlacementDealt (s : State) (merge : ReadOutcome := ReadOutcome.clean) : Res :=
  .next (match s.master.op with
    | some o =>
      if !masterOn s || s.master.recovery.isSome then s
      else if hasTiles o && !o.dealt then
        (if stranded o then abandon s stFault 0 else writeFrozen (dealOp s o false) merge)
      else
        let t := writeFrozen s merge
        (match t.master.pre with
          | some q => if q.dealt || stranded q || t.master.op.isNone then t else dealOp t q true
          | none => t)
    | none => s)

/-! ### Loads -/

/-- TILE_BUFFERS_TAKEN (R182 to R184): an ASSIGNED tile takes a stationary and a streaming buffer in one beat; where none is
free, the array has gone on by then. -/
def execTileBuffersTaken (tile : Nat) (s : State) : Res :=
  .next (match tileAt s tile, opOfTile s tile with
    | some t, some o =>
      let u := if (freeBuf s t.region).isSome then s else advanceArray s t.region
      if mayTakeBuffers u t && (!isPre s tile || preMayLoad s o) && s.master.recovery.isNone && masterOn s then
        (match freeBuf u t.region with
          | some b =>
            modTile u tile (fun x =>
              { x with
                st := .loading
                buf := b
                statGen := (regionAt u t.region).statGen.getD b 0
                strmGen := (regionAt u t.region).strmGen.getD b 0 })
          | none => s)
      else s
    | _, _ => s)

/-- Footprints of the unfenced inputs of an operation. -/
def unfencedFoots (o : Op) : List Interval :=
  ((List.range 3).filter (dUnfenced o.words)).flatMap (fun n => (o.members n).flatMap tdFoots)

/-- Count the lines of unfenced inputs on which a read met a write, in the regions that hold them (R223). -/
def countMeets (s : State) (o : Op) (met : List Nat) : State :=
  let feet := unfencedFoots o
  met.foldl (fun acc a =>
    if isSpad a && feet.any (overlaps (a / 128 * 128, a / 128 * 128 + 127)) then
      (match slotAt s (slotOf a) with
        | .mapped r => modRegion acc r (fun x => { x with hits := capAdd top32 x.hits 1 })
        | _ => acc)
    else acc) s

/-- A tile has every operand; what the Feeder reads in place is not among them. -/
def nowResident (s : State) (tile : Nat) (o : Op) (t : Tile) (reads : ReadOutcome) : State :=
  let here := inPlaceFoots s o t
  let m := seenMem s o.inFoots reads
  modTile s tile (fun x => { x with st := .resident, snap := memKeep m (fun a => !anyFoot here a) })

/-- The data of a tile's reads (R124, R212, R236): uncorrectable errors and granules outside the task range end the
operation; a pre-selected tile stays LOADING and meets them once its operation is accepted. -/
def loadReturn (s : State) (tile : Nat) (o : Op) (t : Tile) (reads : ReadOutcome) : State :=
  let rd := readByte s
  let access := readAccess s (loaderReads s rd o t) reads.uncorrectable
  let bad := tileIndexBad rd o t
  if isPre s tile then
    (match access with
      | .ok => if bad then s else nowResident (noteReads s reads) tile o t reads
      | _ => reads.uncorrectable.foldl markBad s)
  else
    accessMeets s (if decide (access = .ok) && bad then .bound else access) false
      (fun u => nowResident (noteReads u reads) tile o t reads) (fun u => u)

/-- LOADER_READ_RETURN (R124, R220, R236, R264): the reads of a LOADING tile return into its buffers, whose banks are ready.
`meets` names lines on which a read met a write; it returns them as they were before it. -/
def execLoaderReadReturn (tile : Nat) (outcome : ReadOutcome) (meets : List Nat) (host : List Host.Cell) (s : State) : Res :=
  let s := hostMerge s host
  .next (match tileAt s tile, opOfTile s tile with
    | some t, some o =>
      if t.st = .loading && ownGens s t && banksReady s t.region && masterOn s then
        (if outcome.darkTarget then modTile s tile (fun x => { x with invalid := true })
         else
          let out := { outcome with met := meets ++ outcome.met }
          loadReturn (countMeets s o out.met) tile o t out)
      else s
    | _, _ => s)

/-! ### Issue and the array -/

/-- A tile of the same region and operation stands before this one in run order and has not issued (R126). -/
def behind (s : State) (t : Tile) : Bool :=
  (s.master.tiles.takeWhile (fun x => x.id ≠ t.id)).any (fun x =>
    decide (x.region = t.region) && decide (x.role = .original) && decide (t.role = .original) &&
      (x.st = .dealt || x.st = .assigned || x.st = .loading || x.st = .resident))

/-- The tile's values have left the array. -/
def hasLeft (t : Tile) : Bool := t.st = .emitted || t.st = .drained || t.st = .verified

/-- What other tiles must have formed before a tile may run: the rewritten P rows of a second-pass tile (R145), the whole
dS pass of its wave (R159), the exact partials of every row for the column sums (R155). -/
def partsReady (s : State) (o : Op) (t : Tile) : Bool :=
  match t.kind with
  | .attn2 =>
    if o.variant = 0 then
      (List.range t.rows).all (fun r => o.rowMax.any (fun x => decide (x.1 = t.batch) && decide (x.2.1 = t.row0 + r)))
    else s.master.tiles.all (fun x => x.kind ≠ .attn1 || x.role ≠ .original || x.wave ≠ t.wave || x.unit ≠ t.unit || hasLeft x)
  | .bypass =>
    if hasColSums o && t.part = 1 then s.master.tiles.all (fun x => x.part = 1 || x.role ≠ .original || hasLeft x) else true
  | _ => true

/-- The three conditions of R125 and what holds a tile back besides (R19, R96, R126, R314). -/
def mayIssue (s : State) (o : Op) (t : Tile) : Bool :=
  t.st = .resident && !t.invalid && !isPre s t.id && ownGens s t && drainReserved s o t && !shadowTaken s t &&
    s.master.recovery.isNone && masterOn s && !behind s t && partsReady s o t && !awaitsRise s (fieldOf t.region)

/-- The stationary load of the next operation's first tile of a region may go into the shadow bank, while the last tile of the
current one streams (R96): no tile of the current operation waits for that bank. -/
def mayPreload (s : State) (o : Op) (t : Tile) : Bool :=
  let first := (s.master.preTiles.find? (fun x => decide (x.region = t.region) && x.role = .original)).map (·.id)
  t.st = .resident && t.arr = .outside && !t.invalid && (t.kind = .array || t.kind = .attn1) && decide (first = some t.id) &&
    ownGens s t && !shadowTaken s t && allDealt s && preMayLoad s o && s.master.recovery.isNone && masterOn s &&
    s.master.tiles.all (fun x => decide (x.region ≠ t.region) || hasLeft x || x.st = .issued)

/-- What stands at the tile's in-place footprints when it issues. -/
def keepInPlace (s : State) (o : Op) (t : Tile) : Tile := { t with inPlace := snapshot s (inPlaceFoots s o t) }

/-- A bypass tile passes the array states at once (R180), with what it reads in place; it hands its exact column partials on
(R155). -/
def issueBypass (s : State) (o : Op) (t : Tile) (reads : ReadOutcome) : State :=
  let t' := { t with snap := memWrite t.snap (seenMem s (inPlaceFoots s o t) reads), st := .emitted }
  let parts := if hasColSums o && t.part = 0 && t.role = .original then colPartials (memGet t'.snap) o t.run t.row0 t.rows else []
  leaveQueue (releaseTile (setOp (modTile s t.id (fun _ => t')) (fun x => { x with colParts := x.colParts ++ parts })) t) t

/-- TILE_ISSUE (R19, R96, R125): a resident tile of the current operation enters the Feeder; its stationary load goes into
the shadow bank. Of a pre-selected operation only that load goes ahead. `reads` tells of what a bypass tile then reads in place
(R220, R222, R236). -/
def execTileIssue (tile : Nat) (s : State) (reads : ReadOutcome := ReadOutcome.clean) : Res :=
  .next (match tileAt s tile, opOfTile s tile with
    | some t, some o =>
      if isPre s tile then (if mayPreload s o t then loadShadow s o t else s)
      else if mayIssue s o t then
        let u := modEntry s o.ring o.count (fun e => { e with st := .running })
        if t.kind = .bypass then
          accessMeets u (readAccess u (feederReads u (readByte u) o t) reads.uncorrectable) false
            (fun v => issueBypass (countMeets (noteReads v reads) o reads.met) o (keepInPlace v o t) reads) (fun v => v)
        else
          let t' := keepInPlace s o t
          let t'' := { t' with st := .issued }
          enterArray (modTile u tile (fun _ => t'')) o { t'' with snap := memWrite t.snap t'.inPlace }
      else s
    | _, _ => s)

/-- The chunk results of a run go to the region's tree in order; a unit's go home when it holds chunk 0 (R127, R128). -/
def treeLocal (o : Op) (t : Tile) : Bool := decide (t.role = .original) && (t.kind = .attn2 ||
  (t.kind = .array && (o.orient ≠ .exchanged || decide (t.chunk = 0))))

/-- The oldest tile of its region in the array: its vectors have passed, or it streams and none before it is left. -/
def isOldest (s : State) (t : Tile) : Bool :=
  t.st = .issued && (t.arr = .passed || (t.arr = .working && (inPhase s t.region .passed).isEmpty))

/-- What the foot rows of an original give the operation. -/
def takeFoot (rd : Nat → Byte) (o : Op) (t : Tile) : Op :=
  if treeLocal o t then treePut o t
  else if t.kind = .attn1 && t.role = .original then
    (if o.variant = 0 then { o with pBlocks := o.pBlocks ++ pBlocksOf rd o t } else { o with scores := o.scores ++ scoresOf rd o t })
  else o

/-- The last output row of a tile leaves the foot. -/
def leaveArray (s : State) (o : Op) (t : Tile) (upset : List (Nat × Word)) (early : List (Nat × Bool)) (reads : ReadOutcome) : State :=
  let snap := feederSees s o t early reads
  let rd := memGet snap
  let t' := { t with
              snap := snap
              foot := upsetFoot (tileFoot rd o t) upset
              st := .emitted
              arr := .outside
              arrived := treeLocal o t }
  let met := (early.filter (fun l => l.2)).map (·.1) ++ reads.met
  let u := if t.arr = .working then advanceArray s t.region else s
  leaveQueue (modMaster (modTile (countMeets u o met) t.id (fun _ => t')) (fun m => { m with op := some (takeFoot rd o t') })) t

/-- TILE_LEAVES_ARRAY (R181, R204, R222): the foot rows of an issued tile. `upset` is an error in the arithmetic that no check
sees (R351); `early` names lines read in place before a write retired, each with whether it met the write (R220, R223);
`reads` tells of the Feeder's reads, the tree's and staging's. -/
def execTileLeavesArray (tile : Nat) (upset : List (Nat × Word)) (s : State) (early : List (Nat × Bool) := [])
    (reads : ReadOutcome := ReadOutcome.clean) : Res :=
  .next (match tileAt s tile, s.master.op with
    | some t, some o =>
      if isOldest s t && masterOn s then
        accessMeets s (readAccess s (feederReads s (readByte s) o t) reads.uncorrectable) false
          (fun u => leaveArray (noteReads u reads) o t upset early reads) (fun u => u)
      else s
    | _, _ => s)

/-- CHUNK_RESULT_ARRIVAL (R128): the results of a unit of another chunk reach the home region's tree. -/
def execChunkResultArrival (tile : Nat) (s : State) : Res :=
  .next (match tileAt s tile, s.master.op with
    | some t, some o =>
      if masterOn s && hasLeft t && t.role = .original && t.kind = .array && o.orient = .exchanged && !t.arrived then
        modMaster (modTile s tile (fun x => { x with arrived := true })) (fun m => { m with op := some (treePut o t) })
      else s
    | _, _ => s)

/-- STATISTICS_BLOCK_ARRIVAL (R133): the block statistics of a completing tile reach the statistics home. `upset` is an error
in the Epilogue's statistics that no check sees (R351). -/
def execStatisticsBlockArrival (tile : Nat) (s : State) (upset : List (Nat × Word) := []) : Res :=
  .next (match tileAt s tile, s.master.op with
    | some t, some o =>
      if masterOn s && hasLeft t && t.role = .original && o.isArray && o.has 4 && tileCompletes o t && tileReady o t && !t.statsSent then
        modMaster (modTile s tile (fun x => { x with statsSent := true }))
          (fun m => { m with op := some { o with stats := o.stats ++ upsetStats upset (tileStats (memGet t.snap) o t) } })
      else s
    | _, _ => s)

/-- The first-pass shares that form the blocks of a tile's rows. -/
def panelShares (o : Op) (t : Tile) : List Share :=
  o.share.filter (fun x => x.kind = .attn1 && decide (x.unit = t.unit) && decide (x.wave = t.wave) && decide (x.batch = t.batch) &&
    decide (x.part = t.part))

/-- The P blocks of row i that the first pass forms are in. -/
def rowBlocksIn (o : Op) (t : Tile) (i : Nat) : Bool :=
  decide ((o.pBlocks.filter (fun p => decide (p.batch = t.batch) && decide (p.i = i))).length =
    ((panelShares o t).map (·.n)).foldl (· + ·) 0)

/-- A region whose router is off (R259). -/
def isDark (s : State) (r : Nat) : Bool := !(regionAt s r).powered

/-- A multicast copy reaches a region: the source has not cleared its bit, and its router is on (R259). -/
def copyReaches (s : State) (r : Nat) : Bool := (regionAt s r).pubLive && !isDark s r

/-- Regions that hold blocks of a tile's rows. -/
def blockRegions (o : Op) (t : Tile) : List Nat := ((panelShares o t).map (·.region)).eraseDups

/-- A key block of a tile's rows lies in a region that its row maximum reaches. -/
def blockReached (s : State) (o : Op) (t : Tile) (blk : Nat) : Bool :=
  (panelShares o t).all (fun x => !(decide (x.lo ≤ blk) && decide (blk < x.lo + x.n)) || copyReaches s x.region)

/-- The row maximum of row i and the rewrite of the blocks it reaches (R145). -/
def rewriteRow (s : State) (t : Tile) (o : Op) (i : Nat) : Op :=
  let mine (p : PBlock) : Bool := decide (p.batch = t.batch) && decide (p.i = i)
  let own := o.pBlocks.filter mine
  let mhat := attnRowMax (own.map (·.mb))
  let bad := f32Bad mhat || own.any (fun p => f32Bad p.mb)
  { o with
    rowMax := (t.batch, i, mhat) :: o.rowMax
    pBlocks := o.pBlocks.map (fun p =>
      if mine p && !p.rewritten && blockReached s o t p.blk then
        let q := attnRewrite mhat bad { codes := p.codes.map (·.toNat), scale := p.scale.toNat, mb := p.mb, squash := 0 }
        { p with codes := q.codes.map (fun c => BitVec.ofNat 8 c), scale := BitVec.ofNat 8 q.scale, rewritten := true }
      else p) }

/-- A multicast copy dropped at a dark region's router, once for each row (R259). -/
def dropMulticast (s : State) (rows : Nat) (r : Nat) : State :=
  modField s (fieldOf r) (fun x => { x with mcDrop := capAdd top32 x.mcDrop rows })

/-- ROW_MAX_MULTICAST (R145, R258, R259): the home of a tile's rows, unless it is dark, forms each row's M-hat and multicasts
it to the regions that hold blocks of the row and are live in the published weave. -/
def execRowMaxMulticast (tile : Nat) (s : State) : Res :=
  .next (match tileAt s tile, s.master.op with
    | some t, some o =>
      if masterOn s && t.kind = .attn1 && o.variant = 0 && t.role = .original && t.col0 = 0 && !t.rewritten && hasLeft t && !isDark s t.region &&
          (List.range t.rows).all (fun r => rowBlocksIn o t (t.row0 + r)) then
        let p := (List.range t.rows).foldl (fun acc r => rewriteRow s t acc (t.row0 + r)) o
        let u := modMaster (modTile s tile (fun x => { x with rewritten := true })) (fun m => { m with op := some p })
        ((blockRegions o t).filter (fun r => (regionAt s r).pubLive && isDark s r)).foldl (fun acc r => dropMulticast acc t.rows r) u
      else s
    | _, _ => s)

/-! ### Drain -/

/-- Zero every byte of an interval of module addresses (R44, R247); reads that meet the clearing return what stood there (R220). -/
def sweepBytes (s : State) (f : Interval) : State :=
  let inF (a : Nat) := decide (f.1 ≤ a) && decide (a ≤ f.2)
  let phys (p : Nat) : Bool := match windowOf s p with
    | some a => inF a
    | none => false
  let line (p : Nat) : Bool := match windowOf s (p / 128 * 128) with
    | some a => overlaps (a, a + 127) f
    | none => false
  { s with
    dram := memKeep s.dram (fun a => !inF a)
    host := memKeep s.host (fun a => !inF a)
    spad := memKeep s.spad (fun p => !phys p)
    before := s.spad.filter (fun c => phys c.1) ++ s.before.filter (fun c => !line c.1)
    badDram := s.badDram.filter (fun a => !(decide (f.1 ≤ a) && decide (a + 63 ≤ f.2)))
    badSpad := s.badSpad.filter (fun p => !phys p) }

/-- Bytes beside a SWEEP's span that a wrong correction turned in the words and codewords at its ends: they are written back (R204,
R235). -/
def sweepTurned (s : State) (f : Interval) (merge : ReadOutcome) : List Host.Cell :=
  (merge.wrong.filter (fun w => (isSpad w.1 && inTask s w.1 || isDram s w.1) && inEcc [f] w.1 &&
    !(decide (f.1 ≤ w.1) && decide (w.1 ≤ f.2)))).map (fun w => (w.1, readByte s w.1 ^^^ w.2))

/-- Words and codewords known bad that a SWEEP's span covers in part (R204, R235). -/
def sweepBad (s : State) (f : Interval) : List Nat :=
  let cut (a n : Nat) : Bool := decide (f.1 < a + n) && decide (a ≤ f.2) && !(decide (f.1 ≤ a) && decide (a + n ≤ f.2 + 1))
  s.badDram.filter (fun a => cut a 64) ++ (s.badSpad.filterMap (windowOf s)).filter (fun a => cut a 8)

/-- A SWEEP tile clears its span; a part word or codeword at an end is merged. -/
def drainSweep (s : State) (f : Interval) (merge : ReadOutcome) (after : State → State) : State :=
  let bad := merge.uncorrectable ++ (sweepBad s f).filter (fun a => !merge.uncorrectable.contains a)
  accessMeets s (accessOf s [f] bad (spanInTask s f)) true
    (fun t => after (writeCells (sweepBytes (noteReads t merge) f) (sweepTurned t f merge))) (fun t => sweepBytes t f)

/-- The books of a drained original: squash count, advisor statistics, checksum, state. -/
def drainBook (s : State) (o : Op) (t : Tile) (squash : Nat) (adv : List AdvStat) (sum : Word64) : State :=
  let back := min squash o.recount
  let u := modGlb s (fun g => { g with nanSquash := capAdd top32 g.nanSquash (squash - back) })
  let v := setOp u (fun x =>
    { x with
      recount := x.recount - back
      advParts := x.advParts ++ adv })
  modTile v t.id (fun x =>
    { x with
      st := if t.sampled then .drained else .verified
      squash := squash
      checksum := if t.sampled then some sum else none })

/-- DRAIN_COMPLETE (R137, R182, R212, R235, R358): every value of an emitted tile is written, once its writes are served; a
copy's values are discarded after the checksum. `upset` is an undetected error (R351) in the n-th packed write, then in the
statistics record, then in the advisor's statistics; `merge` tells of the reads of merges. -/
def execDrainComplete (tile : Nat) (upset : List (Nat × Nat)) (merge : ReadOutcome) (s : State) : Res :=
  .next (match tileAt s tile, s.master.op with
    | some t, some o =>
      if t.st = .emitted && !isPre s tile && tileReady o t && statsIn o t && masterOn s then
        let rd := memGet t.snap
        let out := tileOut rd o t
        let rows := upsetRows upset 0 (withStats o t out)
        let sum := tileChecksum rd o t (rows.take out.length)
        let adv := upsetAdv upset (rowWrites rows).length (advGather rd o t)
        let book (u : State) : State := drainBook u o t (rowSquash rows) adv sum
        if t.role ≠ .original then modTile s tile (fun x => { x with st := .drained, checksum := some sum })
        else if o.opcode = 11 then drainSweep s (tileSpan t) merge book
        else writeNow s (cellsOf (readByte s) (rowWrites rows)) merge book
      else s
    | _, _ => s)

/-! ### Duplicates and votes (15 R361 to R363) -/

/-- Both copies of a sampled tile, drained. -/
def comparePair (s : State) (tile : Nat) : Option (Tile × Tile) :=
  match tileAt s tile, dupOf s tile with
  | some t, some d => if t.role = .original && t.sampled && t.st = .drained && d.st = .drained then some (t, d) else none
  | _, _ => none

/-- The repeats of R363: the original and the duplicate region run the tile again. -/
def dealRepeats (s : State) (t d : Tile) : State :=
  let n := s.master.nextTile
  let u := modMaster s (fun m =>
    { m with
      nextTile := n + 2
      tiles := m.tiles ++ [copyTile n t.region (.again t.id 0) t, copyTile (n + 1) d.region (.again t.id 1) t] })
  refillRegion (refillRegion (updBanks (updBanks u t.region) d.region) t.region) d.region

/-- DUPLICATE_COMPARE (R361): agreement verifies the sampled tile; a mismatch starts the vote, or in repeat mode the
triple execution. -/
def execDuplicateCompare (tile : Nat) (s : State) : Res :=
  .next (match comparePair s tile, s.master.op with
    | some (t, d), some o =>
      if t.voting then s
      else
        let u := setOp s (fun o => { o with dupChecks := o.dupChecks + 1 })
        if t.checksum = d.checksum then dropCopies (verifyTile u tile) tile
        else
          let v := modTile (modGlb u (fun g => { g with mismatches := capAdd top16 g.mismatches 1 })) tile (fun x => { x with voting := true })
          (match dealCopy v o t [fieldOf t.region, fieldOf d.region] (.vote tile) with
            | some w => if v.master.repeatInForce then dealRepeats w t d else w
            | none => noVerdict v t d)
    | _, _ => s)

/-- A region named by a verdict: its fault is recorded and it is failed (R362, R197). -/
def nameRegion (s : State) (r : Nat) : State := failRegion (recordFault s .region r 0x0D) r

/-- The record of a verdict, before the regions it names are failed: it names the operation where one of them ends it. -/
def verdictRecord (s : State) (t d v : Tile) (verdict : Nat) (named : List Nat) : State :=
  dropCopies (dupRecord s t.region d.region (some v.region) verdict false 0 (named.any (notReplayable s))) t.id

/-- VOTE_VERDICT (R362, Table 15-4): the vote tile has drained. -/
def execVoteVerdict (tile : Nat) (s : State) : Res :=
  .next (match comparePair s tile, voteOf s tile with
    | some (t, d), some v =>
      if v.st = .drained && (againOf s tile 0).isNone then
        (if v.checksum = t.checksum then nameRegion (verdictRecord s t d v 1 [d.region]) d.region
         else if v.checksum = d.checksum then nameRegion (verdictRecord s t d v 0 [t.region]) t.region
         else nameRegion (nameRegion (verdictRecord s t d v 2 [t.region, d.region]) t.region) d.region)
      else s
    | _, _ => s)

/-- A permanent class: the unit is retired and the region failed (R363). -/
def permanent (s : State) (r : Nat) : State := failRegion (retireUnit (recordFaultOnly s .region r) .region r 0x0D) r

/-- A transient original: its runs that contain the tile run again over the unchanged weave (R363); an operation that is not
replayable ends instead (R51, R61). -/
def transientReplay (s : State) (t : Tile) : State :=
  match s.master.op with
  | some o =>
    if dNonreplayable o.words then abandon s stFault 0
    else replayDeal s o (closeShares o (o.share.filter (fun x => x.run = t.run)))
  | none => s

/-- The record of a verdict in repeat mode: class 0 transient, 1 permanent. -/
def repeatRecord (s : State) (t d v : Tile) (verdict cls : Nat) (fails : Bool) : State :=
  dropCopies (dupRecord s t.region d.region (some v.region) verdict true cls fails) t.id

/-- Permanent classes: the record, then each unit is retired and its region failed. -/
def permanents (s : State) (t d v : Tile) (verdict : Nat) (rs : List Nat) : State :=
  rs.foldl permanent (repeatRecord s t d v verdict 1 (rs.any (notReplayable s)))

/-- The three repeats agree: a first checksum that differs from them is transient. -/
def transients (s : State) (o : Op) (t d v : Tile) : State :=
  if t.checksum ≠ v.checksum then
    transientReplay (repeatRecord s t d v (if d.checksum ≠ v.checksum then 2 else 0) 0 (dNonreplayable o.words)) t
  else verifyTile (repeatRecord s t d v 1 0 false) t.id

/-- REPEAT_VERDICT (R363): the three repeats O2, D2 and V have drained. -/
def execRepeatVerdict (tile : Nat) (s : State) : Res :=
  .next (match comparePair s tile, againOf s tile 0, againOf s tile 1, voteOf s tile, s.master.op with
    | some (t, d), some o2, some d2, some v, some o =>
      if o2.st = .drained && d2.st = .drained && v.st = .drained then
        (if o2.checksum = d2.checksum && d2.checksum = v.checksum then transients s o t d v
         else if o2.checksum = d2.checksum then permanents s t d v 3 [v.region]
         else if o2.checksum = v.checksum then permanents s t d v 1 [d.region]
         else if d2.checksum = v.checksum then permanents s t d v 0 [t.region]
         else permanents s t d v 2 [t.region, d.region])
      else s
    | _, _, _, _, _ => s)

/-! ### Commit (R53, R54, R56) -/

/-- The advisor's entries that a commit reads and writes (R168). -/
def commitSpans (s : State) : List Interval :=
  (acceptedOps s).flatMap (fun o => o.advStats.map (fun a => (advEntry s a.slot, advEntry s a.slot + 255)))

/-- The commit, or the end of a group that signals a spine off (R194); it waits for the stacks of the advisor's entries, and fails
with them (R236, R244, R245). -/
def commitOrEnd (s : State) (reads : ReadOutcome) : State :=
  let t := runRecord s
  if readyToCommit t && masterOn t then
    match t.master.sel with
    | some sel =>
      (match signalLost t sel.members with
        | some idx => abandonSignal t sel idx
        | none =>
          let own := outcomeOf reads (commitSpans t)
          readNow t (commitSpans t) own (fun u => commitNow (seenState u own)))
    | none => t
  else t

/-- COMMIT (R53): the completion records, the signals, the advisor and the outputs, as one event. `reads` tells of the reads of
the advisor's entries. -/
def execCommit (s : State) (reads : ReadOutcome := ReadOutcome.clean) : Res := .next (commitOrEnd s reads)

/-! ### Heartbeats and failures (R197, R198) -/

/-- REGION_HEARTBEAT (R197, R307): the region's agent notes the time of its GTC copy; `vcore` is the lowest sample the region
took of its core rail since the last heartbeat. -/
def execRegionHeartbeat (region : Nat) (s : State) (vcore : Nat := 1024) (age : Nat := 0) : Res :=
  onUnit (decide (region < 96))
    (if (regionAt s region).powered && fieldRuns s (fieldOf region) then
      let t := modRegion s region (fun x => { x with lastBeat := (fieldAt s (fieldOf region)).gtcCopy })
      if (regionAt t region).live then noteRail t region vcore age else t
     else s)

/-- Regions of a field that have sent no heartbeat for 1 ms of the agent's GTC copy (R284). -/
def silentRegions (s : State) (f : Nat) : List Nat :=
  (regionsOf f).filter (fun r => (regionAt s r).live && (regionAt s r).powered &&
    decide ((regionAt s r).lastBeat.toNat + 1000000 ≤ (fieldAt s f).gtcCopy.toNat))

/-- HEARTBEAT_CHECK (R197): the agent reports its silent regions failed; halted clocks send no heartbeat. -/
def execHeartbeatCheck (field : Nat) (s : State) : Res :=
  onUnit (decide (field < 16))
    (if (fieldAt s field).spineOn && !(fieldAt s field).halted then (silentRegions s field).foldl failRegion s else s)

/-- REGION_FLIT_PARITY_ERROR (R197, Table 15-9): the receiving router's record, and the failure. -/
def execRegionFlitParityError (region : Nat) (s : State) : Res :=
  onUnit (decide (region < 96))
    (if (regionAt s region).live then
      failRegion (postError s { noErr with kind := 6, unitKind := .region, unit := region, detail := fieldOf region }) region
     else s)

/-- REGION_FAILED (R198): a failure that a source of Table 7-12 reports. -/
def execRegionFailed (region : Nat) (cause : FailCause) (s : State) : Res :=
  onUnit (decide (region < 96))
    (match cause with
      | .vote => nameRegion s region
      | _ => failRegion s region)

/-- WEAVE_REBUILD_COMPLETE (R198 to R201). -/
def execWeaveRebuildComplete (s : State) : Res := .next (rebuildDone s)

end Sys2Proof.Machine
end

