-- ==== Sys2Proof/Machine/PowerOps.lean ====
section
/-!
DEFINITION. What the losses of units in service share: joins that go down, failed stacks, lost fields, abandoned farrier
sessions, soft-starts and CURB_N (01_module.md R17, R24, 09_memory.md R245, 10_fabric_on_module.md R263,
12_power_delivery.md R294 to R310, 15_integrity_faults.md R355, R367).
-/
namespace Sys2Proof.Machine

/-- A unit fails in service: a fault is recorded and the unit is retired at once, with reason 0x0D (R355, R368). -/
def failUnit (s : State) (k : UnitKind) (i : Nat) : State := retireUnit (recordFault s k i 0x0D) k i 0x0D

/-- The COLLECTIVEs that are Accepted and set aside end with the unit that failed, and every op ring stops (R61, R202). -/
def stopEverything (s : State) (k : UnitKind) (i : Nat) : State :=
  updAllBanks (stopAllRings ((asideOps s).foldl (fun u o => abandonAside u o k i) s) 0)

/-! ### The farrier (R367) -/

/-- A session ends early: no result for its region, event 0x0002 with DETAIL 3; a rolling session is retried, and a return session's
region still waits for one (Table 15-6, R364). -/
def farrierAbandon (s : State) : State :=
  match s.farrier.session with
  | none => s
  | some x =>
    let t := modFarrier s (fun f => { f with session := none, waiting := f.waiting || !x.returning, region := x.region, lastResult := 3 })
    let u := if x.returning then regionOff t x.region else t
    updBanks (postEvent u 0x0002 .region x.region 3) x.region

/-- What a session heats a region to from the temperature it was taken at (Table 15-5). -/
def sessionHeatTarget (taken : Nat) : Nat := min 95 (taken + 15)

/-- A held region goes to the stress corner once it is heated, after 800 ms at the latest (Table 15-5). -/
def noteStress (s : State) : State :=
  match s.farrier.session with
  | none => s
  | some x =>
    if x.held && !x.stressed && (decide (sessionHeatTarget x.taken ≤ (regionAt s x.region).temp) ||
        decide (x.heldAt.toNat + 800000000 ≤ (gtcNs s).toNat)) then
      modFarrier s (fun f => { f with session := some { x with stressed := true } })
    else s

/-- The session of one region ends early. -/
def farrierAbandonAt (s : State) (r : Nat) : State :=
  match s.farrier.session with
  | some x => if x.region = r then farrierAbandon s else s
  | none => s

/-! ### Stacks (R245) -/

/-- Some footprint of an operation lies on a stack, or an entry of the advisor that its commit updates. -/
def needsStack (s : State) (m : Nat) (o : Op) : Bool :=
  (o.inFoots ++ outFootsC o ++ o.advStats.map (fun a => (advEntry s a.slot, advEntry s a.slot + 255))).any (touchesStack s m)

/-- The error record of a failed unit that no operation in flight needs. -/
def recordUnitFailed (s : State) (k : UnitKind) (i : Nat) : State :=
  postError s { noErr with kind := 7, unitKind := k, unit := i }

/-- The accepted member, if any, that a condition holds of ends with the unit that failed, and so do the COLLECTIVEs set aside
that it holds of; with none, the record names no operation (R202). -/
def unitNeeded (s : State) (k : UnitKind) (i : Nat) (needs : Op → Bool) : State :=
  let aside := (asideOps s).filter needs
  let ended (u : State) : State := aside.foldl (fun v o => abandonAside v o k i) u
  match (acceptedOps s).findIdx? (fun o => needs o && !collWaits o) with
  | some idx => ended (abandonUnitAt s idx k i)
  | none => if aside.isEmpty then recordUnitFailed s k i else ended s

/-- What needs a failed stack ends (R202, R245). -/
def stackNeeded (s : State) (m : Nat) : State := unitNeeded s .stack m (needsStack s m)

/-- A stack fails in service: FAILED is set, it is retired, the event is posted, and what needs it ends. -/
def stackFail (s : State) (m : Nat) : State :=
  if !(stackAt s m).live || (stackAt s m).failed then s
  else
    let t := modStack s m (fun x => { x with failed := true, retraining := false, hotSelfRefresh := false })
    let u := modGlb t (fun g => { g with retrainQueue := g.retrainQueue.filter (fun k => k ≠ m) })
    stackNeeded (postEvent (failUnit u .stack m) 0x0013 .stack m 0) m

/-! ### Training and temperature of a stack (R238, R240, R241) -/

/-- Spare lanes a pseudo-channel uses. -/
def laneSpares (l : List (Nat × Nat)) (pc : Nat) : Nat := ((l.filter (fun p => p.1 = pc)).map (·.2)).foldl (· + ·) 0

/-- Every pseudo-channel has four spare lanes. -/
def lanesFit (l : List (Nat × Nat)) : Bool := (List.range 64).all (fun pc => decide (laneSpares l pc ≤ 4))

/-- The lane repairs by pseudo-channel, in order. -/
def laneTable (l : List (Nat × Nat)) : List (Nat × Nat) :=
  (List.range 64).filterMap (fun pc => if 0 < laneSpares l pc then some (pc, laneSpares l pc) else none)

/-- The bands of R238 and R240, each with its own hysteresis. -/
def stackBands (temp : Nat) (x : Stack) : Stack :=
  { x with
    temp := temp
    hotRefresh := decide (84 ≤ temp) || (x.hotRefresh && decide (82 < temp))
    throttled := decide (95 ≤ temp) || (x.throttled && decide (93 < temp))
    hotSelfRefresh := x.hotSelfRefresh && decide (90 < temp) }

/-- A training that succeeds: lane repairs, reading and time (R241, R243). -/
def trainedStack (s : State) (m temp : Nat) (lanes : List (Nat × Nat)) : State :=
  modStack s m (fun y =>
    { stackBands temp y with
      trained := true
      trainOk := true
      retraining := false
      selfRefresh := false
      spareLanes := laneTable lanes
      trainTemp := temp
      trainedAt := gtcNs s
      retrainFailed := false })

/-- Lane repairs go to the stud book, against the stack (R241). -/
def noteLanes (s : State) (m : Nat) (lanes : List (Nat × Nat)) : State :=
  let n := (lanes.map (·.2)).foldl (· + ·) 0
  if 0 < n then noteRepairs s .stack m n else s

/-! ### Joins (R261, R263) -/

/-- Both sides of a join stop: UP clears and the crossing is held idle. -/
def edgeDown (s : State) (f d : Nat) : State :=
  let g (e : Edge) : Edge :=
    { e with up := false, mode := .idle, draining := false, fifo := List.replicate 32 [], occMin := 0, occMax := 0 }
  match neighbour f d with
  | some n => modEdge (modEdge s f d g) n (opposite d) g
  | none => s

/-- A join goes down in service, with the event that names it (R263). -/
def joinDown (s : State) (f d : Nat) : State :=
  if (edgeAt s f d).up then postEvent (edgeDown s f d) 0x0021 .subLink (subLinkIndex f d 0) (lowEdge f d) else s

/-- The stud book retires the sub-links of a join that fails in service (R355, Table 15-7). -/
def retireJoin (s : State) (f d : Nat) : State :=
  match neighbour f d with
  | some n => (List.range (joinWidth f n)).foldl (fun t k => failUnit t .subLink (subLinkIndex f d k)) s
  | none => s

/-- A join that is up goes down in service, and is retired (R263, R355). -/
def joinLost (s : State) (f d : Nat) : State := if (edgeAt s f d).up then retireJoin (joinDown s f d) f d else s

/-- A join falls below its count in service: the current operation ends UNCORRECTABLE and every ring stops (R263). -/
def joinFails (s : State) (f d : Nat) : State :=
  let t := joinLost s f d
  stopEverything (abandonUnit t .subLink (subLinkIndex f d 0)) .subLink (subLinkIndex f d 0)

/-- One sub-link is disabled, both ways, with its fault. -/
def disableSubLink (s : State) (f d k : Nat) : State :=
  let g (e : Edge) : Edge := { e with live := e.live &&& ~~~(BitVec.ofNat 32 (2 ^ k)) }
  match neighbour f d with
  | some n => recordFault (modEdge (modEdge s f d g) n (opposite d) g) .subLink (subLinkIndex f d k) 0x0D
  | none => s

/-- A join with too few live sub-links fails. -/
def joinCheck (s : State) (f d : Nat) : State :=
  match neighbour f d with
  | some n => if (edgeAt s f d).up && decide (liveSubLinks (edgeAt s f d) < joinNeed f n) then joinFails s f d else s
  | none => s

/-! ### Landings (R16, R17) -/

/-- Landing of K on a field: 0 on F1, 1 on F4. -/
def kLandingOf : Nat → Option Nat
  | 1 => some 0 | 4 => some 1 | _ => none

/-- I/O die and landing on a field (R16). -/
def ioLandingOf (f : Nat) : Option (Nat × Nat) :=
  match f with
  | 0 => some (0, 0) | 2 => some (0, 1) | 5 => some (1, 0) | 7 => some (1, 1)
  | 8 => some (2, 0) | 10 => some (2, 1) | 13 => some (3, 0) | 15 => some (3, 1) | _ => none

/-- Live sub-links of a landing, and whether it is up: 9 of its 12 (R261). -/
def landingMask (s : State) (c h : Nat) : BitVec 12 := (s.pwr.ioLandingLive.getD c []).getD h 0
def landingUp (s : State) (c h : Nat) : Bool := decide (9 ≤ popcount (landingMask s c h).toNat 12)

/-- The edge of a field that faces its I/O die, on which there is no join. -/
def landingEdge (f : Nat) : Nat := if gridCol f = 0 then 3 else 1

/-- The stud-book index of sub-link k of an I/O landing: Table 15-7 with the edge of its field that faces the die (log entry
140). -/
def landingIndex (f k : Nat) : Nat := (4 * f + landingEdge f) * 32 + k

def setLanding (s : State) (c h : Nat) (mask : BitVec 12) : State :=
  modPwr s (fun p => { p with ioLandingLive := p.ioLandingLive.modify c (fun l => l.modify h (fun _ => mask)) })

/-- The links of an I/O die go absent (R25, R265). -/
def dieLinksOff (s : State) (c : Nat) : State :=
  (List.range 24).foldl (fun u k => modLink u (24 * c + k) (fun x =>
    { x with
      st := if x.st = .notFitted then .notFitted else .absent
      lanes := 0
      training := false
      retry := [] })) s

/-- A COLLECTIVE some plane of which runs over a link of the die. -/
def needsDie (s : State) (c : Nat) (o : Op) : Bool :=
  o.opcode = 12 && (List.range 24).any (fun k =>
    let x := linkAt s (24 * c + k)
    decide (x.st = .live2 || x.st = .live1) && x.plane.isSome)

/-- An I/O die has no landing left: its links are absent, and what needs them ends (R202, R265; log entry 164). -/
def dieCut (s : State) (c : Nat) : State :=
  if landingUp s c 0 || landingUp s c 1 then s
  else
    let live := (List.range 24).any (fun k => decide ((linkAt s (24 * c + k)).st = .live2 || (linkAt s (24 * c + k)).st = .live1))
    if live then
      let ended := unitNeeded s .ioDie c (needsDie s c)
      dieLinksOff ended c
    else s

/-- One sub-link of a landing is disabled, with its fault (R262). -/
def disableLanding (s : State) (f c h k : Nat) : State :=
  recordFault (setLanding s c h (landingMask s c h &&& ~~~(BitVec.ofNat 12 (2 ^ k)))) .subLink (landingIndex f k) 0x0D

/-- A landing that is no longer up carries nothing: it is retired as a join is, and the die may be cut off. -/
def landingCheck (s : State) (f c h : Nat) : State :=
  if landingUp s c h then s
  else dieCut ((List.range 12).foldl (fun t k => failUnit t .subLink (landingIndex f k)) s) c

/-- The landings on a field are lost; with both K landings gone the operation in flight ends and every ring stops (R17). -/
def loseLandings (s : State) (f : Nat) : State :=
  let t := match ioLandingOf f with
    | some (c, h) => if landingUp s c h then dieCut (setLanding s c h 0) c else setLanding s c h 0
    | none => s
  match kLandingOf f with
  | some k =>
    if t.pwr.kLandingOk.getD k false then
      let u := failUnit (modPwr t (fun p => { p with kLandingOk := p.kLandingOk.modify k (fun _ => false) })) .kLanding k
      if kCutOff u then stopEverything (abandonUnit u .kLanding k) .kLanding k else u
    else t
  | none => t

/-! ### Lost fields (R24) -/

/-- Regions of a field leave the weave with their spine. -/
def fieldRegionsOff (s : State) (f : Nat) : State :=
  (regionsOf f).foldl (fun t r => if (regionAt t r).live then leaveWeave t r else regionOff t r) s

/-- The sensed voltage of a plane whose domain switches off stays as last read (R311). -/
def keepVplane (s : State) (f : Nat) : State :=
  if (fieldAt s f).spineOn && (fieldAt s f).planeOn then
    bumpFree (modField s f (fun x => { x with vplane := Config.unreadSensor f s.free % 4096 }))
  else s

/-- The spine domain switches off. -/
def spineOff (s : State) (f : Nat) : State :=
  modField (keepVplane s f) f (fun x =>
    { x with
      spineOn := false
      lost := true
      pllLock := false
      halted := false
      gait := .walk
      rising := none
      softStart := none
      powerQueue := []
      beats := 0 })

/-- Pre-selected tiles and their placement go (R178). -/
def dropPlacement (s : State) : State :=
  modMaster (keepTiles s (fun _ => true) (fun _ => false)) (fun m => { m with pre := m.pre.map (fun o => { o with dealt := false }) })

/-- The operation in flight ends with a spine that fails: the first accepted member with a signal on an object of it carries
the status, else the one that runs (R194, R202). -/
def endWithSpine (s : State) (f : Nat) : State :=
  match s.master.sel with
  | some sel => abandonUnitAt s ((signalLost s (acceptedMembers s sel)).getD (runningIdx s)) .spine f
  | none => s

/-- A field is lost in service: the operation in flight ends as a spine failure, its regions leave the weave, its sync
objects become unavailable, its stack fails, its joins go down, its landings are lost, and every ring stops
(R24, R202, R263, R355). -/
def fieldLost (s : State) (f : Nat) : State :=
  if !(fieldAt s f).spineOn then s
  else
    let live := (regionsOf f).filter (fun r => (regionAt s r).live)
    let t := endWithSpine (spineOff ((regionsOf f).foldl farrierAbandonAt s) f) f
    let v := stackFail (failUnit (fieldRegionsOff (dropPlacement t) f) .spine f) f
    let w := loseLandings ((List.range 4).foldl (fun a d => joinLost a f d) v) f
    stopEverything (if live.isEmpty then w else publishEvent w) .spine f

/-- D28 of a die is lost: every seam and bridge of the die (R300). -/
def dieJoins (c : Nat) : List (Nat × Nat) :=
  (List.range 4).flatMap (fun q => (List.range 4).filterMap (fun d =>
    match neighbour (4 * c + q) d with
    | some n => if 4 * c + q < n || n / 4 ≠ c then some (4 * c + q, d) else none
    | none => none))

def d28Off (s : State) (c : Nat) : State :=
  let i := ((dieJoins c).map (fun p => subLinkIndex p.1 p.2 0)).headD 0
  let u := (dieJoins c).foldl (fun a p => joinLost a p.1 p.2) (abandonUnit s .subLink i)
  stopEverything ((List.range 4).foldl (fun a q => loseLandings a (4 * c + q)) u) .subLink i

/-! ### CURB_N (R308, R309) -/

/-- The module drives CURB_N low. -/
def driveCurb (s : State) : State := modPwr s (fun p => { p with curbOwn := true, curbHigh10ms := false })

/-- Within 1 us every field is at walk and any rise is abandoned; halted fields stay as they are (R309). -/
def curbWalk (s : State) : State :=
  (List.range 16).foldl (fun t f => if (fieldAt t f).spineOn then setGait t f .walk else t) s

/-! ### Powering a region up (R304, R305) -/

/-- Insert in region order. -/
def insertNat (n : Nat) : List Nat → List Nat
  | [] => [n]
  | m :: l => if n < m then n :: m :: l else if n = m then m :: l else m :: insertNat n l

/-- The spine of a field is on, or step 3 of this bring-up has yet to take the field and has not excluded it (R24). -/
def spineAwaited (s : State) (f : Nat) : Bool :=
  let x := fieldAt s f
  x.spineOn || (!x.lost && decide (x.reason = 0) && !s.boot.done.getLsbD 3 && !s.boot.dead)

/-- A region may be powered up: it is off, fewer than three phases are lost, no dark period runs, its isolation fuse is whole, and
one that failed is asked for by its session alone (R297, R302, R303, R326). -/
def mayPower (s : State) (r : Nat) : Bool :=
  let x := regionAt s r
  !x.powered && !x.fuseBlown && decide (phasesLost x < 3) && decide (x.darkUntil.toNat ≤ (gtcNs s).toNat) &&
    (!x.quarantined || s.farrier.session.elim false (fun y => decide (y.region = r)))

/-- A request joins its plane's queue; a plane that is off, an excluded or lost field and a region that may not be powered take
none. -/
def requestPower (s : State) (r : Nat) : State :=
  let f := fieldOf r
  let x := fieldAt s f
  if spineAwaited s f && !x.planeOff && mayPower s r && !(x.softStart.elim false (fun y => decide (y.region = r))) then
    modField s f (fun y => { y with powerQueue := insertNat r y.powerQueue })
  else s

/-- A fault ends the soft-start of a region (12, "When a fault occurs during a soft-start"). -/
def endSoftStart (s : State) (r : Nat) : State :=
  modField s (fieldOf r) (fun x =>
    { x with
      softStart := match x.softStart with
        | some y => if y.region = r then none else some y
        | none => none
      powerQueue := x.powerQueue.filter (fun k => k ≠ r) })


end Sys2Proof.Machine
end

