-- ==== Sys2Proof/Machine/Power.lean ====
section
/-!
DEFINITION. Meanings of the power commands: planes, IVR phases, e-fuses, region power-up, CURB_N, the gallop limits and the
power cap (12_power_delivery.md R292 to R311, 13_gaits_thermal.md R318 to R323).
-/
namespace Sys2Proof.Machine

/-! ### Conditions that drive CURB_N (Table 12-3) -/

/-- INPUT_OVERCURRENT (R292): above 240 A for 5 us. -/
def execInputOvercurrent (s : State) : Res := .next (driveCurb s)

/-- PLANE_LOW (R295): below 1.40 V for 2 us. -/
def execPlaneLow (field : Nat) (s : State) : Res := onUnit (decide (field < 16)) (driveCurb s)

/-- PLANE_ABOVE_30S_RATING (R308): above the 30 s rating for 5 us. -/
def execPlaneAbove30sRating (field : Nat) (s : State) : Res := onUnit (decide (field < 16)) (driveCurb s)

/-- STAGE_ABOVE_125C (R308): above 125 degrees for 10 us. -/
def execStageAbove125c (field : Nat) (s : State) : Res := onUnit (decide (field < 16)) (driveCurb s)

/-! ### CURB_N -/

/-- Running soft-starts go on at no more than 5 A/us. -/
def slowSoftStarts (s : State) : State :=
  { s with fields := s.fields.map (fun x => { x with softStart := x.softStart.map (fun y => { y with slow := true }) }) }

/-- CURB_N_ASSERT (R309, R310, R367): counted, every field to walk, the farrier's session abandoned, event 0x0041. -/
def execCurbNAssert (own : Bool) (s : State) : Res :=
  let t := modPwr s (fun p =>
    { p with
      curbOwn := p.curbOwn || own
      curbExt := p.curbExt || !own
      curbOwnCount := if own then capAdd top16 p.curbOwnCount 1 else p.curbOwnCount
      curbExtCount := if own then p.curbExtCount else capAdd top16 p.curbExtCount 1
      curbHigh10ms := false })
  .next (postEvent (farrierAbandon (slowSoftStarts (curbWalk t))) 0x0041 .none 0 (if own then 1 else 0))

/-- CURB_N_MODULE_RELEASE (R308): the module stops driving the line. -/
def execCurbNModuleRelease (s : State) : Res := .next (modPwr s (fun p => { p with curbOwn := false }))

/-- CURB_N_EXTERNAL_RELEASE (R310): the tray stops driving the line. -/
def execCurbNExternalRelease (s : State) : Res := .next (modPwr s (fun p => { p with curbExt := false }))

/-- CURB_RESTORE (R310): the line has been high for 10 ms, or one further millisecond has passed: every field below its
granted gait begins a rise of one gait. -/
def execCurbRestore (s : State) : Res :=
  .next (if curbLow s then s
    else (List.range 16).foldl startRise (modPwr s (fun p => { p with curbHigh10ms := true })))

/-! ### Planes (R294, R295) -/

/-- A plane is switched off: its voltage stays as last sensed (R311), its queued requests are discarded, it is retired (R355) and
its field is lost. -/
def planeSwitchOff (s : State) (f : Nat) : State :=
  fieldLost (failUnit (modField (keepVplane s f) f (fun x =>
    { x with
      planeOn := false
      planeOff := true
      powerQueue := [] })) .plane f) f

/-- STAGE_PHASE_FAILURE (R294): one loss caps the field at canter, two or more switch the plane off. -/
def execStagePhaseFailure (field : Nat) (s : State) : Res :=
  onUnit (decide (field < 16))
    (let t := modField s field (fun x => { x with stageFailed := min 7 (x.stageFailed + 1) })
     if (fieldAt t field).planeOff then t
     else if 2 ≤ (fieldAt t field).stageFailed then planeSwitchOff t field
     else dropGait t field)

/-- PLANE_SENSE_LOST (R295): the stage regulates on local sense until the next cold bring-up. -/
def execPlaneSenseLost (field : Nat) (s : State) : Res :=
  onUnit (decide (field < 16))
    (if (fieldAt s field).localSense then s
     else
       let t := recordFaultOnly (modField s field (fun x => { x with localSense := true })) .plane field
       dropGait (postEvent t 0x0040 .plane field 0) field)

/-- PLANE_COLLAPSE (R295): below 1.30 V for 10 us. -/
def execPlaneCollapse (field : Nat) (s : State) : Res :=
  onUnit (decide (field < 16)) (if (fieldAt s field).planeOff then s else planeSwitchOff s field)

/-! ### IVR phases and e-fuses (R296 to R303) -/

/-- IVR_PHASE_LOST (R296, R297): the phase is disconnected, its fault recorded and its event posted; the third loss is a
region failure, with the region dark until the next cold bring-up. -/
def execIvrPhaseLost (region phase : Nat) (s : State) : Res :=
  onUnit (decide (region < 96) && decide (phase < 12))
    (if (regionAt s region).phaseLost.getLsbD phase || !(regionAt s region).powered &&
        !((fieldAt s (fieldOf region)).softStart.elim false (fun y => decide (y.region = region))) then s
     else
       let t := modRegion s region (fun x => { x with phaseLost := x.phaseLost ||| BitVec.ofNat 12 (2 ^ phase) })
       let u := recordFault t .ivrPhase (12 * region + phase) 0x0D
       let v := postFieldEvent u (fieldOf region) 0x0005 .ivrPhase (12 * region + phase) (regionAt u region).phaseLost.toNat
       if 3 ≤ phasesLost (regionAt v region) then
         let w := endSoftStart (farrierAbandonAt v region) region
         if (regionAt w region).live then failRegion w region
         else modRegion (regionOff w region) region (fun x => { x with quarantined := true, heatOff := false })
       else dropGait v (fieldOf region))

/-- SPINE_IVR_LOSS (R300): a spine IVR carries its load with up to two phases lost, the D28 IVR with one. -/
def execSpineIvrLoss (spine : Bool) (unit lost : Nat) (s : State) : Res :=
  if spine then
    onUnit (decide (unit < 16))
      (let t := modField s unit (fun x => { x with spineIvrLost := max x.spineIvrLost lost })
       if 2 < lost then fieldLost t unit else t)
  else
    onUnit (decide (unit < 4))
      (let t := modPwr s (fun p => { p with d28Lost := p.d28Lost.modify unit (fun n => max n lost) })
       if 1 < lost && t.pwr.d28On.getD unit false then
         d28Off (modPwr t (fun p => { p with d28On := p.d28On.modify unit (fun _ => false) })) unit
       else t)

/-- A region's third opening blows its isolation fuse (R303). -/
def blowFuse (s : State) (r : Nat) : State :=
  if 3 ≤ (regionAt s r).efuseOpenings then
    retireUnit (modRegion s r (fun x => { x with fuseBlown := true })) .region r 0x07
  else s

/-- EFUSE_OPENING (R301 to R303): the domain switches off, the opening is counted, the region is a failure and stays dark
for 1 s and until its return session, whatever it was dark for before. -/
def execEfuseOpening (region : Nat) (s : State) : Res :=
  onUnit (decide (region < 96))
    (let t := modRegion s region (fun x => { x with efuseOpenings := min 3 (x.efuseOpenings + 1) })
     let u := blowFuse (postEvent (noteOpening t region) 0x0004 .region region (regionAt t region).efuseOpenings) region
     let v := endSoftStart (farrierAbandonAt u region) region
     let w := if (regionAt v region).live then failRegion v region else regionOff v region
     modRegion w region (fun x => { x with quarantined := true, heatOff := false, darkUntil := gtcNs s + 1000000000 }))

/-! ### Powering a region up (R304 to R307) -/

/-- REGION_POWER_UP_REQUEST (R304, R24). -/
def execRegionPowerUpRequest (region : Nat) (s : State) : Res :=
  onUnit (decide (region < 96)) (requestPower s region)

/-- The request at the head of a plane's queue, when a soft-start may begin. -/
def softStartHead (s : State) (f : Nat) : Option Nat :=
  let x := fieldAt s f
  if x.softStart.isNone && !x.planeOff && x.spineOn && !curbLow s then x.powerQueue.head? else none

def beginSoftStart (s : State) (f : Nat) (slow headroom : Bool) : State :=
  match softStartHead s f with
  | some r => modField s f (fun x =>
      { x with
        softStart := some { region := r, slow := slow }
        powerQueue := x.powerQueue.drop 1
        headroom := headroom })
  | none => s

/-- SOFT_START_BEGIN (R305): the plane has headroom; 40 us. -/
def execSoftStartBegin (field : Nat) (s : State) : Res :=
  onUnit (decide (field < 16)) (beginSoftStart s field false true)

/-- SOFT_START_SLOW (R305): no headroom for 2 ms; 160 us. -/
def execSoftStartSlow (field : Nat) (s : State) : Res :=
  onUnit (decide (field < 16)) (beginSoftStart s field true false)

/-- The region's power-up has ended: it is on and its minimum-voltage record is armed (R305, R307). -/
def powerOnRegion (s : State) (r vcore temp : Nat) : State :=
  updBanks (noteRail (modRegion s r (fun x =>
    { x with
      powered := true
      temp := temp
      lastBeat := (fieldAt s (fieldOf r)).gtcCopy })) r vcore) r

/-- A region that was dark for heat: live at 95 degrees or less, with the gait its caps allow (R314), else off again for 5 s
(R326). -/
def heatReturn (s : State) (r temp : Nat) : State :=
  if temp ≤ 95 then
    updBanks (dropGait (publishEvent (modRegion s r (fun x => { x with live := true, heatOff := false, hotSince := none }))) (fieldOf r)) r
  else modRegion (regionOff s r) r (fun x => { x with darkUntil := gtcNs s + 5000000000 })

/-- A return session after the hard limit checks its temperature as R326 does (R364). -/
def hardReturn (s : State) (r temp : Nat) : State :=
  if temp ≤ 95 then modRegion s r (fun x => { x with hardHot := false })
  else
    let t := modFarrier s (fun f => { f with session := none })
    modRegion (regionOff t r) r (fun x => { x with darkUntil := gtcNs s + 5000000000 })

/-- SOFT_START_END (R305, R307, R326). -/
def execSoftStartEnd (field vcore temp : Nat) (s : State) : Res :=
  onUnit (decide (field < 16))
    (match (fieldAt s field).softStart with
      | none => s
      | some y =>
        if !(fieldAt s field).spineOn then modField s field (fun x => { x with softStart := none }) else
        let t := powerOnRegion (modField s field (fun x => { x with softStart := none })) y.region vcore temp
        if (regionAt t y.region).heatOff then heatReturn t y.region temp
        else if (regionAt t y.region).hardHot then hardReturn t y.region temp
        else t)

/-! ### Gallop limits (R318 to R320) -/

/-- Excess units: 0.1 mJ for the module, 0.1 mA s for a plane, one update every 100 us (R319). -/
def modFull : Nat := 840000000
def modHalf : Nat := 420000000
def planeFull : Nat := 48000000
def planeHalf : Nat := 24000000

/-- In force once reached, until its lower level permits again. -/
def latchLimit (old : Bool) (reached permits : Bool) : Bool := reached || (old && !permits)

/-- The plane's excess and limit (Table 13-3). -/
def planeUpdate (i : Nat) (x : Field) : Field :=
  let q := x.qExcess + i - 320
  let on := x.planeOn && x.spineOn
  { x with
    iplane := if on then i else x.iplane
    headroom := if on then decide (i ≤ 260) else x.headroom
    qExcess := q
    planeLimit := latchLimit x.planeLimit (decide (planeFull ≤ q) || decide (480 < i)) (decide (q ≤ planeHalf)) }

/-- 100 us of wear credit: five units of 20 us spent at gallop, one refilled at canter or below (R320). -/
def wearUpdate (x : Field) : Field :=
  let c := if x.gait = .gallop && x.spineOn && !x.halted then x.credit - 5 else min fullCredit (x.credit + 1)
  { x with credit := c, wearLimit := latchLimit x.wearLimit (decide (c = 0)) (decide (15000000 ≤ c)) }

/-- The module's excess and limit, and the cap of 8.0 kW that stands for it while no field gallops (R319). -/
def moduleUpdate (p : Power) (powerIn : Nat) (galloping : Bool) : Power :=
  let e := p.eMod + powerIn - 8000
  { p with
    powerIn := powerIn
    eMod := e
    elecModule := latchLimit p.elecModule (decide (modFull ≤ e) || decide (10800 < powerIn)) (decide (e ≤ modHalf))
    elecCap := latchLimit p.elecCap (decide (modFull ≤ e) && !galloping) (decide (e ≤ modHalf)) }

def galloping (s : State) : Bool := s.fields.any (fun x => x.spineOn && decide (x.gait = .gallop))

/-- GALLOP_LIMIT_UPDATE (R318 to R320): the excesses and the credit of 100 us, and the drops they bring. -/
def execGallopLimitUpdate (powerIn : Nat) (iPlane : List Nat) (s : State) : Res :=
  let t := { s with fields := s.fields.zipIdx.map (fun p => wearUpdate (planeUpdate (iPlane.getD p.2 0) p.1)) }
  .next (dropAll (modPwr t (fun p => moduleUpdate p powerIn (galloping s))))

/-- WEAR_CREDIT_CHECKPOINT (R320, R368): C_f and life time go to the stud book, once step 2 has read them from it. -/
def execWearCreditCheckpoint (s : State) : Res :=
  .next (if s.pwr.railIn && s.boot.done.getLsbD 2 then
      { s with stud := { s.stud with creditCkpt := s.fields.map (fun x => x.credit / 50000), lifeCkpt := lifeTime s } }
    else s)

/-! ### Power cap (R321 to R323) -/

/-- PWR_CAP in W, none for 0 (R321). -/
def capWatts (c : Nat) : Option Nat :=
  if c = 0 then none else some (10 * (if c < 100 then 100 else if 1080 < c then 1080 else c))

/-- The cap in force: the register's, and 8.0 kW while the module excess stands for one (R319). -/
def capInForce (p : Power) : Option Nat :=
  match capWatts p.cap.toNat, p.elecCap with
  | some w, true => some (min w 8000)
  | none, true => some 8000
  | w, false => w

/-- The hottest live region of a field. -/
def fieldHottest (s : State) (f : Nat) : Nat :=
  ((regionsOf f).map (fun r => if (regionAt s r).live then (regionAt s r).temp else 0)).foldl max 0

/-- Field f stands below field g in gait, then in its hottest region, then in its number. -/
def fieldBelow (s : State) (f g : Nat) : Bool :=
  let a := gaitNum (fieldAt s f).gait
  let b := gaitNum (fieldAt s g).gait
  let h := fieldHottest s f
  let k := fieldHottest s g
  decide (a < b) || (decide (a = b) && (decide (h < k) || (decide (h = k) && decide (f < g))))

/-- The field to lower: highest gait, then hottest region, then highest number. -/
def lowerPick (s : State) (fs : List Nat) : Option Nat :=
  fs.foldl (fun best f => match best with
    | none => some f
    | some g => if fieldBelow s g f then some f else some g) none

/-- The field to raise: lowest gait, then coolest hottest region, then lowest number. -/
def raisePick (s : State) (fs : List Nat) : Option Nat :=
  fs.foldl (fun best f => match best with
    | none => some f
    | some g => if fieldBelow s f g then some f else some g) none

/-- POWER_CAP_COMPARE (R322): above the cap, one field goes down one gait; with every field at walk CAP_UNMET is set. -/
def execPowerCapCompare (powerIn : Nat) (s : State) : Res :=
  let s := modPwr s (fun p => { p with powerIn := powerIn })
  .next (match capInForce s.pwr with
    | none => s
    | some w =>
      if w < powerIn then
        (match lowerPick s ((List.range 16).filter (fun f => (fieldAt s f).spineOn && decide ((fieldAt s f).gait ≠ .walk))) with
          | some f => dropGait (modField s f (fun x => { x with capLimit := gaitBelow x.gait })) f
          | none =>
            if s.pwr.capUnmet then s
            else postEvent (modPwr s (fun p => { p with capUnmet := true })) 0x0042 .none 0 powerIn)
      else s)

/-- The power leaves room to raise: no cap, or 97 % of it or less. -/
def underCap (s : State) (powerIn : Nat) : Bool :=
  match capInForce s.pwr with
  | none => true
  | some w => decide (100 * powerIn ≤ 97 * w)

/-- The cap is what holds the field down: without it the field's granted gait would be higher (R313). -/
def capBinds (s : State) (f : Nat) : Bool :=
  (fieldAt s f).spineOn && gaitLt (grantedGait s f) (grantedGait (modField s f (fun x => { x with capLimit := .gallop })) f)

/-- Fields the cap holds down. -/
def cappedFields (s : State) : List Nat := (List.range 16).filter (capBinds s)

/-- POWER_CAP_RAISE (R323): one field's cap rises by one gait, and the field with it as far as its granted gait. -/
def execPowerCapRaise (powerIn : Nat) (s : State) : Res :=
  let s := modPwr s (fun p => { p with powerIn := powerIn })
  .next (if underCap s powerIn then
      (match raisePick s (cappedFields s) with
        | some f => startRise (modField s f (fun x => { x with capLimit := gaitAbove x.capLimit })) f
        | none => s)
    else s)

end Sys2Proof.Machine
end

