-- ==== Sys2Proof/Machine/RegWrite.lean ====
section
/-!
DEFINITION. The rules behind the access codes: keys, paired fields, staging, and the writes to the registers of the FLD, RGN,
MEM, LNK, PWR and CLK blocks (19_registers.md R443 to R456 and the register tables of the blocks' chapters).
-/
namespace Sys2Proof.Machine

/-! ### Fields of a written word -/

def wBits (v : Word) (hi lo : Nat) : Nat := bits v.toNat hi lo
def wBit (v : Word) (k : Nat) : Bool := v.getLsbD k

/-- Any op ring is enabled. -/
def anyRingEn (s : State) : Bool := s.hst.rings.zipIdx.any (fun p => decide (p.2 < 16) && p.1.en)

/-- A 64-bit address written as two words (R447): the low word, 4 KiB aligned, and bits 47 to 32. -/
def setLow (a : Nat) (v : Word) : Nat := a / 2 ^ 32 * 2 ^ 32 + wBits v 31 12 * 4096
def setHigh (a : Nat) (v : Word) : Nat := wBits v 15 0 * 2 ^ 32 + a % 2 ^ 32
def setLow64 (a : Word64) (v : Word) : Word64 := BitVec.ofNat 64 (a.toNat / 2 ^ 32 * 2 ^ 32 + v.toNat)
def setHigh64 (a : Word64) (v : Word) : Word64 := BitVec.ofNat 64 (v.toNat * 2 ^ 32 + a.toNat % 2 ^ 32)

/-! ### Error bits of a block (Table 19-7) -/

def keyErr (s : State) (b : Blk) : State := modCtl s b (fun c => { c with keyErr := true })
def pairErr (s : State) (b : Blk) : State := modCtl s b (fun c => { c with pairErr := true })
def cinchErr (s : State) (b : Blk) : State := modCtl s b (fun c => { c with cinchErr := true })

/-- How a write arrives: with the key open, out of a cinch's commit, with its RWK fields refused at staging. -/
structure Access where
  keyed : Bool
  commit : Bool
  dropped : Bool
deriving DecidableEq, Repr

/-! ### Which writes reach guarded fields (R444) -/

/-- Fitted and uncapped stacks of an ordering code (Table 14-12). -/
def stackFitted (code m : Nat) : Bool :=
  !((code = 2 || code = 5 || code = 6) && (m = 1 || m = 6 || m = 9 || m = 14))

/-- MEM_RETRAIN.START of the selected stack reads 1 while its retraining is queued or runs. -/
def retrainPending (s : State) : Bool :=
  let m := s.glb.memSel.toNat
  stackFitted s.fuses.orderCode m && (s.glb.retrainQueue.contains m || (stackAt s m).retraining)

/-- A write of v at an offset of a block reaches an RWK field. -/
def reachesKey (s : State) (b : Blk) (loc : Nat) (v : Word) : Bool :=
  match b, loc with
  | .glb, 0x048 => wBit v 0
  | .glb, 0x200 => wBit v 4 ≠ s.glb.dupRepeat
  | .glb, 0x210 => wBit v 0 ≠ s.farrier.en
  | .mem, 0x054 => wBit v 0 ≠ retrainPending s
  | .lnk, 0x078 => v ≠ s.lnk.jobTag
  | .pwr, 0x060 => wBit v 0 ≠ s.pwr.capPolicy
  | .pwr, 0x064 => wBits v 1 0 ≠ s.pwr.maxGait.toNat
  | .pwr, 0x068 => wBits v 10 0 ≠ s.pwr.cap.toNat
  | .clk, 0x058 => wBit v 1 ≠ s.clk.ppsEn || wBits v 3 2 ≠ s.clk.syncRole.toNat
  | .sec, 0x04C => wBits v 1 0 ≠ 0
  | .sec, 0x050 => wBits v 1 0 ≠ 0
  | _, _ => false

/-- A write to a location that holds a paired field (Table 19-8). -/
def pairedLoc (b : Blk) (loc : Nat) : Bool :=
  match b, loc with
  | .rgn, 0x100 => true
  | .rgn, 0x104 => true
  | .clk, 0x060 => true
  | .clk, 0x064 => true
  | _, _ => false

/-- A write reaches an RWC field. -/
def reachesPair (s : State) (b : Blk) (loc : Nat) (v : Word) : Bool :=
  match b, loc with
  | .rgn, 0x100 => wBits v 26 16 ≠ s.glb.taskBase.toNat
  | .rgn, 0x104 => wBits v 26 16 ≠ s.glb.taskBound.toNat
  | .clk, 0x060 => v.toNat ≠ s.clk.gtcSet.toNat % 2 ^ 32
  | .clk, 0x064 => v.toNat ≠ s.clk.gtcSet.toNat / 2 ^ 32
  | _, _ => false

/-- The RWK fields of a register (R449): unchanged and KEY_ERR set where the write reaches them without the key. -/
def guardKey (s : State) (b : Blk) (loc : Nat) (v : Word) (a : Access) (f : State → State) : State :=
  if !reachesKey s b loc v then s
  else if a.keyed then f s
  else if a.dropped then s
  else keyErr s b

/-- The RWC fields of a register (R455): outside a commit the write is ignored and PAIR_ERR set. -/
def guardPair (s : State) (b : Blk) (loc : Nat) (v : Word) (a : Access) (f : State → State) : State :=
  if a.commit then f s
  else if reachesPair s b loc v then pairErr s b
  else s

/-! ### FLD, RGN, MEM (Tables 10-5, 4-4, 8-2 to 8-6, 9-4 to 9-8) -/

def writeFld (s : State) (loc : Nat) (v : Word) : State :=
  match loc with
  | 0x040 => modGlb s (fun g => { g with fldSel := BitVec.ofNat 4 (wBits v 3 0), fldDir := BitVec.ofNat 2 (wBits v 5 4) })
  | _ => s

def writeRgn (s : State) (loc : Nat) (v : Word) (a : Access) : State :=
  match loc with
  | 0x040 => modGlb s (fun g => { g with rgnSel := BitVec.ofNat 7 (wBits v 6 0) })
  | 0x100 => guardPair s .rgn loc v a (fun t => modGlb t (fun g => { g with taskBase := BitVec.ofNat 11 (wBits v 26 16) }))
  | 0x104 => guardPair s .rgn loc v a (fun t => modGlb t (fun g => { g with taskBound := BitVec.ofNat 11 (wBits v 26 16) }))
  | 0x108 => if wBit v 1 then modGlb s (fun g => { g with rangeErr := false }) else s
  | 0x10C => modGlb s (fun g => { g with slotSel := BitVec.ofNat 7 (wBits v 6 0) })
  | _ => s

def writeMem (s : State) (loc : Nat) (v : Word) (a : Access) : State :=
  match loc with
  | 0x040 => modGlb s (fun g => { g with memSel := BitVec.ofNat 4 (wBits v 3 0) })
  | 0x048 => if wBit v 8 then modStack s s.glb.memSel.toNat (fun x => { x with retrainFailed := false }) else s
  | 0x054 => guardKey s .mem loc v a (fun t => if wBit v 0 then queueRetrain t t.glb.memSel.toNat else t)
  | _ => s

/-! ### LNK (Tables 16-7 to 16-11) -/

def writeLnk (s : State) (loc : Nat) (v : Word) (a : Access) : State :=
  match loc with
  | 0x040 => modLnk s (fun l => { l with sel := BitVec.ofNat 7 (wBits v 6 0) })
  | 0x070 => if anyRingEn s then s
    else modLnk s (fun l => { l with commEn := wBit v 0, commBase := setLow l.commBase v })
  | 0x074 => if anyRingEn s then s else modLnk s (fun l => { l with commBase := setHigh l.commBase v })
  | 0x078 => guardKey s .lnk loc v a (fun t => if anyRingEn t then t else modLnk t (fun l => { l with jobTag := v }))
  | _ => s

/-! ### PWR (Tables 12-4 to 12-11, 13-6, 13-7) -/

/-- VMIN_CLEAR (R307): VMIN and VALID of the selected region clear and its record restarts. -/
def clearVmin (s : State) : State :=
  modRegion s s.pwr.selRegion.toNat (fun x => { x with vmin := 0, vminValid := false })

/-- With no cap in force the power cap holds no field (R321). -/
def uncap (s : State) : State :=
  if s.pwr.cap = 0 && !s.pwr.elecCap then { s with fields := s.fields.map (fun x => { x with capLimit := .gallop }) } else s

def writePwr (s : State) (loc : Nat) (v : Word) (a : Access) : State :=
  match loc with
  | 0x040 => modPwr s (fun p => { p with selRegion := BitVec.ofNat 7 (wBits v 6 0), selField := BitVec.ofNat 4 (wBits v 11 8) })
  | 0x054 => if wBit v 31 then clearVmin s else s
  | 0x060 => guardKey s .pwr loc v a (fun t => dropAll (modPwr t (fun p => { p with capPolicy := wBit v 0 })))
  | 0x064 =>
    let t := modPwr s (fun p => { p with idleWalkEn := wBit v 2 })
    dropAll (guardKey t .pwr loc v a (fun u => modPwr u (fun p => { p with maxGait := BitVec.ofNat 2 (wBits v 1 0) })))
  | 0x068 =>
    let t := if wBit v 16 then modPwr s (fun p => { p with capUnmet := false }) else s
    guardKey t .pwr loc v a (fun u => uncap (modPwr u (fun p => { p with cap := BitVec.ofNat 11 (wBits v 10 0) })))
  | _ => s

/-! ### CLK (Tables 11-2 to 11-9) -/

/-- An entry that is selected and not accepted is not in flight: it is head again (R273). -/
def dropUnaccepted (s : State) : State :=
  if s.master.op.isNone && s.master.done.isEmpty then modMaster s (fun m => { m with sel := none }) else s

/-- A request for deep sleep (R273): ENTERING is set, fetch stops and what is selected ahead of acceptance is discarded; refused
with SLEEP_ERR before bring-up step 9, during a halter, while entering and in deep sleep. -/
def sleepRequest (s : State) : State :=
  if s.boot.done.getLsbD 9 && s.hst.halterReq.isNone && s.hst.halterRun.isNone && !s.clk.entering && !s.clk.asleep then
    updAllBanks (modClk (dropUnaccepted (dropPreSel s)) (fun c => { c with entering := true }))
  else modClk s (fun c => { c with sleepErr := true })

/-- A host or peer command on a sync object (R193, R274): held in deep sleep. -/
def syncCommand (s : State) (o : Nat) (set : Bool) (v : Word64) : State :=
  if s.clk.asleep then { s with held := s.held ++ [{ obj := o, set := set, peer := false, value := v }] }
  else syncApply s o set v

/-- A peer add whose object's spine is off is dropped, with event 0x0050 (R194). -/
def peerAddNow (s : State) (o : Nat) (v : Word64) : State :=
  if syncAvailable s o then syncApply s o false v else postEvent s 0x0050 .none 0 o

/-- A peer's add (R383), held in deep sleep (R274). -/
def peerAdd (s : State) (o : Nat) (v : Word64) : State :=
  if s.clk.asleep then { s with held := s.held ++ [{ obj := o, set := false, peer := true, value := v }] }
  else peerAddNow s o v

/-- One held command; a host command to an unavailable object is ignored (R194). -/
def applyOneHeld (s : State) (h : HeldSync) : State :=
  if h.peer then peerAddNow s h.obj h.value
  else if syncAvailable s h.obj then syncApply s h.obj h.set h.value
  else s

/-- The commands held in deep sleep are applied in arrival order. -/
def applyHeld (s : State) : State := s.held.foldl applyOneHeld { s with held := [] }

/-- Every crossing that is up enters the mode its fields' gaits give (R276). -/
def realign (s : State) : State := allJoins.foldl (fun t p => changeCrossing t p.1 p.2) s

/-- Stacks leave self-refresh and halted fields restart in the gait they halted in (R270, R274). -/
def leaveSleep (s : State) : State :=
  { s with
    memStacks := s.memStacks.map (fun x => { x with selfRefresh := false })
    fields := s.fields.map (fun x => { x with halted := false }) }

/-- What limits the gaits acts on the fields that restart: CURB_N and the granted gaits (R309, R314). -/
def limitGaits (s : State) : State := dropAll (if curbLow s then curbWalk s else s)

/-- Waits that have expired in deep sleep complete with WAIT_TIMEOUT (R274). -/
def expireWaits (s : State) : State := (List.range 16).foldl expireWait s

/-- A wake request (R274): refused with SLEEP_ERR while the module is awake. Waits that expired before it are judged before the
commands held in deep sleep apply. -/
def wakeRequest (s : State) : State :=
  if s.clk.asleep then
    updAllBanks (applyHeld (expireWaits (modClk (limitGaits (realign (leaveSleep s))) (fun c => { c with asleep := false }))))
  else modClk s (fun c => { c with sleepErr := true })

/-- The RWK fields of CLK_TIME_CTRL: a module that is no follower is not locked to one. -/
def setRole (c : Clock) (v : Word) : Clock :=
  { c with
    ppsEn := wBit v 1
    syncRole := BitVec.ofNat 2 (wBits v 3 2)
    locked := c.locked && decide (wBits v 3 2 = 2) }

def writeClk (s : State) (loc : Nat) (v : Word) (a : Access) : State :=
  match loc with
  | 0x040 => modClk s (fun c => { c with selField := BitVec.ofNat 4 (wBits v 3 0), selDir := BitVec.ofNat 2 (wBits v 5 4) })
  | 0x058 =>
    let t := modClk s (fun c => { c with beatTime := wBit v 0 })
    guardKey t .clk loc v a (fun u => modClk u (fun c => setRole c v))
  | 0x05C => modClk s (fun c => { c with ppsLost := c.ppsLost && !wBit v 2, stepErr := c.stepErr && !wBit v 3 })
  | 0x060 => guardPair s .clk loc v a (fun t => modClk t (fun c => { c with gtcSet := setLow64 c.gtcSet v }))
  | 0x064 => guardPair s .clk loc v a (fun t => modClk t (fun c => { c with gtcSet := setHigh64 c.gtcSet v }))
  | 0x068 =>
    let t := if wBit v 4 then modClk s (fun c => { c with sleepErr := false }) else s
    if wBits v 1 0 = 1 then sleepRequest t else if wBits v 1 0 = 2 then wakeRequest t else t
  | _ => s

/-! ### The cinch (R450 to R456) -/

/-- The block's safe point (Table 19-8). -/
def safePoint (s : State) (b : Blk) : Bool :=
  match b with
  | .rgn => !anyRingEn s && atBoundary s
  | .clk => !anyRingEn s
  | _ => true

/-- The staged writes include one to a paired field. -/
def stagesPair (b : Blk) (ws : List Staged) : Bool := ws.any (fun w => pairedLoc b w.offset)

/-- The value a paired location holds after every staged write. -/
def lastStaged (ws : List Staged) (loc : Nat) : Option Word := ((ws.filter (fun w => w.offset = loc)).getLast?).map (·.value)

/-- The pair the RGN block would hold. -/
def stagedRange (s : State) (ws : List Staged) : Nat × Nat :=
  (((lastStaged ws 0x100).map (fun v => wBits v 26 16)).getD s.glb.taskBase.toNat,
   ((lastStaged ws 0x104).map (fun v => wBits v 26 16)).getD s.glb.taskBound.toNat)

/-- The value the CLK pair would hold. -/
def stagedGtc (s : State) (ws : List Staged) : Nat :=
  ((lastStaged ws 0x060).map (·.toNat)).getD (s.clk.gtcSet.toNat % 2 ^ 32) +
    2 ^ 32 * ((lastStaged ws 0x064).map (·.toNat)).getD (s.clk.gtcSet.toNat / 2 ^ 32)

/-- The block's check at commit (Table 19-8). -/
def pairOk (s : State) (b : Blk) (ws : List Staged) : Bool :=
  match b with
  | .rgn => decide ((stagedRange s ws).1 < (stagedRange s ws).2) && decide ((stagedRange s ws).2 ≤ 0x400)
  | .clk => decide (s.clk.gtc.toNat < stagedGtc s ws)
  | _ => true

/-- The block's refusal bit. -/
def refusePair (s : State) (b : Blk) : State :=
  match b with
  | .rgn => modGlb s (fun g => { g with rangeErr := true })
  | .clk => modClk s (fun c => { c with stepErr := true })
  | _ => s

/-- The cinch closes with an outcome. -/
def closeCinch (s : State) (b : Blk) (last : CinchLast) : State :=
  modCtl s b (fun c => { c with cinch := .closed, staged := [], last := last })

/-- The GTC and every copy take the committed value (R288). -/
def setGtc (s : State) : State :=
  copyGtc (modClk s (fun c => { c with gtc := c.gtcSet }))

/-- What an applied pair brings with it (R214, R456). -/
def pairApplied (s : State) (b : Blk) : State :=
  match b with
  | .rgn => updAllBanks s
  | .clk => setGtc s
  | _ => s

def stagedAccess (w : Staged) : Access := { keyed := w.keyed, commit := true, dropped := w.dropped }

/-- Steps 3 to 5 of R451, with the write function of the block. -/
def applyCommit (s : State) (b : Blk) (write : State → Nat → Word → Access → State) : State :=
  let ws := (ctlAt s b).staged
  if stagesPair b ws && !pairOk s b ws then refusePair (closeCinch s b .refused) b
  else
    let t := ws.foldl (fun u w => write u w.offset w.value (stagedAccess w)) (closeCinch s b .applied)
    if stagesPair b ws then pairApplied t b else t

/-- A pending commit is applied when its safe point is reached (R451, R454). -/
def applyPending (s : State) (b : Blk) : State :=
  if (ctlAt s b).cinch = .waiting && safePoint s b then
    match b with
    | .rgn => applyCommit s .rgn writeRgn
    | .clk => applyCommit s .clk writeClk
    | _ => s
  else s

end Sys2Proof.Machine
end

