-- ==== Sys2Proof/Machine/HalterOps.lean ====
section
/-!
DEFINITION. Zeroing, the halter sequence and its record, the register reset and the warm reset (08_scratchpad.md R226 to R228,
14_bringup.md R345, 17_host_rings.md R410 to R415, 18_security.md R425, R433, 19_registers.md R457).
-/
namespace Sys2Proof.Machine

/-! ### Zeroing (R226 to R228) -/

/-- Halted fields are started at walk, and stacks leave the self-refresh of deep sleep. -/
def startHalted (s : State) : State :=
  if s.clk.asleep then
    let t := leaveSleep s
    modClk ((List.range 16).foldl (fun u f => if (fieldAt u f).spineOn then setGait u f .walk else u) t)
      (fun c => { c with asleep := false })
  else s

/-- What Table 8-11 lists of a region beside its scratchpad: the hit counter, both stationary banks and the gates of rows and
stakes. -/
def zeroedRegion (r : Region) : Region :=
  { r with
    hits := 0
    banks := [CellBank.reset, CellBank.reset]
    working := 0 }

/-- The state of Table 8-11 is cleared: what K holds of it, and what the regions and spines hold while K reaches them (R17; log
entry 164). -/
def clearZeroed (s : State) : State :=
  let t := modMaster { s with held := [] } (fun m => { m with stale := [], staleFull := false, advisorStart := [] })
  if kCutOff s then t
  else { t with spad := [], badSpad := [], before := [], sync := [], regions := t.regions.map zeroedRegion }

/-- A zeroing starts. -/
def zeroStart (s : State) : State :=
  modGlb (clearZeroed (startHalted s)) (fun g => { g with zeroing := true, zeroDue := false })

/-- A zeroing ends: ZEROING clears, the slot map is rebuilt, banks R217 does not keep go off, the job is over (R228, R410). The
stale intervals of a region that failed meanwhile go too (Table 8-11), and waits of the next job begin. -/
def zeroEnd (s : State) : State :=
  let t := modMaster (modGlb s (fun g => { g with zeroing := false })) (fun m => { m with stale := [], staleFull := false })
  updateHeads (modHst (updAllBanks { t with slots := buildSlots t }) (fun h => { h with active := false }))

/-! ### The halter sequence (R413, Table 17-2) -/

/-- The bring-up step a halter stops: ERR_CODE is HALTERED (R414). -/
def stoppedStep (s : State) : Nat := s.boot.running.getD (if s.boot.linkBusy then 6 else 0)

def stopBoot (s : State) : State :=
  let n := stoppedStep s
  if n = 0 then s
  else
    let t := modBoot s (fun b =>
      { b with
        running := none
        found := false
        pendErr := 0
        linkBusy := false
        waitLinks := false
        failedStep := BitVec.ofNat 4 n
        errCode := 8 })
    modLnk t (fun l => { l with links := l.links.map (fun x => { x with training := false }) })

/-- Originals whose vote is not resolved. -/
def openVotes (s : State) : List (Tile × Tile) :=
  s.master.tiles.filterMap (fun t =>
    if t.role = .original && t.voting then (dupOf s t.id).map (fun d => (t, d)) else none)

/-- The error record of a vote that a halter ends: no verdict (15, "When halter arrives during a vote"); the error fails no
operation. -/
def endVotes (s : State) : State :=
  (openVotes s).foldl (fun u p =>
    dupRecord u p.1.region p.2.region ((voteOf s p.1.id).map (·.region)) 3 u.master.repeatInForce 0 false) s

/-- What a member of the open selection is owed, with the time of its abandonment. -/
def owedMember (s : State) (sel : Selection) (e : Entry) : HalterOwed :=
  let o := (acceptedOps s).find? (fun x => decide (x.count = e.count))
  { ring := sel.ring, tag := dTag e.words, count := e.count, group := decide (1 < sel.members.length),
    replayed := o.elim false (·.replayed), dupChecks := o.elim 0 (·.dupChecks), gtc := gtcNs s }

/-- Every accepted, uncommitted descriptor, and every member of an open commit group. -/
def owedRecords (s : State) : List HalterOwed :=
  let inFlight_ := match s.master.sel with
    | some sel => if (writtenOps s).isEmpty then [] else sel.members.map (owedMember s sel)
    | none => []
  let aside := (asideOps s).map (fun o =>
    { ring := o.ring, tag := dTag o.words, count := o.count, group := false, replayed := false, dupChecks := 0, gtc := gtcNs s :
      HalterOwed })
  (List.range 16).flatMap (fun r => (inFlight_ ++ aside).filter (fun x => x.ring = r))

/-- Everything in flight is discarded. -/
def discardWork (s : State) : State :=
  let t := modMaster (keepTiles s (fun _ => false) (fun _ => false)) (fun m =>
    { m with
      sel := none
      op := none
      done := []
      pre := none
      preSel := none
      recovery := m.recovery.map (fun r => { r with halted := true })
      colls := []
      tail := [] })
  modLnk (clearQueues t) (fun l =>
    { l with mail := [], collSeq := [], jobTag := 0, links := l.links.map (fun x => { x with retry := [] }) })

/-- A ring is disabled: its held entries are discarded without a record (R408, R414). -/
def disableRing (r : Ring) : Ring :=
  { r with
    en := false
    stopped := false
    stopDb := false
    stopStatus := 0
    entries := [] }

def disableOpRings (s : State) : State :=
  modHst s (fun h => { h with rings := h.rings.zipIdx.map (fun p => if p.2 < 16 then disableRing p.1 else p.1) })

/-- An update in progress pauses (R425). -/
def pauseUpdate (s : State) : State :=
  modSec s (fun x => { x with update := match x.update with
    | .idle => .idle
    | _ => .paused })

/-- Steps 1 to 5 of Table 17-2, the zeroing begun: ZEROING_END ends it. A zeroing in progress satisfies the halter too
(R226). -/
def haltSequence (s : State) (cause : Nat) (seq : BitVec 16) : State :=
  let run : HalterRun := { cause := cause, seq := seq, step := stoppedStep s, seen := gtcNs s, owed := owedRecords s }
  let t := disableOpRings (discardWork (endVotes (farrierAbandon (stopBoot s))))
  let u := applyPending (applyPending (pauseUpdate t) .rgn) .clk
  let v := if u.glb.zeroing then clearZeroed u else zeroStart u
  modClk (modHst v (fun h => { h with halterReq := none, halterRun := some run })) (fun c => { c with entering := false })

/-- The 32 bytes of the halter record (Table 17-3). -/
def halterBytes (s : State) (r : HalterRun) : List Byte :=
  natBytes 2 r.seq.toNat ++ natBytes 1 r.cause ++ natBytes 1 r.step ++ natBytes 8 r.seen.toNat ++
    natBytes 8 (gtcNs s).toNat ++ natBytes 4 r.owed.length ++ natBytes 4 s.hst.halters.toNat ++
    natBytes 4 (if s.hst.halterPhase then 1 else 0)

/-- The module address of the doorbell page (R398, R400). -/
def doorbellPage (s : State) : Nat := hostBase + s.na.base

/-- The halter record goes to the halter line of the page NA_DB_BASE names, polled or not (R401), with vector 18. -/
def writeHalterRecord (s : State) (bytes : List Byte) : State :=
  raiseMsix (hostWrite s (doorbellPage s + 0x480 + 32) bytes) 18

def postOwed (s : State) (x : HalterOwed) : State :=
  postCompletion s x.ring { tag := x.tag, count := x.count, status := stHaltered, group := x.group, replayed := x.replayed,
                            detail := 0, dupChecks := x.dupChecks, gtc := x.gtc }

/-- A halter word read before step 6 begins gives ACK_SEQ. -/
def latestSeq (s : State) (r : HalterRun) : HalterRun :=
  match s.hst.halterReq with
  | some q => if q.cause = 1 then { r with seq := q.seq } else r
  | none => r

/-- Step 6: the HALTERED records, then the halter record; with the link down the halter record waits (R414). -/
def haltPost (s : State) : State :=
  match s.hst.halterRun with
  | none => s
  | some r0 =>
    let r := latestSeq s r0
    let t := modHst (r.owed.foldl postOwed s) (fun h =>
      { h with halters := h.halters + 1, halterPhase := !h.halterPhase, halterRun := none, halterReq := none })
    let bytes := halterBytes t r
    let u := modHst t (fun h => { h with lastHalter := bytes })
    let v := if u.na.up then writeHalterRecord u bytes
      else modHst u (fun h => { h with halterWaitsLink := some r, linkHalter := decide (r.cause = 3) })
    if v.hst.sidebandHalter then
      modSide (modHst v (fun h => { h with sidebandHalter := false })) (fun d => { d with response := 0 :: bytes })
    else v

/-- A whole halter, unless one is in progress. -/
def haltWhole (s : State) (cause : Nat) : State :=
  haltPost (match s.hst.halterRun with
    | some _ => if s.glb.zeroing then zeroEnd s else s
    | none =>
      let t := haltSequence s cause 0
      if t.glb.zeroing then zeroEnd t else t)

/-! ### Register reset (R457) -/

def resetPower (p : Power) : Power :=
  { p with
    capPolicy := false
    maxGait := 2
    idleWalkEn := false
    cap := 0
    capUnmet := false
    selRegion := 0
    selField := 0
    vminTimeShadow := 0 }

def resetClock (c : Clock) : Clock :=
  { c with
    beatTime := false
    ppsEn := false
    syncRole := 0
    locked := false
    slew := 0
    ppsLost := false
    stepErr := false
    gtcSet := 0
    gtcHiShadow := 0
    sleepErr := false
    entering := false
    asleep := false
    selField := 0
    selDir := 0 }

def resetGlb (g : Glb) : Glb :=
  { g with
    weaveAddr := 0
    advEn := false
    advBase := 0
    syncSel := 0
    syncOpnd := 0
    syncHiShadow := 0
    dupRate := 9
    dupRepeat := false
    studKind := 0
    studIndex := 0
    fldSel := 0
    fldDir := 0
    rgnSel := 0
    slotSel := 0
    taskBase := 0
    taskBound := 0x200
    rangeErr := false
    memSel := 0 }

def resetLnk (l : Lnk) : Lnk :=
  { l with
    commEn := false
    commBase := 0
    jobTag := 0
    sel := 0
    peerHiShadow := 0
    coordHiShadow := 0 }

def resetHst (h : Hst) : Hst :=
  { h with
    rings := List.replicate 18 Ring.reset
    ringSel := 0
    jobErr := false }

/-- Every writable field returns to its reset value, and every key, cinch and shadow closes. -/
def resetRegisters (s : State) : State :=
  { s with
    pwr := resetPower s.pwr
    clk := resetClock s.clk
    glb := resetGlb s.glb
    lnk := resetLnk s.lnk
    hst := resetHst s.hst
    farrier := { s.farrier with en := true }
    sec := { s.sec with imgAddr := 0, imgLen := 0, result := 0 }
    memStacks := s.memStacks.map (fun x => { x with retrainFailed := false })
    blocks := List.replicate 9 BlockCtl.reset }

/-! ### Warm reset (R345) -/

/-- A field whose domains are off; its plane is a rail and stays up, and what cold power-on alone clears stays. -/
def fieldOff (x : Field) : Field :=
  { x with
    spineOn := false
    included := false
    powerQueue := []
    softStart := none
    pllLock := false
    halted := false
    gait := .walk
    rising := none
    demoteLimit := .gallop
    stackLimit := .gallop
    tempLimit := .gallop
    capLimit := .gallop
    demoted := false
    idle := false
    idleExit := false
    tempStepAt := none
    thermLimit := false
    rein := 0
    ownRun := 0
    ownReins := 0
    quietMs := 0
    beats := 0
    edges := x.edges.map (fun e =>
      { e with
        live := 0
        spares := 0
        up := false
        mode := .idle
        draining := false
        offset := 0
        fifo := List.replicate 32 []
        occMin := 0
        occMax := 0 }) }

/-- Every field's domains go off: a plane's sensed voltage stays as last read (R311), and no reason of an exclusion is left. -/
def fieldsOff (s : State) : State :=
  bumpFree { s with fields := s.fields.zipIdx.map (fun p =>
    { fieldOff p.1 with
      reason := 0
      vplane := if p.1.spineOn && p.1.planeOn then Config.unreadSensor p.2 s.free % 4096 else p.1.vplane }) }

/-- A region whose domain is off. -/
def regionDark (x : Region) : Region :=
  { x with
    powered := false
    live := false
    quarantined := false
    heatPending := false
    heatOff := false
    leavePending := false
    hotSince := none
    bankOn := 0
    bankReady := 0
    queue := []
    banks := [CellBank.reset, CellBank.reset]
    working := 0 }

/-- A stack in the self-refresh of a warm reset: content, counts and trained settings stay. -/
def stackAway (x : Stack) : Stack :=
  { x with
    live := false
    selfRefresh := true
    retraining := false
    failed := false
    hotRefresh := false
    throttled := false
    hotSelfRefresh := false }

/-- Bring-up starts anew; what only cold power-on clears stays (R335, R346). -/
def bootAgain (b : Boot) : Boot := { Boot.reset with dead := b.dead, coldUp := b.coldUp, lastWarm := true }

/-- The domains a warm reset switches off: all but the always-on ones and K's switched domain (R345 step 4). -/
def domainsOff (p : Power) : Power :=
  { p with
    d28On := List.replicate 4 false
    ioCoreOn := List.replicate 4 false
    ioGroupOn := List.replicate 24 false
    ioLandingLive := List.replicate 4 [0, 0]
    kTested := [false, false]
    kLandingOk := [false, false] }

/-- A link that is no longer trained; its counts and its place in the plane map stay. -/
def linkAway (l : Link) : Link :=
  { Link.reset with fecUncorr := l.fecUncorr, retries := l.retries, plane := l.plane, conflict := l.conflict }

/-- Steps 2 to 5 of R345, after the halter record. -/
def warmRest (s : State) : State :=
  let t := fieldsOff (resetRegisters { s with held := [] })
  { t with
    pwr := { domainsOff t.pwr with kMode := if s.pwr.modresetLow then .held else .rom }
    regions := t.regions.map regionDark
    memStacks := t.memStacks.map stackAway
    slots := List.replicate 96 .unmapped
    lnk := { t.lnk with links := t.lnk.links.map linkAway }
    boot := bootAgain t.boot
    glb := { t.glb with liveStakes := 0, liveRegions := 0, retrainQueue := [], floor := false, detour := false, routes := [] }
    sec := { t.sec with faOpen := false, resetWaits := false }
    master := Master.reset
    farrier := { t.farrier with session := none, waiting := false }
    spad := []
    badSpad := []
    before := [] }

/-- A warm reset (R345): the halter first; with an update in flash in progress the rest waits for its end (R425). -/
def warmReset (s : State) : State :=
  if s.sec.resetWaits then s
  else
  let t := haltWhole s 4
  if t.sec.update = .idle then warmRest t
  else modSec t (fun x => { x with resetWaits := true })

/-! ### The host link -/

/-- The Nolot link goes down: its status changes (vector 19), the page's latest values stay with the adapter (R397, R401). -/
def nolotDown (s : State) : State :=
  if s.na.up then raiseMsix (modNa s (fun n => { n with up := false, width := 0 })) 19 else s

/-! ### Power-off (R291, R457) -/

/-- What a region keeps without power: its e-fuse openings, its isolation fuse and what the stud book holds of it. -/
def coldRegion (x : Region) : Region :=
  { Region.reset with
    efuseOpenings := x.efuseOpenings
    fuseBlown := x.fuseBlown
    delta := x.delta
    margin := x.margin
    trimCap := x.trimCap
    trimCapSince := x.trimCapSince
    wideSessions := x.wideSessions
    sessionAt := x.sessionAt }

/-- The module without power: fuses, flash, the adapter and host memory stay. -/
def coldState (s : State) : State :=
  { State.reset with
    pending := s.pending
    pwr := { Power.reset with modresetLow := s.pwr.modresetLow, curbExt := s.pwr.curbExt }
    regions := s.regions.map coldRegion
    na := s.na
    glb := { Glb.reset with flashWeave := s.glb.flashWeave, flashWeaveOk := s.glb.flashWeaveOk, flashBad := s.glb.flashBad }
    sec := { Sec.reset with image := s.sec.image, imageLen := s.sec.imageLen, nonceCount := s.sec.nonceCount }
    stud := s.stud
    fuses := s.fuses
    host := s.host
    free := s.free }

end Sys2Proof.Machine
end

