-- ==== Sys2Proof/Machine/Shake.lean ====
section
/-!
DEFINITION. SHAKE256 with 64 bytes of output (FIPS 202), as every measurement and digest of the module uses it
(18_security.md, opening; R423, R427, R430).
-/
namespace Sys2Proof.Machine

/-- The round constants of Keccak-f[1600]. -/
def keccakRounds : List Word64 :=
  [0x1, 0x8082, 0x800000000000808a, 0x8000000080008000, 0x808b, 0x80000001, 0x8000000080008081, 0x8000000000008009] ++
  [0x8a, 0x88, 0x80008009, 0x8000000a, 0x8000808b, 0x800000000000008b, 0x8000000000008089, 0x8000000000008003] ++
  [0x8000000000008002, 0x8000000000000080, 0x800a, 0x800000008000000a, 0x8000000080008081, 0x8000000000008080,
   0x80000001, 0x8000000080008008]

/-- Rotation of lane x + 5y. -/
def keccakRot : List Nat :=
  [0, 1, 62, 28, 27, 36, 44, 6, 55, 20, 3, 10, 43, 25, 39, 41, 45, 15, 21, 8, 18, 2, 61, 56, 14]

def lane (a : List Word64) (x y : Nat) : Word64 := a.getD (x % 5 + 5 * (y % 5)) 0

/-- Theta. -/
def keccakTheta (a : List Word64) : List Word64 :=
  let c := (List.range 5).map (fun x => lane a x 0 ^^^ lane a x 1 ^^^ lane a x 2 ^^^ lane a x 3 ^^^ lane a x 4)
  let d := (List.range 5).map (fun x => c.getD ((x + 4) % 5) 0 ^^^ (c.getD ((x + 1) % 5) 0).rotateLeft 1)
  a.zipIdx.map (fun p => p.1 ^^^ d.getD (p.2 % 5) 0)

/-- Rho and pi: lane (X, Y) takes lane (X + 3Y, X), rotated. -/
def keccakRhoPi (a : List Word64) : List Word64 :=
  (List.range 25).map (fun i =>
    let x := (i % 5 + 3 * (i / 5)) % 5
    let y := i % 5
    (lane a x y).rotateLeft (keccakRot.getD (x + 5 * y) 0))

/-- Chi. -/
def keccakChi (b : List Word64) : List Word64 :=
  (List.range 25).map (fun i => lane b (i % 5) (i / 5) ^^^ (~~~(lane b (i % 5 + 1) (i / 5)) &&& lane b (i % 5 + 2) (i / 5)))

def keccakRound (a : List Word64) (rc : Word64) : List Word64 :=
  match keccakChi (keccakRhoPi (keccakTheta a)) with
  | [] => []
  | x :: l => (x ^^^ rc) :: l

def keccakF (a : List Word64) : List Word64 := keccakRounds.foldl keccakRound a

/-- The padded message: 0x1F, zeros, and 0x80 in the last byte of the last block of 136 bytes. -/
def shakePad (m : List Byte) : List Byte :=
  let fill := 136 - m.length % 136
  m ++ (if fill = 1 then [0x9F] else (0x1F : Byte) :: List.replicate (fill - 2) 0 ++ [0x80])

def absorbBlock (a : List Word64) (block : List Byte) : List Word64 :=
  keccakF (a.zipIdx.map (fun p => p.1 ^^^ BitVec.ofNat 64 (leNat ((block.drop (8 * p.2)).take 8))))

/-- n blocks of 136 bytes in order. -/
def absorbBlocks : Nat → List Word64 → List Byte → List Word64
  | 0, a, _ => a
  | n + 1, a, m => absorbBlocks n (absorbBlock a (m.take 136)) (m.drop 136)

/-- SHAKE256, 64 bytes of output. -/
def shake256 (m : List Byte) : List Byte :=
  ((absorbBlocks (m.length / 136 + 1) (List.replicate 25 0) (shakePad m)).take 8).flatMap (fun w => natBytes 8 w.toNat)

end Sys2Proof.Machine
end

