-- ==== Sys2Proof/Machine/Image.lean ====
section
/-!
DEFINITION. The firmware image, its checks and the measurements of the image and of the fuse bank (18_security.md R420 to
R423, R427).
-/
namespace Sys2Proof.Machine

/-- RESULT codes (Table 18-7). -/
def rsOk : Byte := 0x01
def rsBadHeader : Byte := 0x02
def rsVariant : Byte := 0x03
def rsRollback : Byte := 0x04
def rsRevoked : Byte := 0x05
def rsSignature : Byte := 0x06
def rsHashMismatch : Byte := 0x07
def rsHostAccess : Byte := 0x08
def rsFlash : Byte := 0x09
def rsBusyJob : Byte := 0x0A
def rsLength : Byte := 0x0B

/-- Bytes of an SLH-DSA-SHAKE-256s signature. -/
def sigBytes : Nat := 29792

/-- Fields of a header (Table 18-1), read through `rd` with the image at offset 0. -/
def imgBodyLen (rd : Nat → Byte) : Nat := readNat rd 0x18 8
def imgSvn (rd : Nat → Byte) : Nat := readNat rd 0x08 4
def imgKey (rd : Nat → Byte) : Nat := readNat rd 0x60 1
def imgCommitsSvn (rd : Nat → Byte) : Bool := bit (readNat rd 0x0C 4) 0
def imgBody (rd : Nat → Byte) : List Byte := readBytes rd 0x8000 (imgBodyLen rd)
def imgMeas (rd : Nat → Byte) : List Byte := readBytes rd 0x20 64

/-- Every byte of a range reads zero. -/
def zeroRange (rd : Nat → Byte) (a n : Nat) : Bool := (readBytes rd a n).all (fun b => b = 0)

/-- Check 1 of R421. -/
def headerOk (rd : Nat → Byte) : Bool :=
  decide (readNat rd 0 4 = 0x47584657) && decide (readNat rd 4 2 = 1) && decide (imgBodyLen rd % 4096 = 0) &&
    decide (4096 ≤ imgBodyLen rd) && decide (imgBodyLen rd ≤ 2 ^ 28) && zeroRange rd 0x61 159 && zeroRange rd 0x7560 2720

/-- Bit of VARIANT_MASK for this part. -/
def variantBit (s : State) : Nat := match variantCode s with
  | 25 => 0 | 23 => 1 | _ => 2

/-- Checks 1 to 6 of R421, in order. -/
def verifyImage (s : State) (rd : Nat → Byte) : Byte :=
  if !headerOk rd then rsBadHeader
  else if !bit (readNat rd 6 2) (variantBit s) then rsVariant
  else if imgSvn rd < s.fuses.svn then rsRollback
  else if 4 ≤ imgKey rd || s.fuses.revoked.contains (imgKey rd) then rsRevoked
  else if !Config.slhDsaVerify (Config.romKey (imgKey rd)) (readBytes rd 0 256) (readBytes rd 0x100 sigBytes) then rsSignature
  else if shake256 (imgBody rd) ≠ imgMeas rd then rsHashMismatch
  else rsOk

/-- FW_MEAS (R423). -/
def fwMeasOf (rd : Nat → Byte) : List Byte := shake256 (readBytes rd 0 256 ++ imgBody rd)

/-- What the fuses say, as a list of numbers. -/
def fuseCode (f : Fuses) : List Nat :=
  [f.orderCode, f.svn, f.badRegions.length] ++ f.badRegions ++ [f.badStakes.length] ++
    f.badStakes.flatMap (fun p => [p.1, p.2.toNat]) ++ [f.badStacks.length] ++ f.badStacks ++ [f.badSpines.length] ++
    f.badSpines ++ [f.badSubLinks.length] ++ f.badSubLinks ++ [f.badDies.length] ++ f.badDies ++ [f.badLinks.length] ++ f.badLinks ++
    [f.badLanes.length] ++ f.badLanes ++ f.delta.map (fun d => (d + 40).toNat) ++ [f.revoked.length] ++ f.revoked

/-- FUSE_MEAS (R427). -/
def fuseMeasOf (f : Fuses) : List Byte := shake256 (Config.fuseBankBytes (fuseCode f))

/-- The rollback counter after a successful check (R422). -/
def advanceSvn (f : Fuses) (rd : Nat → Byte) : Fuses :=
  if imgCommitsSvn rd && decide (f.svn < imgSvn rd) then { f with svn := min 64 (imgSvn rd) } else f

/-- The image in flash. -/
def flashByte (s : State) (a : Nat) : Byte := memGet s.sec.image a

end Sys2Proof.Machine
end

