-- ==== Sys2Proof/Machine/Weave.lean ====
section
/-!
DEFINITION. Assembling the weave: fitted units, routes and exclusions, the settling of every unit, and the weave record
(10_fabric_on_module.md R251, R252, R261, R265, 14_bringup.md R334 step 7, R340 to R348).
-/
namespace Sys2Proof.Machine

/-! ### Fitted units (Table 14-12) -/

/-- Ordering codes of a GX23 and of a GX21. -/
def isGx23 (code : Nat) : Bool := code = 3 || code = 4
def isGx21 (code : Nat) : Bool := code = 5 || code = 6

def dieFitted (code c : Nat) : Bool := !(isGx23 code && decide (2 ≤ c))

/-- The stacks and links a fuse caps, the rest of what is not fitted being left out by the variant (R3, R4, R348). -/
def stackCapped (code m : Nat) : Bool := !stackFitted code m && !isGx21 code
def linkCapped (code l : Nat) : Bool := !linkFitted code l && !(isGx23 code && decide (48 ≤ l))

/-- Both copies of a record fail their check (R369). -/
def noCopy (u : StudUnit) : Bool := u.copiesBad.1 && u.copiesBad.2

/-- The record of a unit is unreadable in both copies (R369). -/
def unreadable (s : State) (k : UnitKind) (i : Nat) : Bool := noCopy (studUnit s k i)

/-- A unit the stud book lets no bring-up use. -/
def gated (s : State) (k : UnitKind) (i : Nat) : Bool := isRetired s k i || unreadable s k i

/-- The fuse map marks a unit bad (Tables 14-8 and 14-9). -/
def fuseBad (s : State) (k : UnitKind) (i : Nat) : Bool :=
  match k with
  | .region => s.fuses.badRegions.contains i
  | .stake => s.fuses.badStakes.any (fun p => decide (p.1 = i / 512) && p.2.getLsbD (i % 512))
  | .stack => s.fuses.badStacks.contains i
  | .spine => s.fuses.badSpines.contains i
  | .subLink => s.fuses.badSubLinks.contains i
  | .ioDie => s.fuses.badDies.contains i
  | .link => s.fuses.badLinks.contains i
  | .lane => s.fuses.badLanes.contains i
  | _ => false

/-- A unit that is fuse-bad, retired or unreadable: not tested and not live. -/
def barred (s : State) (k : UnitKind) (i : Nat) : Bool := fuseBad s k i || gated s k i

/-- The record's reason for a gated unit: unreadable, isolation fuse blown, retired before, or in this bring-up (R368). -/
def gateReason (s : State) (k : UnitKind) (i : Nat) (now : Bool) : Byte :=
  if !isRetired s k i then 0x0B
  else if k = .region && (studUnit s k i).reason = 0x07 then 0x07
  else if now then 0x05
  else 0x04

/-! ### Routes (R251) -/

/-- A step from a field over an edge: both fields included and the join up. -/
def stepTo (s : State) (f d : Nat) : Option Nat :=
  match neighbour f d with
  | some n => if (fieldAt s f).included && (fieldAt s n).included && (edgeAt s f d).up then some n else none
  | none => none

/-- The row-first walk: n steps in a direction. -/
def straight (s : State) (d : Nat) : Nat → Nat → Option (List Nat)
  | 0, _ => some []
  | n + 1, f => match stepTo s f d with
    | some g => (straight s d n g).map (fun l => g :: l)
    | none => none

/-- The row-first route: along the source's row, then along the destination's column. -/
def rowFirst (s : State) (a b : Nat) : Option (List Nat) :=
  let dc := if gridCol a ≤ gridCol b then 1 else 3
  let dr := if gridRow a ≤ gridRow b then 2 else 0
  let nc := gridCol b - gridCol a + (gridCol a - gridCol b)
  let nr := gridRow b - gridRow a + (gridRow a - gridRow b)
  match straight s dc nc a with
  | some p => (straight s dr nr (fieldAtGrid (gridRow a) (gridCol b))).map (fun q => a :: p ++ q)
  | none => none

/-- The first of two field sequences of one length, compared field by field. -/
def seqLess : List Nat → List Nat → Bool
  | [], _ => true
  | _, [] => false
  | a :: p, b :: q => decide (a < b) || (decide (a = b) && seqLess p q)

def lowestSeq (ps : List (List Nat)) : Option (List Nat) :=
  ps.foldl (fun best p => match best with
    | none => some p
    | some q => if seqLess q p then some q else some p) none

/-- Best paths to one destination, by field and by whether westward steps are still allowed. -/
structure PathTable where
  west : List (Option (List Nat))
  rest : List (Option (List Nat))
deriving DecidableEq, Repr

/-- One more step: a field without a path takes the lowest of those its steps reach. -/
def pathRound (s : State) (t : PathTable) : PathTable :=
  let go (f d : Nat) (tab : List (Option (List Nat))) : List (List Nat) :=
    match stepTo s f d with
    | some n => ((tab.getD n none).map (fun p => f :: p)).toList
    | none => []
  let rest (f : Nat) : List (List Nat) := go f 0 t.rest ++ go f 1 t.rest ++ go f 2 t.rest
  { west := t.west.zipIdx.map (fun p => match p.1 with
      | some x => some x
      | none => lowestSeq (go p.2 3 t.west ++ rest p.2))
    rest := t.rest.zipIdx.map (fun p => match p.1 with
      | some x => some x
      | none => lowestSeq (rest p.2)) }

def pathRounds (s : State) : Nat → PathTable → PathTable
  | 0, t => t
  | n + 1, t => pathRounds s n (pathRound s t)

/-- The shortest westward-first path from each field to b: at most 31 steps. -/
def westFirst (s : State) (b : Nat) : List (Option (List Nat)) :=
  let start := (List.range 16).map (fun f => if f = b then some [b] else none)
  (pathRounds s 31 { west := start, rest := start }).west

/-- The route of a pair; none where there is no westward-first path. -/
def routeOf (s : State) (a b : Nat) : Option (List Nat) :=
  match rowFirst s a b with
  | some p => some p
  | none => (westFirst s b).getD a none

def includedFields (s : State) : List Nat := (List.range 16).filter (fun f => (fieldAt s f).included)

/-- Every pair of included fields has a westward-first path. -/
def connected (s : State) : Bool :=
  (includedFields s).all (fun b =>
    let t := westFirst s b
    (includedFields s).all (fun a => (t.getD a none).isSome))

/-- A field leaves the weave at bring-up: its spine is off with its power-ups, its joins are down, its landings are lost
(R24, R265, R336). -/
def excludeField (s : State) (f : Nat) (reason : Byte) : State :=
  let t := modField s f (fun x =>
    { x with
      included := false
      spineOn := false
      pllLock := false
      halted := false
      gait := .walk
      rising := none
      softStart := none
      powerQueue := []
      reason := reason })
  let u := (List.range 4).foldl (fun a d => edgeDown a f d) t
  let v := (regionsOf f).foldl regionOff u
  let w := match ioLandingOf f with
    | some (c, h) => setLanding v c h 0
    | none => v
  match kLandingOf f with
  | some k => modPwr w (fun p => { p with kLandingOk := p.kLandingOk.modify k (fun _ => false) })
  | none => w

/-- R252: fields are excluded in descending number until every pair has a path. -/
def excludeUntil : Nat → State → State
  | 0, s => s
  | n + 1, s =>
    if connected s then s
    else match (includedFields s).getLast? with
      | some f => excludeUntil n (excludeField s f 0x0A)
      | none => s

/-- The routes of the weave, and whether one of them is a detour. -/
def setRoutes (s : State) : State :=
  let pairs := (includedFields s).flatMap (fun a => (includedFields s).map (fun b => (a, b)))
  modGlb s (fun g =>
    { g with
      routes := pairs.filterMap (fun p => routeOf s p.1 p.2)
      detour := pairs.any (fun p => (rowFirst s p.1 p.2).isNone) })

/-! ### The stored record, for the fast path (R347) -/

def recByte (s : State) (a : Nat) : Byte := memGet s.glb.flashWeave a
def recLive (s : State) (r : Nat) : Bool := recByte s (0x100 + 80 * r + 66) = 0
def recField (s : State) (f : Nat) : Bool := recByte s (0x1F00 + 32 * f) = 0
def recStack (s : State) (m : Nat) : Bool := recByte s (0x2100 + 32 * m) = 0
def recLinkLanes (s : State) (l : Nat) : Nat := (recByte s (0x2300 + 8 * l + 2)).toNat
def recJoinUp (s : State) (f d : Nat) : Bool := (recByte s (0x1F00 + 32 * f + 2)).getLsbD d
def recSubLinks (s : State) (f d : Nat) : Nat := (recByte s (0x1F00 + 32 * f + 4 + d)).toNat
def recMap (s : State) (r : Nat) : BitVec 512 := BitVec.ofNat 512 (readNat (recByte s) (0x100 + 80 * r) 64)

/-! ### Settling the units (R340, R341, Tables 14-8 and 14-9) -/

/-- Bypassed stakes: fuse-bad, retired or unreadable, and on the fast path those of the record. -/
def settledMap (s : State) (r : Nat) : BitVec 512 :=
  let fused := (s.fuses.badStakes.filter (fun p => p.1 = r)).foldl (fun m p => m ||| p.2) 0
  let stud := (s.stud.units.filter (fun u => u.kind = .stake && decide (u.index / 512 = r) && (u.retired || noCopy u))).foldl
    (fun m u => m ||| BitVec.ofNat 512 (2 ^ (u.index % 512))) 0
  fused ||| stud ||| (if s.boot.fastUsed && recLive s r then recMap s r else 0)

/-- A bank of the region is retired or unreadable (R338). -/
def bankLost (s : State) (r : Nat) : Bool :=
  s.stud.units.any (fun u => u.kind = .bank && decide (u.index / 32 = r) && (u.retired || noCopy u))

/-- The reason of a region: 0 is live. -/
def regionReason (s : State) (r : Nat) : Byte :=
  let x := regionAt s r
  if fuseBad s .region r then 0x03
  else if x.fuseBlown then 0x07
  else if gated s .region r then gateReason s .region r (x.reason = 0x05)
  else if !(fieldAt s (fieldOf r)).included || bankLost s r then 0x06
  else if 3 ≤ phasesLost x then 0x08
  else if s.boot.fastUsed && !recLive s r then recByte s (0x100 + 80 * r + 67)
  else if settledMap s r = BitVec.allOnes 512 then 0x0C
  else if !x.powered then 0x06
  else 0x00

/-- A region takes its settled state; one that is not live is dark. -/
def settleRegion (s : State) (r : Nat) : State :=
  let why := regionReason s r
  let t := modRegion s r (fun x =>
    { x with
      live := decide (why = 0)
      reason := why
      testMap := settledMap s r
      quarantined := x.quarantined && decide (why ≠ 0)
      heatPending := false
      heatOff := false
      leavePending := false
      hardHot := false
      hotSince := none
      lastBeat := (fieldAt s (fieldOf r)).gtcCopy })
  if why = 0 then t else regionOff t r

/-- The reason of a stack (R230). -/
def stackReason (s : State) (m : Nat) : Byte :=
  let x := stackAt s m
  if stackCapped s.fuses.orderCode m then 0x02
  else if !stackFitted s.fuses.orderCode m then 0x01
  else if fuseBad s .stack m then 0x03
  else if gated s .stack m then gateReason s .stack m (x.reason = 0x05)
  else if !(fieldAt s m).included then 0x06
  else if !x.trained then 0x09
  else if s.boot.fastUsed && !recStack s m then recByte s (0x2100 + 32 * m + 1)
  else 0x00

def settleStack (s : State) (m : Nat) : State :=
  let why := stackReason s m
  modStack s m (fun x => { x with live := decide (why = 0), inMap := decide (why = 0), reason := why, failed := false })

/-- The core of an I/O die is live: powered, not retired, with a landing up on an included field (R16, R265, R339). -/
def ioDieLive (s : State) (c : Nat) : Bool :=
  s.pwr.ioCoreOn.getD c false && !barred s .ioDie c && (landingUp s c 0 || landingUp s c 1)

/-- A link that is not fitted, whose die is not live, that is retired or that the record shows with fewer lanes. -/
def settleLink (s : State) (l : Nat) : State :=
  let x := linkAt s l
  let keep (m : Nat) : Bool := x.lanes.getLsbD m && !barred s .lane (2 * l + m) &&
    (!s.boot.fastUsed || bit (recLinkLanes s l) m)
  let st : LinkSt :=
    if !linkFitted s.fuses.orderCode l then .notFitted
    else if !ioDieLive s (l / 24) || barred s .link l then .absent
    else if keep 0 && keep 1 then .live2
    else if keep 0 || keep 1 then .live1
    else .absent
  let lanes : BitVec 2 := if st = .live2 || st = .live1 then
      (if keep 0 then 1 else 0) ||| (if keep 1 then 2 else 0) else 0
  modLink s l (fun y => { y with st := st, lanes := lanes })

/-- The census state of a link: not fitted (R3, R25), absent while its link-group domain is off (R25), else as it trained. -/
def linkState (s : State) (l : Nat) : LinkSt :=
  if !linkFitted s.fuses.orderCode l then .notFitted
  else if !s.pwr.ioGroupOn.getD (l / 4) false then .absent
  else if (linkAt s l).st = .notFitted then .absent
  else (linkAt s l).st

/-- The reason byte of a link entry. -/
def linkReason (s : State) (l : Nat) : Byte :=
  if linkCapped s.fuses.orderCode l then 0x02
  else if linkState s l = .notFitted then 0x01
  else if linkState s l ≠ .absent then 0x00
  else if fuseBad s .link l then 0x03
  else if gated s .link l then gateReason s .link l ((linkAt s l).attempts ≠ 0)
  else if !ioDieLive s (l / 24) then 0x06
  else if s.boot.fastUsed && decide (recByte s (0x2300 + 8 * l) = 2) then recByte s (0x2300 + 8 * l + 1)
  else 0x09

/-! ### Step 7 -/

/-- Units whose record is unreadable are reported once (R340, event 0x0051). -/
def postUnreadable (s : State) : State :=
  (s.stud.units.filter (fun u => noCopy u && !u.retired)).foldl (fun t u => postEvent t 0x0051 u.kind u.index 0) s

/-- On the fast path a field the record shows excluded stays excluded (R347). -/
def fastFields (s : State) : State :=
  if s.boot.fastUsed then
    (List.range 16).foldl (fun t f =>
      if (fieldAt t f).included && !recField t f then excludeField t f (recByte t (0x1F00 + 32 * f + 1)) else t) s
  else s

/-- DRAM content is lost when the list of live stacks changes (R246). -/
def settleDram (s : State) : State :=
  let old := mapStacks s
  let t := (List.range 16).foldl settleStack s
  if mapStacks t = old then t else { t with dram := [], badDram := [] }

/-- R209 over the weave as assembled. -/
def assembleSlots (s : State) : List Slot :=
  let l := (List.range 96).filter (fun r => (regionAt s r).live)
  (List.range 96).map (fun i => match l[i]? with
    | some r => .mapped r
    | none => .unmapped)

/-- A landing of K is on an included field (R17, R336). -/
def kReaches (s : State) : Bool := s.pwr.kLandingOk.any (fun b => b)

/-- Assembly: fields, routes, regions, stacks, links, the DRAM map, the slot map, the counts and the floor. -/
def assembleWeave (s : State) : State :=
  let t := setRoutes (excludeUntil 16 (fastFields (postUnreadable s)))
  let u := (List.range 96).foldl settleLink (settleDram ((List.range 96).foldl settleRegion t))
  let c := weaveCounts u
  let v := modGlb { u with slots := assembleSlots u } (fun g =>
    { g with
      liveRegions := c.1
      liveStakes := c.2.1
      floor := c.2.2
      recordGtc := gtcNs u })
  let w := modBoot v (fun b => { b with belowFloor := c.2.2, found := true, pendErr := if kReaches v then 0 else 5 })
  dropAll (updAllBanks w)

/-! ### The weave record (R343, Table 14-10) -/

def flagBits (bs : List Bool) : Nat := bs.foldr (fun b n => 2 * n + (if b then 1 else 0)) 0

def stateByte (live : Bool) : List Byte := [if live then 0 else 1]

/-- Entry of a region: 80 bytes. -/
def regionEntry (s : State) (r : Nat) : List Byte :=
  let x := regionAt s r
  natBytes 64 (shownMap x).toNat ++ natBytes 2 (512 - popcount (shownMap x).toNat 512) ++ stateByte x.live ++ [x.reason] ++
    natBytes 2 x.phaseLost.toNat ++ natBytes 1 ((slotOfRegion s r).getD 0xFF) ++ [BitVec.ofInt 8 x.delta] ++ natBytes 8 0

/-- Entry of a field: 32 bytes. -/
def fieldEntry (s : State) (f : Nat) : List Byte :=
  let x := fieldAt s f
  stateByte x.included ++ [x.reason] ++ natBytes 1 (flagBits (x.edges.map (·.up))) ++ natBytes 1 x.stageFailed ++
    (x.edges.zipIdx.flatMap (fun e => natBytes 1 (if joinSpines s f e.2 then liveSubLinks e.1 else 0))) ++ 
    (x.edges.flatMap (fun e => natBytes 1 (min 255 e.spares))) ++ natBytes 20 0

/-- Lane repairs of a stack, summed over its pseudo-channels. -/
def spareTotal (x : Stack) : Nat := (x.spareLanes.map (·.2)).foldl (· + ·) 0

/-- Entry of a stack: 32 bytes. -/
def stackEntry (s : State) (m : Nat) : List Byte :=
  let x := stackAt s m
  stateByte x.live ++ [x.reason] ++ natBytes 1 (if x.live then (mapStacks s).findIdx (fun k => k = m) else 0xFF) ++
    natBytes 1 0 ++ natBytes 2 (spareTotal x) ++ natBytes 1 (if x.trained then x.trainTemp else 0) ++ natBytes 25 0

def linkCode : LinkSt → Nat
  | .live2 => 0 | .live1 => 1 | .absent => 2 | .notFitted => 3

/-- Entry of a link: 8 bytes. -/
def linkEntry (s : State) (l : Nat) : List Byte :=
  natBytes 1 (linkCode (linkState s l)) ++ [linkReason s l] ++ natBytes 1 (linkAt s l).lanes.toNat ++
    natBytes 1 (linkAt s l).attempts ++ natBytes 4 0

def isLiveLink (x : Link) : Bool := x.st = .live2 || x.st = .live1

/-- The first 256 bytes. -/
def recordHeader (s : State) (seq : Nat) : List Byte :=
  natBytes 4 0x57454156 ++ natBytes 2 1 ++ natBytes 2 (variantCode s) ++ natBytes 4 s.fuses.orderCode ++ natBytes 4 seq ++
    natBytes 8 s.glb.recordGtc.toNat ++ natBytes 4 s.glb.liveStakes ++ natBytes 2 s.glb.liveRegions ++
    natBytes 1 (mapStacks s).length ++
    natBytes 1 (flagBits [s.glb.floor, s.boot.fastUsed, s.glb.detour, decide (s.pwr.kLandingOk.count true = 1)]) ++
    natBytes 2 ((List.range 96).countP (linkFitted s.fuses.orderCode)) ++ natBytes 2 (s.lnk.links.countP isLiveLink) ++
    natBytes 2 (s.lnk.links.countP (fun x => x.st = .live1)) ++ natBytes 2 0 ++ s.sec.fwMeas ++ s.sec.fuseMeas

/-- The signed part of a record: 0x2600 bytes. -/
def recordBody (s : State) (seq : Nat) : Mem :=
  let put (m : Mem) (p : Nat × List Byte) : Mem := memWrite m (cellsAt p.1 p.2)
  let entries := [(0, recordHeader s seq)] ++ (List.range 96).map (fun r => (0x100 + 80 * r, regionEntry s r)) ++
    (List.range 16).map (fun f => (0x1F00 + 32 * f, fieldEntry s f)) ++
    (List.range 16).map (fun m => (0x2100 + 32 * m, stackEntry s m)) ++
    (List.range 96).map (fun l => (0x2300 + 8 * l, linkEntry s l))
  entries.foldl put []

/-- A whole signed record. -/
def newRecord (s : State) (seq : Nat) : Mem :=
  let m := recordBody s seq
  memWrite m (cellsAt 0x2600 ((Config.identitySign (readBytes (memGet m) 0 0x2600)).take sigBytes))

/-- The units of two records agree: region maps and states, fields with their joins and live sub-links, stacks, and the links' states
and lanes (R347). -/
def sameWeave (a b : Mem) : Bool :=
  let eq (p n : Nat) : Bool := decide (readBytes (memGet a) p n = readBytes (memGet b) p n)
  (List.range 96).all (fun r => eq (0x100 + 80 * r) 67) && (List.range 16).all (fun f =>
      eq (0x1F00 + 32 * f) 1 && eq (0x1F00 + 32 * f + 2) 1 && eq (0x1F00 + 32 * f + 4) 4) &&
    (List.range 16).all (fun m => eq (0x2100 + 32 * m) 1) &&
    (List.range 96).all (fun l => eq (0x2300 + 8 * l) 1 && eq (0x2300 + 8 * l + 2) 1)

/-- Flash holds a weave record, in a copy that passes its check (R350). -/
def flashReads (s : State) : Bool := s.glb.flashWeaveOk && !(s.glb.flashBad.1 && s.glb.flashBad.2)

/-- SEQ of a new record: one more than that of the record in flash, 1 for a module that has none (Table 14-10); open once both copies
no longer read (log entry 165). -/
def nextSeq (s : State) : Nat :=
  if s.glb.flashWeaveOk && !flashReads s then Config.lostSeq s.free % 2 ^ 32 else readNat (recByte s) 0x0C 4 + 1

/-- The signature of the stored record verifies against the module's identity key (R343, R346). -/
def recordSigned (s : State) : Bool :=
  Config.slhDsaVerify Config.identityKey (readBytes (recByte s) 0 0x2600) (readBytes (recByte s) 0x2600 sigBytes)

/-- The buffer of GLB_WEAVE_ADDR, when it lies in the host range (Table 14-6). -/
def copyRecord (s : State) : State :=
  if isHost s.glb.weaveAddr then hostWrite s s.glb.weaveAddr (readBytes (memGet s.glb.weaveRecord) 0 40960) else s

/-- Step 8 with a record: it is published and copied, and the registers of the last publication take their values. -/
def publishRecord (s : State) (m : Mem) : State :=
  let t := modGlb (publishWeave s) (fun g =>
    { g with
      flashWeave := m
      flashWeaveOk := true
      flashBad := (false, false)
      weaveRecord := m
      weaveSeq := BitVec.ofNat 32 (readNat (memGet m) 0x0C 4) })
  modBoot (copyRecord t) (fun b => { b with found := true, pendErr := 0 })

/-- The fast path stands on the stored record when the weave equals it. -/
def recordStands (s : State) : Bool :=
  s.boot.fastUsed && flashReads s && sameWeave (recordBody s 0) s.glb.flashWeave

/-- Step 8 (R344): flash first, then the copy; a failed write leaves the record in flash. -/
def publishStep (s : State) (flashOk : Bool) : State :=
  if recordStands s then publishRecord s s.glb.flashWeave
  else if flashOk then publishRecord s (newRecord s (nextSeq s))
  else modBoot s (fun b => { b with found := true, pendErr := 9 })

end Sys2Proof.Machine
end

