-- ==== Sys2Proof/Machine/Boot.lean ====
section
/-!
DEFINITION. The bring-up steps: acceptance and refusal of a command, the work of each step and its end
(09_memory.md R241, R242, 10_fabric_on_module.md R260, R261, 14_bringup.md R333 to R347, 16_fabric_links.md R377).
-/
namespace Sys2Proof.Machine

/-! ### Commands (R333) -/

/-- The steps that must be done before a step (Table 14-1). -/
def stepNeeds : Nat → List Nat
  | 2 => [1] | 3 => [2] | 4 => [3] | 5 => [4] | 6 => [3] | 7 => [5, 6] | 8 => [7] | 9 => [8] | _ => []

def stepDone (s : State) (n : Nat) : Bool := s.boot.done.getLsbD n

/-- A command is accepted. -/
def bootAcceptable (s : State) (n : Nat) : Bool :=
  decide (1 ≤ n) && decide (n ≤ 9) && !s.boot.dead && !stepDone s n &&
    (if n = 6 then !s.boot.linkBusy else s.boot.running.isNone) &&
    (stepNeeds n).all (fun k => stepDone s k || (decide (n = 7) && decide (k = 6) && s.boot.linkBusy))

/-- ERR_CODE and FAILED_STEP. -/
def bootErr (s : State) (code : Byte) (step : Nat) : State :=
  modBoot s (fun b => { b with errCode := code, failedStep := BitVec.ofNat 4 step })

/-- A refused command: ORDER, FAST_DENIED, or nothing after a K_LANDING failure. -/
def bootRefuse (s : State) (n : Nat) : State :=
  if s.boot.dead then s
  else if bootAcceptable s n then bootErr s 7 3
  else bootErr s 1 0

/-- An accepted command begins its step. -/
def bootBegin (s : State) (n : Nat) (fast : Bool) : State :=
  if n = 6 then modBoot s (fun b => { b with linkBusy := true })
  else modBoot s (fun b =>
    { b with
      running := some n
      found := false
      pendErr := 0
      waitLinks := decide (n = 7) && b.linkBusy
      fastUsed := b.fastUsed || (decide (n = 3) && fast) })

/-- FAST is denied (R346). -/
def fastDenied (s : State) (n : Nat) (fast : Bool) : Bool := decide (n = 3) && fast && !s.boot.fastOk

/-- K takes register writes: it is in ROM mode or beyond, and the link is up (R332, R398). -/
def kListens (s : State) : Bool := s.na.up && !(s.pwr.kMode = .off || s.pwr.kMode = .held)

/-- The step runs, accepted by an earlier write, and its work is yet to be reported. -/
def stepOpen (s : State) (n : Nat) : Bool :=
  decide (s.boot.running = some n) && !s.boot.found && !s.boot.waitLinks

/-- A step's command with its work: the command is accepted here, or was by an earlier write; a step 7 accepted during
step 6 waits. -/
def runStep (s : State) (n : Nat) (fast : Bool) (work : State → State) : State :=
  if stepOpen s n then work s
  else if !kListens s then s
  else if bootAcceptable s n && !fastDenied s n fast then
    let t := bootBegin s n fast
    if n = 7 && t.boot.waitLinks then t else work t
  else bootRefuse s n

def stepResult (s : State) (err : Byte) : State := modBoot s (fun b => { b with found := true, pendErr := err })

/-! ### Step 1 -/

/-- Stage phases that fail at no load, per field (R294, R334). -/
def notePhases (s : State) (failed : List (Nat × Nat)) : State :=
  failed.foldl (fun t p => modField t p.1 (fun x => { x with stageFailed := min 7 (max x.stageFailed p.2) })) s

/-- Step 1: `blades` are the four VIN blades, all at `vin` where they are not told (R461). -/
def powerEntry (s : State) (vin inlet outlet : Nat) (lidOk : Bool) (failed : List (Nat × Nat)) (blades : List Nat) : State :=
  let four := if blades.length = 4 then blades else List.replicate 4 vin
  let t := modPwr (notePhases s failed) (fun p => { p with vin := four, inlet := inlet, outlet := outlet })
  let u := modGlb t (fun g => { g with fuseKnown := true })
  stepResult u (if !bladesIn four || curbLow s then 2 else if 45 < inlet || !lidOk then 3 else 0)

/-! ### Step 2 -/

/-- Delta of a region: the stud book's last trim, else the fuses' (R315). -/
def bootDelta (s : State) (r : Nat) : Int :=
  match (s.stud.trims.filter (fun t => t.region = r)).getLast? with
  | some t => t.new
  | none => s.fuses.delta.getD r 0

/-- The wear credit of a field at bring-up: its last checkpoint less 60 s; a new module has the full credit (R320). -/
def bootCredit (s : State) (f : Nat) : Nat :=
  match s.stud.creditCkpt[f]? with
  | some c => 50000 * (c - 60)
  | none => fullCredit

/-- The trims and the wear credit are read from the stud book (R315, R320). -/
def readStud (s : State) : State :=
  { s with
    regions := s.regions.zipIdx.map (fun p => { p.1 with delta := bootDelta s p.2 })
    fields := s.fields.zipIdx.map (fun p => { p.1 with credit := bootCredit s p.2 }) }

/-- Which copies of a unit's record fail the BCH check goes into the stud book. -/
def noteCopies (s : State) (p : UnitKind × Nat × Bool × Bool) : State :=
  unitPut s { studUnit s p.1 p.2.1 with copiesBad := p.2.2 }

/-- What the read of flash finds of the copies of each record (R350, R369): one good copy is used. -/
def noteFlash (s : State) (found : FlashFindings) : State :=
  modGlb (found.records.foldl noteCopies s) (fun g => { g with flashBad := found.weave })

/-- The image passes: the rollback counter, the measurements and the running image (R421 to R423). -/
def startImage (s : State) (flash : FlashFindings) : State :=
  let f := advanceSvn s.fuses (flashByte s)
  let t := modSec { s with fuses := f } (fun x =>
    { x with
      imageValid := true
      fwMeas := fwMeasOf (memGet x.image)
      fuseMeas := fuseMeasOf f
      runningSvn := imgSvn (memGet x.image)
      runningKey := imgKey (memGet x.image) })
  readStud (noteFlash (modBoot t (fun b => { b with recovery := false })) flash)

/-- D28 of C0 and C1, the spines of F1 and F4, and the test of both K landings (R17, R334). A field lost since the last cold
bring-up stays off (R24), and its landing with it. -/
def testLandings (s : State) (landing1 landing4 : Bool) : State :=
  let on (f : Nat) : Bool := !(fieldAt s f).lost && !(fieldAt s f).planeOff
  let up (x : Field) : Field := if x.lost || x.planeOff then x else { x with spineOn := true, gtcCopy := gtcNs s, beats := 0 }
  let tested := [landing1 && on 1 && !gated s .kLanding 0, landing4 && on 4 && !gated s .kLanding 1]
  let t := modPwr s (fun p =>
    { p with
      d28On := (p.d28On.set 0 true).set 1 true
      kTested := tested
      kLandingOk := tested })
  modField (modField t 1 up) 4 up

/-- Step 2: IMAGE enters recovery mode; both landings lost is K_LANDING (R335). -/
def kBootWork (s : State) (landing1 landing4 : Bool) (flash : FlashFindings) : State :=
  let code := verifyImage s (flashByte s)
  if code ≠ rsOk then
    let t := modSec s (fun x => { x with imageValid := false, result := code, runningSvn := 0, runningKey := 0, fwMeas := [] })
    stepResult (modPwr (modBoot t (fun b => { b with recovery := true })) (fun p => { p with kMode := .recovery })) 4
  else
    let t := testLandings (startImage s flash) landing1 landing4
    stepResult t (if kReaches t then 0 else 5)

/-- FAST_OK (R346). -/
def fastOkNow (s : State) : Bool :=
  s.boot.lastWarm && s.boot.coldUp && flashReads s && recordSigned s && decide (readBytes (recByte s) 0x28 64 = s.sec.fwMeas) &&
    decide (readBytes (recByte s) 0x68 64 = s.sec.fuseMeas)

/-! ### Step 3 -/

/-- What a new bring-up forgets of fields, regions, stacks and joins. Requests for power wait on (R24), and the K landings count as
step 2 found them (R336). -/
def clearFindings (s : State) : State :=
  { s with
    pwr := { s.pwr with kLandingOk := s.pwr.kTested }
    fields := s.fields.map (fun x => { fieldOff x with reason := 0, powerQueue := x.powerQueue })
    regions := s.regions.map (fun x => { regionDark x with reason := 0 })
    memStacks := s.memStacks.map (fun x => { x with reason := 0, trained := false, eccCorr := 0, eccUncorr := 0 }) }

/-- VDRAM, VXIO and the I/O die cores (R334). A die that does not answer stays without its core; the landings of one that switches on
load their copy of the GTC (R284). -/
def raiseRails (s : State) (silent : List Nat) : State :=
  let fit (c : Nat) : Bool := dieFitted s.fuses.orderCode c
  let on (c : Nat) : Bool := fit c && !barred s .ioDie c && !silent.contains c
  let t := modClk s (fun k => { k with landGtc := k.landGtc.zipIdx.map (fun p =>
    if p.2 < 8 && on (p.2 / 2) then k.gtc else p.1) })
  modPwr t (fun p =>
    { p with
      vdramOn := List.replicate 4 true
      vxioOn := (List.range 4).map fit
      ioCoreOn := (List.range 4).map on })

/-- Why a field is excluded at step 3; 0 when it is not (R24, R336, R340). -/
def fieldFault (s : State) (found : PowerUpFindings) (f : Nat) : Byte :=
  let x := fieldAt s f
  if fuseBad s .spine f then 0x03
  else if gated s .spine f then gateReason s .spine f false
  else if gated s .plane f then 0x06
  else if x.planeOff || x.lost || found.pllNoLock.contains f || decide (2 < x.spineIvrLost) ||
    decide (1 < s.pwr.d28Lost.getD (f / 4) 0) then 0x0E
  else 0

/-- Lost phases of the spine and D28 IVRs, and planes with two failed phases (R294, R300). -/
def notePower (s : State) (found : PowerUpFindings) : State :=
  let t := found.spineIvrLost.foldl (fun u p => modField u p.1 (fun x => { x with spineIvrLost := max x.spineIvrLost p.2 })) s
  let u := modPwr t (fun q => { q with d28Lost := found.d28Lost.foldl (fun l p => l.modify p.1 (fun n => max n p.2)) q.d28Lost })
  { u with fields := u.fields.map (fun x => { x with planeOff := x.planeOff || decide (2 ≤ x.stageFailed) }) }

/-- One phase fails its bring-up test: recorded and retired (R299, Table 15-7). -/
def phaseFails (s : State) (r j : Nat) : State :=
  if gated s .ivrPhase (12 * r + j) then s
  else retireUnit (recordFault s .ivrPhase (12 * r + j) 0x05) .ivrPhase (12 * r + j) 0x05

/-- Phases a region runs without: retired ones, those lost since the last cold bring-up, and those that fail now. -/
def phasesOut (s : State) (r : Nat) (found : BitVec 12) : BitVec 12 :=
  let stud := ((List.range 12).filter (fun j => gated s .ivrPhase (12 * r + j))).foldl (fun m j => m ||| BitVec.ofNat 12 (2 ^ j)) 0
  stud ||| found ||| (if s.boot.lastWarm then (regionAt s r).phaseLost else 0)

/-- The e-fuse of a region opens during bring-up: counted, the region dark until its return session (R301 to R303). -/
def bootEfuse (s : State) (r : Nat) : State :=
  let t := modRegion s r (fun x => { x with efuseOpenings := min 3 (x.efuseOpenings + 1) })
  let u := blowFuse (postEvent (noteOpening t r) 0x0004 .region r (regionAt t r).efuseOpenings) r
  modRegion (regionOff u r) r (fun x => { x with quarantined := true, darkUntil := gtcNs s + 1000000000 })

/-- One region powers up: its phases are tested, a blown fuse or (fast path) a record that shows it not live keep it dark. Its
minimum-voltage record goes on: a cold bring-up alone clears it (R307). -/
def regionUp (s : State) (found : PowerUpFindings) (r : Nat) : State :=
  if (regionAt s r).fuseBlown || (s.boot.fastUsed && !recLive s r) then s
  else
    let bad := (found.phasesFailed.filter (fun p => p.1 = r)).foldl (fun m p => m ||| p.2) (0 : BitVec 12)
    let t := ((List.range 12).filter (fun j => bad.getLsbD j)).foldl (fun a j => phaseFails a r j) s
    let u := modRegion t r (fun x => { x with phaseLost := phasesOut t r bad })
    if found.efuseOpen.contains r then bootEfuse u r
    else if 3 ≤ phasesLost (regionAt u r) then u
    else
      let v := modRegion u r (fun x => { x with powered := true })
      updBanks (match found.vcore.find? (fun p => p.1 = r) with
        | some p => noteRail v r p.2
        | none => v) r

/-- One field is taken: its plane, D28 with the first spine of its die, its spine and its regions; or it is excluded. -/
def takeField (s : State) (found : PowerUpFindings) (f : Nat) : State :=
  let why := fieldFault s found f
  if why ≠ 0 then excludeField (modField s f (fun x => { x with planeOn := !x.planeOff })) f why
  else
    let t := modPwr s (fun p => { p with d28On := p.d28On.modify (f / 4) (fun _ => true) })
    let u := modField t f (fun x =>
      { x with
        planeOn := true
        spineOn := true
        included := true
        pllLock := true
        gait := .walk
        gtcCopy := gtcNs s
        beats := 0 })
    let v := (regionsOf f).foldl (fun a r => regionUp a found r) u
    modField v f (fun x => { x with powerQueue := x.powerQueue.filter (mayPower v) })

/-! ### Joins and landings (R260, R261, R276) -/

/-- Failed wires of a sub-link in the direction that leaves a field. -/
def wiresOut (found : PowerUpFindings) (f d k : Nat) : Nat :=
  (found.badWires.filterMap (fun p => if p.1 = f && p.2.1 = d && p.2.2.1 = k then some p.2.2.2 else none)).foldl max 0

/-- Occupancy at which the FIFO of a sub-link in that direction is aligned: 4 unless found otherwise. -/
def occOut (found : PowerUpFindings) (f d k : Nat) : Nat :=
  ((found.occupancy.find? (fun p => p.1 = f && p.2.1 = d && p.2.2.1 = k)).map (·.2.2.2)).getD 4

/-- One direction of a sub-link is good: at most 16 failed wires (R260), occupancy within 4 +- 1 (R276). -/
def wayGood (found : PowerUpFindings) (f d k : Nat) : Bool :=
  decide (wiresOut found f d k ≤ 16) && decide (3 ≤ occOut found f d k) && decide (occOut found f d k ≤ 5)

/-- A sub-link trains: not barred, and both directions good. -/
def subLinkTrains (s : State) (found : PowerUpFindings) (f d n k : Nat) : Bool :=
  !barred s .subLink (subLinkIndex f d k) && wayGood found f d k && wayGood found n (opposite d) k

/-- One repair of wires in the stud book. -/
def noteRepair (s : State) (i wires : Nat) : State :=
  if 0 < wires then noteRepairs s .subLink i wires else s

/-- The stud book records a repaired or disabled sub-link. -/
def noteSubLink (s : State) (found : PowerUpFindings) (f d n k : Nat) : State :=
  let i := subLinkIndex f d k
  if barred s .subLink i then s
  else if !subLinkTrains s found f d n k then recordFault s .subLink i 0x05
  else noteRepair (noteRepair s i (wiresOut found f d k)) i (wiresOut found n (opposite d) k)

/-- The live sub-links of a join: those that trained, and on the fast path no more of them than the record shows, the lowest-numbered
(R347; log entry 169). -/
def joinLive (s : State) (found : PowerUpFindings) (f d n : Nat) : List Nat :=
  let ks := (List.range (joinWidth f n)).filter (subLinkTrains s found f d n)
  if s.boot.fastUsed then ks.take (min (recSubLinks s f d) (recSubLinks s n (opposite d))) else ks

/-- A join is up by R261; on the fast path, only if the record shows it up (R347). -/
def joinUp (s : State) (f d n live : Nat) : Bool :=
  decide (joinNeed f n ≤ live) && (!s.boot.fastUsed || (recJoinUp s f d && recJoinUp s n (opposite d)))

/-- Both sides of a trained join: live sub-links, wires remapped in its direction, up by R261, its crossing aligned. -/
def trainJoin (s : State) (found : PowerUpFindings) (f d : Nat) : State :=
  match neighbour f d with
  | none => s
  | some n =>
    if !((fieldAt s f).included && (fieldAt s n).included) then edgeDown s f d
    else
      let ks := joinLive s found f d n
      let up := joinUp s f d n ks.length
      let g (off : BitVec 4) (a b : Nat) (e : Edge) : Edge :=
        { e with
          live := bankMask ks
          spares := (ks.map (wiresOut found a b)).foldl (· + ·) 0
          up := up
          mode := if up then .meso else .idle
          draining := false
          offset := off
          fifo := (List.range 32).map (fun k => fifoOf s a b k (if up then occOut found a b k else 0))
          occMin := if up then (ks.map (occOut found a b)).foldl min 8 else 0
          occMax := if up then (ks.map (occOut found a b)).foldl max 0 else 0 }
      let t := (List.range (joinWidth f n)).foldl (fun a k => noteSubLink a found f d n k) s
      let off := (fieldAt s n).rein - (fieldAt s f).rein
      bumpFree (modEdge (modEdge t f d (g off f d)) n (opposite d) (g (-off) n (opposite d)))

/-- Failed wires of sub-link k of a landing in a direction: 0 toward the die, 1 away from it. -/
def landingBad (found : PowerUpFindings) (c h way k : Nat) : Nat :=
  (found.landingWires.filterMap (fun p =>
    if p.1 = c && p.2.1 = h && p.2.2.1 = way && p.2.2.2.1 = k then some p.2.2.2.2 else none)).foldl max 0

/-- A sub-link of a landing trains: not barred, and at most 16 failed wires in each direction (R260). -/
def landingTrains (s : State) (found : PowerUpFindings) (f c h k : Nat) : Bool :=
  !barred s .subLink (landingIndex f k) && decide (landingBad found c h 0 k ≤ 16) && decide (landingBad found c h 1 k ≤ 16)

/-- The stud book records a repaired or disabled sub-link of a landing, each direction's repair for itself. -/
def noteLanding (s : State) (found : PowerUpFindings) (f c h k : Nat) : State :=
  let i := landingIndex f k
  if barred s .subLink i then s
  else if !landingTrains s found f c h k then recordFault s .subLink i 0x05
  else noteRepair (noteRepair s i (landingBad found c h 0 k)) i (landingBad found c h 1 k)

/-- One I/O landing: sub-links that train, repairs and disabled ones recorded (R260); none beside an excluded field or at a die
without core. -/
def trainLanding (s : State) (found : PowerUpFindings) (f : Nat) : State :=
  match ioLandingOf f with
  | some (c, h) =>
    if (fieldAt s f).included && s.pwr.ioCoreOn.getD c false then
      setLanding ((List.range 12).foldl (fun t k => noteLanding t found f c h k) s) c h
        (((List.range 12).filter (landingTrains s found f c h)).foldl (fun m k => m ||| BitVec.ofNat 12 (2 ^ k)) 0)
    else setLanding s c h 0
  | none => s

def trainLandings (s : State) (found : PowerUpFindings) : State := (List.range 16).foldl (fun t f => trainLanding t found f) s

/-- Step 3 (R334, R336). -/
def fieldPowerUpWork (s : State) (found : PowerUpFindings) : State :=
  let t := notePower (raiseRails (clearFindings s) found.ioDieSilent) found
  let u := (List.range 16).foldl (fun a f => takeField a found f) t
  let v := trainLandings (allJoins.foldl (fun a p => trainJoin a found p.1 p.2) u) found
  stepResult v (if kReaches v then 0 else 5)

/-! ### Step 4 -/

/-- Both ends of a sub-link are powered: the spines of both fields of a join, or a field's spine and the core of its I/O die. -/
def subLinkPowered (s : State) (i : Nat) : Bool :=
  let f := i / 128
  let d := i / 32 % 4
  (fieldAt s f).spineOn &&
    match neighbour f d with
    | some n => (fieldAt s n).spineOn && decide (i % 32 < joinWidth f n)
    | none => (ioLandingOf f).elim false (fun p => decide (d = landingEdge f) && decide (i % 32 < 12) && s.pwr.ioCoreOn.getD p.1 false)

/-- A unit the farrier tests: powered, fuse-good and not gated; stacks and links are tested by steps 5 and 6 (R337). -/
def testedUnit (s : State) (k : UnitKind) (i : Nat) : Bool :=
  !barred s k i &&
    match k with
    | .region => (regionAt s i).powered
    | .stake => (regionAt s (i / 512)).powered
    | .bank => (regionAt s (i / 32)).powered
    | .spine => (fieldAt s i).spineOn
    | .subLink => subLinkPowered s i
    | .ioDie => s.pwr.ioCoreOn.getD i false
    | _ => false

/-- The core of an I/O die switches off, with its link groups and the links they hold (R25, R339). -/
def coreOff (s : State) (c : Nat) : State :=
  let t := modPwr s (fun p =>
    { p with
      ioCoreOn := p.ioCoreOn.modify c (fun _ => false)
      ioGroupOn := p.ioGroupOn.zipIdx.map (fun g => g.1 && decide (g.2 / 6 ≠ c)) })
  dieLinksOff t c

/-- Reasons that name this bring-up. -/
def markNow (s : State) (k : UnitKind) (i : Nat) : State :=
  if !isRetired s k i then s
  else match k with
    | .region => modRegion s i (fun x => { x with reason := 0x05 })
    | .stack => modStack s i (fun x => { x with reason := 0x05 })
    | .spine => excludeField s i 0x05
    | .ioDie => coreOff s i
    | .subLink => joinRecount (modEdge s (i / 128) (i / 32 % 4) (fun e => { e with live := e.live &&& ~~~(BitVec.ofNat 32 (2 ^ (i % 32))) })) i
    | _ => s
where
  /-- A join whose sub-link is retired has its live sub-links counted again. -/
  joinRecount (s : State) (i : Nat) : State :=
    let f := i / 128
    let d := i / 32 % 4
    match neighbour f d with
    | none => (ioLandingOf f).elim s (fun p => setLanding s p.1 p.2 (landingMask s p.1 p.2 &&& ~~~(BitVec.ofNat 12 (2 ^ (i % 32)))))
    | some n =>
      let t := modEdge s n (opposite d) (fun e => { e with live := e.live &&& ~~~(BitVec.ofNat 32 (2 ^ (i % 32))) })
      if liveSubLinks (edgeAt t f d) < joinNeed f n then edgeDown t f d else t

/-- One unit fails its first pass: a fault, or retirement (R337). -/
def testUnit (s : State) (x : TestFinding) : State :=
  if testedUnit s x.kind x.index then
    markNow (if x.retestPass then recordFault s x.kind x.index 0x05 else retireUnit s x.kind x.index 0x05) x.kind x.index
  else s

/-- More than half of a region's banks fail: the region fails, and is retested, as a whole (R338). -/
def wholeRegions (found : List TestFinding) : List TestFinding :=
  let banks (r : Nat) : List TestFinding := found.filter (fun x => x.kind = .bank && decide (x.index / 32 = r))
  let above := (List.range 96).filter (fun r => decide (16 < (banks r).length))
  found.filter (fun x => !(x.kind = .bank && above.contains (x.index / 32))) ++
    above.map (fun r => { kind := .region, index := r, retestPass := (banks r).all (·.retestPass) })

/-- Step 4 (R337 to R339); on the fast path nothing is tested. -/
def startUpTestsWork (s : State) (found : List TestFinding) (efuseOpen : List Nat) : State :=
  if s.boot.fastUsed then stepResult s 0
  else
    let t := (efuseOpen.filter (fun r => (regionAt s r).powered)).foldl bootEfuse s
    stepResult ((wholeRegions found).foldl testUnit t) 0

/-! ### Step 5 -/

/-- A stack that trains: fitted, uncapped, fuse-good, not gated, its field included (R334, R337). -/
def stackTrains (s : State) (m : Nat) : Bool :=
  stackFitted s.fuses.orderCode m && !barred s .stack m && (fieldAt s m).included

/-- The saved settings verify: lanes, eyes, and a reading within 15 K of the one at their training (R242). -/
def savedGood (old : Stack) (x : StackFinding) : Bool :=
  old.trainOk && x.savedVerify && x.lanes.all (fun p => decide (p.2 ≤ laneSpares old.spareLanes p.1)) &&
    decide (x.temp ≤ old.trainTemp + 15) && decide (old.trainTemp ≤ x.temp + 15)

/-- A full training, or on the fast path the saved settings when they verify (R241, R242). The training's reading is one of
R238. -/
def trainStack (s : State) (x : StackFinding) : State :=
  if !stackTrains s x.stack then s
  else if s.boot.fastUsed && savedGood (stackAt s x.stack) x then
    modStack s x.stack (fun y => { stackBands x.temp y with trained := true, selfRefresh := false })
  else if x.eyes && lanesFit x.lanes then noteLanes (trainedStack s x.stack x.temp x.lanes) x.stack x.lanes
  else modStack s x.stack (fun y => { stackBands x.temp y with trained := false })

/-- Step 5: every stack trains; one without a finding trains with the repairs it has and at the temperature it reads. -/
def dramTrainingWork (s : State) (found : List StackFinding) : State :=
  let plain (m : Nat) : StackFinding :=
    { stack := m, eyes := true, savedVerify := true, lanes := (stackAt s m).spareLanes, temp := (stackAt s m).temp }
  let all := (List.range 16).map (fun m => (found.find? (fun x => x.stack = m)).getD (plain m))
  stepResult (all.foldl trainStack s) 0

/-! ### Step 6 (R377) -/

/-- A link that trains: fitted, its die live, not retired. -/
def linkTrains (s : State) (l : Nat) : Bool := linkFitted s.fuses.orderCode l && ioDieLive s (l / 24) && !barred s .link l

/-- Step 6 begins: every link that can trains, the others are absent or not fitted. -/
def linkTrainingWork (s : State) : State :=
  let t := (List.range 96).foldl (fun a l => modLink a l (fun x =>
    { x with
      st := if linkFitted s.fuses.orderCode l then .absent else .notFitted
      lanes := 0
      lastLane := 0
      attempts := 0
      training := linkTrains s l
      peer := 0 })) s
  modPwr t (fun p => { p with ioGroupOn := (List.range 24).map (fun g =>
    ioDieLive s (g / 6) && (List.range 4).any (fun k => linkFitted s.fuses.orderCode (4 * g + k))) })

/-- The stud book and the ring record a port whose plane differs from the map (Table 16-4). -/
def planeMismatch (s : State) (l peerPlane : Nat) : State :=
  let t := noteRepairs s .link l peerPlane
  postEvent t 0x0060 .link l (l + 256 * ((linkAt s l).plane.getD 0x7F) + 65536)

/-- Lanes that take no fault: those that passed, and barred ones. -/
def laneFaults (s : State) (l : Nat) (passed : BitVec 2) : State :=
  (List.range 2).foldl (fun t m =>
    if passed.getLsbD m || barred t .lane (2 * l + m) then t else recordFault t .lane (2 * l + m) 0x05) s

/-- A link's training ends with a set of live lanes; lanes that passed in its last attempt have not failed, though its plane was
not the map's (R377). -/
def linkSettles (s : State) (l : Nat) (lanes passed : BitVec 2) : State :=
  let st : LinkSt := if lanes = 3 then .live2 else if lanes = 0 then .absent else .live1
  let t := laneFaults (modLink s l (fun x => { x with st := st, lanes := lanes, training := false })) l (lanes ||| passed)
  if lanes = 0 then recordFault t .link l 0x05 else t

/-- LINK_CTRL from this module on a link: its coordinates and the link index (R375, R377). -/
def linkCtrlFlit (s : State) (l : Nat) : Flit :=
  { ownFlit s (linkAt s l).peer ftLinkCtrl ((linkAt s l).plane.getD 0) 0 0 0 (natBytes 6 s.lnk.coord.toNat ++ natBytes 1 l) with
    jobTag := 0 }

/-- One attempt ends. -/
def attemptEnd (s : State) (l : Nat) (lanes : BitVec 2) (peer : BitVec 48) (peerPlane : Nat) : State :=
  let x := linkAt s l
  let usable := lanes &&& ~~~((if barred s .lane (2 * l) then (1 : BitVec 2) else 0) ||| (if barred s .lane (2 * l + 1) then 2 else 0))
  let met := decide (usable ≠ 0)
  let clash := met && (match x.plane with
    | some p => decide (p ≠ peerPlane)
    | none => false)
  let t := if met then putFlits (modLink s l (fun y => { y with peer := peer })) [(l, linkCtrlFlit s l)] else s
  let u := if clash then planeMismatch t l peerPlane else t
  let pass : BitVec 2 := if clash then 0 else usable
  let v := modLink u l (fun y => { y with attempts := y.attempts + 1, lastLane := if pass = 0 then y.lastLane else pass })
  if pass = 3 then linkSettles v l 3 usable
  else if 3 ≤ (linkAt v l).attempts then linkSettles v l (linkAt v l).lastLane usable
  else v

/-! ### Step 9 -/

/-- Sync objects zero, stale list empty, GLB_NAN_SQUASH clear (R334). -/
def ringEnableWork (s : State) : State :=
  let t := modMaster { s with sync := [] } (fun m => { m with stale := [], staleFull := false })
  stepResult (modGlb t (fun g => { g with nanSquash := 0 })) 0

/-! ### Steps 6, 7 and 9 need no finding: the write of the command runs them -/

/-- A write of GLB_BOOT_CMD (Table 14-2). -/
def bootCommand (s : State) (n : Nat) (fast : Bool) : State :=
  if bootAcceptable s n && !fastDenied s n fast then
    let t := bootBegin s n fast
    if n = 6 then linkTrainingWork t
    else if n = 7 && !t.boot.waitLinks then assembleWeave t
    else if n = 9 then ringEnableWork t
    else t
  else bootRefuse s n

/-! ### The end of a step (R333) -/

/-- A step that failed sets ERR_CODE; K_LANDING lasts until cold power-on. -/
def stepFails (s : State) (n : Nat) : State :=
  modBoot s (fun b =>
    { b with
      running := none
      found := false
      errCode := b.pendErr
      failedStep := BitVec.ofNat 4 n
      dead := b.dead || decide (b.pendErr = 5) })

/-- A step that completed sets its DONE bit; step 2 starts the firmware, step 8 makes a cold bring-up (R346) and shows the record to
attestation (18 R430). -/
def stepEnds (s : State) (n : Nat) : State :=
  let t := modBoot s (fun b =>
    { b with
      running := none
      found := false
      done := b.done ||| BitVec.ofNat 10 (2 ^ n)
      coldUp := b.coldUp || (decide (n = 8) && !b.fastUsed)
      fastOk := if n = 2 then fastOkNow s else b.fastOk })
  if n = 2 then modPwr t (fun p => { p with kMode := .firmware })
  else if n = 8 then modGlb t (fun g => { g with recordShown := true })
  else t

/-- Link training is over: every link has settled; a step 7 that waited begins. -/
def linkStepEnds (s : State) : State :=
  if s.boot.linkBusy && s.lnk.links.all (fun l => !l.training) then
    let t := modBoot s (fun b => { b with linkBusy := false, done := b.done ||| 64 })
    if t.boot.waitLinks then assembleWeave (modBoot t (fun b => { b with waitLinks := false })) else t
  else s

def bootComplete (s : State) (n : Nat) : State :=
  if n = 6 then linkStepEnds s
  else if s.boot.running = some n && s.boot.found then
    (if s.boot.pendErr = 0 then stepEnds s n else stepFails s n)
  else s

end Sys2Proof.Machine
end

