-- ==== Sys2Proof/Machine/BootRows.lean ====
section
/-!
DEFINITION. Meanings of the bring-up commands (14_bringup.md R333 to R347, 16_fabric_links.md R377).
-/
namespace Sys2Proof.Machine

/-- POWER_ENTRY_CHECKS: step 1 (R334). -/
def execPowerEntryChecks (vin inlet outlet : Nat) (lidOk : Bool) (stageFailed : List (Nat × Nat)) (s : State)
    (blades : List Nat := []) : Res :=
  .next (runStep s 1 false (fun t => powerEntry t vin inlet outlet lidOk stageFailed blades))

/-- K_BOOT: step 2 (R334, R335, R421, R422). -/
def execKBoot (landing1 landing4 : Bool) (s : State) (flash : FlashFindings := FlashFindings.clean) : Res :=
  .next (runStep s 2 false (fun t => kBootWork t landing1 landing4 flash))

/-- FIELD_POWER_UP: step 3 (R334, R336). -/
def execFieldPowerUp (found : PowerUpFindings) (s : State) : Res :=
  .next (runStep s 3 false (fun t => fieldPowerUpWork t found))

/-- FIELD_POWER_UP_FAST: step 3 with FAST = 1 (R346). -/
def execFieldPowerUpFast (found : PowerUpFindings) (s : State) : Res :=
  .next (runStep s 3 true (fun t => fieldPowerUpWork t found))

/-- START_UP_TESTS: step 4 (R337 to R339). -/
def execStartUpTests (found : List TestFinding) (efuseOpen : List Nat) (s : State) : Res :=
  .next (runStep s 4 false (fun t => startUpTestsWork t found efuseOpen))

/-- DRAM_TRAINING: step 5 (R241, R242). -/
def execDramTraining (found : List StackFinding) (s : State) : Res :=
  .next (runStep s 5 false (fun t => dramTrainingWork t found))

/-- LINK_TRAINING: step 6 begins (R377). -/
def execLinkTraining (s : State) : Res := .next (runStep s 6 false linkTrainingWork)

/-- LINK_TRAINING_ATTEMPT_END (R377). -/
def execLinkTrainingAttemptEnd (link : Nat) (lanes : BitVec 2) (peer : BitVec 48) (peerPlane : Nat) (s : State) : Res :=
  onUnit (decide (link < 96)) (if (linkAt s link).training then attemptEnd s link lanes peer peerPlane else s)

/-- WEAVE_ASSEMBLY: step 7 (R340 to R342). -/
def execWeaveAssembly (s : State) : Res := .next (runStep s 7 false assembleWeave)

/-- WEAVE_PUBLICATION: step 8 (R343, R344). -/
def execWeavePublication (flashOk : Bool) (s : State) : Res :=
  .next (runStep s 8 false (fun t => publishStep t flashOk))

/-- RING_ENABLE_STEP: step 9 (R334). -/
def execRingEnableStep (s : State) : Res := .next (runStep s 9 false ringEnableWork)

/-- BOOT_STEP_COMPLETE (R333). -/
def execBootStepComplete (step : Nat) (s : State) : Res :=
  if 1 ≤ step && step ≤ 9 then .next (bootComplete s step) else .fault .noSuchUnit

end Sys2Proof.Machine
end

