-- ==== Sys2Proof/Machine/Clocks.lean ====
section
/-!
DEFINITION. Meanings of the clock commands: gaits, rein, demotion, PLLs, crossings, deep sleep and time
(10_fabric_on_module.md R262, 11_clocks_time.md R270 to R287, 13_gaits_thermal.md R314).
-/
namespace Sys2Proof.Machine

/-! ### Gaits -/

/-- GAIT_DOWN (R271, R314): the field takes its granted gait, when that is lower. -/
def execGaitDown (field : Nat) (s : State) : Res := onUnit (decide (field < 16)) (dropGait s field)

/-- DEMOTED clears when the field reaches the gait the power manager would otherwise grant (R282). -/
def demoteEnd (s : State) (f : Nat) : State :=
  let x := fieldAt s f
  if x.demoted && !gaitLt x.gait (grantedOther s f) && decide (gaitNum (grantedOther s f) ≤ gaitNum x.demoteLimit) then
    modField s f (fun y => { y with demoted := false, demoteLimit := .gallop, quietMs := 0 })
  else s

/-- GAIT_UP (R271): every live region reports its raised setpoint and the divider changes; a rise that is no longer granted
is abandoned (R309, R318). -/
def execGaitUp (field : Nat) (s : State) : Res :=
  onUnit (decide (field < 16))
    (match (fieldAt s field).rising with
      | none => s
      | some g =>
        if !mayRise s || gaitLt (grantedGait s field) g then modField s field (fun x => { x with rising := none })
        else demoteEnd (modField (setGait s field g) field (fun x => { x with idleExit := false })) field)

/-- GRANTED_GAIT_RISE (R314): the rise of one gait toward the granted gait begins. -/
def execGrantedGaitRise (field : Nat) (s : State) : Res := onUnit (decide (field < 16)) (startRise s field)

/-- IDLE_WALK (R314): no tile has been queued in the field for 1 ms. -/
def execIdleWalk (field : Nat) (s : State) : Res :=
  onUnit (decide (field < 16))
    (if s.pwr.idleWalkEn && (regionsOf field).all (fun r => (regionAt s r).queue.isEmpty) then
      dropGait (modField s field (fun x => { x with idle := true })) field
     else s)

/-! ### Rein (R279 to R282) -/

/-- Half entries by which the FIFOs that leave a field have filled since the alignment: each stretch of the reader that the
writer has not matched shifts the phase by half an entry (R281). -/
def phaseShift (s : State) (f n d : Nat) : Int :=
  let k := ((fieldAt s n).rein - (fieldAt s f).rein - (edgeAt s f d).offset).toNat
  if k < 8 then (k : Int) else (k : Int) - 16

/-- Occupancies of the FIFOs of live sub-links that leave a field, in half entries. -/
def halvesNow (s : State) (f n d : Nat) : List Nat :=
  let e := edgeAt s f d
  (e.fifo.zipIdx.filter (fun p => e.live.getLsbD p.2)).map (fun p => (2 * (p.1.length : Int) + phaseShift s f n d).toNat)

/-- OCC_MIN and OCC_MAX of one edge take the occupancies as they now stand (Table 11-4); a half entry counts in both. -/
def noteOccupancy (s : State) (f d : Nat) : State :=
  match neighbour f d with
  | some n =>
    if (edgeAt s f d).mode = .meso then
      modEdge s f d (fun e =>
        { e with
          occMin := (halvesNow s f n d).foldl (fun m h => min m (h / 2)) e.occMin
          occMax := (halvesNow s f n d).foldl (fun m h => max m (min 8 ((h + 1) / 2))) e.occMax })
    else s
  | none => s

/-- The FIFOs of every crossing of a field, both ways. -/
def noteCrossings (s : State) (f : Nat) : State :=
  (List.range 4).foldl (fun t d => match neighbour f d with
    | some n => noteOccupancy (noteOccupancy t f d) n (opposite d)
    | none => t) s

/-- The field stretches a period: S rises by one (R280), and the phase of its crossings moves. -/
def stretch (s : State) (f : Nat) : State := noteCrossings (modField s f (fun x => { x with rein := x.rein + 1 })) f

/-- DROOP_TRIP (R279, R280): the field stretches the period and its S rises; its own stretches are counted for R282. In a
period that is stretched already (`samePeriod`) nothing more happens. `vcore` is the sample at the trip (R307). -/
def execDroopTrip (region : Nat) (s : State) (samePeriod : Bool := false) (vcore : Nat := 1024) : Res :=
  onUnit (decide (region < 96))
    (if (regionAt s region).powered && fieldRuns s (fieldOf region) then
      let t := if (regionAt s region).live then noteRail s region vcore else s
      if samePeriod then t else stretch (modField t (fieldOf region) (fun x => { x with ownRun := x.ownRun + 1 })) (fieldOf region)
     else s)

/-- The lag of field f behind its neighbour over a mesochronous crossing; none where no echo passes (R280, R281). -/
def lag (s : State) (f d : Nat) : Option Nat :=
  match neighbour f d with
  | some n =>
    let e := edgeAt s f d
    if e.mode = .meso && fieldRuns s n then some ((fieldAt s n).rein - (fieldAt s f).rein - e.offset).toNat else none
  | none => none

/-- The field is behind some neighbour. -/
def behindSome (s : State) (f : Nat) : Bool :=
  (List.range 4).any (fun d => match lag s f d with
    | some k => decide (1 ≤ k) && decide (k ≤ 7)
    | none => false)

/-- REIN_ECHO (R279, R281): a field behind a neighbour stretches the period, unless it is stretched already. -/
def execReinEcho (field : Nat) (s : State) (samePeriod : Bool := false) : Res :=
  onUnit (decide (field < 16)) (if fieldRuns s field && behindSome s field && !samePeriod then stretch s field else s)

/-- More than 5 % of the beats: one gait down, or the event at walk (R282). -/
def demote (s : State) (f own : Nat) : State :=
  if (fieldAt s f).gait = .walk then postEvent s 0x0031 .spine f own
  else dropGait (modField s f (fun x => { x with demoteLimit := gaitBelow x.gait, demoted := true })) f

/-- A millisecond of at most 1 %: after 100 of them the field moves up one gait (R282). -/
def quietMs (s : State) (f : Nat) : State :=
  let x := fieldAt s f
  if x.demoted && 99 ≤ x.quietMs then
    demoteEnd (startRise (modField s f (fun y => { y with quietMs := 0, demoteLimit := gaitAbove y.demoteLimit })) f) f
  else modField s f (fun y => { y with quietMs := min 100 (y.quietMs + 1) })

/-- DEMOTION_CHECK (R282): the end of a millisecond in which the field completed `beats` beats. -/
def execDemotionCheck (field beats : Nat) (s : State) : Res :=
  onUnit (decide (field < 16))
    (let own := (fieldAt s field).ownRun
     let t := modField s field (fun x => { x with ownRun := 0, ownReins := min top16 own })
     if beats < 20 * own then modField (demote t field own) field (fun x => { x with quietMs := 0 })
     else if 100 * own ≤ beats then quietMs t field
     else modField t field (fun x => { x with quietMs := 0 }))

/-! ### PLLs (R270) -/

/-- PLL_LOCK: the field clock starts at walk. -/
def execPllLock (field : Nat) (s : State) : Res :=
  onUnit (decide (field < 16))
    (if (fieldAt s field).spineOn && !(fieldAt s field).pllLock then
      changeCrossings (modField s field (fun x => { x with pllLock := true, gait := .walk, rising := none, halted := false })) field
     else s)

/-- PLL_LOSS_OF_LOCK: the clock stops, its regions' heartbeats with it, and event 0x0030 is posted. -/
def execPllLossOfLock (field : Nat) (s : State) : Res :=
  onUnit (decide (field < 16))
    (if (fieldAt s field).pllLock then
      postFieldEvent (modField s field (fun x => { x with pllLock := false, rising := none })) field 0x0030 .spine field 0
     else s)

/-! ### Crossings (R262, R276 to R278) -/

/-- Change both sides of a crossing. -/
def modCrossing (s : State) (f d : Nat) (g : Edge → Edge) : State :=
  match neighbour f d with
  | some n => modEdge (modEdge s f d g) n (opposite d) g
  | none => s

/-- A replay received on an edge is counted (R262). -/
def countReplay (s : State) (f d : Nat) : State := modEdge s f d (fun e => { e with replays := capAdd top32 e.replays 1 })

/-- A crossing passes flits, or those it still drains (R276, R278). -/
def passesFlits (e : Edge) : Bool := e.up && (e.draining || decide (e.mode = .meso) || decide (e.mode = .ratio))

/-- A parity error on a join's crossing: replayed and counted; the third failure of one flit disables the sub-link, with event
0x0020, and may bring the join down. -/
def joinReplay (s : State) (f d k : Nat) (third : Bool) : State :=
  if passesFlits (edgeAt s f d) then
    let t := countReplay s f d
    if third && (edgeAt t f d).live.getLsbD k then
      joinCheck (postFieldEvent (disableSubLink t f d k) f 0x0020 .subLink (subLinkIndex f d k) (lowEdge f d)) f d
    else t
  else s

/-- The same on the crossing of an I/O landing, on the edge that faces the die. -/
def landingReplay (s : State) (f d c h k : Nat) (third : Bool) : State :=
  if landingUp s c h then
    let t := countReplay s f d
    if third && (landingMask t c h).getLsbD k then
      landingCheck (postFieldEvent (disableLanding t f c h k) f 0x0020 .subLink (landingIndex f k) d) f c h
    else t
  else s

/-- CROSSING_FLIT_PARITY_REPLAY (R262, R263): on a join, on an I/O landing, or on a landing of K, whose sub-links the spec does not
number and which only counts the replay (log entry 164). -/
def execCrossingFlitParityReplay (field edge subLink : Nat) (thirdFailure : Bool) (s : State) : Res :=
  onUnit (decide (field < 16) && decide (edge < 4) && decide (subLink < 32))
    (if (neighbour field edge).isSome then joinReplay s field edge subLink thirdFailure
     else
       match ioLandingOf field, kLandingOf field with
       | some (c, h), _ => if landingEdge field = edge then landingReplay s field edge c h subLink thirdFailure else s
       | none, some k => if edge = 0 && s.pwr.kLandingOk.getD k false then countReplay s field edge else s
       | none, none => s)

/-- The rein offset d of one side of a crossing (R276). -/
def reinOffset (s : State) (f d : Nat) : BitVec 4 :=
  match neighbour f d with
  | some n => (fieldAt s n).rein - (fieldAt s f).rein
  | none => 0

/-- Occupancies of 32 FIFOs: 4 where a list names none. -/
def occList (occ : List Nat) : List Nat := (List.range 32).map (fun k => occ.getD k 4)

/-- Both sides are mesochronous: offsets and occupancies recorded, those of live sub-links anew as lowest and highest. -/
def enterMeso (s : State) (f d : Nat) (leaving entering : List Nat) : State :=
  match neighbour f d with
  | some n =>
    let g (a b : Nat) (x : BitVec 4) (occ : List Nat) (e : Edge) : Edge :=
      let here := (occ.zipIdx.filter (fun p => e.live.getLsbD p.2)).map (·.1)
      { e with
        mode := .meso
        draining := false
        offset := x
        fifo := occ.zipIdx.map (fun p => fifoOf s a b p.2 p.1)
        occMin := here.foldl min 8
        occMax := here.foldl max 0 }
    bumpFree (modEdge (modEdge s f d (g f d (reinOffset s f d) (occList leaving))) n (opposite d)
      (g n (opposite d) (reinOffset s n (opposite d)) (occList entering)))
  | none => s

/-- Live sub-links whose occupancy, one way or the other, is not within 4 +- 1 after three attempts. -/
def unaligned (s : State) (f d : Nat) (leaving entering : List Nat) : List Nat :=
  let off (n : Nat) : Bool := decide (n < 3) || decide (5 < n)
  (List.range 32).filter (fun k => (edgeAt s f d).live.getLsbD k && (off (leaving.getD k 4) || off (entering.getD k 4)))

/-- CROSSING_ALIGN_END (R276, R278): a crossing that has drained records its occupancies, those of the FIFOs `leaving` and
`entering` the field, and its offset; sub-links that cannot be aligned are disabled. -/
def execCrossingAlignEnd (field edge : Nat) (leaving entering : List Nat) (s : State) : Res :=
  onUnit (decide (field < 16) && decide (edge < 4))
    (if (edgeAt s field edge).mode = .aligning && !(edgeAt s field edge).draining then
      let t := (unaligned s field edge leaving entering).foldl (fun u k => disableSubLink u field edge k) s
      joinCheck (enterMeso t field edge leaving entering) field edge
     else s)

/-- The occupancy at which a FIFO slips shows in OCC_MIN or OCC_MAX of its direction. -/
def noteSlip (s : State) (f d : Nat) (leaving full : Bool) : State :=
  let g (e : Edge) : Edge := if full then { e with occMax := 8 } else { e with occMin := 0 }
  match neighbour f d with
  | some n => if leaving then modEdge s f d g else modEdge s n (opposite d) g
  | none => s

/-- CROSSING_SLIP (R277): a FIFO that leaves the field, or enters it, reaches 0 or 8; the crossing replays and aligns again, the
slip is counted and its event posted. -/
def execCrossingSlip (field edge : Nat) (s : State) (leaving full : Bool := true) : Res :=
  onUnit (decide (field < 16) && decide (edge < 4))
    (if (edgeAt s field edge).mode = .meso then
      let t := modCrossing (noteSlip s field edge leaving full) field edge (fun e =>
        { e with mode := .aligning, slips := capAdd top16 e.slips 1 })
      postFieldEvent (countReplay t field edge) field 0x0022 .subLink (subLinkIndex field edge 0) (lowEdge field edge)
     else s)

/-- CROSSING_FIFO_DRAINED (R278): the crossing has drained; in ratio mode it passes flits again, and an alignment may end. -/
def execCrossingFifoDrained (field edge : Nat) (s : State) : Res :=
  onUnit (decide (field < 16) && decide (edge < 4)) (modCrossing s field edge (fun e =>
    if e.draining then { e with draining := false, fifo := List.replicate 32 [] } else e))

/-! ### Deep sleep (R273) -/

/-- No operation is in flight: none is selected, or all that is there is the readiness exchange of a group's first COLLECTIVE. -/
def noneRuns (s : State) : Bool :=
  (s.master.sel.isNone && s.master.op.isNone) || (s.master.done.isEmpty && s.master.op.elim false collWaits)

/-- Nothing is in flight: no operation, no started collective, no held session, no retraining. -/
def nothingInFlight (s : State) : Bool :=
  noneRuns s && (asideOps s).isEmpty && !(s.farrier.session.elim false (·.held)) && s.memStacks.all (fun x => !x.retraining)

/-- SLEEP_ENTER (R273 steps 2 and 3): stacks to self-refresh, unneeded banks off, fields halted, ASLEEP set. -/
def execSleepEnter (s : State) : Res :=
  .next (if s.clk.entering && nothingInFlight s then
      let t := { s with memStacks := s.memStacks.map (fun x => if x.live && !x.failed then { x with selfRefresh := true } else x) }
      let u := updAllBanks t
      let v := { u with fields := u.fields.map (fun x => if x.spineOn then { x with halted := true, rising := none } else x) }
      modClk v (fun c => { c with entering := false, asleep := true })
    else s)

/-! ### Time (R283 to R287) -/

/-- Nanoseconds that slewing adds over some ticks: at most one tick in 1,024 adds or takes 1. -/
def slewBy (c : Clock) (ticks : Nat) : Int :=
  let n : Nat := (c.tickPhase + ticks) / 1024
  if c.slew < 0 then -((min n c.slew.natAbs : Nat) : Int) else ((min n c.slew.natAbs : Nat) : Int)

/-- Whole microseconds pass: 250 ticks of 4 ns each, slewed. -/
def advanceClock (c : Clock) (us : Nat) : Clock :=
  let d := slewBy c (250 * us)
  { c with
    gtc := c.gtc + BitVec.ofNat 64 (1000 * us) + BitVec.ofInt 64 d
    upNs := c.upNs + 1000 * us
    slew := c.slew - d
    tickPhase := (c.tickPhase + 250 * us) % 1024 }

/-- GTC_TIME_CODE (R283, R284): `codes` microseconds pass, and every spine's and landing's copy takes the value. -/
def execGtcTimeCode (codes : Nat) (s : State) : Res :=
  .next (if s.pwr.railIn then noteStress (copyGtc (modClk s (fun c => advanceClock c codes))) else s)

/-- A 64-bit two's complement DETAIL. -/
def detailInt (i : Int) : Nat := (BitVec.ofInt 64 i).toNat

/-- FOLLOWER_CONTACT_LOST (R286): no exchange for 10 ms; the module runs free. -/
def execFollowerContactLost (s : State) : Res :=
  .next (if s.clk.syncRole = 2 then
      postEvent (modClk s (fun c => { c with locked := false, slew := 0 })) 0x0032 .none 0 (detailInt s.clk.offsetNs)
    else s)

/-- The GTC's distance from the nearest whole second, sampled at 4 ns. -/
def ppsOffset (g : Word64) : Int :=
  let ph := g.toNat / 4 * 4 % 1000000000
  if ph < 500000000 then (ph : Int) else (ph : Int) - 1000000000

/-- PPS is used: PPS_EN, and not a follower (R287). -/
def ppsUsed (c : Clock) : Bool := c.ppsEn && decide (c.syncRole ≠ 2)

/-- FAR is set, with event 0x0033 when it was clear (R286, R287). -/
def setFar (s : State) (d : Int) : State :=
  let t := modClk s (fun c => { c with offsetNs := d, far := true })
  if s.clk.far then t else postEvent t 0x0033 .none 0 (detailInt d)

/-- PPS_EDGE (R287): within 1 us of a whole second the module slews toward it, else FAR is set. -/
def execPpsEdge (s : State) : Res :=
  .next (if ppsUsed s.clk then
      let d := ppsOffset s.clk.gtc
      if d.natAbs ≤ 1000 then modClk s (fun c => { c with offsetNs := d, far := false, slew := -d })
      else setFar s d
    else s)

/-- PPS_LOST (R287): no edge for 2 s; the GTC holds over on the always-on clock. -/
def execPpsLost (s : State) : Res :=
  .next (if ppsUsed s.clk then
      postEvent (modClk s (fun c => { c with ppsLost := true, slew := 0 })) 0x0034 .none 0 (detailInt s.clk.offsetNs)
    else s)

end Sys2Proof.Machine
end

