-- ==== Sys2Proof/Machine/Links.lean ====
section
/-!
DEFINITION. Meanings of the fabric-link and time commands: replays, lost lanes and links, LINK_CTRL, peer adds and the time
exchange (11_clocks_time.md R286, 16_fabric_links.md R375 to R384).
-/
namespace Sys2Proof.Machine

/-! ### Lanes and links lost (R380, R381, R394) -/

/-- A collective on a plane stalls (R381). -/
def stallOp (p : Nat) (o : Op) : Op :=
  match o.coll with
  | some c => if c.planes.contains p then putColl o { c with stalled := true } else o
  | none => o

/-- Every collective whose plane set holds a plane stalls. -/
def stallPlane (s : State) (p : Nat) : State :=
  modMaster s (fun m =>
    { m with
      op := m.op.map (stallOp p)
      colls := m.colls.map (stallOp p)
      tail := m.tail.map (fun x => { x with op := stallOp p x.op }) })

/-- DETAIL of event 0x0060 for a link lost (Table 16-4). -/
def lostDetail (l : Nat) (plane : Option Nat) : Nat := l + 256 * plane.getD 0x7F

/-- A link has no live lane left: absent in the census, its flits discarded, and its plane's collectives stall (R381). -/
def dropLink (s : State) (l : Nat) : State :=
  let t := modLink s l (fun x => { x with st := .absent, lanes := 0, retry := [] })
  match (linkAt s l).plane with
  | some q => stallPlane t q
  | none => t

/-- A link is lost (R381), with event 0x0060. -/
def loseLink (s : State) (l : Nat) : State :=
  postEvent (dropLink s l) 0x0060 .link l (lostDetail l (linkAt s l).plane)

/-- A running collective on plane p, whose member's link has changed its width there, adjusts its slots (R394). -/
def planeNarrows (s : State) (p : Nat) (o : Op) : State :=
  match o.coll with
  | some c => if c.started && !c.stalled && decide (c.variant ≤ 3) && c.planes.contains p then adjustColl s o c else s
  | none => s

/-- A lost lane leaves its link x1 (R380): the running collectives of its plane adjust their slots. -/
def linkNarrows (s : State) (l : Nat) (rest : BitVec 2) : State :=
  let t := modLink s l (fun x => { x with st := .live1, lanes := rest })
  match (linkAt s l).plane with
  | some p => (t.master.op.toList ++ t.master.colls).foldl (fun acc o => planeNarrows acc p o) t
  | none => t

/-- The lane's own consequences (R380, Table 15-7): event 0x0061 and a fault. -/
def laneFails (s : State) (l m : Nat) : State :=
  recordFault (postEvent s 0x0061 .lane (2 * l + m) (l + 256 * m)) .lane (2 * l + m) 0x0D

/-- LANE_LOST (R380): the link goes on x1, or is lost with its last lane. -/
def execLaneLost (link lane : Nat) (s : State) : Res :=
  onUnit (decide (link < 96) && decide (lane < 2))
    (if isLiveLink (linkAt s link) && (linkAt s link).lanes.getLsbD lane then
       let rest := (linkAt s link).lanes &&& ~~~(BitVec.ofNat 2 (2 ^ lane))
       let t := laneFails s link lane
       if rest = 0 then loseLink t link else linkNarrows t link rest
     else s)

/-- LINK_LOST (R381). -/
def execLinkLost (link : Nat) (s : State) : Res :=
  onUnit (decide (link < 96)) (if isLiveLink (linkAt s link) then loseLink s link else s)

/-- FLIT_CRC_RETRY (R379, R381): the codewords that could not be corrected and the replay, from the sender's retry buffer, are counted;
the eighth replay of one flit loses the link. The flits arrive once and in order: nothing else shows a replay. -/
def execFlitCrcRetry (link : Nat) (eighth : Bool) (s : State) (codewords : Nat := 1) : Res :=
  onUnit (decide (link < 96))
    (if isLiveLink (linkAt s link) then
       let t := modLink s link (fun x =>
         { x with
           fecUncorr := capAdd top16 x.fecUncorr codewords
           retries := capAdd top16 x.retries 1 })
       if eighth then loseLink t link else t
     else s)

/-! ### LINK_CTRL (R374, R375, R377, R417) -/

/-- The plane a LINK_CTRL names (log entry 19). -/
def ctrlPlane (f : Flit) : Nat := ((flitBody f).getD 6 0).toNat

/-- The port's address is learnt. A plane that differs from the map is recorded, with event 0x0060, and leaves the link without a live
lane, as a training whose attempts fail does (R377, R417; log entry 112). -/
def linkCtrlIn (s : State) (l : Nat) (f : Flit) : State :=
  let t := modLink s l (fun x => { x with peer := f.src })
  match (linkAt s l).plane with
  | some p => if p = ctrlPlane f then t else dropLink (planeMismatch t l (ctrlPlane f)) l
  | none => t

/-- LINK_CTRL: a port's control flit on a live link. -/
def execLinkCtrl (link : Nat) (flit : Flit) (s : State) : Res :=
  onUnit (decide (link < 96))
    (let g := flitGate s flit
     if g.2 && flit.type = ftLinkCtrl && isLiveLink (linkAt s link) then linkCtrlIn g.1 link flit else g.1)

/-! ### Peer adds (R383, R190, R194) -/

/-- PEER_SYNC_ADD: object [15:0] and value [127:64] of the body (Table 16-3). -/
def execPeerSyncAdd (flit : Flit) (s : State) : Res :=
  let g := flitGate s flit
  .next (if g.2 && flit.type = ftSyncAdd then
      peerAdd g.1 (leNat ((flitBody flit).take 2)) (BitVec.ofNat 64 (leNat (((flitBody flit).drop 8).take 8)))
    else g.1)

/-! ### Time messages (R286, R384) -/

/-- A timestamp taken at the lane of a link, from the copy of the GTC at its I/O die's landing (R284), with 4 ns resolution. -/
def laneTime (s : State) (link : Nat) : Nat := (landTime s (link / 24)).toNat / 4 * 4

/-- The link that carries time messages of a plane, or of any: the lowest-numbered live link that carries traffic. -/
def timeLink (s : State) (plane : Option Nat) : Nat :=
  s.lnk.links.findIdx (fun l => linkWorks l && (plane.isNone || decide (l.plane = plane)))

def timePlane (s : State) : Option Nat := (s.lnk.links.find? linkWorks).bind (·.plane)

def timeFlit (s : State) (dest : BitVec 48) (type : Byte) (plane : Nat) (body : List Byte) : Flit :=
  { ownFlit s dest type plane 0 0 0 body with jobTag := 0 }

/-- TIME_EXCHANGE (R384): a follower sends TIME_REQ with t1 and an empty correction field. -/
def execTimeExchange (s : State) : Res :=
  .next (match timePlane s with
    | some p =>
      if s.clk.syncRole = 2 then
        modClk (sendFlits s [timeFlit s Config.sliceMaster ftTimeReq p (natBytes 8 (laneTime s (timeLink s none)) ++ natBytes 8 0)])
          (fun c => { c with timeReqSent := some (BitVec.ofNat 64 (laneTime s (timeLink s none))) })
      else s
    | none => s)

/-- The n-th 64-bit number of a body. -/
def bodyNat (f : Flit) (n : Nat) : Nat := leNat (((flitBody f).drop (8 * n)).take 8)

/-- TIME_REQ (R384): a slice master answers with t2, t3 and c1; the switches will add c2. -/
def execTimeReq (flit : Flit) (s : State) : Res :=
  let g := flitGate s flit
  .next (if g.2 && flit.type = ftTimeReq && s.clk.syncRole = 1 then
      sendFlits g.1 [timeFlit s flit.src ftTimeResp flit.plane
        (natBytes 8 (laneTime s (timeLink s (some flit.plane))) ++ natBytes 8 (laneTime s (timeLink s (some flit.plane))) ++ natBytes 8 (bodyNat flit 1) ++ natBytes 8 0)]
    else g.1)

/-- The offset of R384, in ns. -/
def timeOffset (t1 t2 t3 t4 c1 c2 : Int) : Int := ((t2 - t1 - c1) - (t4 - t3 - c2)).tdiv 2

/-- The follower takes an offset (R286): within 1 us it slews, and is locked within 10 ns; beyond, FAR is set. -/
def takeOffset (s : State) (d : Int) : State :=
  if d.natAbs ≤ 1000 then
    modClk s (fun c =>
      { c with
        offsetNs := d
        far := false
        slew := d
        locked := decide (d.natAbs ≤ 10) })
  else setFar (modClk s (fun c => { c with locked := false, slew := 0 })) d

/-- TIME_RESP (R384): t2, t3, c1 and c2 of the master's answer to the outstanding request. -/
def execTimeResp (flit : Flit) (s : State) : Res :=
  let g := flitGate s flit
  .next (match s.clk.timeReqSent with
    | some t1 =>
      if g.2 && flit.type = ftTimeResp && s.clk.syncRole = 2 then
        takeOffset (modClk g.1 (fun c => { c with timeReqSent := none }))
          (timeOffset t1.toNat (bodyNat flit 0) (bodyNat flit 1) (laneTime s (timeLink s (some flit.plane))) (bodyNat flit 2) (bodyNat flit 3))
      else g.1
    | none => g.1)

end Sys2Proof.Machine
end

