-- ==== Sys2Proof/Machine/Collective.lean ====
section
/-!
DEFINITION. Meanings of the collective commands: READY, START, ABORT, DATA, SEND_DATA, SLOT_ADJ, the start of a slot and a
send's acknowledgement (16_fabric_links.md R382, R387 to R394).
-/
namespace Sys2Proof.Machine

/-! ### READY, START, ABORT (R387, R388, R392) -/

/-- A collective here that takes a READY or an ABORT from its sender: not yet started, of its kind, and reached (R388). -/
def takesMessage (f : Flit) (c : Coll) : Bool :=
  !c.started && (f.type = ftAbort || !c.agreed) && forColl c f && flitFits c f &&
    (match c.variant with
      | 4 => decide (c.list.contains f.src)
      | 5 => decide (c.list.contains f.src)
      | _ => c.list.contains f.src && (f.type = ftAbort || (c.rank = 0 && !c.ready.any (fun p => p.1 = rankOf c f.src))))

/-- A send or a recv takes messages of its own peer alone. -/
def peerFits (f : Flit) (o : Op) (c : Coll) : Bool := c.variant < 4 || decide (c.list.getD (collPeer o) 0 = f.src)

/-- The collective that takes a READY or an ABORT. -/
def takerOf (s : State) (f : Flit) : Option (Op × Coll) :=
  (s.master.op.toList ++ s.master.colls).findSome? (fun o => match o.coll with
    | some c => if !c.stalled && takesMessage f c && peerFits f o c then some (o, c) else none
    | none => none)

/-- A message for a collective that is not reached yet waits (R388); one for a collective that has been reached finds none that
takes it, and is dropped. -/
def keepMail (s : State) (f : Flit) : State := if notReached s f then modLnk s (fun l => { l with mail := l.mail ++ [f] }) else s

/-- A message that comes while the master takes none waits. -/
def holdMail (s : State) (f : Flit) : State := modLnk s (fun l => { l with mail := l.mail ++ [f] })

/-- READY (R387, R392). `reads` tells of what a collective that goes into flight then reads; during a halter nothing is
accepted (17 R413). -/
def execReady (flit : Flit) (s : State) (reads : ReadOutcome := ReadOutcome.clean) : Res :=
  let g := flitGate s flit
  .next (if g.2 && flit.type = ftReady then
      match takerOf g.1 flit with
      | some (o, c) => if masterOn g.1 then collReady g.1 o c (rankOf c flit.src) (flitBody flit) reads else holdMail g.1 flit
      | none => keepMail g.1 flit
    else g.1)

/-- ABORT (R387, R388): the matching collective completes with the status. A recv whose data has not come ends too, since
its READY has made it Accepted already (R392). -/
def abortTaker (s : State) (f : Flit) : Option (Op × Coll) :=
  match takerOf s f with
  | some p => some p
  | none => (s.master.op.toList ++ s.master.colls).findSome? (fun o => match o.coll with
      | some c =>
        if c.variant = 5 && forColl c f && !c.stalled && !c.done && flitFits c f && peerFits f o c then some (o, c)
        else none
      | none => none)

def execAbort (flit : Flit) (s : State) : Res :=
  let g := flitGate s flit
  .next (if g.2 && flit.type = ftAbort then
      match abortTaker g.1 flit with
      | some (o, c) => collAborted g.1 o c (rankOf c flit.src) ((flitBody flit).headD 0)
      | none => keepMail g.1 flit
    else g.1)

/-- START (R387): T0, S and the width of each plane, from rank 0. -/
def execStart (flit : Flit) (s : State) (reads : ReadOutcome := ReadOutcome.clean) : Res :=
  let g := flitGate s flit
  .next (if g.2 && flit.type = ftStart && masterOn g.1 then
      match collWhere g.1 flit.comm (fun c => c.variant ≤ 3 && !c.agreed && forColl c flit && c.rank ≠ 0 && decide (c.list.getD 0 0 = flit.src)) with
      | some o =>
        (match o.coll with
          | some c => collStart g.1 o c (leNat ((flitBody flit).take 8)) (leNat (((flitBody flit).drop 8).take 4))
              (((flitBody flit).drop 14).map (·.toNat)) reads
          | none => g.1)
      | none => g.1
    else g.1)

/-! ### Slots and data (R389 to R391, R394) -/

/-- The I/O die that carries a plane. -/
def planeDie (s : State) (p : Nat) : Nat := s.lnk.links.findIdx (fun l => linkWorks l && decide (l.plane = some p)) / 24

/-- The paired reduction lanes disagree (Table 15-2, Table 15-9): the collective ends with UNCORRECTABLE. -/
def laneError (s : State) (o : Op) (plane : Nat) : State :=
  let c := planeDie s plane
  let seq := (nextErrSeq s).getD 0
  let t := postError s { noErr with
    kind := 10
    unitKind := .ioDie
    unit := c
    op := some (dTag o.words, o.ring, o.count.toNat % ringSize (ringAt s o.ring))
    detail := c }
  endColl t o stUncorrectable seq

/-- A slot whose data the owner reduces. -/
def reduces (c : Coll) (k : Nat) : Bool := (c.variant = 0 || c.variant = 2) && !gatherSlot c k

/-- A slot's flit that a collective has not had: a later one that names the same place belongs to the next collective. -/
def awaitsFlit (c : Coll) (f : Flit) : Bool :=
  !c.slotsIn.contains f.slot && !c.got.any (fun g => decide (g.slot = f.slot) && decide (g.plane = f.plane) && decide (g.index = f.index))

/-- DATA (R389 to R391): accepted whenever it arrives, from the slot's source, and placed by SLOT and INDEX; `merge` tells of the
reads of part writes. -/
def execData (flit : Flit) (laneMismatch : Bool) (s : State) (merge : ReadOutcome := ReadOutcome.clean) : Res :=
  let g := flitGate s flit
  .next (if g.2 && flit.type = ftData then
      match collWhere g.1 flit.comm (fun c => c.variant ≤ 3 && !c.done && awaitsFlit c flit && decide (1 ≤ flit.slot) && decide (flit.slot ≤ lastSlot c) &&
          decide (c.list.getD (slotSource c flit.slot) 0 = flit.src)) with
      | some o =>
        (match o.coll with
          | some c => if laneMismatch && c.started && reduces c flit.slot then laneError g.1 o flit.plane else dataArrived g.1 o c flit merge
          | none => g.1)
      | none => g.1
    else g.1)

/-- SEND_DATA (R392): the data of the recv that runs with that peer, under the number of its send. -/
def execSendData (flit : Flit) (s : State) (merge : ReadOutcome := ReadOutcome.clean) : Res :=
  let g := flitGate s flit
  .next (if g.2 && flit.type = ftSendData then
      match (g.1.master.op.toList ++ g.1.master.colls).findSome? (fun o => match o.coll with
        | some c =>
          if c.variant = 5 && decide (c.comm = flit.comm) && decide (flit.slot = c.num % 2 ^ 24) && !c.stalled && c.started && !c.done &&
              peerFits flit o c then some (o, c)
          else none
        | none => none) with
      | some (o, c) => sendDataArrived g.1 o c flit merge
      | none => g.1
    else g.1)

/-- SLOT_ADJ (R394): from slot k1 on, the new slot length and widths; one that comes before START waits for it. -/
def execSlotAdj (flit : Flit) (s : State) : Res :=
  let g := flitGate s flit
  .next (if g.2 && flit.type = ftSlotAdj then
      match collWhere g.1 flit.comm (fun c => c.variant ≤ 3 && forColl c flit && c.list.contains flit.src) with
      | some o =>
        (match o.coll with
          | some c => setOpOf g.1 (putColl o (if c.agreed then adjusted c flit else { c with early := c.early ++ [flit] }))
          | none => g.1)
      | none => g.1
    else g.1)

/-- The data of the next slot is available, its scheduled start has come, and every plane of the set carries traffic (R376, R389). -/
def slotDue (s : State) (c : Coll) : Bool :=
  c.begun && !c.stalled && decide (c.variant ≤ 3) && decide (c.slotNext ≤ lastSlot c) &&
    decide (slotStart c c.slotNext ≤ (gtcNs s).toNat) && (!gatherSlot c c.slotNext || c.ownDone) &&
    c.planes.all (fun p => (planeLink s p).isSome)

/-- The collective that has committed and sends its next slot now, with those behind it. -/
def dueTail (s : State) : Option (Tail × Coll × List Tail) :=
  match s.master.tail with
  | x :: ts => (x.op.coll.filter (slotDue s)).map (fun c => (x, c, ts))
  | [] => none

/-- COLLECTIVE_SLOT_START (R389, R390): the engine sends a slot: of a collective that has committed with slots left, else of the one in
flight; one whose reads had to wait begins. -/
def execCollectiveSlotStart (s : State) (reads : ReadOutcome := ReadOutcome.clean) : Res :=
  .next (if !masterOn s then s
    else
      match dueTail s with
      | some (x, c, ts) => sendTail s x c reads ts
      | none =>
        match flightColl s with
        | some (o, c) => if slotDue s c then sendSlot s o c reads else collKick s reads
        | none => s)

/-- SEND_ACKNOWLEDGED (R392, R393): the send's data is acknowledged and it commits, with its SYNC_ADD to the peer. `reads` tells of
the advisor's entries of other members of its group. -/
def execSendAcknowledged (s : State) (reads : ReadOutcome := ReadOutcome.clean) : Res :=
  .next (match s.master.op with
    | some o =>
      (match o.coll with
        | some c =>
          if c.variant = 4 && c.sent && !c.stalled && !c.done then
            commitOrEnd (setOpOf s (putColl o { c with done := true })) reads
          else s
        | none => s)
    | none => s)

end Sys2Proof.Machine
end

