-- ==== Sys2Proof/Machine/FarrierCmds.lean ====
section
/-!
DEFINITION. Meanings of the farrier's commands: the start of a rolling or a return session, its hold, its release with the
trim, and the retry (13_gaits_thermal.md R315 to R317, 15_integrity_faults.md R364 to R368).
-/
namespace Sys2Proof.Machine

/-! ### Starting a session (R364) -/

/-- A stake-map change is pending: a rebuild runs, or a region has yet to leave the weave. -/
def mapPending (s : State) : Bool := s.master.recovery.isSome || s.regions.any (fun x => x.leavePending)

/-- A session may start: none runs, and neither deep sleep, CURB_N, a pending map change, a halter nor a zeroing holds it. -/
def maySession (s : State) : Bool :=
  masterOn s && s.farrier.session.isNone && !s.clk.asleep && !curbLow s && !mapPending s && !s.glb.zeroing && !s.glb.zeroDue

/-- The next live region after the last one tested; one marked for switch-off for heat is not taken (R325). -/
def rollingNext (s : State) : Option Nat :=
  ((List.range 96).map (fun i => (s.farrier.lastRegion + 1 + i) % 96)).find? (fun r =>
    (regionAt s r).live && !(regionAt s r).heatPending)

/-- A dark region that may return: failed and not retired, fewer than three phases lost, its dark period over, its plane and
spine on. -/
def mayReturn (s : State) (r : Nat) : Bool :=
  let x := regionAt s r
  x.quarantined && !x.live && !x.fuseBlown && !s.fuses.badRegions.contains r && !gated s .region r && !bankLost s r &&
    decide (phasesLost x < 3) && decide (x.darkUntil.toNat ≤ (gtcNs s).toNat) && (fieldAt s (fieldOf r)).spineOn &&
    !(fieldAt s (fieldOf r)).planeOff

/-- The lowest-numbered region that may return. -/
def returnNext (s : State) : Option Nat := (List.range 96).find? (mayReturn s)

/-- The session takes a region; a dark one asks for power (Table 15-5, R304). -/
def takeSession (s : State) (r : Nat) (returning : Bool) : State :=
  let t := modFarrier s (fun f =>
    { f with
      session := some { region := r, returning := returning, held := false, taken := (regionAt s r).temp, heldAt := 0, stressed := false }
      waiting := if returning then f.waiting else false
      region := r })
  if returning then requestPower t r else t

/-- A return session takes precedence; then the rolling session that is due. -/
def tryRolling (s : State) : State :=
  if !maySession s then modFarrier s (fun f => { f with waiting := true })
  else
    match returnNext s, rollingNext s with
    | some r, _ => takeSession (modFarrier s (fun f => { f with waiting := true })) r true
    | none, some r => takeSession s r false
    | none, none => s

/-- FARRIER_ROLLING_START: a whole 15 minutes of life time, with GLB_FARRIER_CTRL.EN = 1. -/
def execFarrierRollingStart (s : State) : Res := .next (if s.farrier.en then tryRolling s else s)

/-- FARRIER_RETURN_START: no session runs and a region's dark period has ended, whatever EN. -/
def execFarrierReturnStart (s : State) : Res :=
  .next (if maySession s then
      match returnNext s with
      | some r => takeSession s r true
      | none => s
    else s)

/-- FARRIER_RETRY: a session that could not start is tried again. -/
def execFarrierRetry (s : State) : Res :=
  .next (if maySession s then
      match returnNext s with
      | some r => takeSession s r true
      | none => if s.farrier.waiting && s.farrier.en then tryRolling s else s
    else s)

/-! ### Holding a region (R365, R115, R218) -/

/-- A tile of the region is yet to be verified, or a share of an operation placed on it yet to be dealt. -/
def unverifiedWork (s : State) (r : Nat) : Bool :=
  (s.master.tiles ++ s.master.preTiles).any (fun t => decide (t.region = r) && decide (t.st ≠ .verified)) ||
    (placedOps s).any (fun o => !o.dealt && o.share.any (fun x => decide (x.region = r)))

/-- A live region is held once the last of its tiles, of the current operation and of a pre-selected one, is verified; a dark one
once its power-up has ended. Nothing of it is read or run from a halter or a job's end until the zeroing has ended (R227). -/
def mayHold (s : State) (x : Session) : Bool :=
  masterOn s && !s.glb.zeroing && !s.glb.zeroDue && !x.held && (regionAt s x.region).powered &&
    (x.returning || !unverifiedWork s x.region)

/-- FARRIER_HOLD: the banks of the session area switch on (R217). -/
def execFarrierHold (s : State) : Res :=
  .next (match s.farrier.session with
    | some x =>
      if mayHold s x then
        updBanks (modFarrier s (fun f => { f with session := some { x with held := true, heldAt := gtcNs s } })) x.region
      else s
    | none => s)

/-! ### The findings (R366) -/

/-- A unit the session's patterns cover: the region's shared logic, its stakes and the banks of its session area. -/
def sessionCovers (s : State) (r : Nat) (x : TestFinding) : Bool :=
  match x.kind with
  | .region => decide (x.index = r)
  | .stake => decide (x.index / 512 = r)
  | .bank => decide (x.index / 32 = r) && (banksOf (taskBound s) (2 ^ 26)).contains (x.index % 32)
  | _ => false

/-- A unit that passes the retest has a fault; one that fails it is retired at once. -/
def scanUnit (s : State) (x : TestFinding) : State :=
  if x.retestPass then recordFault s x.kind x.index 0x0D else retireUnit s x.kind x.index 0x0D

/-- A unit this session retired. -/
def retiredNow (before after : State) (x : TestFinding) : Bool :=
  !isRetired before x.kind x.index && isRetired after x.kind x.index

/-- 2 when a unit was retired, else 1 when a fault was recorded, else 0 (Table 15-11). -/
def scanResult (before after : State) (xs : List TestFinding) : Nat :=
  if xs.any (retiredNow before after) then 2
  else if xs.any (fun x => x.retestPass) then 1
  else 0

/-! ### The trim (R315 to R317) -/

/-- The smallest Delta with a margin of at least 40 mV. -/
def deltaFor (vPass : Nat) : Int := -(((gaitSetpoint .canter : Int) - 40 - vPass) / 5)

/-- The margin of R316: the canter setpoint less V_pass, mV. -/
def measuredMargin (vPass : Nat) (x : Region) : Int := coreSetpoint .canter x.delta - vPass

/-- What a session's measurement does to Delta, the trim cap and the count of wide margins. -/
def trimRegion (now : Nat) (vPass : Nat) (x : Region) : Region :=
  let m := measuredMargin vPass x
  let y := { x with margin := min 255 m.toNat }
  if m < 40 then
    let d := deltaFor vPass
    if 12 < d then
      { y with
        delta := 12
        wideSessions := 0
        trimCap := true
        trimCapSince := if x.trimCap then x.trimCapSince else now }
    else { y with delta := d, wideSessions := 0 }
  else
    let z := { y with trimCap := x.trimCap && decide (x.delta ≠ 12) }
    if m < 60 then { z with wideSessions := 0 }
    else if x.wideSessions < 6 then { z with wideSessions := x.wideSessions + 1 }
    else { z with wideSessions := 0, delta := max (-8) (x.delta - 1) }

/-- The region's trim, with its record when Delta or the cap at trot changes (R316, R317). -/
def trimSession (s : State) (r vPass : Nat) : State :=
  let old := regionAt s r
  let t := modRegion s r (trimRegion (lifeTime s) vPass)
  let new := regionAt t r
  if old.delta = new.delta && old.trimCap = new.trimCap then t
  else
    let rec_ : TrimRecord :=
      { region := r
        life := lifeTime s
        gtc := gtcNs s
        old := old.delta
        new := new.delta
        margin := measuredMargin vPass old
        cap := new.trimCap }
    { t with stud := { t.stud with trims := t.stud.trims ++ [rec_] } }

/-! ### Releasing the region (R366) -/

/-- The region's stake map with the retired stakes bypassed. -/
def sessionMap (s : State) (r : Nat) : BitVec 512 := (regionAt s r).testMap ||| settledMap s r

/-- The region cannot be live: shared logic or a session-area bank retired in this session, or no stake left. -/
def sessionOut (before after : State) (r : Nat) (xs : List TestFinding) : Bool :=
  xs.any (fun x => x.kind ≠ .stake && retiredNow before after x) || decide (sessionMap after r = BitVec.allOnes 512)

/-- A rolling session's region goes back to service: narrower when its map changed, or out at an operation boundary. -/
def releaseRolling (s : State) (r : Nat) (out : Bool) : State :=
  if out then
    let t := modRegion s r (fun x => { x with leavePending := true })
    if atBoundary t then publishEvent (modRegion (leaveWeave t r) r (fun x => { x with leavePending := false })) else t
  else if sessionMap s r = (regionAt s r).testMap then s
  else publishEvent (modRegion s r (fun x => { x with testMap := sessionMap s r }))

/-- A return session's region becomes live at once, with no slot; one that cannot be live stays dark. -/
def releaseReturning (s : State) (r : Nat) (out : Bool) : State :=
  if out then regionOff s r
  else
    publishEvent (modRegion s r (fun x =>
      { x with
        live := true
        quarantined := false
        reason := 0
        testMap := sessionMap s r
        lastBeat := (fieldAt s (fieldOf r)).gtcCopy }))

/-- The session is over: its result is shown, and the region counts as covered. -/
def closeSession (s : State) (x : Session) (result : Nat) : State :=
  let t := modFarrier s (fun f =>
    { f with
      session := none
      lastRegion := if x.returning then f.lastRegion else x.region
      lastResult := result })
  modRegion t x.region (fun y => { y with sessionAt := lifeTime s + 1 })

/-- FARRIER_RELEASE: scan findings, trim, the region's return to service, and the drop of its field to the gait then granted (R314);
a region that went off meanwhile leaves the
session without a result. -/
def execFarrierRelease (found : SessionFindings) (s : State) : Res :=
  .next (match s.farrier.session with
    | some x =>
      if !x.held || !masterOn s || s.glb.zeroing || s.glb.zeroDue then s
      else if !(regionAt s x.region).powered then farrierAbandon s
      else
        let xs := found.scan.filter (sessionCovers s x.region)
        let t := xs.foldl scanUnit s
        let u := closeSession (trimSession t x.region found.vPass) x (scanResult s t xs)
        let out := sessionOut s t x.region xs
        let v := if x.returning then releaseReturning u x.region out else releaseRolling u x.region out
        updBanks (postEvent (dropGait v (fieldOf x.region)) 0x0002 .region x.region (scanResult s t xs)) x.region
    | none => s)

end Sys2Proof.Machine
end

