-- ==== Sys2Proof/Machine/Halter.lean ====
section
/-!
DEFINITION. Meanings of the halter, zeroing, rail, reset-pin and ROM-mode commands (08_scratchpad.md R226 to R228,
12_power_delivery.md R290, R291, 14_bringup.md R332, R345, 17_host_rings.md R411 to R415, 20_module_physical.md R466).
-/
namespace Sys2Proof.Machine

/-! ### Halter -/

/-- HALTER (R413, R414): a halter that was asked for runs steps 1 to 5; one in progress satisfies a second. -/
def execHalter (s : State) : Res :=
  .next (match s.hst.halterReq with
    | none => s
    | some q => if s.hst.halterRun.isSome then s else haltSequence s q.cause q.seq)

/-- HALTER_RECORD_POST (R415): step 6, once a zeroing in progress has ended. -/
def execHalterRecordPost (s : State) : Res := .next (if s.glb.zeroing then s else haltPost s)

/-- A self-halter has run since the link went down, and its record waits. -/
def selfHaltered (s : State) : Bool := s.hst.halterWaitsLink.elim false (fun r => decide (r.cause = 3))

/-- LINK_DOWN_SELF_HALTER (R414): the Nolot link has been down for 2 s; it runs in place of a halter word that waits for the
link. -/
def execLinkDownSelfHalter (s : State) : Res :=
  .next (if s.pwr.railIn && !s.na.up && !selfHaltered s && s.hst.halterReq.isNone && s.hst.halterRun.isNone then
      let t := modNa s (fun n => { n with haltSeq := n.haltWord.getD n.haltSeq, haltWord := none })
      modHst t (fun h => { h with halterReq := some { cause := 3, seq := 0 } })
    else s)

/-! ### Zeroing -/

/-- ZEROING_START (R226, R227): the zeroing a job end asked for. -/
def execZeroingStart (s : State) : Res := .next (if s.glb.zeroDue && !s.glb.zeroing then zeroStart s else s)

/-- ZEROING_END (R228). -/
def execZeroingEnd (s : State) : Res := .next (if s.glb.zeroing then zeroEnd s else s)

/-! ### The rail -/

/-- RAIL_ENTER_WINDOW (R291, R466): the always-on rail rises, PWRGOOD is high, the GTC is 0, the failure-analysis nonce
changes (R432), and the boot ROM holds before ROM mode. -/
def railEnter (s : State) (blades : List Nat) : State :=
  let t := modPwr s (fun p => { p with railIn := true, pwrgood := true, kMode := .held, vin := blades })
  let u := modClk t (fun c => { c with gtc := 0, upNs := 0, lifeBase := t.stud.lifeCkpt })
  modSec u (fun x => { x with nonceCount := x.nonceCount + 1 })

/-- The rail is in its window only while every VIN blade is (R461): with a blade out of it, or not mated, nothing powers up. -/
def execRailEnterWindow (s : State) (blades : List Nat := [54000, 54000, 54000, 54000]) : Res :=
  .next (if s.pwr.railIn || !bladesIn blades then s else railEnter s blades)

/-- An excursion that R290 ignores. -/
def briefExcursion (durationUs minMv maxMv : Nat) : Bool :=
  decide (durationUs < 20) && decide (44000 ≤ minMv) && decide (maxMv ≤ 62000)

/-- RAIL_LEAVE_WINDOW (R290, R291, R461): the module powers off, and every memory loses its content. `blades` are the four VIN
blades where they are told: while all are in the window the rail has not left it. -/
def execRailLeaveWindow (durationUs minMv maxMv : Nat) (s : State) (blades : List Nat := []) : Res :=
  .next (if !s.pwr.railIn || briefExcursion durationUs minMv maxMv || bladesIn blades then s else coldState (nolotDown s))

/-! ### Reset pin and ROM mode -/

/-- ROM_MODE_ENTRY (R332, R466). -/
def execRomModeEntry (s : State) : Res :=
  .next (if s.pwr.kMode = .held && !s.pwr.modresetLow then modPwr s (fun p => { p with kMode := .rom }) else s)

/-- MODRESET_N_ASSERT (R466): a low of 10 us starts a warm reset; a shorter one is ignored. -/
def execModresetNAssert (lowNs : Nat) (s : State) : Res :=
  .next (if lowNs < 10000 then s
    else
      let t := modPwr s (fun p => { p with modresetLow := true })
      if t.pwr.railIn then warmReset t else t)

/-- MODRESET_N_RELEASE (R466): the pin is high; ROM mode follows 1 ms later. -/
def execModresetNRelease (s : State) : Res := .next (modPwr s (fun p => { p with modresetLow := false }))

end Sys2Proof.Machine
end

