-- ==== Sys2Proof/Machine/HostOps.lean ====
section
/-!
DEFINITION. Rings, doorbells, jobs and the adapter: the operations behind their registers and events (17_host_rings.md R397
to R412, R418, R419).
-/
namespace Sys2Proof.Machine

/-! ### The doorbell page (R400) -/

/-- A 32-bit word of the page. -/
def pageWord (s : State) (off : Nat) : Word := BitVec.ofNat 32 (readNat (hostByte s) (doorbellPage s + off) 4)

/-- TAIL and CQ_HEAD of an op ring's line, or 0 and the HEAD count of a record ring's line. -/
def pageLine (s : State) (line : Nat) : Word × Word :=
  if line < 16 then (pageWord s (64 * line), pageWord s (64 * line + 4)) else (0, pageWord s (64 * line))

def halterWord (s : State) : Word := pageWord s 0x480

/-! ### Stops (R405) -/

/-- TAIL and CQ_HEAD that break R405. -/
def lineBroken (r : Ring) (tail head : Word) : Bool :=
  decide (ringSize r < (tail - head).toNat) || decide (2 ^ 31 ≤ (tail - r.fetch).toNat)

/-- A stop under R405. -/
def stopUnder405 (s : State) (ring : Nat) (g : Ring → Ring) : State := updAllBanks (ringStops (modRing s ring g) ring 0 true)

def dbStop (s : State) (ring : Nat) : State := stopUnder405 s ring (fun r => { r with dbErr := true })
def fetchStop (s : State) (ring : Nat) : State := stopUnder405 s ring (fun r => { r with fetchErr := true })

/-- The counts of a line reach K (R401, R405). A ring that is stopped already keeps its STOP_STATUS. -/
def takeCounts (s : State) (line : Nat) (tail head : Word) : State :=
  let r := ringAt s line
  if !r.en then s
  else if 16 ≤ line then modRing s line (fun x => { x with head := head })
  else
    let t := modRing s line (fun x => { x with tail := tail, head := head })
    if !lineBroken r tail head then t
    else if r.stopped then modRing t line (fun x => { x with dbErr := true, stopDb := true })
    else dbStop t line

/-! ### HST_RING_CTRL (R404, R407, R408, R418) -/

/-- What an enabled ring starts from (R404). -/
def freshRing (r : Ring) : Ring :=
  { r with
    en := true
    stopped := false
    stopDb := false
    stopStatus := 0
    tail := 0
    head := 0
    fetch := 0
    posted := 0
    entries := [] }

/-- The bases lie in the host range (R403); a record ring has no completion ring. -/
def basesOk (r : Ring) (ring : Nat) : Bool := isHost r.base && (decide (16 ≤ ring) || isHost r.cqBase)

/-- The adapter's counts of a line just read as zero. -/
def clearLine (s : State) (line : Nat) : State :=
  modNa s (fun n =>
    { n with
      pageTail := n.pageTail.set line 0
      pageHead := n.pageHead.set line 0
      forwards := n.forwards.filter (fun x => x ≠ line) })

/-- A write of EN = 1 to a disabled ring (R404). -/
def ringOn (s : State) (ring : Nat) : State :=
  let zero := decide (pageLine s ring = (0, 0))
  let based := basesOk (ringAt s ring) ring
  if zero && based then modRing (clearLine s ring) ring freshRing
  else modRing s ring (fun r => { r with dbErr := r.dbErr || !zero, baseErr := r.baseErr || !based })

/-- No entry of the ring is accepted and not yet completed. -/
def noneAccepted (r : Ring) : Bool := r.entries.all (fun e => !(e.st = .accepted || e.st = .running))

/-- A write of EN = 0 to an enabled ring (R408). -/
def ringOff (s : State) (ring : Nat) : State :=
  let r := ringAt s ring
  if 16 ≤ ring then modRing s ring disableRing
  else if noneAccepted r then updAllBanks (dropRing (modRing s ring disableRing) ring)
  else modRing s ring (fun x => { x with enErr := true })

/-- A stopped ring goes on: what it holds waits afresh (R407). -/
def resumeRing (r : Ring) : Ring :=
  { r with
    stopped := false
    stopDb := false
    stopStatus := 0
    entries := r.entries.map unwait }

/-- RESTART (R407): refused while the stale list has overflowed (R64) and while K reaches no field (R17). A restarted ring has
its head at once. -/
def ringAgain (s : State) (ring : Nat) : State :=
  let r := ringAt s ring
  let p := pageLine s ring
  if !(r.en && r.stopped) then s
  else if s.master.staleFull || kCutOff s then modRing s ring (fun x => { x with enErr := true })
  else if r.stopDb && lineBroken r p.1 p.2 then modRing s ring (fun x => { x with dbErr := true })
  else headUpdate (takeCounts (modRing s ring resumeRing) ring p.1 p.2) ring

/-- SIZE_LOG2 (R418). -/
def ringSizeWrite (s : State) (ring : Nat) (v : Word) : State :=
  let r := ringAt s ring
  let k := BitVec.ofNat 5 (wBits v 4 0)
  if !r.en then modRing s ring (fun x => { x with sizeLog2 := k })
  else if k = r.sizeLog2 then s
  else modRing s ring (fun x => { x with enErr := true })

/-- A halter came during a re-placement whose rebuild is not yet published: no op ring can be enabled (R202; that the write is
ignored without an error bit is log entry 147). -/
def rebuildHalted (s : State) : Bool := (s.master.recovery.map (·.halted)).getD false

/-- EN. -/
def ringEnWrite (s : State) (ring : Nat) (v : Word) : State :=
  let r := ringAt s ring
  if wBit v 8 then (if r.en || (rebuildHalted s && decide (ring < 16)) then s else ringOn s ring) else if r.en then ringOff s ring else s

/-- A write of HST_RING_CTRL. -/
def ringCtrl (s : State) (ring : Nat) (v : Word) : State :=
  let t := ringEnWrite (ringSizeWrite s ring v) ring v
  if wBit v 9 && decide (ring < 16) then ringAgain t ring else t

/-- A write of a base register: ignored with EN_ERR while the ring is enabled. -/
def ringBase (s : State) (ring : Nat) (g : Ring → Ring) : State :=
  modRing s ring (fun r => if r.en then { r with enErr := true } else g r)

/-! ### Jobs (R410) -/

/-- HST_JOB_CTRL.END; a farrier session is abandoned (15 R367). A halter in progress ends the job with its own zeroing. -/
def jobEnds (s : State) : State :=
  if anyRingEn s then modHst s (fun h => { h with jobErr := true })
  else if s.hst.halterRun.isSome || s.glb.zeroing then s
  else modGlb (modLnk (farrierAbandon s) (fun l => { l with jobTag := 0 })) (fun g => { g with zeroDue := true })

/-- Ring set-up is open once step 9 is done (R334). -/
def ringSetupOpen (s : State) : Bool := s.boot.done.getLsbD 9

/-- Registers of the HST block (Tables 17-6 to 17-9). -/
def writeHst (s : State) (loc : Nat) (v : Word) : State :=
  let k := s.hst.ringSel.toNat
  let open_ := ringSetupOpen s && decide (k < 18)
  let cq := open_ && decide (k < 16)
  match loc with
  | 0x040 => modHst s (fun h => { h with ringSel := BitVec.ofNat 5 (wBits v 4 0) })
  | 0x044 => if open_ then ringBase s k (fun r => { r with base := setLow r.base v }) else s
  | 0x048 => if open_ then ringBase s k (fun r => { r with base := setHigh r.base v }) else s
  | 0x04C => if cq then ringBase s k (fun r => { r with cqBase := setLow r.cqBase v }) else s
  | 0x050 => if cq then ringBase s k (fun r => { r with cqBase := setHigh r.cqBase v }) else s
  | 0x054 => if open_ then ringCtrl s k v else s
  | 0x058 =>
    if k < 18 then
      modRing s k (fun r =>
        { r with
          dbErr := r.dbErr && !wBit v 16
          enErr := r.enErr && !wBit v 17
          baseErr := r.baseErr && !wBit v 18
          fetchErr := r.fetchErr && !wBit v 19 })
    else s
  | 0x060 => if wBit v 0 then jobEnds s else s
  | 0x064 => if wBit v 2 then modHst s (fun h => { h with jobErr := false }) else s
  | _ => s

/-! ### The adapter (R397, R412, R419) -/

/-- The width a training gives. -/
def trainedWidth (lanes : Nat) : Nat := if 4 ≤ lanes then 4 else if 2 ≤ lanes then 2 else min lanes 1

/-- The halter record that waited for the link is written (R414). -/
def writeWaiting (s : State) : State :=
  match s.hst.halterWaitsLink with
  | none => s
  | some _ => modHst (writeHalterRecord s s.hst.lastHalter) (fun h => { h with halterWaitsLink := none, linkHalter := false })

/-- The link comes up: the status changes (vector 19) and a training after the first is counted. -/
def linkUp (s : State) (width : Nat) : State :=
  let t := modNa s (fun n =>
    { n with
      up := true
      width := width
      trained := true
      retrains := if n.trained then capAdd top16 n.retrains 1 else n.retrains })
  writeWaiting (raiseMsix t 19)

/-- A training of the Nolot link with so many passing lanes. -/
def nolotTrain (s : State) (lanes : Nat) : State :=
  if s.pwr.railIn && !s.na.up && decide (0 < lanes) then linkUp s (trainedWidth lanes) else s

/-- NA_DB_BASE_LO; EN from 0 to 1 takes the SEQ then in the line as forwarded. -/
def naBaseLow (s : State) (v : Word) : State :=
  let t := modNa s (fun n => { n with base := setLow n.base v, en := wBit v 0 })
  if wBit v 0 && !s.na.en then
    modNa t (fun n => { n with haltSeq := BitVec.ofNat 16 (wBits (halterWord t) 15 0), haltWord := none })
  else t

/-- NA_DB_BASE_HI. -/
def naBaseHigh (s : State) (v : Word) : State :=
  modNa s (fun n => { n with base := wBits v 14 0 * 2 ^ 32 + n.base % 2 ^ 32 })

/-- BAR2 (Table 17-10). -/
def writeNa (s : State) (off : Nat) (v : Word) : State :=
  match off with
  | 0x000 => naBaseLow s v
  | 0x004 => naBaseHigh s v
  | _ => s

/-! ### Polling and forwarding (R401, R412) -/

/-- One line of the page as read. -/
def pollLine (s : State) (line : Nat) : State :=
  let p := pageLine s line
  if p = (s.na.pageTail.getD line 0, s.na.pageHead.getD line 0) then s
  else modNa s (fun n =>
    { n with
      pageTail := n.pageTail.set line p.1
      pageHead := n.pageHead.set line p.2
      forwards := n.forwards.filter (fun x => x ≠ line) ++ [line] })

/-- The halter line as read. -/
def pollHalter (s : State) : State :=
  let w := halterWord s
  let seq := BitVec.ofNat 16 (wBits w 15 0)
  if wBits w 31 16 = 0x4854 && decide (seq ≠ s.na.haltSeq) then modNa s (fun n => { n with haltWord := some seq }) else s

def pollPage (s : State) : State := pollHalter ((List.range 18).foldl pollLine s)

/-- K takes a halter word: it asks for a halter, or gives the one that runs its SEQ. -/
def takeHalterWord (s : State) (seq : BitVec 16) : State :=
  modHst s (fun h =>
    { h with
      halterReq := some (match h.halterReq with
        | some q => { q with seq := seq }
        | none => { cause := 1, seq := seq }) })

def forwardLine (s : State) (line : Nat) : State :=
  if s.na.forwards.contains line then
    takeCounts (modNa s (fun n => { n with forwards := n.forwards.filter (fun x => x ≠ line) })) line
      (s.na.pageTail.getD line 0) (s.na.pageHead.getD line 0)
  else s

def forwardHalter (s : State) : State :=
  match s.na.haltWord with
  | none => s
  | some q => takeHalterWord (modNa s (fun n => { n with haltSeq := q, haltWord := none })) q

/-! ### Failed host accesses (R399) -/

/-- DETAIL[1:0] of the HOST_ACCESS record. -/
def hostDetail : HostFailure → Nat
  | .timeout => 0 | .ur => 1 | .ca => 2 | .poison => 3

def hostError (addr : Nat) (op : Option (Word × Nat × Nat)) (detail : Nat) : ErrRec :=
  { noErr with kind := 0x0B, addr := some addr, op := op, detail := detail }

/-- A read of an acceptance fails: the member that is being accepted completes with UNCORRECTABLE (R49, R399). -/
def acceptHostError (s : State) (sel : Selection) (e : Entry) (addr detail : Nat) : State :=
  let ref := (dTag e.words, sel.ring, e.count.toNat % ringSize (ringAt s sel.ring))
  let seq := (nextErrSeq s).getD 0
  let t := postError (rejectAbort s e [addr] (sel.next = 0) stUncorrectable) (hostError addr (some ref) detail)
  rejectMember t sel sel.next stUncorrectable seq

/-- The member whose acceptance comes next, as it finds the module, when its checks read the address. -/
def acceptIssues (s : State) (addr : Nat) : Option (State × Selection × Entry) :=
  let u := closeMember s
  match u.master.op, u.master.sel with
  | none, some sel =>
    (match sel.members[sel.next]? with
      | some e =>
        let t := openMember u sel.next
        if mayRun u && mayAccept u sel && anyFoot (acceptReads t sel.ring sel.members sel.next e (earlierFoots t sel.next) true) addr
        then some (u, sel, e)
        else none
      | none => none)
  | _, _ => none

/-- An accepted operation reads the address: an input, or what a COLLECTIVE reduces into. -/
def opIssues (addr : Nat) (o : Op) : Bool := anyFoot (o.inFoots ++ (if o.opcode = 12 then o.outFoots else [])) addr

/-- The operation that issued the access ends: the error record first, then the completion that names it. A pre-selected operation
is not accepted, and its access is made again once it is: log entry 163. -/
def operationHostError (s : State) (addr detail : Nat) : State :=
  let seq := (nextErrSeq s).getD 0
  let posted (o : Op) : State := postError s (hostError addr (some (opRef s o)) detail)
  match acceptIssues s addr, s.master.op.filter (opIssues addr), (asideOps s).find? (opIssues addr) with
  | some (u, sel, e), _, _ => acceptHostError u sel e addr detail
  | none, some o, _ => abandon (posted o) stUncorrectable seq
  | none, none, some o => endAside (posted o) o stUncorrectable seq
  | none, none, none => s

/-- A descriptor fetch fails (R405). -/
def fetchHostError (s : State) (ring addr detail : Nat) : State :=
  if mayFetch s ring then fetchStop (postError s (hostError addr none detail)) ring else s

/-- A read of the image fails (R424). -/
def firmwareHostError (s : State) : State :=
  if s.sec.update = .running then
    let t := modSec s (fun x => { x with update := .idle, result := 0x08, updHash := [] })
    if t.sec.resetWaits then warmRest t else t
  else s

def hostError399 (s : State) (who : HostReader) (detail addr : Nat) : State :=
  if s.na.up && isHost addr then
    match who with
    | .operation => operationHostError s addr detail
    | .fetch ring => fetchHostError s ring addr detail
    | .firmware => firmwareHostError s
  else s

end Sys2Proof.Machine
end

