-- ==== Sys2Proof/Machine/HostPort.lean ====
section
/-!
DEFINITION. Meanings of the host link, doorbell and adapter commands that are no BAR0 access (17_host_rings.md R396 to R401,
R405, R412, R419).
-/
namespace Sys2Proof.Machine

/-- NOLOT_LINK_TRAINING (R397): the widest set of lanes that pass; none leaves the link down. -/
def execNolotLinkTraining (lanes : Nat) (s : State) : Res := .next (nolotTrain s lanes)

/-- NOLOT_RETRAIN_RETRY (R397): the 100 ms timer of a down link. -/
def execNolotRetrainRetry (lanes : Nat) (s : State) : Res := .next (nolotTrain s lanes)

/-- NOLOT_LINK_DOWN (R397). -/
def execNolotLinkDown (s : State) : Res := .next (nolotDown s)

/-- NOLOT_PACKET_RETRY (R396): nothing is lost, duplicated or reordered. -/
def execNolotPacketRetry (s : State) : Res := .next s

/-- DOORBELL_POLL (R401): while EN = 1, whatever the module's state. -/
def execDoorbellPoll (host : List Host.Cell) (s : State) : Res :=
  let t := hostMerge s host
  .next (if t.na.en then pollPage t else t)

/-- DOORBELL_FORWARD (R401, R405, R412): a changed count, or line 18, the halter word, reaches K while the link is up. -/
def execDoorbellForward (line : Nat) (s : State) : Res :=
  onUnit (decide (line < 19)) (if !s.na.up then s else if line = 18 then forwardHalter s else forwardLine s line)

/-- NA_DB_BASE_ENABLE (R412, R419): a write of NA_DB_BASE_LO in BAR2. -/
def execNaDbBaseEnable (value : Word) (host : List Host.Cell) (s : State) : Res := .next (naBaseLow (hostMerge s host) value)

/-- HOST_ACCESS_FAILURE (R399, R405, R424). -/
def execHostAccessFailure (who : HostReader) (cause : HostFailure) (addr : Nat) (s : State) : Res :=
  .next (hostError399 s who (hostDetail cause) addr)

/-- HOST_ACCESS_TIMEOUT (R399): 10 ms of link-up time without a completion. -/
def execHostAccessTimeout (who : HostReader) (addr : Nat) (s : State) : Res := .next (hostError399 s who 0 addr)

/-- ADAPTER_CONVENTIONAL_RESET (R419): the NA registers; the link and its status stay. -/
def execAdapterConventionalReset (s : State) : Res :=
  .next (modNa s (fun n => { Adapter.reset with up := n.up, width := n.width, trained := n.up }))

end Sys2Proof.Machine
end

