-- ==== Sys2Proof/Machine/Security.lean ====
section
/-!
DEFINITION. The firmware update, the failure-analysis port and the SPDM responder (18_security.md R424 to R432).
-/
namespace Sys2Proof.Machine

/-! ### The update (R424, R425) -/

def setResult (s : State) (code : Byte) : State := modSec s (fun x => { x with result := code })

/-- The image or token in host memory, with its first byte at 0. -/
def hostImage (s : State) (a : Nat) : Byte := hostByte s (s.sec.imgAddr + a)

/-- The image of the update that runs: at the address its command was given with. -/
def updImage (s : State) (a : Nat) : Byte := hostByte s (s.sec.updAddr + a)

/-- A job is active or an op ring is enabled; in recovery mode this does not count (R424, R426). -/
def updateBusy (s : State) : Bool := (anyRingEn s || s.hst.active) && !s.boot.recovery

/-- Every byte of the image or token lies in the host range (Table 18-5). -/
def imageInHost (s : State) : Bool := isHost s.sec.imgAddr && decide (s.sec.imgAddr + s.sec.imgLen.toNat ≤ 2 ^ 48)

/-- Why a start of an update is refused, or what pass 1 finds. -/
def updateVerdict (s : State) : Byte :=
  if updateBusy s then rsBusyJob
  else if !imageInHost s then rsHostAccess
  else if s.sec.imgLen.toNat ≠ 32768 + imgBodyLen (hostImage s) then rsLength
  else verifyImage s (hostImage s)

/-- Pass 2 begins: the image area is erased. -/
def beginPass2 (s : State) : State :=
  modSec (bumpFree s) (fun x =>
    { x with
      update := .running
      updHash := imgMeas (hostImage s)
      updAddr := s.sec.imgAddr
      image := []
      imageLen := 0
      imageValid := false
      progress := min 99 (Config.updateProgress s.free) })

/-- SEC_FW_CMD.OP = 1 (R424). A start while an update runs changes nothing. -/
def updateStart (s : State) : State :=
  if s.sec.update ≠ .idle then s
  else if updateVerdict s = rsOk then beginPass2 s
  else setResult s (updateVerdict s)

/-- An update ends with a result; a warm reset that waited for it goes on (R425). -/
def updateEnds (s : State) (code : Byte) : State :=
  let t := modSec s (fun x => { x with update := .idle, result := code, updHash := [] })
  if t.sec.resetWaits then warmRest t else t

/-- The image as flash holds it once pass 2 has programmed it; `readBack` are the bytes that read back otherwise, with the bits that
differ. -/
def programmed (s : State) (readBack : List (Nat × Byte)) : Mem :=
  turned (memWrite [] (cellsAt 0 (readBytes (updImage s) 0 (32768 + imgBodyLen (updImage s))))) readBack

/-- Pass 2 ends: the body hashed as read and as read back, then the image valid (R424). -/
def updateFinish (s : State) (flashOk : Bool) (readBack : List (Nat × Byte)) : State :=
  let m := programmed s readBack
  let t := modSec s (fun x => { x with image := m, imageLen := 32768 + imgBodyLen (updImage s) })
  if !flashOk then updateEnds s rsFlash
  else if shake256 (imgBody (updImage s)) ≠ s.sec.updHash || shake256 (readBytes (memGet m) 0x8000 (imgBodyLen (updImage s))) ≠ s.sec.updHash then
    updateEnds t rsHashMismatch
  else updateEnds (modSec t (fun x => { x with imageValid := true, progress := 100 })) rsOk

/-! ### The failure-analysis port (R432) -/

/-- The first value from c on, counting up, that is in no list of used ones: it tries so many. -/
def unused (used : List (BitVec 128)) : Nat → BitVec 128 → BitVec 128
  | 0, c => c
  | n + 1, c => if used.contains c then unused used n (c + 1) else c

/-- The first n nonces, the last in front: each differs from all before it, so that a token serves one attempt only. -/
def nonces : Nat → List (BitVec 128)
  | 0 => []
  | n + 1 => unused (nonces n) n (Config.faNonce n) :: nonces n

/-- The current nonce. -/
def faNonceNow (s : State) : BitVec 128 := (nonces (s.sec.nonceCount + 1)).headD 0

/-- The token: nonce, serial number, signature by the device CA key over both. -/
def tokenOk (s : State) : Bool :=
  let n := 16 + Config.serialNumber.length
  decide (s.sec.imgLen.toNat = n + sigBytes) &&
    decide (readBytes (hostImage s) 0 n = natBytes 16 (faNonceNow s).toNat ++ Config.serialNumber) &&
    Config.slhDsaVerify Config.deviceCaKey (readBytes (hostImage s) 0 n) (readBytes (hostImage s) n sigBytes)

/-- SEC_FA_CTRL.OP = 1: the port opens only while no job is active, and the nonce changes at every attempt. -/
def faTry (s : State) : State :=
  let t :=
    if s.hst.active then setResult s rsBusyJob
    else if !imageInHost s then setResult s rsHostAccess
    else if tokenOk s then modSec (setResult s rsOk) (fun x => { x with faOpen := true })
    else setResult s rsSignature
  modSec t (fun x => { x with nonceCount := x.nonceCount + 1 })

/-- SEC_FA_CTRL.OP = 2. -/
def faShut (s : State) : State := modSec s (fun x => { x with faOpen := false })

/-! ### SPDM messages (R429; layouts of DSP0274) -/

def spdmMessage (code p1 p2 : Nat) (rest : List Byte) : List Byte :=
  [0x13, BitVec.ofNat 8 code, BitVec.ofNat 8 p1, BitVec.ofNat 8 p2] ++ rest

def spdmError (code data : Nat) : List Byte := spdmMessage 0x7F code data []
def spdmInvalidRequest : Nat := 1
def spdmBusy : Nat := 3
def spdmUnsupported : Nat := 7

/-- A request and its response join the transcript; the response is sent. -/
def spdmAnswer (s : State) (request response : List Byte) : State :=
  modSide s (fun d => { d with response := response, transcript := d.transcript ++ request ++ response })

/-- An ERROR response joins no transcript. -/
def spdmRefuse (s : State) (code data : Nat) : State := modSide s (fun d => { d with response := spdmError code data })

/-- VERSION: 1.3 only. -/
def versionResponse : List Byte := [0x10, 0x04, 0, 0, 0, 1, 0x00, 0x13]

/-- CAPABILITIES: CERT_CAP, CHAL_CAP, MEAS_CAP = 2, MEAS_FRESH_CAP, CTExponent = 22. -/
def capabilitiesResponse : List Byte :=
  spdmMessage 0x61 0 0 ([0, 22, 0, 0] ++ natBytes 4 0x36 ++ Config.spdmSizes)

/-- ALGORITHMS: MeasurementSpecification DMTF, BaseAsymAlgo and BaseHashAlgo zero, one ExtAsym and one ExtHash. -/
def algorithmsResponse : List Byte :=
  spdmMessage 0x63 0 0 (natBytes 2 (36 + Config.spdmExtAlgorithms.length) ++ [1, 0] ++ natBytes 4 0 ++ natBytes 4 0 ++
    natBytes 4 0 ++ natBytes 12 0 ++ [1, 1, 0, 0] ++ Config.spdmExtAlgorithms)

/-- DIGESTS of slot 0. -/
def digestsResponse : List Byte := spdmMessage 0x01 0 1 (shake256 Config.certChain)

/-- CERTIFICATE: a portion of the chain and what remains after it. -/
def certificateResponse (offset length : Nat) : List Byte :=
  let part := (Config.certChain.drop offset).take length
  spdmMessage 0x02 0 0 (natBytes 2 part.length ++ natBytes 2 (Config.certChain.length - offset - part.length) ++ part)

/-! ### Measurements (Table 18-3) -/

def zeros64 : List Byte := List.replicate 64 0

/-- FW_MEAS of the running image; zeros in recovery mode and while no image has run. -/
def runningMeas (s : State) : List Byte := if s.boot.recovery || s.sec.fwMeas.isEmpty then zeros64 else s.sec.fwMeas

/-- Index 4: STATE and live lanes of each link. -/
def censusBytes (s : State) : List Byte :=
  (List.range 96).flatMap (fun l => natBytes 1 (linkCode (linkState s l)) ++ natBytes 1 (linkAt s l).lanes.toNat)

/-- W of a region as a register and a record show it: 0 where the region is not live. -/
def shownWidth (s : State) (r : Nat) : Nat := if (regionAt s r).pubLive then widthOf (regionAt s r) else 0

/-- The live-region mask of R258. -/
def liveMask (s : State) : Nat := flagBits (s.regions.map (·.pubLive))

/-- Index 5. -/
def weaveBytes (s : State) : List Byte :=
  natBytes 12 (liveMask s) ++ (List.range 96).flatMap (fun r => natBytes 2 (shownWidth s r))

/-- Index 6. -/
def moduleBytes (s : State) : List Byte :=
  [BitVec.ofNat 8 (flagBits [s.boot.recovery, s.sec.faOpen]), BitVec.ofNat 8 s.fuses.svn, BitVec.ofNat 8 s.sec.runningSvn,
    BitVec.ofNat 8 s.sec.runningKey] ++ natBytes 4 0

def measurement (s : State) : Nat → List Byte
  | 1 => runningMeas s
  | 2 => fuseMeasOf s.fuses
  | 3 => if !s.glb.recordShown || s.glb.weaveRecord.isEmpty then zeros64 else shake256 (readBytes (memGet s.glb.weaveRecord) 0 0x2600)
  | 4 => shake256 (censusBytes s)
  | 5 => shake256 (weaveBytes s)
  | _ => shake256 (moduleBytes s)

/-- One measurement block. -/
def measBlock (s : State) (i : Nat) : List Byte :=
  [BitVec.ofNat 8 i, 1] ++ natBytes 2 67 ++ [Config.spdmValueType i] ++ natBytes 2 64 ++ measurement s i

/-- The indices a request asks for: 0 the count alone, 0xFF every index. -/
def measIndices (i : Nat) : List Nat := if i = 0xFF then [1, 2, 3, 4, 5, 6] else if i = 0 then [] else [i]

def measIndexOk (i : Nat) : Bool := decide (i ≤ 6) || decide (i = 0xFF)

/-- MEASUREMENTS without its signature. -/
def measurementsBody (s : State) (i : Nat) : List Byte :=
  let blocks := (measIndices i).flatMap (measBlock s)
  spdmMessage 0x60 (if i = 0 then 6 else 0) 0 (natBytes 1 (measIndices i).length ++ natBytes 3 blocks.length ++ blocks ++
    Config.spdmNonce s.free ++ natBytes 2 0)

/-- CHALLENGE_AUTH without its signature. -/
def challengeBody (s : State) : List Byte :=
  spdmMessage 0x03 0 1 (shake256 Config.certChain ++ Config.spdmNonce s.free ++ natBytes 2 0)

/-! ### Signing (R431) -/

/-- A signature is being made: for a response, or for the weave record of step 8. -/
def signingBusy (s : State) : Bool :=
  s.side.signing.isSome || (decide (s.boot.running = some 8) && !s.boot.found && !recordStands s)

/-- A response waits for its signature; the nonce it holds is used up. -/
def signLater (s : State) (challenge : Bool) (request body : List Byte) : State :=
  modSide (bumpFree s) (fun d =>
    { d with signing := some { challenge := challenge, body := body }, transcript := d.transcript ++ request ++ body })

def asciiBytes (t : String) : List Byte := t.toList.map (fun c => BitVec.ofNat 8 c.toNat)

/-- The 100 bytes in front of the transcript hash (DSP0274). -/
def signPrefix (challenge : Bool) : List Byte :=
  let c := if challenge then asciiBytes "responder-challenge_auth signing" else asciiBytes "responder-measurements signing"
  (List.replicate 4 (asciiBytes "dmtf-spdm-v1.3.*")).flatten ++ List.replicate (36 - c.length) 0 ++ c

/-- The signed response. -/
def signedResponse (s : State) (j : SignJob) : List Byte :=
  j.body ++ (Config.identitySign (signPrefix j.challenge ++ shake256 s.side.transcript)).take sigBytes

end Sys2Proof.Machine
end

