-- ==== Sys2Proof/Machine/Registers.lean ====
section
/-!
DEFINITION. The set-up window: which registers answer, what every register reads, and the path of a write through key, cinch
and access codes to its register (19_registers.md R436 to R457 and the register tables of the blocks' chapters).
-/
namespace Sys2Proof.Machine

/-! ### Blocks (Table 19-1) -/

/-- The block at a window offset. -/
def blockAt (off : Nat) : Option Blk :=
  match off / 4096 with
  | 0 => some .glb | 1 => some .fld | 2 => some .rgn | 3 => some .mem | 4 => some .lnk | 5 => some .hst | 6 => some .pwr
  | 7 => some .clk | 8 => some .sec | _ => none

def blockBase (b : Blk) : Nat := 4096 * blkNum b

/-! ### Which registers answer (R332, R426, R441) -/

/-- The registers of ROM mode. -/
def romRegister (b : Blk) (loc : Nat) : Bool :=
  match b with
  | .glb => [0x040, 0x044, 0x048, 0x050, 0x054, 0x058, 0x05C, 0x060].contains loc
  | .pwr => [0x044, 0x07C].contains loc
  | .sec => [0x054, 0x058].contains loc
  | _ => false

def answers (s : State) (b : Blk) (loc : Nat) : Bool :=
  if s.boot.recovery then romRegister b loc || b = .sec
  else s.boot.done.getLsbD 2 || romRegister b loc

/-! ### What registers read -/

def field1 (b : Bool) (k : Nat) : Nat := if b then 2 ^ k else 0
/-- The low w bits of n at bit k. -/
def fieldN (n w k : Nat) : Nat := n % 2 ^ w * 2 ^ k
def lowWord (n : Nat) : Nat := n % 2 ^ 32
def highWord (n : Nat) : Nat := n / 2 ^ 32 % 2 ^ 32
/-- Bits [31:12] of an address in place. -/
def pageLow (a : Nat) : Nat := fieldN (a / 4096) 20 12

/-- The unit of GLB_STUD_SEL is fitted. -/
def unitOfCode : Nat → Option UnitKind
  | 1 => some .region | 2 => some .stake | 3 => some .bank | 4 => some .ivrPhase | 5 => some .stack | 6 => some .link
  | 7 => some .lane | 8 => some .subLink | 9 => some .spine | 10 => some .ioDie | 11 => some .plane | 12 => some .kLanding
  | _ => none

/-- A sub-link index seen from the lower-numbered field of a join. -/
def subLinkFitted (i : Nat) : Bool :=
  let f := i / 128
  let d := i / 32 % 4
  match neighbour f d with
  | some n => decide (f < n) && decide (i % 32 < joinWidth f n) && decide (f < 16)
  | none => false

def unitFitted (code : Nat) (k : UnitKind) (i : Nat) : Bool :=
  match k with
  | .region => decide (i < 96)
  | .stake => decide (i < 49152)
  | .bank => decide (i < 3072)
  | .ivrPhase => decide (i < 1152)
  | .stack => decide (i < 16) && stackFitted code i
  | .link => decide (i < 96) && linkFitted code i
  | .lane => decide (i < 192) && linkFitted code (i / 2)
  | .subLink => subLinkFitted i
  | .spine => decide (i < 16)
  | .ioDie => decide (i < 4) && dieFitted code i
  | .plane => decide (i < 16)
  | .kLanding => decide (i < 2)
  | .none => false

/-- GLB_STUD_UNIT. -/
def studWord (s : State) : Nat :=
  match unitOfCode s.glb.studKind.toNat with
  | none => 0
  | some k =>
    if unitFitted s.fuses.orderCode k s.glb.studIndex.toNat then
      let u := studUnit s k s.glb.studIndex.toNat
      field1 u.retired 0 + fieldN (min 7 (recentFaults s u).length) 3 1 + fieldN u.reason.toNat 4 4 + fieldN u.life 16 8
    else 0

/-- Live regions with a completed session within the last day of life time. -/
def coveredRegions (s : State) : Nat :=
  ((List.range 96).filter (fun r => (regionAt s r).pubLive && decide (0 < (regionAt s r).sessionAt) &&
    decide (lifeTime s + 1 < (regionAt s r).sessionAt + day))).length

def bootStatus (s : State) : Nat :=
  s.boot.done.toNat + field1 s.boot.running.isSome 10 + field1 s.boot.linkBusy 11 + field1 s.boot.fastOk 12 +
    field1 s.boot.fastUsed 13 + field1 s.boot.recovery 14 + field1 s.boot.belowFloor 15 + fieldN s.boot.failedStep.toNat 4 16 +
    fieldN s.boot.errCode.toNat 8 24

def fuseId (s : State) : Nat :=
  if s.glb.fuseKnown then
    fieldN (variantCode s) 8 0 + fieldN s.fuses.orderCode 8 8 +
      fieldN (flagBits ((List.range 16).map (stackFitted s.fuses.orderCode))) 16 16
  else 0

/-- From the moment a halter is seen or a job's end commanded until the zeroing ends, nothing reads the state of Table 8-11 (R227). -/
def zeroHides (s : State) : Bool := s.glb.zeroDue || s.glb.zeroing || s.hst.halterReq.isSome || s.hst.halterRun.isSome

/-- The value the host reads of the selected object: zero while its spine is off (R194), while K reaches no field (R17) and while
a zeroing is due (R227). -/
def syncShown (s : State) : Word64 :=
  if syncAvailable s s.glb.syncSel.toNat && !kCutOff s && !zeroHides s then syncGet s s.glb.syncSel.toNat else 0

def farrierStatus (s : State) : Nat :=
  fieldN s.farrier.region 7 0 + field1 (s.farrier.session.elim false (·.held)) 7 + fieldN s.farrier.lastResult 2 8 +
    fieldN (coveredRegions s) 7 16

def readGlb (s : State) (loc : Nat) : Nat :=
  match loc with
  | 0x044 => bootStatus s
  | 0x050 => pageLow s.glb.weaveAddr
  | 0x054 => fieldN (s.glb.weaveAddr / 2 ^ 32) 16 0
  | 0x058 => s.glb.weaveSeq.toNat
  | 0x05C => fuseId s
  | 0x060 => fieldN s.glb.liveStakes 16 0 + fieldN s.glb.liveRegions 7 16
  | 0x070 => s.glb.nanSquash
  | 0x180 => field1 s.glb.advEn 0 + pageLow s.glb.advBase
  | 0x184 => fieldN (s.glb.advBase / 2 ^ 32) 16 0
  | 0x1C0 => s.glb.syncSel.toNat
  | 0x1C4 => lowWord (syncShown s).toNat
  | 0x1C8 => s.glb.syncHiShadow.toNat
  | 0x1CC => lowWord s.glb.syncOpnd.toNat
  | 0x1D0 => highWord s.glb.syncOpnd.toNat
  | 0x200 => s.glb.dupRate.toNat + field1 s.glb.dupRepeat 4
  | 0x204 => fieldN s.glb.mismatches 16 0 + fieldN s.glb.skipped 16 16
  | 0x208 => s.glb.errDropped
  | 0x210 => field1 s.farrier.en 0
  | 0x214 => farrierStatus s
  | 0x220 => s.glb.studKind.toNat + fieldN s.glb.studIndex.toNat 16 8
  | 0x224 => studWord s
  | _ => 0

/-- FLD_JOIN_STATUS. SPARES_USED has eight bits for up to 512 wires: it stops at 255, DESIGN CHOICE, log entry 138. -/
def joinStatus (s : State) : Nat :=
  let f := s.glb.fldSel.toNat
  let d := s.glb.fldDir.toNat
  let e := edgeAt s f d
  match neighbour f d with
  | none => 0
  | some n =>
    field1 true 0 + field1 (!isSeam f n) 1 + field1 e.up 2 + field1 s.glb.detour 3 +
      (if joinSpines s f d then fieldN (liveSubLinks e) 6 4 else 0) + fieldN (min 255 e.spares) 8 16

def readFld (s : State) (loc : Nat) : Nat :=
  let f := s.glb.fldSel.toNat
  match loc with
  | 0x040 => f + fieldN s.glb.fldDir.toNat 2 4
  | 0x044 => joinStatus s
  | 0x048 => (edgeAt s f s.glb.fldDir.toNat).replays
  | 0x04C => (fieldAt s f).mcDrop
  | _ => 0

def sessionRegion (s : State) : Option Nat := s.farrier.session.elim none (fun x => if x.held then some x.region else none)

def widthWord (s : State) (r : Nat) : Nat :=
  let x := regionAt s r
  fieldN (shownWidth s r) 10 0 + field1 x.pubLive 10 + field1 (x.pubLive && decide (widthOf x < 496)) 11 +
    field1 (decide (sessionRegion s = some r)) 12

def slotWord (s : State) : Nat :=
  match slotAt s s.glb.slotSel.toNat with
  | .unmapped => 0
  | .mapped r => fieldN r 7 0 + field1 true 8
  | .lost => if zeroHides s then 0 else field1 true 9

def lostSlots (s : State) : Nat := if zeroHides s then 0 else s.slots.countP (fun x => x = .lost)

def readRgn (s : State) (loc : Nat) : Nat :=
  let r := s.glb.rgnSel.toNat
  let x := regionAt s r
  let fit (n : Nat) : Nat := if r < 96 then n else 0
  match loc with
  | 0x040 => r
  | 0x044 => fit (widthWord s r)
  | 0x100 => fieldN s.glb.taskBase.toNat 11 16
  | 0x104 => fieldN s.glb.taskBound.toNat 11 16
  | 0x108 => field1 s.glb.zeroing 0 + field1 s.glb.rangeErr 1 + fieldN (lostSlots s) 8 8
  | 0x10C => s.glb.slotSel.toNat
  | 0x110 => if s.glb.slotSel.toNat < 96 then slotWord s else 0
  | 0x114 => if zeroHides s then 0 else fit x.hits
  | 0x118 => fit (x.bankOn &&& x.bankReady).toNat
  | _ =>
    if 0x080 ≤ loc && loc < 0x0C0 && decide (loc % 4 = 0) then fit (x.pubMap.toNat / 2 ^ (8 * (loc - 0x080)) % 2 ^ 32) else 0

/-- MEM_STATUS. SPARES_USED has eight bits for a total of up to 256: it stops at 255, DESIGN CHOICE, log entry 138. -/
def memStatus (s : State) (m : Nat) : Nat :=
  let x := stackAt s m
  field1 true 0 + field1 x.live 1 + field1 x.retraining 2 + field1 (s.glb.retrainQueue.contains m) 3 + field1 x.hotRefresh 4 +
    field1 x.throttled 5 + field1 x.hotSelfRefresh 6 + field1 x.failed 7 + field1 x.retrainFailed 8 +
    (if (fieldAt s m).spineOn then fieldN x.temp 8 16 else 0) + fieldN (min 255 (spareTotal x)) 8 24

/-- The MEM block. LIVE_COUNT keeps n of the last assembly over a warm reset, while LIVE_MASK reads 0 until step 7: DESIGN CHOICE,
log entry 166. -/
def readMem (s : State) (loc : Nat) : Nat :=
  let m := s.glb.memSel.toNat
  let fit (n : Nat) : Nat := if stackFitted s.fuses.orderCode m then n else 0
  match loc with
  | 0x040 => m
  | 0x044 => fieldN (mapStacks s).length 5 0 + fieldN (flagBits (s.memStacks.map (fun x => x.live && x.inMap))) 16 16
  | 0x048 => fit (memStatus s m)
  | 0x04C => fit (stackAt s m).eccCorr
  | 0x050 => fit (stackAt s m).eccUncorr
  | 0x054 => fit (field1 (retrainPending s) 0)
  | _ => 0

/-- Link training has begun: until then the census reads its reset value. -/
def censusShown (s : State) : Bool := s.boot.done.getLsbD 6 || s.boot.linkBusy

def linkWord (s : State) (l : Nat) : Nat :=
  let x := linkAt s l
  (if censusShown s then linkCode (linkState s l) else 0) + fieldN x.lanes.toNat 2 2 + fieldN x.attempts 2 4 + fieldN (x.plane.getD 0) 7 6 +
    field1 x.plane.isSome 13 + field1 x.conflict 14

def readLnk (s : State) (loc : Nat) : Nat :=
  let l := s.lnk.sel.toNat
  let fit (n : Nat) : Nat := if decide (l < 96) && linkFitted s.fuses.orderCode l then n else 0
  match loc with
  | 0x040 => l
  | 0x044 => fit (linkWord s l)
  | 0x048 => fit (lowWord (linkAt s l).peer.toNat)
  | 0x04C => s.lnk.peerHiShadow.toNat
  | 0x050 => fit (fieldN (linkAt s l).fecUncorr 16 0 + fieldN (linkAt s l).retries 16 16)
  | 0x060 => lowWord s.lnk.coord.toNat
  | 0x064 => s.lnk.coordHiShadow.toNat
  | 0x070 => field1 s.lnk.commEn 0 + pageLow s.lnk.commBase
  | 0x074 => fieldN (s.lnk.commBase / 2 ^ 32) 16 0
  | 0x078 => s.lnk.jobTag.toNat
  | 0x07C => fieldN s.lnk.dropTag 16 0 + fieldN s.lnk.dropType 16 16
  | _ => 0

def ringStatus (r : Ring) (k : Nat) : Nat :=
  field1 r.en 0 + field1 (r.stopped && decide (k < 16)) 1 + fieldN r.stopStatus.toNat 8 8 + field1 r.dbErr 16 +
    field1 r.enErr 17 + field1 r.baseErr 18 + field1 r.fetchErr 19

def jobStatus (s : State) : Nat :=
  field1 s.hst.active 0 + field1 (s.hst.halterReq.isSome || s.hst.halterRun.isSome) 1 + field1 s.hst.jobErr 2 +
    field1 s.hst.linkHalter 3

def readHst (s : State) (loc : Nat) : Nat :=
  let k := s.hst.ringSel.toNat
  let r := ringAt s k
  let fit (n : Nat) : Nat := if k < 18 then n else 0
  match loc with
  | 0x040 => k
  | 0x044 => fit (pageLow r.base)
  | 0x048 => fit (fieldN (r.base / 2 ^ 32) 16 0)
  | 0x04C => fit (pageLow r.cqBase)
  | 0x050 => fit (fieldN (r.cqBase / 2 ^ 32) 16 0)
  | 0x054 => fit (r.sizeLog2.toNat + field1 r.en 8)
  | 0x058 => fit (ringStatus r k)
  | 0x064 => jobStatus s
  | 0x068 => s.hst.evtDropped
  | _ => 0

/-- PWR_RGN_STATUS.CAP: Table 12-2 by the lost phases. -/
def capCode (x : Region) : Nat := min 3 (phasesLost x)

/-- PWR_PLANE_STATUS: a plane whose field is off reads its last values (R311). -/
def planeStatus (s : State) (f : Nat) : Nat :=
  let x := fieldAt s f
  fieldN (if x.planeOn && x.spineOn then Config.unreadSensor f s.free else x.vplane) 12 0 + field1 x.localSense 12 +
    fieldN (min 7 x.stageFailed) 3 13 + fieldN x.iplane 10 16 + field1 x.headroom 26 + field1 x.planeOff 27 +
    fieldN (min 15 x.powerQueue.length) 4 28

def regionWord (s : State) (r : Nat) : Nat :=
  let x := regionAt s r
  x.phaseLost.toNat + fieldN (capCode x) 2 12 + fieldN (min 3 x.efuseOpenings) 2 14 + field1 x.fuseBlown 16 +
    field1 ((fieldAt s (fieldOf r)).softStart.elim false (fun q => decide (q.region = r))) 17

/-- The hottest region that is powered, as COOLANT reads it (Table 13-11). -/
def hottest (s : State) : Nat := ((s.regions.filter (·.powered)).map (·.temp)).foldl max 0

/-- An integer in two's complement. -/
def twos (n : Int) (w : Nat) : Nat := (BitVec.ofInt w n).toNat

def gallopWord (s : State) (f : Nat) : Nat :=
  let x := fieldAt s f
  field1 s.pwr.elecModule 0 + field1 x.planeLimit 1 + field1 x.thermLimit 2 + field1 x.wearLimit 3 +
    fieldN (min 255 (s.pwr.eMod / 8400000)) 8 16 + fieldN (min 255 (x.qExcess / 480000)) 8 24

def readPwr (s : State) (loc : Nat) : Nat :=
  let r := s.pwr.selRegion.toNat
  let f := s.pwr.selField.toNat
  let x := regionAt s r
  let fit (n : Nat) : Nat := if r < 96 then n else 0
  match loc with
  | 0x040 => r + fieldN f 4 8
  | 0x044 => fieldN (if s.glb.fuseKnown then lowestVin s else 0) 16 0 + (if s.glb.fuseKnown then fieldN (Config.unreadSensor 16 s.free) 12 16 else 0) +
      field1 (curbLow s) 28
  | 0x048 => fieldN s.pwr.curbOwnCount 16 0 + fieldN s.pwr.curbExtCount 16 16
  | 0x04C => planeStatus s f
  | 0x050 => fit (regionWord s r)
  | 0x054 => fit (fieldN x.vmin 10 0 + field1 x.vminValid 10)
  | 0x058 => lowWord s.pwr.vminTimeShadow.toNat
  | 0x05C => highWord s.pwr.vminTimeShadow.toNat
  | 0x060 => field1 s.pwr.capPolicy 0
  | 0x064 => s.pwr.maxGait.toNat + field1 s.pwr.idleWalkEn 2
  | 0x068 => s.pwr.cap.toNat + field1 s.pwr.capUnmet 16
  | 0x06C => gallopWord s f
  | 0x070 => fieldN ((fieldAt s f).credit / 50000) 14 0
  | 0x074 => fit (twos x.delta 5 + fieldN x.margin 8 8 + field1 x.trimCap 16)
  | 0x078 => fit (fieldN x.temp 8 0 + field1 x.heatPending 8 + field1 x.heatOff 9 + fieldN s.pwr.spread 8 16)
  | 0x07C => fieldN s.pwr.inlet 8 0 + fieldN s.pwr.outlet 8 8 + fieldN (hottest s) 8 16 + fieldN s.pwr.spread 8 24
  | _ => 0

/-- CLK_FIELD_STATUS: a field whose spine is off reads zero. -/
def fieldStatus (s : State) (f : Nat) : Nat :=
  let x := fieldAt s f
  if !x.spineOn then 0
  else gaitNum x.gait + field1 x.halted 2 + field1 x.pllLock 3 + field1 x.demoted 4 + fieldN x.rein.toNat 4 8 +
    fieldN (min 65535 x.ownReins) 16 16

def crossMode : CrossMode → Nat
  | .idle => 0 | .meso => 1 | .ratio => 2 | .aligning => 3

def crossStatus (s : State) : Nat :=
  let e := edgeAt s s.clk.selField.toNat s.clk.selDir.toNat
  crossMode e.mode + fieldN e.occMin 4 4 + fieldN e.occMax 4 8 + fieldN e.slips 16 16

/-- An offset saturated at 32,767. -/
def saturate15 (n : Int) : Int := max (-32767) (min 32767 n)

def readClk (s : State) (loc : Nat) : Nat :=
  match loc with
  | 0x040 => s.clk.selField.toNat + fieldN s.clk.selDir.toNat 2 4
  | 0x044 => fieldStatus s s.clk.selField.toNat
  | 0x048 => crossStatus s
  | 0x050 => lowWord s.clk.gtc.toNat
  | 0x054 => s.clk.gtcHiShadow.toNat
  | 0x058 => field1 s.clk.beatTime 0 + field1 s.clk.ppsEn 1 + fieldN s.clk.syncRole.toNat 2 2
  | 0x05C => field1 s.clk.locked 0 + field1 s.clk.far 1 + field1 s.clk.ppsLost 2 + field1 s.clk.stepErr 3 +
      fieldN (twos (saturate15 s.clk.offsetNs) 16) 16 16
  | 0x060 => lowWord s.clk.gtcSet.toNat
  | 0x064 => highWord s.clk.gtcSet.toNat
  | 0x068 => field1 s.clk.entering 2 + field1 s.clk.asleep 3 + field1 s.clk.sleepErr 4
  | _ => 0

def readSec (s : State) (loc : Nat) : Nat :=
  match loc with
  | 0x040 => pageLow s.sec.imgAddr
  | 0x044 => fieldN (s.sec.imgAddr / 2 ^ 32) 16 0
  | 0x048 => s.sec.imgLen.toNat
  | 0x050 => field1 s.sec.faOpen 2
  | 0x054 => field1 (s.sec.update ≠ .idle) 0 + field1 (s.sec.update = .paused) 1 + fieldN s.sec.result.toNat 8 8 +
      fieldN s.sec.progress 7 16 + field1 s.sec.imageValid 23
  | 0x058 => (if s.glb.fuseKnown then fieldN s.fuses.svn 7 0 else 0) + (if s.boot.recovery then 0 else fieldN s.sec.runningSvn 7 8)
  | 0x060 => fieldN (faNonceNow s).toNat 32 0
  | 0x064 => fieldN ((faNonceNow s).toNat / 2 ^ 32) 32 0
  | 0x068 => fieldN ((faNonceNow s).toNat / 2 ^ 64) 32 0
  | 0x06C => fieldN ((faNonceNow s).toNat / 2 ^ 96) 32 0
  | _ => 0

def cinchCode : CinchState → Nat
  | .closed => 0 | .opened => 1 | .waiting => 2
def lastCode : CinchLast → Nat
  | .none => 0 | .applied => 1 | .refused => 2 | .abandoned => 3

/-- The common registers (Tables 19-4 to 19-7). -/
def readCommon (s : State) (b : Blk) (loc : Nat) : Nat :=
  let c := ctlAt s b
  match loc with
  | 0x000 => blkNum b + 1 + 0x0100
  | 0x004 => field1 c.keyOpen 16
  | 0x008 => fieldN (cinchCode c.cinch) 2 2 + fieldN c.staged.length 5 4 + field1 c.overflow 9 + fieldN (lastCode c.last) 2 10
  | 0x00C => field1 c.keyErr 0 + field1 c.pairErr 1 + field1 c.cinchErr 2
  | _ => 0

def readBlock (s : State) (b : Blk) (loc : Nat) : Nat :=
  if loc < 0x040 then readCommon s b loc
  else match b with
    | .glb => readGlb s loc
    | .fld => readFld s loc
    | .rgn => readRgn s loc
    | .mem => readMem s loc
    | .lnk => readLnk s loc
    | .hst => readHst s loc
    | .pwr => readPwr s loc
    | .clk => readClk s loc
    | .sec => readSec s loc

/-- A register as it reads; a location that does not answer or is reserved reads zero. -/
def regRead (s : State) (b : Blk) (loc : Nat) : Word := if answers s b loc then BitVec.ofNat 32 (readBlock s b loc) else 0

/-- A word of the set-up window as the host reads it (R398, R437). -/
def bar0Word (s : State) (off : Nat) : Word :=
  if !kListens s then BitVec.allOnes 32
  else match blockAt off with
    | some b => regRead s b (off % 4096)
    | none => 0

/-- A word of the adapter window (Table 17-10). -/
def bar2Word (s : State) (off : Nat) : Word :=
  BitVec.ofNat 32 (match off with
    | 0x000 => field1 s.na.en 0 + pageLow s.na.base
    | 0x004 => fieldN (s.na.base / 2 ^ 32) 15 0
    | 0x008 => field1 s.na.up 0 + fieldN s.na.width 3 1 + fieldN s.na.retrains 16 16
    | _ => 0)

/-! ### Latching reads (Table 19-3) -/

def pairRegister : LatchedPair → Blk × Nat
  | .syncValue => (.glb, 0x1C4)
  | .clkGtc => (.clk, 0x050)
  | .lnkPeer => (.lnk, 0x048)
  | .lnkCoord => (.lnk, 0x060)
  | .pwrVmin => (.pwr, 0x054)

/-- The peer address the selected link shows. -/
def peerShown (s : State) : Nat :=
  if linkFitted s.fuses.orderCode s.lnk.sel.toNat && decide (s.lnk.sel.toNat < 96) then (linkAt s s.lnk.sel.toNat).peer.toNat else 0

/-- The shadow of a pair takes the high bits as they stand. -/
def latchPair (s : State) : LatchedPair → State
  | .syncValue => modGlb s (fun g => { g with syncHiShadow := BitVec.ofNat 32 (highWord (syncShown s).toNat) })
  | .clkGtc => modClk s (fun c => { c with gtcHiShadow := BitVec.ofNat 32 (highWord c.gtc.toNat) })
  | .lnkPeer => modLnk s (fun l => { l with peerHiShadow := BitVec.ofNat 32 (highWord (peerShown s)) })
  | .lnkCoord =>
    modLnk s (fun l => { l with coordHiShadow := BitVec.ofNat 32 (highWord l.coord.toNat + field1 l.coordValid 16) })
  | .pwrVmin =>
    modPwr s (fun p => { p with vminTimeShadow := if p.selRegion.toNat < 96 then (regionAt s p.selRegion.toNat).vminTime else 0 })

/-- The pair whose low word a word of BAR0 is. -/
def pairAt (off : Nat) : Option LatchedPair :=
  [LatchedPair.syncValue, .clkGtc, .lnkPeer, .lnkCoord, .pwrVmin].find?
    (fun p => blockBase (pairRegister p).1 + (pairRegister p).2 = off)

/-- A word of BAR0 is read as K receives the read: a low word latches its pair (R446). -/
def wordRead (s : State) (off : Nat) : State × Nat :=
  let t := match pairAt off with
    | some p => if kListens s && answers s (pairRegister p).1 (pairRegister p).2 then latchPair s p else s
    | none => s
  (t, (bar0Word s off).toNat)

/-- An access of fewer than four bytes is aligned: one of two at an even address, one of three within a word (log entry 170). -/
def alignedPart (off bytes : Nat) : Bool :=
  decide (0 < bytes) && decide (off % 4 + bytes ≤ 4) && (decide (bytes ≠ 2) || decide (off % 2 = 0))

/-- What the adapter makes of a host read of BAR0 (R439): a part of a word is cut from the whole word, read with its effect; an
aligned 8-byte read is two words, the lower address first; an unaligned read reaches no register and returns all ones. -/
def bar0Read (s : State) (off bytes : Nat) : State × Nat :=
  if bytes = 8 && decide (off % 8 = 0) then
    let lo := wordRead s off
    let hi := wordRead lo.1 (off + 4)
    (hi.1, lo.2 + hi.2 * 2 ^ 32)
  else if bytes ≤ 4 && alignedPart off bytes then
    let w := wordRead s (off / 4 * 4)
    (w.1, w.2 / 2 ^ (8 * (off % 4)) % 2 ^ (8 * bytes))
  else (s, 2 ^ (8 * bytes) - 1)

/-- A host read of BAR0, with what it returns. -/
def hostRead (s : State) (off bytes : Nat) : State :=
  let r := bar0Read s off bytes
  modSide r.1 (fun d => { d with readData := BitVec.ofNat 64 r.2 })

/-! ### Writes of the GLB and SEC blocks -/

/-- GLB_SYNC_CMD: ignored for an object that is unavailable (R194), and while K reaches no field (R17, log entry 137). -/
def hostSync (s : State) (set : Bool) : State :=
  if !kCutOff s && syncAvailable s s.glb.syncSel.toNat then syncCommand s s.glb.syncSel.toNat set s.glb.syncOpnd else s

def writeGlb (s : State) (loc : Nat) (v : Word) (a : Access) : State :=
  match loc with
  | 0x040 => bootCommand s (wBits v 3 0) (wBit v 4)
  | 0x044 => if wBits v 31 24 = 255 then modBoot s (fun b => { b with errCode := 0 }) else s
  | 0x048 => guardKey s .glb loc v a warmReset
  | 0x050 => modGlb s (fun g => { g with weaveAddr := setLow g.weaveAddr v })
  | 0x054 => modGlb s (fun g => { g with weaveAddr := setHigh g.weaveAddr v })
  | 0x180 => if anyRingEn s then s else modGlb s (fun g => { g with advEn := wBit v 0, advBase := setLow g.advBase v })
  | 0x184 => if anyRingEn s then s else modGlb s (fun g => { g with advBase := setHigh g.advBase v })
  | 0x1C0 => modGlb s (fun g => { g with syncSel := BitVec.ofNat 16 (wBits v 15 0) })
  | 0x1CC => modGlb s (fun g => { g with syncOpnd := setLow64 g.syncOpnd v })
  | 0x1D0 => modGlb s (fun g => { g with syncOpnd := setHigh64 g.syncOpnd v })
  | 0x1D4 => if wBits v 1 0 = 1 then hostSync s true else if wBits v 1 0 = 2 then hostSync s false else s
  | 0x200 =>
    let t := modGlb s (fun g => { g with dupRate := BitVec.ofNat 4 (wBits v 3 0) })
    guardKey t .glb loc v a (fun u => modGlb u (fun g => { g with dupRepeat := wBit v 4 }))
  | 0x210 => guardKey s .glb loc v a (fun t => modFarrier t (fun x => { x with en := wBit v 0 }))
  | 0x220 => modGlb s (fun g => { g with studKind := BitVec.ofNat 8 (wBits v 7 0), studIndex := BitVec.ofNat 16 (wBits v 23 8) })
  | _ => s

def writeSec (s : State) (loc : Nat) (v : Word) (a : Access) : State :=
  match loc with
  | 0x040 => modSec s (fun x => { x with imgAddr := setLow x.imgAddr v })
  | 0x044 => modSec s (fun x => { x with imgAddr := setHigh x.imgAddr v })
  | 0x048 => modSec s (fun x => { x with imgLen := v })
  | 0x04C => guardKey s .sec loc v a (fun t => if wBits v 1 0 = 1 then updateStart t else t)
  | 0x050 => guardKey s .sec loc v a (fun t => if wBits v 1 0 = 1 then faTry t else if wBits v 1 0 = 2 then faShut t else t)
  | 0x054 => if wBits v 15 8 = 255 then setResult s 0 else s
  | _ => s

/-- One write takes effect at its register (R443), where the register answers. -/
def writeBlock (b : Blk) (s : State) (loc : Nat) (v : Word) (a : Access) : State :=
  if !answers s b loc then s
  else match b with
    | .glb => writeGlb s loc v a
    | .fld => writeFld s loc v
    | .rgn => writeRgn s loc v a
    | .mem => writeMem s loc v a
    | .lnk => writeLnk s loc v a
    | .hst => writeHst s loc v
    | .pwr => writePwr s loc v a
    | .clk => writeClk s loc v a
    | .sec => writeSec s loc v a

/-! ### The path of a write -/

/-- KEYLOCK (R448). -/
def keyWrite (s : State) (b : Blk) (v : Word) : State :=
  if wBits v 15 0 = 0x4C6B then modCtl s b (fun c => { c with keyOpen := true })
  else modCtl s b (fun c => { c with keyOpen := false, keyErr := true })

/-- CINCH_OPEN (R450, R452). -/
def openCinch (s : State) (b : Blk) : State :=
  if (ctlAt s b).cinch = .closed then
    modCtl s b (fun c => { c with cinch := .opened, staged := [], overflow := false })
  else cinchErr s b

/-- CINCH_COMMIT (R451, R452). -/
def commitCinch (s : State) (b : Blk) : State :=
  if (ctlAt s b).cinch ≠ .opened then cinchErr s b
  else if (ctlAt s b).overflow then closeCinch s b .refused
  else if stagesPair b (ctlAt s b).staged && !safePoint s b then modCtl s b (fun c => { c with cinch := .waiting })
  else applyCommit s b (writeBlock b)

/-- CINCH_ABANDON (R450, R452). -/
def abandonCinch (s : State) (b : Blk) : State :=
  if (ctlAt s b).cinch = .closed then cinchErr s b else closeCinch s b .abandoned

def cinchWrite (s : State) (b : Blk) (v : Word) : State :=
  match wBits v 1 0 with
  | 1 => openCinch s b
  | 2 => commitCinch s b
  | 3 => abandonCinch s b
  | _ => s

/-- ACCESS: W1C. -/
def accessWrite (s : State) (b : Blk) (v : Word) : State :=
  modCtl s b (fun c =>
    { c with
      keyErr := c.keyErr && !wBit v 0
      pairErr := c.pairErr && !wBit v 1
      cinchErr := c.cinchErr && !wBit v 2 })

/-- A write is staged (R450, R454): a 17th sets OVERFLOW; RWK fields reached without the key are dropped with KEY_ERR. -/
def stageWrite (s : State) (b : Blk) (loc : Nat) (v : Word) (keyed : Bool) : State :=
  if 16 ≤ (ctlAt s b).staged.length then modCtl s b (fun c => { c with overflow := true })
  else
    let lacks := reachesKey s b loc v && !keyed
    modCtl s b (fun c =>
      { c with
        staged := c.staged ++ [{ offset := loc, value := v, keyed := keyed, dropped := lacks }]
        keyErr := c.keyErr || lacks })

/-- A write to a location of a block that is not KEYLOCK: it closes the key (R448). -/
def keyedWrite (s : State) (b : Blk) (loc : Nat) (v : Word) : State :=
  let keyed := (ctlAt s b).keyOpen
  let t := modCtl s b (fun c => { c with keyOpen := false })
  if loc = 0x008 then cinchWrite t b v
  else if loc = 0x00C then accessWrite t b v
  else if loc < 0x040 then t
  else match (ctlAt t b).cinch with
    | .closed => writeBlock b t loc v { keyed := keyed, commit := false, dropped := false }
    | .opened => stageWrite t b loc v keyed
    | .waiting => cinchErr t b

/-- One aligned 32-bit write as K receives it. -/
def wordWrite (s : State) (off : Nat) (v : Word) : State :=
  match blockAt off with
  | none => s
  | some b =>
    if !answers s b (off % 4096) then s
    else if off % 4096 = 0x004 then keyWrite s b v
    else keyedWrite s b (off % 4096) v

/-- What the adapter makes of a host write (R439): aligned words pass, an aligned 8-byte write is split, every other write is
discarded. -/
def splitWrite (s : State) (off bytes : Nat) (v : Word64) (f : State → Nat → Word → State) : State :=
  if bytes = 4 && decide (off % 4 = 0) then f s off (BitVec.ofNat 32 v.toNat)
  else if bytes = 8 && decide (off % 8 = 0) then
    f (f s off (BitVec.ofNat 32 v.toNat)) (off + 4) (BitVec.ofNat 32 (v.toNat / 2 ^ 32))
  else s

/-- A host write to BAR0: discarded while K does not listen (R398). -/
def bar0Write (s : State) (off bytes : Nat) (v : Word64) : State :=
  splitWrite s off bytes v (fun t o w => if kListens t then wordWrite t o w else t)

/-- A host write to BAR2, whose short and 8-byte writes are taken as those of BAR0 (log entry 170). -/
def bar2Write (s : State) (off bytes : Nat) (v : Word64) : State := splitWrite s off bytes v writeNa

/-- A 32-bit write to a register of a block. -/
def regWrite (s : State) (b : Blk) (loc : Nat) (v : Word) : State :=
  if kListens s then wordWrite s (blockBase b + loc) v else s

end Sys2Proof.Machine
end

