-- ==== Sys2Proof/Machine/RegRows.lean ====
section
/-!
DEFINITION. Meanings of the commands that are accesses of the set-up window or of the adapter window. A named access is the
write it names, under the rules of 19_registers.md: it meets the same keys, cinches and access codes as REGISTER_WRITE.
-/
namespace Sys2Proof.Machine

/-- REGISTER_WRITE (R439, R443): any host write. -/
def execRegisterWrite (window : Window) (offset bytes : Nat) (value : Word64) (s : State) : Res :=
  .next (match window with
    | .bar0 => bar0Write s offset bytes value
    | .bar2 => bar2Write s offset bytes value)

/-- KEYLOCK_WRITE (R448). -/
def execKeylockWrite (block : Blk) (value : Word) (s : State) : Res := .next (regWrite s block 0x004 value)

/-- CINCH_OPEN (R450). -/
def execCinchOpen (block : Blk) (s : State) : Res := .next (regWrite s block 0x008 1)

/-- CINCH_COMMIT (R451). -/
def execCinchCommit (block : Blk) (s : State) : Res := .next (regWrite s block 0x008 2)

/-- CINCH_COMMIT_APPLY (R451, R454): the safe point of a pending commit is reached. -/
def execCinchCommitApply (block : Blk) (s : State) : Res := .next (applyPending s block)

/-- CINCH_ABANDON (R450). -/
def execCinchAbandon (block : Blk) (s : State) : Res := .next (regWrite s block 0x008 3)

/-- SYNC_SET (07 R193). -/
def execSyncSet (s : State) : Res := .next (regWrite s .glb 0x1D4 1)

/-- SYNC_ADD (07 R193). -/
def execSyncAdd (s : State) : Res := .next (regWrite s .glb 0x1D4 2)

/-- LOW_WORD_READ_LATCH (R439, R446): the host reads so many bytes from a byte of the pair's low word on. -/
def execLowWordReadLatch (pair : LatchedPair) (s : State) (start : Nat := 0) (bytes : Nat := 4) : Res :=
  .next (hostRead s (blockBase (pairRegister pair).1 + (pairRegister pair).2 + start) bytes)

/-- VMIN_CLEAR (12 R307). -/
def execVminClear (s : State) : Res := .next (regWrite s .pwr 0x054 0x80000000)

/-- MEM_RETRAIN_START (09 R243, R248). -/
def execMemRetrainStart (s : State) : Res := .next (regWrite s .mem 0x054 1)

/-- SLEEP_REQUEST (11 R273). -/
def execSleepRequest (s : State) : Res := .next (regWrite s .clk 0x068 1)

/-- WAKE (11 R274). -/
def execWake (s : State) : Res := .next (regWrite s .clk 0x068 2)

/-- WARM_RESET (14 R345). -/
def execWarmReset (s : State) : Res := .next (regWrite s .glb 0x048 1)

/-- RING_ENABLE (17 R404): a write of HST_RING_CTRL, with host memory as it stands. -/
def execRingEnable (value : Word) (host : List Host.Cell) (s : State) : Res :=
  .next (regWrite (hostMerge s host) .hst 0x054 value)

/-- RING_DISABLE (17 R408). -/
def execRingDisable (value : Word) (s : State) : Res := .next (regWrite s .hst 0x054 value)

/-- RING_RESTART (17 R407). -/
def execRingRestart (value : Word) (host : List Host.Cell) (s : State) : Res :=
  .next (regWrite (hostMerge s host) .hst 0x054 value)

/-- JOB_END (17 R410). -/
def execJobEnd (s : State) : Res := .next (regWrite s .hst 0x060 1)

/-- The write of SEC_FW_CMD starts pass 1: it is keyed, is not staged, and no refusal keeps it from reading host memory. -/
def passOneRuns (s : State) : Bool :=
  kListens s && answers s .sec 0x04C && (ctlAt s .sec).keyOpen && decide ((ctlAt s .sec).cinch = .closed) &&
    decide (s.sec.update = .idle) && !updateBusy s && imageInHost s

/-- FIRMWARE_UPDATE (18 R424): a host read of pass 1 that fails ends the update with HOST_ACCESS, and flash is untouched. -/
def execFirmwareUpdate (host : List Host.Cell) (s : State) (readFails : Bool := false) : Res :=
  let t := hostMerge s host
  let u := regWrite t .sec 0x04C 1
  .next (if readFails && passOneRuns t then { u with sec := { t.sec with result := rsHostAccess }, free := t.free } else u)

/-- FA_UNLOCK (18 R432). -/
def execFaUnlock (host : List Host.Cell) (s : State) : Res := .next (regWrite (hostMerge s host) .sec 0x050 1)

/-- FA_CLOSE (18 R432). -/
def execFaClose (s : State) : Res := .next (regWrite s .sec 0x050 2)

end Sys2Proof.Machine
end

