-- ==== Sys2Proof/Machine/SecRows.lean ====
section
/-!
DEFINITION. Meanings of the SPDM and firmware-update commands that are no register access (18_security.md R424 to R431).
-/
namespace Sys2Proof.Machine

/-- The endpoint answers (R416). -/
def onEndpoint (s : State) (f : State → State) : Res := .next (if s.side.ready then f s else s)

/-- GET_VERSION starts a new transcript. -/
def execGetVersion (s : State) : Res :=
  onEndpoint s (fun t => spdmAnswer (modSide t (fun d => { d with transcript := [] })) [0x10, 0x84, 0, 0] versionResponse)

def execGetCapabilities (s : State) : Res :=
  onEndpoint s (fun t => spdmAnswer t (spdmMessage 0xE1 0 0 []) capabilitiesResponse)

/-- A requester that offers neither extended algorithm receives InvalidRequest. -/
def execNegotiateAlgorithms (extAsym extHash : Bool) (s : State) : Res :=
  onEndpoint s (fun t =>
    if extAsym || extHash then spdmAnswer t (spdmMessage 0xE3 0 0 []) algorithmsResponse
    else spdmRefuse t spdmInvalidRequest 0)

def execGetDigests (s : State) : Res :=
  onEndpoint s (fun t => spdmAnswer t (spdmMessage 0x81 0 0 []) digestsResponse)

/-- Slot 0 is the only one. -/
def execGetCertificate (slot offset length : Nat) (s : State) : Res :=
  onEndpoint s (fun t =>
    if slot = 0 && decide (offset < Config.certChain.length) then
      spdmAnswer t (spdmMessage 0x82 0 0 (natBytes 2 offset ++ natBytes 2 length)) (certificateResponse offset length)
    else spdmRefuse t spdmInvalidRequest 0)

/-- CHALLENGE (R431): signed with the identity key, or Busy. -/
def execChallenge (slot : Nat) (nonce : List Byte) (s : State) : Res :=
  onEndpoint s (fun t =>
    if slot ≠ 0 then spdmRefuse t spdmInvalidRequest 0
    else if signingBusy t then spdmRefuse t spdmBusy 0
    else signLater t true (spdmMessage 0x83 0 0 nonce) (challengeBody t))

/-- GET_MEASUREMENTS (R430, R431): the values of this moment, signed when requested. -/
def execGetMeasurements (index : Nat) (signed : Bool) (nonce : List Byte) (s : State) : Res :=
  onEndpoint s (fun t =>
    if !measIndexOk index then spdmRefuse t spdmInvalidRequest 0
    else if !signed then
      spdmAnswer (bumpFree t) (spdmMessage 0xE0 0 index []) (measurementsBody t index)
    else if signingBusy t then spdmRefuse t spdmBusy 0
    else signLater t false (spdmMessage 0xE0 1 index nonce) (measurementsBody t index))

def execSpdmUnsupportedRequest (code : Byte) (s : State) : Res :=
  onEndpoint s (fun t => spdmRefuse t spdmUnsupported code.toNat)

/-- SIGNATURE_COMPLETE (R431): the signed response is sent. -/
def execSignatureComplete (s : State) : Res :=
  .next (match s.side.signing with
    | none => s
    | some j => modSide s (fun d => { d with signing := none, response := signedResponse s j, transcript := [] }))

/-- FIRMWARE_UPDATE_END (R424, R425): pass 2 ends. -/
def execFirmwareUpdateEnd (host : List Host.Cell) (flashOk : Bool) (s : State) (readBack : List (Nat × Byte) := []) : Res :=
  .next (if s.sec.update = .running then updateFinish (hostMerge s host) flashOk readBack else s)

/-- FIRMWARE_UPDATE_RESUME (R425): after the halter record. -/
def execFirmwareUpdateResume (s : State) : Res :=
  .next (if s.sec.update = .paused && s.hst.halterRun.isNone then modSec s (fun x => { x with update := .running }) else s)

end Sys2Proof.Machine
end

