-- ==== Sys2Proof/Machine/Sideband.lean ====
section
/-!
DEFINITION. Meanings of the management sideband's commands: the I3C address, the MCTP endpoint and the vendor messages of
Table 17-4 (16_fabric_links.md R375, R376, 17_host_rings.md R416, R417).
-/
namespace Sys2Proof.Machine

/-! ### Completion codes (Table 17-5) -/

def ccSuccess : Byte := 0x00
def ccUnknownCommand : Byte := 0x01
def ccInvalidField : Byte := 0x02
def ccBusy : Byte := 0x03
def ccNotYet : Byte := 0x04

/-- The one response of a request: its completion code, then its body. -/
def respond (s : State) (code : Byte) (body : List Byte) : State := modSide s (fun d => { d with response := code :: body })

/-! ### The endpoint -/

/-- SIDEBAND_ENDPOINT_READY (R416): 500 ms after the rail enters its window. -/
def execSidebandEndpointReady (s : State) : Res :=
  .next (if s.pwr.railIn then modSide s (fun d => { d with ready := true }) else s)

/-- ENTDAA (R416): the I3C target takes a dynamic address. -/
def execEntdaa (address : BitVec 7) (s : State) : Res :=
  .next (if s.pwr.railIn then modSide s (fun d => { d with i3cAddr := some address }) else s)

/-- The body of the answer to an MCTP control message, beyond what R416 gives: a free value (log entry 14). -/
def mctpAnswer (s : State) : MctpControl → State
  | .setEndpointId eid => respond (bumpFree (modSide s (fun d => { d with eid := eid }))) ccSuccess (Config.mctpReply s.free)
  | .getEndpointId => respond (bumpFree s) ccSuccess (s.side.eid :: Config.mctpReply s.free)
  | .getMctpVersion => respond (bumpFree s) ccSuccess (Config.mctpReply s.free)
  | .getMessageTypes => respond s ccSuccess [0x03, 0x00, 0x05, 0x7F]
  | .other _ => respond s ccUnknownCommand []

/-- MCTP_CONTROL (R416). -/
def execMctpControl (message : MctpControl) (s : State) : Res := onEndpoint s (fun t => mctpAnswer t message)

/-! ### Vendor messages (Table 17-4) -/

/-- A register's value as it reads, for a location that answers. -/
def shownWord (s : State) (b : Blk) (loc n : Nat) : List Byte := natBytes 4 (if answers s b loc then n else 0)

/-- Links in a state of the census, among the fitted ones (all absent until training has begun). -/
def censusCount (s : State) (st : LinkSt) : Nat :=
  ((List.range 96).filter (fun l => linkFitted s.fuses.orderCode l && linkState s l = st)).length

/-- Live x2, live x1, absent and not fitted, two bytes each (log entry 26). -/
def censusBytes2 (s : State) : List Byte :=
  natBytes 2 (censusCount s .live2) ++ natBytes 2 (censusCount s .live1) ++ natBytes 2 (censusCount s .absent) ++
    natBytes 2 ((List.range 96).filter (fun l => !linkFitted s.fuses.orderCode l)).length

/-- The pages of GET_TELEMETRY. -/
def telemetryPage (s : State) : Nat → Option (List Byte)
  | 0 => some (shownWord s .pwr 0x044 (readPwr s 0x044) ++ shownWord s .pwr 0x07C (readPwr s 0x07C) ++
      shownWord s .pwr 0x048 (readPwr s 0x048))
  | 1 => some ((List.range 16).flatMap (fun f => shownWord s .clk 0x044 (fieldStatus s f)))
  | 2 => some (shownWord s .glb 0x060 (readGlb s 0x060) ++ shownWord s .mem 0x044 (readMem s 0x044) ++ censusBytes2 s)
  | 3 => some (shownWord s .glb 0x204 (readGlb s 0x204) ++ shownWord s .glb 0x214 (readGlb s 0x214))
  | _ => none

/-- GET_TELEMETRY: another page is an invalid field. -/
def execGetTelemetry (page : Nat) (s : State) : Res :=
  onEndpoint s (fun t =>
    match telemetryPage t page with
    | some body => respond (bumpFree t) ccSuccess body
    | none => respond t ccInvalidField [])

/-- Every live link sends LINK_CTRL (R375, R417). -/
def sendLinkCtrls (s : State) : State :=
  putFlits s (((List.range 96).filter (fun l => isLiveLink (linkAt s l))).map (fun l => (l, linkCtrlFlit s l)))

/-- SET_COORD (R375, R417). -/
def execSetCoord (address : BitVec 48) (s : State) : Res :=
  onEndpoint s (fun t =>
    if anyRingEn t then respond t ccBusy []
    else respond (sendLinkCtrls (modLnk t (fun l => { l with coord := address, coordValid := true }))) ccSuccess [])

/-- Link l's plane in a plane map: 0xFF is none, and a link that is not fitted has none (R376). -/
def mapPlane (code : Nat) (planes : List Byte) (l : Nat) : Option Nat :=
  let p := (planes.getD l 0xFF).toNat
  if linkFitted code l && p < 96 then some p else none

/-- Two links with the same plane conflict (R376). -/
def planeClash (code : Nat) (planes : List Byte) (l : Nat) : Bool :=
  (mapPlane code planes l).isSome && (List.range 96).any (fun m => m ≠ l && decide (mapPlane code planes m = mapPlane code planes l))

/-- The plane map takes effect. -/
def takePlanes (s : State) (planes : List Byte) : State :=
  modLnk s (fun k => { k with links := k.links.zipIdx.map (fun x =>
    { x.1 with
      plane := mapPlane s.fuses.orderCode planes x.2
      conflict := planeClash s.fuses.orderCode planes x.2 }) })

/-- A map of 96 entries, each a plane up to 95 or none. -/
def planeMapOk (planes : List Byte) : Bool := planes.length = 96 && planes.all (fun p => decide (p.toNat < 96) || p = 0xFF)

/-- SET_PLANE_MAP (R376, R417). -/
def execSetPlaneMap (planes : List Byte) (s : State) : Res :=
  onEndpoint s (fun t =>
    if anyRingEn t then respond t ccBusy []
    else if !planeMapOk planes then respond t ccInvalidField []
    else respond (sendLinkCtrls (takePlanes t planes)) ccSuccess [])

/-- SIDEBAND_HALTER (R411, R416): a sequence in progress satisfies it; the response follows step 6. -/
def execSidebandHalter (s : State) : Res :=
  onEndpoint s (fun t => modHst t (fun h =>
    { h with
      sidebandHalter := true
      halterReq := if h.halterReq.isSome || h.halterRun.isSome then h.halterReq else some { cause := 2, seq := 0 } }))

/-- GET_WEAVE: the head of the last record, once step 8 has completed. -/
def execGetWeave (s : State) : Res :=
  onEndpoint s (fun t =>
    if t.boot.done.getLsbD 8 then respond t ccSuccess (readBytes (memGet t.glb.weaveRecord) 0 168) else respond t ccNotYet [])

/-- The plane map in force, as SET_PLANE_MAP spells it. -/
def planeBytes (s : State) : List Byte :=
  (List.range 96).map (fun l => ((linkAt s l).plane.map (fun p => BitVec.ofNat 8 p)).getD 0xFF)

/-- GET_COORD. -/
def execGetCoord (s : State) : Res :=
  onEndpoint s (fun t => respond t ccSuccess (natBytes 6 t.lnk.coord.toNat ++ planeBytes t))

/-- UNKNOWN_VENDOR_COMMAND: a code Table 17-4 does not list. -/
def execUnknownVendorCommand (code : Byte) (s : State) : Res :=
  onEndpoint s (fun t => if 1 ≤ code.toNat && code.toNat ≤ 6 then t else respond t ccUnknownCommand [])

end Sys2Proof.Machine
end

