-- ==== Sys2Proof/Machine/Stacks.lean ====
section
/-!
DEFINITION. Meanings of the scratchpad-bank and memory-stack commands: bank ready, scrubs, refresh, stack temperature,
retraining and stack failure (08_scratchpad.md R207, R219, 09_memory.md R236 to R245, 15_integrity_faults.md R352, R353).
-/
namespace Sys2Proof.Machine

/-! ### Scratchpad banks -/

/-- BANK_READY (R219): a bank that was switched on has been cleared and takes accesses. What waited for it goes on at its own
command, the collective engine at COLLECTIVE_SLOT_START. -/
def execBankReady (region bank : Nat) (s : State) : Res :=
  onUnit (decide (region < 96) && decide (bank < 32))
    (modRegion s region (fun x => { x with bankReady := x.bankReady ||| (x.bankOn &&& BitVec.ofNat 32 (2 ^ bank)) }))

/-- The error record of a scrub of the scratchpad (Table 15-9). -/
def spadScrubErr (s : State) (p : Nat) : ErrRec :=
  let bank := p / 2 ^ 26 * 32 + p % 2 ^ 26 / 2 ^ 21
  { kind := 5, unitKind := .bank, unit := bank, addr := windowOf s p, op := none,
    detail := p % 2 ^ 26 / 2 ^ 21 + 32 * (p % 2 ^ 21 / 128), count := 0 }

/-- A scrub finds an uncorrectable word: a record, a fault of the bank, and the word stays as it is (R353). -/
def spadScrubBad (s : State) (p : Nat) : State :=
  let w := p + 8 * (Config.badWordOfLine s.free % 16)
  let t := bumpFree { s with badSpad := if s.badSpad.contains w then s.badSpad else w :: s.badSpad }
  bankFault (postError t (spadScrubErr t p)) (p / 2 ^ 26) (p % 2 ^ 26 / 2 ^ 21)

/-- SPAD_SCRUB (R207, R353): one line of a powered bank. -/
def execSpadScrub (region line : Nat) (found : ScrubFinding) (s : State) : Res :=
  onUnit (decide (region < 96) && decide (line < 524288))
    (let p := region * 2 ^ 26 + line * 128
     let x := regionAt s region
     if x.powered && (x.bankOn &&& x.bankReady).getLsbD (line / 16384) then
       match found with
       | .clean => s
       | .correctable => bankCorrected s region (line / 16384)
       | .uncorrectable => spadScrubBad s p
     else s)

/-! ### The patrol scrub of DRAM (R237) -/

/-- A stack that takes accesses. -/
def stackServes (x : Stack) : Bool := x.live && !x.failed && !x.retraining && !x.hotSelfRefresh && !x.selfRefresh

def dramScrubBad (s : State) (a : Nat) : State :=
  let t := stackUncorr (markBad s a) (dramPlace s a).1
  postError t { readErr t a none false with kind := 3 }

/-- DRAM_PATROL_SCRUB (R236, R237): one codeword of a live stack. -/
def execDramPatrolScrub (addr : Nat) (found : ScrubFinding) (s : State) : Res :=
  .next (if isDram s addr && stackServes (stackAt s (dramPlace s addr).1) then
      match found with
      | .clean => s
      | .correctable => stackCorr s (dramPlace s addr).1 (dramPlace s addr).2
      | .uncorrectable => dramScrubBad s addr
    else s)

/-! ### Refresh (R239) -/

/-- Outstanding commands of a pseudo-channel. -/
def owedOf (x : Stack) (pc : Nat) : Nat := ((x.owed.find? (fun p => p.1 = pc)).map (·.2)).getD 0

/-- Channels in rising order, a channel that owes nothing unlisted. -/
def owedPut : List (Nat × Nat) → Nat → Nat → List (Nat × Nat)
  | [], pc, n => if n = 0 then [] else [(pc, n)]
  | p :: l, pc, n =>
    if p.1 < pc then p :: owedPut l pc n
    else if p.1 = pc then (if n = 0 then l else (pc, n) :: l)
    else if n = 0 then p :: l
    else (pc, n) :: p :: l

/-- A due command that is postponed is owed, and the eighth preempts until fewer than eight remain; one that issues takes an
outstanding one with it (log entry 24). -/
def owedAfter (n : Nat) (postponed : Bool) : Nat := if postponed then min 7 (n + 1) else n - 1

/-- REFRESH_DUE (R238, R239). -/
def execRefreshDue (stack pc : Nat) (postponed : Bool) (s : State) : Res :=
  onUnit (decide (stack < 16) && decide (pc < 64))
    (if stackServes (stackAt s stack) then
       modStack s stack (fun x => { x with owed := owedPut x.owed pc (owedAfter (owedOf x pc) postponed) })
     else s)

/-! ### Temperature (R238, R240, R243) -/

/-- The field under a stack moves down one gait (R240). -/
def stackDrop (s : State) (m : Nat) : State :=
  dropGait (modField s m (fun x => { x with stackLimit := gaitBelow x.gait })) m

/-- At 90 degrees or less the stack lets its field up by one gait (R240). -/
def stackRaise (s : State) (m : Nat) : State :=
  startRise (modField s m (fun x => { x with stackLimit := gaitAbove x.stackLimit })) m

/-- More than 15 K from the temperature at the last training, 60 s after it (R243). -/
def driftDue (s : State) (x : Stack) : Bool :=
  (decide (x.trainTemp + 15 < x.temp) || decide (x.temp + 15 < x.trainTemp)) &&
    decide (x.trainedAt.toNat + 60000000000 ≤ (gtcNs s).toNat)

/-- What a stack's reading brings: the first gait step on reaching 93 degrees, and a retraining for drift of a live one. -/
def stackReading (s : State) (m before : Nat) : State :=
  let x := stackAt s m
  let t := if 93 ≤ x.temp && decide (before < 93) then stackDrop s m else s
  if driftDue t x then queueRetrain t m else t

/-- STACK_TEMP_SAMPLE (R238, R240, R243): the hottest-die reading of a fitted stack. -/
def execStackTempSample (stack temp : Nat) (s : State) : Res :=
  onUnit (decide (stack < 16))
    (if stackFitted s.fuses.orderCode stack && (fieldAt s stack).spineOn then
       stackReading (modStack s stack (stackBands temp)) stack (stackAt s stack).temp
     else s)

/-- STACK_HOT_STEP (R240): one more millisecond at 93 degrees or more, or at 90 or less; a stack that has failed still reads its
temperature and holds its field by it. -/
def execStackHotStep (stack : Nat) (s : State) : Res :=
  onUnit (decide (stack < 16))
    (if stackFitted s.fuses.orderCode stack && (fieldAt s stack).spineOn then
       if 93 ≤ (stackAt s stack).temp then stackDrop s stack
       else if (stackAt s stack).temp ≤ 90 then stackRaise s stack
       else s
     else s)

/-- STACK_HOT_SELF_REFRESH (R240): 95 degrees or more for 1 s with the field at walk. -/
def execStackHotSelfRefresh (stack : Nat) (s : State) : Res :=
  onUnit (decide (stack < 16))
    (if stackServes (stackAt s stack) && decide (95 ≤ (stackAt s stack).temp) && decide ((fieldAt s stack).gait = .walk) then
       modStack s stack (fun x => { x with hotSelfRefresh := true })
     else s)

/-- STACK_HOT_TIMEOUT (R240, R245): 10 s in self-refresh for heat without reaching 90 degrees. -/
def execStackHotTimeout (stack : Nat) (s : State) : Res :=
  onUnit (decide (stack < 16))
    (if (stackAt s stack).hotSelfRefresh && decide (90 < (stackAt s stack).temp) then stackFail s stack else s)

/-! ### Retraining (R244, R245) -/

/-- The stack that retrains. -/
def retrainingStack (s : State) : Option Nat := (List.range 16).find? (fun m => (stackAt s m).retraining)

/-- RETRAIN_BEGIN (R243, R244): the next queued stack, when none retrains, nothing sleeps and K reaches it (R17). -/
def execRetrainBegin (s : State) : Res :=
  .next (match s.glb.retrainQueue, retrainingStack s with
    | m :: rest, none =>
      if stackServes (stackAt s m) && !kCutOff s then
        let t := modGlb (modStack s m (fun x => { x with retraining := true })) (fun g => { g with retrainQueue := rest })
        postEvent t 0x0010 .stack m (stackAt t m).temp
      else s
    | _, _ => s)

/-- A retraining that centres every eye, from the repairs there were: it succeeds, or finds more than four failed lanes in a
pseudo-channel (R244, R245). -/
def retrainCentred (s : State) (m temp : Nat) (lanes : List (Nat × Nat)) : State :=
  let all := (stackAt s m).spareLanes ++ lanes
  if lanesFit all then
    postEvent (noteLanes (trainedStack s m temp all) m lanes) 0x0011 .stack m temp
  else stackFail s m

/-- The eyes cannot be centred: the earlier settings stand, with an event and a fault of the stack. The stack's last training stays
the one that found these settings: DESIGN CHOICE, log entry 167. -/
def retrainRestored (s : State) (m : Nat) : State :=
  let t := modStack s m (fun x => { x with retraining := false, retrainFailed := true })
  recordFault (postEvent t 0x0012 .stack m (stackAt t m).temp) .stack m 0x0D

/-- RETRAIN_END (R244, R245). -/
def execRetrainEnd (result : RetrainResult) (s : State) : Res :=
  .next (match retrainingStack s with
    | none => s
    | some m =>
      match result with
      | .centred temp lanes => retrainCentred s m temp lanes
      | .eyesNotCentred => retrainRestored s m)

/-- STACK_FAILED (R245): the controller reports a fault it cannot recover. -/
def execStackFailed (stack : Nat) (s : State) : Res := onUnit (decide (stack < 16)) (stackFail s stack)

end Sys2Proof.Machine
end

