-- ==== Sys2Proof/Machine/Thermal.lean ====
section
/-!
DEFINITION. Meanings of the temperature commands and of the switch-offs at an operation boundary (12_power_delivery.md R298,
13_gaits_thermal.md R324 to R330, 15_integrity_faults.md R368).
-/
namespace Sys2Proof.Machine

/-- The region is switched off for heat, its slot is handled and the weave is republished (R325). -/
def heatSwitchOff (s : State) (r : Nat) : State :=
  publishEvent (modRegion (leaveWeave s r) r (fun x =>
    { x with
      heatOff := true
      heatPending := false
      hotSince := none
      darkUntil := gtcNs s + 5000000000 }))

/-- A region without placed work may be switched off for heat (R325); one that holds a slot only at an operation boundary
(R224). -/
def heatMayGo (s : State) (r : Nat) : Bool := !placedWork s r && (atBoundary s || (slotOfRegion s r).isNone)

/-- A region is marked for switch-off for heat, its field held at walk until then, and switched off at once where it may be (R325). -/
def markHeat (s : State) (r : Nat) : State :=
  let t := modField (modRegion s r (fun x => { x with heatPending := true })) (fieldOf r) (fun x => { x with tempLimit := .walk })
  if heatMayGo t r then heatSwitchOff t r else t

/-- 105 degrees or a failed sensor: off at once, a region failure, dark for 5 s (R324, R364). -/
def hardLimit (s : State) (r : Nat) : State :=
  modRegion (failRegion (farrierAbandonAt s r) r) r (fun x =>
    { x with
      hardHot := true
      hotSince := none
      darkUntil := gtcNs s + 5000000000 })

/-- A millisecond has passed since the field's last drop for temperature. -/
def tempStepDue (s : State) (x : Field) : Bool :=
  match x.tempStepAt with
  | none => true
  | some t => decide (t.toNat + 1000000 ≤ (gtcNs s).toNat)

/-- 100 degrees or more: the thermal limit is in force and the field drops one gait, again each millisecond (R318, R324). -/
def tempDrop (s : State) (f : Nat) : State :=
  dropGait (modField s f (fun x =>
    if tempStepDue s x then
      { x with
        thermLimit := true
        tempLimit := gaitBelow x.gait
        tempStepAt := some (gtcNs s) }
    else { x with thermLimit := true })) f

/-- Every live region of a field reads at most a bound. -/
def liveAtMost (s : State) (f t : Nat) : Bool :=
  (regionsOf f).all (fun r => !(regionAt s r).live || decide ((regionAt s r).temp ≤ t))

/-- A region of the field is marked for switch-off for heat and still runs its tiles (R325). -/
def heatWaits (s : State) (f : Nat) : Bool := (regionsOf f).any (fun r => (regionAt s r).live && (regionAt s r).heatPending)

/-- At 95 degrees or less in every live region no temperature term holds the field, but for a region that runs its last tiles at
walk (R325); below 100 the steps stop (R324). -/
def tempRelease (s : State) (f : Nat) : State :=
  if liveAtMost s f 95 then
    modField s f (fun x =>
      { x with thermLimit := false, tempLimit := if heatWaits s f then x.tempLimit else .gallop, tempStepAt := none })
  else if liveAtMost s f 99 then modField s f (fun x => { x with tempStepAt := none })
  else s

/-- 102 degrees or more for 10 ms with the field at walk marks the region (R324). -/
def heatWatch (s : State) (r : Nat) : State :=
  let x := regionAt s r
  if 102 ≤ x.temp && decide ((fieldAt s (fieldOf r)).gait = .walk) then
    match x.hotSince with
    | none => modRegion s r (fun y => { y with hotSince := some (gtcNs s) })
    | some t => if t.toNat + 10000000 ≤ (gtcNs s).toNat && !x.heatPending then markHeat s r else s
  else modRegion s r (fun y => { y with hotSince := none })

/-- REGION_TEMP_SAMPLE (R324, R367): one reading of one region. -/
def execRegionTempSample (region temp : Nat) (sensorOk : Bool) (s : State) : Res :=
  onUnit (decide (region < 96))
    (let t := noteStress (modRegion s region (fun x => { x with temp := if sensorOk then temp else x.temp }))
     if (regionAt t region).live then
       if !sensorOk || 105 ≤ temp then hardLimit (tempDrop t (fieldOf region)) region
       else if 100 ≤ temp then heatWatch (tempDrop (farrierAbandonAt t region) (fieldOf region)) region
       else heatWatch (tempRelease t (fieldOf region)) region
     else if !sensorOk || 100 ≤ temp then farrierAbandonAt t region
     else t)

/-- HEAT_DARK_END (R326): 5 s dark are over, and the region asks for power. -/
def execHeatDarkEnd (region : Nat) (s : State) : Res :=
  onUnit (decide (region < 96))
    (if (regionAt s region).heatOff && decide ((regionAt s region).darkUntil.toNat ≤ (gtcNs s).toNat) then
      requestPower s region
     else s)

/-- A region that a farrier session made not live leaves the weave (R224, R366). -/
def sessionSwitchOff (s : State) (r : Nat) : State :=
  publishEvent (modRegion (leaveWeave s r) r (fun x => { x with leavePending := false }))

/-- OPERATION_BOUNDARY_SWITCH_OFF (R224, R325): the last operation placed on a marked region has committed or ended. -/
def execOperationBoundarySwitchOff (region : Nat) (s : State) : Res :=
  onUnit (decide (region < 96))
    (if (regionAt s region).live then
       if (regionAt s region).leavePending then (if atBoundary s then sessionSwitchOff s region else s)
       else if (regionAt s region).heatPending && heatMayGo s region then heatSwitchOff s region
       else s
     else s)

/-- A pre-selected operation is placed over the weave as it now stands (R178). -/
def replacePre (s : State) : State :=
  modMaster (keepTiles s (fun _ => true) (fun _ => false)) (fun m => { m with pre := m.pre.map (fun o => placeOp s { o with dealt := false }) })

/-- CAP_POLICY_SWITCH_OFF (R298): with CAP_POLICY = 1 a region with two lost phases is switched off at an operation
boundary; it is not a failure, and its slot is handled under R224. -/
def execCapPolicySwitchOff (region : Nat) (s : State) : Res :=
  onUnit (decide (region < 96))
    (if s.pwr.capPolicy && (regionAt s region).live && decide (phasesLost (regionAt s region) = 2) && atBoundary s then
      updAllBanks (replacePre (publishEvent (leaveWeave (farrierAbandonAt s region) region)))
     else s)

/-- DIE_THERMAL_TRIP (R327): D29 of a compute die switches off every region and spine of the die. -/
def execDieThermalTrip (die : Nat) (s : State) : Res :=
  onUnit (decide (die < 4))
    (let fs := (List.range 4).map (fun q => 4 * die + q)
     let failed := (fs.flatMap regionsOf).filter (fun r => (regionAt s r).live)
     let t := fs.foldl fieldLost s
     failed.foldl (fun u r => modRegion u r (fun x => { x with quarantined := true })) t)

/-- COOLANT_ALARM (R330): a spread above 10 K or a rise above 15 K for 10 s posts event 0x0043. -/
def execCoolantAlarm (inlet outlet spread : Nat) (s : State) : Res :=
  let t := modPwr s (fun p => { p with inlet := inlet, outlet := outlet, spread := spread })
  .next (if 10 < spread || inlet + 15 < outlet then
      postEvent t 0x0043 .none 0 (spread % 256 + 256 * ((outlet - inlet) % 256))
    else t)

/-- TRIM_CAP_HELD_30_DAYS (R368, Table 15-7): 30 days of life time under the trim cap retire the region. -/
def execTrimCapHeld30Days (region : Nat) (s : State) : Res :=
  onUnit (decide (region < 96))
    (if (regionAt s region).trimCap && decide ((regionAt s region).trimCapSince + 30 * day ≤ lifeTime s) then
      retireUnit s .region region 0x0D
     else s)

end Sys2Proof.Machine
end

