-- ==== Sys2Proof/Machine/Dispatch.lean ====
section
/-! DEFINITION. One arm per constructor of Instr: a direct call of its meaning. -/

namespace Sys2Proof.Machine

open Sys2Proof

def exec (i : Instr) (s : State) : Host.Outcome State Fault Refusal :=
  match i with
  | .railEnterWindow blades => Sys2Proof.Machine.execRailEnterWindow s blades
  | .railLeaveWindow durationUs minMv maxMv blades => Sys2Proof.Machine.execRailLeaveWindow durationUs minMv maxMv s blades
  | .romModeEntry => Sys2Proof.Machine.execRomModeEntry s
  | .modresetNAssert lowNs => Sys2Proof.Machine.execModresetNAssert lowNs s
  | .modresetNRelease => Sys2Proof.Machine.execModresetNRelease s
  | .warmReset => Sys2Proof.Machine.execWarmReset s
  | .powerEntryChecks vin inlet outlet lidOk stageFailed blades => Sys2Proof.Machine.execPowerEntryChecks vin inlet outlet lidOk stageFailed s blades
  | .kBoot landing1 landing4 flash => Sys2Proof.Machine.execKBoot landing1 landing4 s flash
  | .fieldPowerUp found => Sys2Proof.Machine.execFieldPowerUp found s
  | .fieldPowerUpFast found => Sys2Proof.Machine.execFieldPowerUpFast found s
  | .startUpTests found efuseOpen => Sys2Proof.Machine.execStartUpTests found efuseOpen s
  | .dramTraining found => Sys2Proof.Machine.execDramTraining found s
  | .linkTraining => Sys2Proof.Machine.execLinkTraining s
  | .linkTrainingAttemptEnd link lanes peer peerPlane => Sys2Proof.Machine.execLinkTrainingAttemptEnd link lanes peer peerPlane s
  | .weaveAssembly => Sys2Proof.Machine.execWeaveAssembly s
  | .weavePublication flashOk => Sys2Proof.Machine.execWeavePublication flashOk s
  | .ringEnableStep => Sys2Proof.Machine.execRingEnableStep s
  | .bootStepComplete step => Sys2Proof.Machine.execBootStepComplete step s
  | .nolotLinkTraining lanes => Sys2Proof.Machine.execNolotLinkTraining lanes s
  | .nolotLinkDown => Sys2Proof.Machine.execNolotLinkDown s
  | .nolotRetrainRetry lanes => Sys2Proof.Machine.execNolotRetrainRetry lanes s
  | .nolotPacketRetry => Sys2Proof.Machine.execNolotPacketRetry s
  | .linkDownSelfHalter => Sys2Proof.Machine.execLinkDownSelfHalter s
  | .doorbellPoll host => Sys2Proof.Machine.execDoorbellPoll host s
  | .doorbellForward line => Sys2Proof.Machine.execDoorbellForward line s
  | .naDbBaseEnable value host => Sys2Proof.Machine.execNaDbBaseEnable value host s
  | .hostAccessFailure who cause addr => Sys2Proof.Machine.execHostAccessFailure who cause addr s
  | .hostAccessTimeout who addr => Sys2Proof.Machine.execHostAccessTimeout who addr s
  | .ringEnable value host => Sys2Proof.Machine.execRingEnable value host s
  | .ringDisable value => Sys2Proof.Machine.execRingDisable value s
  | .ringRestart value host => Sys2Proof.Machine.execRingRestart value host s
  | .jobEnd => Sys2Proof.Machine.execJobEnd s
  | .halter => Sys2Proof.Machine.execHalter s
  | .halterRecordPost => Sys2Proof.Machine.execHalterRecordPost s
  | .selectOperation reads => Sys2Proof.Machine.execSelectOperation s reads
  | .descriptorFetch ring host => Sys2Proof.Machine.execDescriptorFetch ring host s
  | .waitSatisfied ring => Sys2Proof.Machine.execWaitSatisfied ring s
  | .waitTimeoutExpiry ring => Sys2Proof.Machine.execWaitTimeoutExpiry ring s
  | .spineOffLearnt field => Sys2Proof.Machine.execSpineOffLearnt field s
  | .acceptOperation host reads => Sys2Proof.Machine.execAcceptOperation host reads s
  | .preselectNext host reads => Sys2Proof.Machine.execPreselectNext host reads s
  | .placementDealt merge => Sys2Proof.Machine.execPlacementDealt s merge
  | .tileBuffersTaken tile => Sys2Proof.Machine.execTileBuffersTaken tile s
  | .loaderReadReturn tile outcome meets host => Sys2Proof.Machine.execLoaderReadReturn tile outcome meets host s
  | .tileIssue tile reads => Sys2Proof.Machine.execTileIssue tile s reads
  | .tileLeavesArray tile upset early reads => Sys2Proof.Machine.execTileLeavesArray tile upset s early reads
  | .chunkResultArrival tile => Sys2Proof.Machine.execChunkResultArrival tile s
  | .statisticsBlockArrival tile upset => Sys2Proof.Machine.execStatisticsBlockArrival tile s upset
  | .rowMaxMulticast tile => Sys2Proof.Machine.execRowMaxMulticast tile s
  | .drainComplete tile upset merge => Sys2Proof.Machine.execDrainComplete tile upset merge s
  | .duplicateCompare tile => Sys2Proof.Machine.execDuplicateCompare tile s
  | .voteVerdict tile => Sys2Proof.Machine.execVoteVerdict tile s
  | .repeatVerdict tile => Sys2Proof.Machine.execRepeatVerdict tile s
  | .commit reads => Sys2Proof.Machine.execCommit s reads
  | .regionHeartbeat region vcore age => Sys2Proof.Machine.execRegionHeartbeat region s vcore age
  | .heartbeatCheck field => Sys2Proof.Machine.execHeartbeatCheck field s
  | .regionFlitParityError region => Sys2Proof.Machine.execRegionFlitParityError region s
  | .regionFailed region cause => Sys2Proof.Machine.execRegionFailed region cause s
  | .weaveRebuildComplete => Sys2Proof.Machine.execWeaveRebuildComplete s
  | .operationBoundarySwitchOff region => Sys2Proof.Machine.execOperationBoundarySwitchOff region s
  | .capPolicySwitchOff region => Sys2Proof.Machine.execCapPolicySwitchOff region s
  | .syncSet => Sys2Proof.Machine.execSyncSet s
  | .syncAdd => Sys2Proof.Machine.execSyncAdd s
  | .lowWordReadLatch pair start bytes => Sys2Proof.Machine.execLowWordReadLatch pair s start bytes
  | .vminClear => Sys2Proof.Machine.execVminClear s
  | .keylockWrite block value => Sys2Proof.Machine.execKeylockWrite block value s
  | .cinchOpen block => Sys2Proof.Machine.execCinchOpen block s
  | .cinchCommit block => Sys2Proof.Machine.execCinchCommit block s
  | .cinchCommitApply block => Sys2Proof.Machine.execCinchCommitApply block s
  | .cinchAbandon block => Sys2Proof.Machine.execCinchAbandon block s
  | .registerWrite window offset bytes value => Sys2Proof.Machine.execRegisterWrite window offset bytes value s
  | .bankReady region bank => Sys2Proof.Machine.execBankReady region bank s
  | .zeroingStart => Sys2Proof.Machine.execZeroingStart s
  | .zeroingEnd => Sys2Proof.Machine.execZeroingEnd s
  | .spadScrub region line found => Sys2Proof.Machine.execSpadScrub region line found s
  | .dramPatrolScrub addr found => Sys2Proof.Machine.execDramPatrolScrub addr found s
  | .refreshDue stack pc postponed => Sys2Proof.Machine.execRefreshDue stack pc postponed s
  | .stackTempSample stack temp => Sys2Proof.Machine.execStackTempSample stack temp s
  | .stackHotStep stack => Sys2Proof.Machine.execStackHotStep stack s
  | .stackHotSelfRefresh stack => Sys2Proof.Machine.execStackHotSelfRefresh stack s
  | .stackHotTimeout stack => Sys2Proof.Machine.execStackHotTimeout stack s
  | .memRetrainStart => Sys2Proof.Machine.execMemRetrainStart s
  | .retrainBegin => Sys2Proof.Machine.execRetrainBegin s
  | .retrainEnd result => Sys2Proof.Machine.execRetrainEnd result s
  | .stackFailed stack => Sys2Proof.Machine.execStackFailed stack s
  | .crossingFlitParityReplay field edge subLink thirdFailure => Sys2Proof.Machine.execCrossingFlitParityReplay field edge subLink thirdFailure s
  | .crossingAlignEnd field edge leaving entering => Sys2Proof.Machine.execCrossingAlignEnd field edge leaving entering s
  | .crossingSlip field edge leaving full => Sys2Proof.Machine.execCrossingSlip field edge s leaving full
  | .droopTrip region samePeriod vcore => Sys2Proof.Machine.execDroopTrip region s samePeriod vcore
  | .reinEcho field samePeriod => Sys2Proof.Machine.execReinEcho field s samePeriod
  | .demotionCheck field beats => Sys2Proof.Machine.execDemotionCheck field beats s
  | .gaitDown field => Sys2Proof.Machine.execGaitDown field s
  | .gaitUp field => Sys2Proof.Machine.execGaitUp field s
  | .grantedGaitRise field => Sys2Proof.Machine.execGrantedGaitRise field s
  | .idleWalk field => Sys2Proof.Machine.execIdleWalk field s
  | .pllLock field => Sys2Proof.Machine.execPllLock field s
  | .pllLossOfLock field => Sys2Proof.Machine.execPllLossOfLock field s
  | .sleepRequest => Sys2Proof.Machine.execSleepRequest s
  | .sleepEnter => Sys2Proof.Machine.execSleepEnter s
  | .wake => Sys2Proof.Machine.execWake s
  | .gtcTimeCode codes => Sys2Proof.Machine.execGtcTimeCode codes s
  | .timeExchange => Sys2Proof.Machine.execTimeExchange s
  | .followerContactLost => Sys2Proof.Machine.execFollowerContactLost s
  | .ppsEdge => Sys2Proof.Machine.execPpsEdge s
  | .ppsLost => Sys2Proof.Machine.execPpsLost s
  | .inputOvercurrent => Sys2Proof.Machine.execInputOvercurrent s
  | .stagePhaseFailure field => Sys2Proof.Machine.execStagePhaseFailure field s
  | .planeSenseLost field => Sys2Proof.Machine.execPlaneSenseLost field s
  | .planeLow field => Sys2Proof.Machine.execPlaneLow field s
  | .planeCollapse field => Sys2Proof.Machine.execPlaneCollapse field s
  | .ivrPhaseLost region phase => Sys2Proof.Machine.execIvrPhaseLost region phase s
  | .spineIvrLoss spine unit lost => Sys2Proof.Machine.execSpineIvrLoss spine unit lost s
  | .efuseOpening region => Sys2Proof.Machine.execEfuseOpening region s
  | .regionPowerUpRequest region => Sys2Proof.Machine.execRegionPowerUpRequest region s
  | .softStartBegin field => Sys2Proof.Machine.execSoftStartBegin field s
  | .softStartSlow field => Sys2Proof.Machine.execSoftStartSlow field s
  | .softStartEnd field vcore temp => Sys2Proof.Machine.execSoftStartEnd field vcore temp s
  | .curbNAssert own => Sys2Proof.Machine.execCurbNAssert own s
  | .curbNModuleRelease => Sys2Proof.Machine.execCurbNModuleRelease s
  | .curbRestore => Sys2Proof.Machine.execCurbRestore s
  | .gallopLimitUpdate powerIn iPlane => Sys2Proof.Machine.execGallopLimitUpdate powerIn iPlane s
  | .wearCreditCheckpoint => Sys2Proof.Machine.execWearCreditCheckpoint s
  | .powerCapCompare powerIn => Sys2Proof.Machine.execPowerCapCompare powerIn s
  | .powerCapRaise powerIn => Sys2Proof.Machine.execPowerCapRaise powerIn s
  | .regionTempSample region temp sensorOk => Sys2Proof.Machine.execRegionTempSample region temp sensorOk s
  | .heatDarkEnd region => Sys2Proof.Machine.execHeatDarkEnd region s
  | .dieThermalTrip die => Sys2Proof.Machine.execDieThermalTrip die s
  | .coolantAlarm inlet outlet spread => Sys2Proof.Machine.execCoolantAlarm inlet outlet spread s
  | .farrierRollingStart => Sys2Proof.Machine.execFarrierRollingStart s
  | .farrierReturnStart => Sys2Proof.Machine.execFarrierReturnStart s
  | .farrierRetry => Sys2Proof.Machine.execFarrierRetry s
  | .farrierHold => Sys2Proof.Machine.execFarrierHold s
  | .farrierRelease found => Sys2Proof.Machine.execFarrierRelease found s
  | .flitCrcRetry link eighth codewords => Sys2Proof.Machine.execFlitCrcRetry link eighth s codewords
  | .laneLost link lane => Sys2Proof.Machine.execLaneLost link lane s
  | .linkLost link => Sys2Proof.Machine.execLinkLost link s
  | .data flit laneMismatch merge => Sys2Proof.Machine.execData flit laneMismatch s merge
  | .sendData flit merge => Sys2Proof.Machine.execSendData flit s merge
  | .ready flit reads => Sys2Proof.Machine.execReady flit s reads
  | .start flit reads => Sys2Proof.Machine.execStart flit s reads
  | .peerSyncAdd flit => Sys2Proof.Machine.execPeerSyncAdd flit s
  | .timeReq flit => Sys2Proof.Machine.execTimeReq flit s
  | .timeResp flit => Sys2Proof.Machine.execTimeResp flit s
  | .slotAdj flit => Sys2Proof.Machine.execSlotAdj flit s
  | .linkCtrl link flit => Sys2Proof.Machine.execLinkCtrl link flit s
  | .abort flit => Sys2Proof.Machine.execAbort flit s
  | .collectiveSlotStart reads => Sys2Proof.Machine.execCollectiveSlotStart s reads
  | .sendAcknowledged reads => Sys2Proof.Machine.execSendAcknowledged s reads
  | .entdaa address => Sys2Proof.Machine.execEntdaa address s
  | .mctpControl message => Sys2Proof.Machine.execMctpControl message s
  | .getTelemetry page => Sys2Proof.Machine.execGetTelemetry page s
  | .setCoord address => Sys2Proof.Machine.execSetCoord address s
  | .setPlaneMap planes => Sys2Proof.Machine.execSetPlaneMap planes s
  | .sidebandHalter => Sys2Proof.Machine.execSidebandHalter s
  | .getWeave => Sys2Proof.Machine.execGetWeave s
  | .getCoord => Sys2Proof.Machine.execGetCoord s
  | .unknownVendorCommand code => Sys2Proof.Machine.execUnknownVendorCommand code s
  | .getVersion => Sys2Proof.Machine.execGetVersion s
  | .getCapabilities => Sys2Proof.Machine.execGetCapabilities s
  | .negotiateAlgorithms extAsym extHash => Sys2Proof.Machine.execNegotiateAlgorithms extAsym extHash s
  | .getDigests => Sys2Proof.Machine.execGetDigests s
  | .getCertificate slot offset length => Sys2Proof.Machine.execGetCertificate slot offset length s
  | .challenge slot nonce => Sys2Proof.Machine.execChallenge slot nonce s
  | .getMeasurements index signed nonce => Sys2Proof.Machine.execGetMeasurements index signed nonce s
  | .spdmUnsupportedRequest code => Sys2Proof.Machine.execSpdmUnsupportedRequest code s
  | .signatureComplete => Sys2Proof.Machine.execSignatureComplete s
  | .firmwareUpdate host readFails => Sys2Proof.Machine.execFirmwareUpdate host s readFails
  | .firmwareUpdateEnd host flashOk readBack => Sys2Proof.Machine.execFirmwareUpdateEnd host flashOk s readBack
  | .firmwareUpdateResume => Sys2Proof.Machine.execFirmwareUpdateResume s
  | .faUnlock host => Sys2Proof.Machine.execFaUnlock host s
  | .faClose => Sys2Proof.Machine.execFaClose s
  | .adapterConventionalReset => Sys2Proof.Machine.execAdapterConventionalReset s
  | .curbNExternalRelease => Sys2Proof.Machine.execCurbNExternalRelease s
  | .planeAbove30sRating field => Sys2Proof.Machine.execPlaneAbove30sRating field s
  | .stageAbove125c field => Sys2Proof.Machine.execStageAbove125c field s
  | .trimCapHeld30Days region => Sys2Proof.Machine.execTrimCapHeld30Days region s
  | .crossingFifoDrained field edge => Sys2Proof.Machine.execCrossingFifoDrained field edge s
  | .sidebandEndpointReady => Sys2Proof.Machine.execSidebandEndpointReady s

end Sys2Proof.Machine
end

