-- ==== Sys2Proof/Safety.lean ====
section
/-!
DEFINITION. What every state of the block satisfies: the shape of its tables, the canonical form of its memories, and
the bounds at which its counters and limits stop. Claims about all states take Inv as their premise where a state that
no run reaches would break them.
-/
namespace Sys2Proof.Machine

/-- An edge's counters stop at the top of their registers (10 Table 10-7, 11 Table 11-4), and no crossing FIFO holds more than
its 8 entries (11 R275). -/
structure EdgeOk (e : Edge) : Prop where
  replays : e.replays ≤ top32
  slips : e.slips ≤ top16
  fifo : ∀ q ∈ e.fifo, q.length ≤ 8

/-- A field has four edges; its wear credit never passes the full credit of 14,400 s (13 R320), at most seven failed
stage phases are counted, and its counters stop at the top of their registers. -/
structure FieldOk (x : Field) : Prop where
  edgeCount : x.edges.length = 4
  edges : ∀ e ∈ x.edges, EdgeOk e
  credit : x.credit ≤ fullCredit
  mcDrop : x.mcDrop ≤ top32
  stageFailed : x.stageFailed ≤ 7
  ownReins : x.ownReins ≤ top16

/-- Delta is between -8 and +12 steps (13 R315). -/
def DeltaOk (d : Int) : Prop := -8 ≤ d ∧ d ≤ 12

/-- A region: at most three e-fuse openings counted (12 R303), its trim in range, no bank ready that is off (08 R219),
and counters that stop. -/
structure RegionOk (x : Region) : Prop where
  efuseOpenings : x.efuseOpenings ≤ 3
  hits : x.hits ≤ top32
  margin : x.margin ≤ 255
  wideSessions : x.wideSessions ≤ 6
  delta : DeltaOk x.delta
  bankReady : x.bankReady &&& x.bankOn = x.bankReady

/-- A stack's ECC counters stop at the top of their registers (09 Table 9-7). -/
structure StackOk (x : Stack) : Prop where
  eccCorr : x.eccCorr ≤ top32
  eccUncorr : x.eccUncorr ≤ top32

/-- A link's counters stop at the top of their registers (16 Tables 16-7, 16-8), and its retry buffer holds at most 256 flits
(16 R379). -/
structure LinkOk (x : Link) : Prop where
  fecUncorr : x.fecUncorr ≤ top16
  retries : x.retries ≤ top16
  retry : x.retry.length ≤ 256

/-- The tables of the LNK block. -/
structure LnkOk (k : Lnk) : Prop where
  linkCount : k.links.length = 96
  links : ∀ l ∈ k.links, LinkOk l
  dropTag : k.dropTag ≤ top16
  dropType : k.dropType ≤ top16

/-- The rings: sixteen op rings, the error ring and the event ring. -/
structure HstOk (h : Hst) : Prop where
  ringCount : h.rings.length = 18
  evtDropped : h.evtDropped ≤ top32

/-- The memories of the GLB block in canonical form, and its counters. -/
structure GlbOk (g : Glb) : Prop where
  weaveRecord : Memory.wf g.weaveRecord = true
  flashWeave : Memory.wf g.flashWeave = true
  nanSquash : g.nanSquash ≤ top32
  mismatches : g.mismatches ≤ top16
  skipped : g.skipped ≤ top16
  errDropped : g.errDropped ≤ top32

/-- The firmware image in flash, in canonical form. -/
def SecOk (x : Sec) : Prop := Memory.wf x.image = true

/-- The stale list holds at most 64 intervals (02 R64). -/
def MasterOk (m : Master) : Prop := m.stale.length ≤ 64

/-- The assertion counters of CURB_N. -/
structure PowerOk (p : Power) : Prop where
  curbOwnCount : p.curbOwnCount ≤ top16
  curbExtCount : p.curbExtCount ≤ top16

/-- The adapter's retrain counter stops, and it keeps a TAIL and a HEAD for each of the 18 ring lines. -/
structure AdapterOk (n : Adapter) : Prop where
  retrains : n.retrains ≤ top16
  tailLines : n.pageTail.length = 18
  headLines : n.pageHead.length = 18

/-- What the stud book holds of trims, wear credit and faults is in range. -/
structure StudOk (b : StudBook) : Prop where
  units : ∀ u ∈ b.units, u.life ≤ top16
  trims : ∀ t ∈ b.trims, DeltaOk t.new
  creditCkpt : ∀ c ∈ b.creditCkpt, c ≤ 14400

/-- The Deltas burnt at assembly are in range, and the rollback counter has at most its 64 fuses blown (18 R422). -/
structure FusesOk (x : Fuses) : Prop where
  delta : ∀ d ∈ x.delta, DeltaOk d
  svn : x.svn ≤ 64

/-- Sync objects stand in rising order, and an object equal to 0 is not listed. -/
def SyncOk : List (Nat × Word64) → Prop
  | [] => True
  | [p] => p.2 ≠ 0
  | p :: q :: l => p.2 ≠ 0 ∧ p.1 < q.1 ∧ SyncOk (q :: l)

/-- A cinch stages at most sixteen writes (19 R450). -/
def BlockOk (c : BlockCtl) : Prop := c.staged.length ≤ 16

/-- The invariant of the block. -/
structure Inv (s : State) : Prop where
  dram : Memory.wf s.dram = true
  spad : Memory.wf s.spad = true
  host : Memory.wf s.host = true
  sync : SyncOk s.sync
  fieldCount : s.fields.length = 16
  fields : ∀ x ∈ s.fields, FieldOk x
  regionCount : s.regions.length = 96
  regions : ∀ x ∈ s.regions, RegionOk x
  stackCount : s.memStacks.length = 16
  memStacks : ∀ x ∈ s.memStacks, StackOk x
  slots : s.slots.length = 96
  blockCount : s.blocks.length = 9
  blocks : ∀ c ∈ s.blocks, BlockOk c
  lnk : LnkOk s.lnk
  hst : HstOk s.hst
  glb : GlbOk s.glb
  sec : SecOk s.sec
  master : MasterOk s.master
  pwr : PowerOk s.pwr
  na : AdapterOk s.na
  stud : StudOk s.stud
  fuses : FusesOk s.fuses

/-! ### What a command leaves alone -/

/-- The parts of the state. -/
inductive Part where
  | pending | pwr | clk | fields | regions | slots | memStacks | lnk | na | hst | blocks | boot | glb | sec | side | master | farrier | stud | fuses | sync | held | dram | spad | before | host | badSpad | badDram | free
deriving DecidableEq, Repr

/-- A part is as it was. -/
def Part.same (s t : State) : Part → Prop
  | .pending => t.pending = s.pending
  | .pwr => t.pwr = s.pwr
  | .clk => t.clk = s.clk
  | .fields => t.fields = s.fields
  | .regions => t.regions = s.regions
  | .slots => t.slots = s.slots
  | .memStacks => t.memStacks = s.memStacks
  | .lnk => t.lnk = s.lnk
  | .na => t.na = s.na
  | .hst => t.hst = s.hst
  | .blocks => t.blocks = s.blocks
  | .boot => t.boot = s.boot
  | .glb => t.glb = s.glb
  | .sec => t.sec = s.sec
  | .side => t.side = s.side
  | .master => t.master = s.master
  | .farrier => t.farrier = s.farrier
  | .stud => t.stud = s.stud
  | .fuses => t.fuses = s.fuses
  | .sync => t.sync = s.sync
  | .held => t.held = s.held
  | .dram => t.dram = s.dram
  | .spad => t.spad = s.spad
  | .before => t.before = s.before
  | .host => t.host = s.host
  | .badSpad => t.badSpad = s.badSpad
  | .badDram => t.badDram = s.badDram
  | .free => t.free = s.free

/-- Every part but those named is as it was. -/
def Only (ps : List Part) (s t : State) : Prop := ∀ p, p ∉ ps → p.same s t

/-- A write of a register takes effect at once: K listens, the register answers and no cinch of its block is open. -/
abbrev RegisterOpen (s : State) (b : Blk) (loc : Nat) : Prop :=
  kListens s = true ∧ answers s b loc = true ∧ (ctlAt s b).cinch = .closed

/-! ### Bring-up commands -/

/-- The command of a bring-up step with what its work finds: step number and FAST. -/
inductive StepCommand : Instr → Nat → Bool → Prop where
  | powerEntryChecks (vin inlet outlet : Nat) (lidOk : Bool) (failed : List (Nat × Nat)) (blades : List Nat) :
      StepCommand (.powerEntryChecks vin inlet outlet lidOk failed blades) 1 false
  | kBoot (landing1 landing4 : Bool) (flash : FlashFindings) : StepCommand (.kBoot landing1 landing4 flash) 2 false
  | fieldPowerUp (found : PowerUpFindings) : StepCommand (.fieldPowerUp found) 3 false
  | fieldPowerUpFast (found : PowerUpFindings) : StepCommand (.fieldPowerUpFast found) 3 true
  | startUpTests (found : List TestFinding) (efuseOpen : List Nat) : StepCommand (.startUpTests found efuseOpen) 4 false
  | dramTraining (found : List StackFinding) : StepCommand (.dramTraining found) 5 false
  | linkTraining : StepCommand .linkTraining 6 false
  | weaveAssembly : StepCommand .weaveAssembly 7 false
  | weavePublication (flashOk : Bool) : StepCommand (.weavePublication flashOk) 8 false
  | ringEnableStep : StepCommand .ringEnableStep 9 false

/-- The conditions of Table 14-1 and R333 on a command of step n: its prerequisites are done (step 7 also while step 6 runs),
the step itself is not, and no step other than step 6 runs. -/
abbrev StepAllowed (s : State) (n : Nat) : Prop :=
  (n = 1 ∨ n = 2 ∧ stepDone s 1 = true ∨ n = 3 ∧ stepDone s 2 = true ∨ n = 4 ∧ stepDone s 3 = true ∨
    n = 5 ∧ stepDone s 4 = true ∨ n = 6 ∧ stepDone s 3 = true ∨
    n = 7 ∧ stepDone s 5 = true ∧ (stepDone s 6 = true ∨ s.boot.linkBusy = true) ∨ n = 8 ∧ stepDone s 7 = true ∨
    n = 9 ∧ stepDone s 8 = true) ∧
  stepDone s n = false ∧ (n = 6 → s.boot.linkBusy = false) ∧ (n ≠ 6 → s.boot.running = none)

/-- K listens and accepts the command of a step, which was not commanded before (14 R333). -/
abbrev CommandReady (s : State) (n : Nat) (fast : Bool) : Prop :=
  kListens s = true ∧ bootAcceptable s n = true ∧ fastDenied s n fast = false ∧ stepOpen s n = false

/-- No cause of R336, no fuse, no retirement and no loss since the last cold bring-up keeps a field out of step 3. -/
structure FieldSound (s : State) (found : PowerUpFindings) (f : Nat) : Prop where
  fuses : s.fuses.badSpines.contains f = false
  book : gated s .spine f = false ∧ gated s .plane f = false
  kept : (fieldAt s f).lost = false
  plane : (fieldAt s f).planeOff = false ∧ (fieldAt s f).stageFailed < 2
  pll : found.pllNoLock.contains f = false
  spineIvr : (fieldAt s f).spineIvrLost ≤ 2 ∧ ∀ p ∈ found.spineIvrLost, p.1 = f → p.2 ≤ 2
  d28 : (found.d28Lost.foldl (fun l p => l.modify p.1 (fun n => max n p.2)) s.pwr.d28Lost).getD (f / 4) 0 ≤ 1

/-- Nothing but a record of the fast path keeps a region of a taken field without power (12 R299, R302, R303). -/
structure RegionSound (s : State) (found : PowerUpFindings) (r : Nat) : Prop where
  fuse : (regionAt s r).fuseBlown = false
  efuse : found.efuseOpen.contains r = false
  phases : popcount (phasesOut s r ((found.phasesFailed.filter (fun p => p.1 = r)).foldl (fun m p => m ||| p.2) 0)).toNat 12 < 3

/-! ### Registers -/

/-- Registers all of whose fields are RW, with the bits they hold and the part of the state they stand in: selects, addresses
and operands (Tables 14-6, 7-7, 7-10, 15-12, 10-5, 4-4, 8-5, 9-4, 16-6, 17-6, 12-4, 11-2, 18-5). -/
def plainRegisters : List (Blk × Nat × Word × Part) :=
  [(.glb, 0x050, 0xFFFFF000, .glb), (.glb, 0x054, 0x0000FFFF, .glb), (.glb, 0x1C0, 0x0000FFFF, .glb),
   (.glb, 0x1CC, 0xFFFFFFFF, .glb), (.glb, 0x1D0, 0xFFFFFFFF, .glb), (.glb, 0x220, 0x00FFFFFF, .glb),
   (.fld, 0x040, 0x0000003F, .glb), (.rgn, 0x040, 0x0000007F, .glb), (.rgn, 0x10C, 0x0000007F, .glb),
   (.mem, 0x040, 0x0000000F, .glb), (.lnk, 0x040, 0x0000007F, .lnk), (.hst, 0x040, 0x0000001F, .hst),
   (.pwr, 0x040, 0x00000F7F, .pwr), (.clk, 0x040, 0x0000003F, .clk), (.sec, 0x040, 0xFFFFF000, .sec),
   (.sec, 0x044, 0x0000FFFF, .sec), (.sec, 0x048, 0xFFFFFFFF, .sec)]

/-- Registers with RWK fields (19 R449). -/
def keyedRegisters : List (Blk × Nat) :=
  [(.glb, 0x048), (.glb, 0x200), (.glb, 0x210), (.mem, 0x054), (.lnk, 0x078), (.pwr, 0x060), (.pwr, 0x064), (.pwr, 0x068),
   (.clk, 0x058), (.sec, 0x04C), (.sec, 0x050)]

/-- A register write of the set-up window by its block and offset. -/
def hostWriteReg (b : Blk) (loc : Nat) (v : Word) : Instr := .registerWrite .bar0 (blockBase b + loc) 4 (v.setWidth 64)

/-- A location of a block outside its common registers. -/
abbrev OwnLocation (loc : Nat) : Prop := 0x040 ≤ loc ∧ loc < 4096 ∧ loc % 4 = 0

/-! ### Tiles and flits -/

/-- Every tile of the master has a number of its own, below the next one to give. -/
abbrev TilesNumbered (s : State) : Prop :=
  ((s.master.tiles ++ s.master.preTiles).map (·.id)).Nodup ∧ ∀ t ∈ s.master.tiles ++ s.master.preTiles, t.id < s.master.nextTile

/-- The commands by which a flit reaches the module (16 Table 16-3). -/
inductive FlitCommand : Instr → Flit → Prop where
  | data (f : Flit) (m : Bool) (merge : ReadOutcome) : FlitCommand (.data f m merge) f
  | sendData (f : Flit) (merge : ReadOutcome) : FlitCommand (.sendData f merge) f
  | ready (f : Flit) (reads : ReadOutcome) : FlitCommand (.ready f reads) f
  | start (f : Flit) (reads : ReadOutcome) : FlitCommand (.start f reads) f
  | abort (f : Flit) : FlitCommand (.abort f) f
  | slotAdj (f : Flit) : FlitCommand (.slotAdj f) f
  | peerSyncAdd (f : Flit) : FlitCommand (.peerSyncAdd f) f
  | timeReq (f : Flit) : FlitCommand (.timeReq f) f
  | timeResp (f : Flit) : FlitCommand (.timeResp f) f
  | linkCtrl (l : Nat) (f : Flit) (fitted : l < 96) : FlitCommand (.linkCtrl l f) f

/-- A module with coordinates and a job tag takes a flit of one type that carries the tag, on a plane of its own that works
(16 R374, R375, R376, R382). -/
abbrev FlitTaken (s : State) (f : Flit) (type : Byte) : Prop :=
  f.type = type ∧ (planeLink s f.plane).isSome = true ∧ s.lnk.coordValid = true ∧ s.lnk.jobTag ≠ 0 ∧ f.jobTag = s.lnk.jobTag

/-! ### What a command leaves in the rings -/

/-- A command adds the event record of a code, unit, DETAIL and time: with the event ring enabled and not full the 64 bytes stand
at its tail, vector 17 is raised and the tail goes on by one; else the record is dropped and counted (15 R371, 17 R408). -/
def EventSent (s t : State) (time : Word64) (code : Nat) (kind : UnitKind) (unit detail : Nat) : Prop :=
  ((ringAt s 17).en = true → recordRingFull (ringAt s 17) = false →
    (ringAt t 17).posted = (ringAt s 17).posted + 1 ∧ t.na.msix.getLsbD 17 = true ∧
    readBytes (hostByte t) ((ringAt s 17).base + 64 * ((ringAt s 17).posted.toNat % ringSize (ringAt s 17))) 64 =
      natBytes 4 (ringAt s 17).posted.toNat ++ eventBody time code kind unit detail ++
        natBytes 4 (phaseOf (ringAt s 17).posted.toNat (ringSize (ringAt s 17)))) ∧
  ((ringAt s 17).en = false ∨ recordRingFull (ringAt s 17) = true → t.hst.evtDropped = min top32 (s.hst.evtDropped + 1))

/-- No earlier entry of its ring is uncompleted. -/
def AtFront (s : State) (ring : Nat) (e : Entry) : Prop := (ringAt s ring).entries.head?.map (·.count) = some e.count

/-- A head and its group end with a status: at the front of its ring every member has its record, the entries leave and the ring
stops; behind an uncompleted entry the head keeps its status, DETAIL and time until that entry has its record (02 R61, R67,
log entry 130). -/
def HeadEnds (s t : State) (ring : Nat) (l : List Entry) (status : Byte) (detail : Word) : Prop :=
  ∀ e es, l = e :: es →
    (AtFront s ring e →
      (ringAt t ring).stopped = true ∧ (ringAt t ring).stopStatus = status ∧
      (ringAt t ring).posted = (ringAt s ring).posted + BitVec.ofNat 32 l.length ∧
      ∀ x ∈ (ringAt t ring).entries, ∀ m ∈ l, x.count ≠ m.count) ∧
    (¬ AtFront s ring e →
      ringAt t ring = { ringAt s ring with
        entries := (ringAt s ring).entries.map (fun x =>
          if x.count = e.count then { x with ended := some (status, detail, gtcNs s) } else x) })

/-- The completion record of an entry outside a group that ends before acceptance (02 Table 2-10). -/
def headRecord (s : State) (e : Entry) (status : Byte) (detail : Word) : Completion :=
  { tag := dTag e.words, count := e.count, status := status, group := false, replayed := false, detail := detail, dupChecks := 0,
    gtc := gtcNs s }

/-- The 32 bytes of a record stand in the completion ring, in the place of its entry, with the next sequence number (02 R67). -/
def RecordStands (s t : State) (ring : Nat) (c : Completion) : Prop :=
  readBytes (hostByte t) ((ringAt s ring).cqBase + 32 * (c.count.toNat % ringSize (ringAt s ring))) 32 =
    completionBytes (ringAt s ring) c

/-- Where the completion record of a descriptor that a halter owes one goes (17 R413 step 6). -/
def owedAddr (s : State) (x : HalterOwed) : Nat :=
  (ringAt s x.ring).cqBase + 32 * (x.count.toNat % ringSize (ringAt s x.ring))

/-- The j-th owed record shares no byte with another one, nor with the halter line of the doorbell page. -/
def OwedApart (s : State) (owed : List HalterOwed) (j : Nat) (x : HalterOwed) : Prop :=
  (owedAddr s x + 32 ≤ doorbellPage s + 0x4A0 ∨ doorbellPage s + 0x4C0 ≤ owedAddr s x) ∧
  ∀ i y, owed[i]? = some y → i ≠ j → owedAddr s x + 32 ≤ owedAddr s y ∨ owedAddr s y + 32 ≤ owedAddr s x

/-- The HALTERED record of the j-th owed descriptor stands in its completion ring, with the next sequence number of that ring
(02 R67, 17 R413 step 6). -/
def OwedRecordStands (s t : State) (owed : List HalterOwed) (j : Nat) (x : HalterOwed) : Prop :=
  let r := ringAt s x.ring
  readBytes (hostByte t) (owedAddr s x) 32 =
    completionBytes { r with posted := r.posted + BitVec.ofNat 32 ((owed.take j).filter (fun y => y.ring = x.ring)).length }
      { tag := x.tag, count := x.count, status := stHaltered, group := x.group, replayed := x.replayed, detail := 0,
        dupChecks := x.dupChecks, gtc := x.gtc }

/-- The operation or group in flight ends with a status other than OK: it leaves the master with its tiles, every member has its
record and the ring stops (02 R61). -/
def OperationEnds (s t : State) (status : Byte) : Prop :=
  ∀ sel, s.master.sel = some sel → sel.ring < 16 →
    t.master.sel = none ∧ t.master.op = none ∧ t.master.done = [] ∧ t.master.tiles = [] ∧
    (ringAt t sel.ring).stopped = true ∧ (ringAt t sel.ring).stopStatus = status ∧
    (ringAt t sel.ring).posted = (ringAt s sel.ring).posted + BitVec.ofNat 32 sel.members.length

end Sys2Proof.Machine
end

