-- ==== Sys2Proof/WellFormed.lean ====
section
/-!
DEFINITION. Well-formed commands: every unit an operand names exists in the largest variant (00_scope.md Tables 0-1 and
0-4, 12_power_delivery.md, 17_host_rings.md), and every value fits its width.
-/
namespace Sys2Proof

def fieldOk (f : Nat) : Bool := decide (f < 16)
def regionOk (r : Nat) : Bool := decide (r < 96)
def stackOk (m : Nat) : Bool := decide (m < 16)
def linkOk (l : Nat) : Bool := decide (l < 96)
def ringOk (r : Nat) : Bool := decide (r < 16)
def lineOk (l : Nat) : Bool := decide (l < 19)
def phaseOk (p : Nat) : Bool := decide (p < 12)
def bankOk (b : Nat) : Bool := decide (b < 32)
def dieOk (d : Nat) : Bool := decide (d < 4)
def edgeOk (e : Nat) : Bool := decide (e < 4)
def subLinkOk (k : Nat) : Bool := decide (k < 32)
def laneOk (m : Nat) : Bool := decide (m < 2)
def channelOk (p : Nat) : Bool := decide (p < 64)
def lineOfSpadOk (l : Nat) : Bool := decide (l < 524288)

/-- A power-up finding names fields, regions and dies that exist. -/
def PowerUpFindings.wf (f : PowerUpFindings) : Bool :=
  f.pllNoLock.all fieldOk && f.spineIvrLost.all (fun p => fieldOk p.1) && f.d28Lost.all (fun p => decide (p.1 < 4)) &&
    f.phasesFailed.all (fun p => regionOk p.1) && f.efuseOpen.all regionOk &&
    f.badWires.all (fun p => fieldOk p.1 && edgeOk p.2.1 && subLinkOk p.2.2.1) &&
    f.occupancy.all (fun p => fieldOk p.1 && edgeOk p.2.1 && subLinkOk p.2.2.1) &&
    f.landingWires.all (fun p => decide (p.1 < 4) && decide (p.2.1 < 2) && decide (p.2.2.1 < 2) && decide (p.2.2.2.1 < 12)) &&
    f.vcore.all (fun p => regionOk p.1) && f.ioDieSilent.all (fun d => decide (d < 4))

/-- The well-formed commands. -/
def Instr.wf : Instr → Bool
  | .bootStepComplete step => decide (1 ≤ step) && decide (step ≤ 9)
  | .powerEntryChecks _ _ _ _ stageFailed _ => stageFailed.all (fun p => fieldOk p.1)
  | .fieldPowerUp found => found.wf
  | .fieldPowerUpFast found => found.wf
  | .startUpTests _ efuseOpen => efuseOpen.all regionOk
  | .dramTraining found => found.all (fun x => stackOk x.stack && x.lanes.all (fun p => channelOk p.1))
  | .linkTrainingAttemptEnd link _ _ _ => linkOk link
  | .doorbellForward line => lineOk line
  | .descriptorFetch ring _ => ringOk ring
  | .hostAccessFailure (.fetch ring) _ _ => ringOk ring
  | .hostAccessTimeout (.fetch ring) _ => ringOk ring
  | .waitSatisfied ring => ringOk ring
  | .waitTimeoutExpiry ring => ringOk ring
  | .spineOffLearnt field => fieldOk field
  | .regionHeartbeat region _ _ => regionOk region
  | .heartbeatCheck field => fieldOk field
  | .regionFlitParityError region => regionOk region
  | .regionFailed region _ => regionOk region
  | .operationBoundarySwitchOff region => regionOk region
  | .capPolicySwitchOff region => regionOk region
  | .registerWrite window offset bytes _ =>
    decide (offset < (match window with | .bar0 => 16777216 | .bar2 => 4096)) && decide (bytes ≤ 8)
  | .lowWordReadLatch _ offset bytes => decide (offset < 4) && decide (bytes ≤ 8)
  | .bankReady region bank => regionOk region && bankOk bank
  | .spadScrub region line _ => regionOk region && lineOfSpadOk line
  | .retrainEnd (.centred _ lanes) => lanes.all (fun p => channelOk p.1)
  | .refreshDue stack pc _ => stackOk stack && channelOk pc
  | .stackTempSample stack _ => stackOk stack
  | .stackHotStep stack => stackOk stack
  | .stackHotSelfRefresh stack => stackOk stack
  | .stackHotTimeout stack => stackOk stack
  | .stackFailed stack => stackOk stack
  | .crossingFlitParityReplay field edge subLink _ => fieldOk field && edgeOk edge && subLinkOk subLink
  | .crossingAlignEnd field edge leaving entering =>
    fieldOk field && edgeOk edge && decide (leaving.length ≤ 32) && decide (entering.length ≤ 32)
  | .crossingSlip field edge _ _ => fieldOk field && edgeOk edge
  | .crossingFifoDrained field edge => fieldOk field && edgeOk edge
  | .droopTrip region _ _ => regionOk region
  | .reinEcho field _ => fieldOk field
  | .demotionCheck field _ => fieldOk field
  | .gaitDown field => fieldOk field
  | .gaitUp field => fieldOk field
  | .grantedGaitRise field => fieldOk field
  | .idleWalk field => fieldOk field
  | .pllLock field => fieldOk field
  | .pllLossOfLock field => fieldOk field
  | .stagePhaseFailure field => fieldOk field
  | .planeSenseLost field => fieldOk field
  | .planeLow field => fieldOk field
  | .planeCollapse field => fieldOk field
  | .planeAbove30sRating field => fieldOk field
  | .stageAbove125c field => fieldOk field
  | .ivrPhaseLost region phase => regionOk region && phaseOk phase
  | .spineIvrLoss spine unit _ => if spine then fieldOk unit else decide (unit < 4)
  | .efuseOpening region => regionOk region
  | .regionPowerUpRequest region => regionOk region
  | .softStartBegin field => fieldOk field
  | .softStartSlow field => fieldOk field
  | .softStartEnd field _ _ => fieldOk field
  | .regionTempSample region _ _ => regionOk region
  | .heatDarkEnd region => regionOk region
  | .trimCapHeld30Days region => regionOk region
  | .dieThermalTrip die => dieOk die
  | .flitCrcRetry link _ _ => linkOk link
  | .laneLost link lane => linkOk link && laneOk lane
  | .linkLost link => linkOk link
  | .linkCtrl link _ => linkOk link
  | .gallopLimitUpdate _ iPlane => decide (iPlane.length = 16)
  | _ => true

end Sys2Proof
end

