-- ==== Sys2Proof/Certificates/Slice0/Obligations.lean ====
section
/-!
DEFINITION. The statements for the provers, in the terms of Safety.lean and of the model's own operations. A command's effect
is stated as its completion: under the stated conditions it answers a next state, and that state is described.
-/
section

open Sys2Proof Sys2Proof.Machine

/-! ### The block as a whole -/

/-- One step runs the command at the front of the queue on the state with the queue's rest; an empty queue idles (the model's
choice, log entry 1). -/
def Obligations.StepRunsFrontCommand : Prop :=
  (∀ (c : Instr) (rest : List Instr) (s : State), s.pending = c :: rest → step s = exec c { s with pending := rest }) ∧
    ∀ s : State, s.pending = [] → step s = .next s

/-- Every well-formed command has an answer in every state, and that answer is a next state. No command touches the queue of
waiting commands. Where the spec's words leave a point to be read, the clauses take the model's own reading of log entry 21.
-/
def Obligations.CommandsCompleteAndLeaveQueue : Prop :=
  (∀ (c : Instr) (s : State), c.wf = true → ∃ t, exec c s = .next t) ∧
  ∀ (c : Instr) (s t : State), exec c s = .next t → t.pending = s.pending

/-- The state after reset satisfies the invariant of Safety.lean. Where the spec's words leave a point to be read, the clauses
take the model's own reading of log entries 2, 5, 123. -/
def Obligations.ResetSatisfiesInvariant : Prop := Inv State.reset

/-- Every step keeps the invariant of Safety.lean: memories in canonical form, tables of their sizes, the stale list at most 64
long, counters and trims in range, no bank ready that is off, cinches of at most sixteen writes. Where the spec's words leave
a point to be read, the clauses take the model's own reading of log entries 1, 5. -/
def Obligations.StepKeepsInvariant : Prop := ∀ s t : State, Inv s → step s = .next t → Inv t

/-- Every step keeps the tiles' numbers apart and below the next one to give. -/
def Obligations.TileNumbersStayApart : Prop :=
  TilesNumbered State.reset ∧ ∀ s t : State, TilesNumbered s → step s = .next t → TilesNumbered t

/-- A retired unit stays retired whatever command follows (15 R368). The rollback counter in the fuses never falls (18 R422), and
no command changes anything else a fuse says. A module whose landings both failed stays dead until power is removed (14 R335).
-/
def Obligations.PermanentRecordsStay : Prop :=
  (∀ (c : Instr) (s t : State) (k : UnitKind) (i : Nat), exec c s = .next t → isRetired s k i = true → isRetired t k i = true) ∧
  (∀ (c : Instr) (s t : State), s.fuses.svn ≤ 64 → exec c s = .next t →
    s.fuses.svn ≤ t.fuses.svn ∧ t.fuses.svn ≤ 64 ∧ t.fuses = { s.fuses with svn := t.fuses.svn }) ∧
  ∀ (c : Instr) (s t : State), exec c s = .next t → s.boot.dead = true →
    (∀ d lo hi blades, c ≠ .railLeaveWindow d lo hi blades) → t.boot.dead = true

/-! ### The rail, the pins and resets -/

/-- The rail entering its window powers the module on, with the four VIN blades as they stand, unless a blade is out of the window
or not mated; the reset pin going high frees ROM mode. A brief excursion of the rail, or one that leaves every blade in the
window, is ignored; any other powers the module off, and every memory of the module loses its content, while fuses, stud book
and host memory stay (12 R290, R291, 20 R461). Where the spec's words leave a point to be read, the clauses take the model's
own reading of log entries 3, 5, 12, 171. -/
def Obligations.RailAndRomMode : Prop :=
  ((∀ (blades : List Nat) (s : State), s.pwr.railIn = false →
    (bladesIn blades = true → ∃ t, exec (.railEnterWindow blades) s = .next t ∧
      t.pwr = { s.pwr with railIn := true, pwrgood := true, kMode := .held, vin := blades } ∧ t.clk.gtc = 0 ∧
      t.sec = { s.sec with nonceCount := s.sec.nonceCount + 1 } ∧ Only [.pwr, .clk, .sec] s t) ∧
    (bladesIn blades = false → exec (.railEnterWindow blades) s = .next s)) ∧
  (∀ s : State, s.pwr.kMode = .held → s.pwr.modresetLow = false → ∃ t, exec .romModeEntry s = .next t ∧
    t.pwr = { s.pwr with kMode := .rom } ∧ Only [.pwr] s t) ∧
  ∀ s : State, ∃ t, exec .modresetNRelease s = .next t ∧ t.pwr = { s.pwr with modresetLow := false } ∧ Only [.pwr] s t) ∧
  ∀ (d lo hi : Nat) (blades : List Nat) (s : State), s.pwr.railIn = true →
    (d < 20 ∧ 44000 ≤ lo ∧ hi ≤ 62000 ∨ bladesIn blades = true → exec (.railLeaveWindow d lo hi blades) s = .next s) ∧
    ((20 ≤ d ∨ lo < 44000 ∨ 62000 < hi) → bladesIn blades = false → ∃ t, exec (.railLeaveWindow d lo hi blades) s = .next t ∧
      t.pwr.railIn = false ∧ t.pwr.pwrgood = false ∧ t.pwr.kMode = .off ∧ t.na.up = false ∧
      (∀ a, memGet t.dram a = 0) ∧ (∀ a, memGet t.spad a = 0) ∧ t.sync = [] ∧ t.boot.done = 0 ∧ t.hst.active = false ∧
      t.master.op = none ∧ (∀ r, (ringAt t r).en = false) ∧ t.host = s.host ∧ t.stud = s.stud ∧ t.fuses = s.fuses)

/-- A warm reset, by WARM_RST with the key of GLB open or by MODRESET_N held low for 10 us, with no update of the flash in
progress: no step of bring-up is done or running and LAST_RESET is warm; every ring, the scheduler's state, the keys and the
cinches are as after reset and no halter runs; the slot map is unmapped and the scratchpad reads 0; TASK, DUP_RATE, CAP,
MAX_GAIT and the job tag are back at their reset values, no link has a lane, no region is powered and no spine is on; DRAM,
fuses and stud book stay, and so does a module that is dead. MODRESET_N also holds K. With the rail out the pin only goes low;
a pulse shorter than 10 us has no effect (14 R345). Where the spec's words leave a point to be read, the clauses take the
model's own reading of log entries 5, 62, 65, 86, 126. -/
def Obligations.WarmResetStartsBringUpAnew : Prop :=
  (∀ s : State, RegisterOpen s .glb 0x048 → (ctlAt s .glb).keyOpen = true → s.sec.update = .idle → s.sec.resetWaits = false →
    ∃ t, exec .warmReset s = .next t ∧
      t.boot.done = 0 ∧ t.boot.running = none ∧ t.boot.lastWarm = true ∧ t.boot.dead = s.boot.dead ∧
      t.master = Master.reset ∧ (∀ r, ringAt t r = Ring.reset) ∧ t.hst.halterRun = none ∧
      t.blocks = List.replicate 9 BlockCtl.reset ∧ t.slots = List.replicate 96 .unmapped ∧ (∀ a, memGet t.spad a = 0) ∧
      t.glb.taskBase = 0 ∧ t.glb.taskBound = 0x200 ∧ t.glb.dupRate = 9 ∧ t.pwr.cap = 0 ∧ t.pwr.maxGait = 2 ∧
      t.lnk.jobTag = 0 ∧ t.clk.asleep = false ∧ (∀ l, (linkAt t l).lanes = 0) ∧
      (∀ r, (regionAt t r).powered = false) ∧ (∀ f, (fieldAt t f).spineOn = false) ∧
      t.dram = s.dram ∧ t.fuses = s.fuses ∧ t.stud = s.stud) ∧
  (∀ (n : Nat) (s : State), 10000 ≤ n → s.pwr.railIn = true → s.sec.update = .idle → s.sec.resetWaits = false →
    ∃ t, exec (.modresetNAssert n) s = .next t ∧
      t.pwr.modresetLow = true ∧ t.pwr.kMode = .held ∧
      t.boot.done = 0 ∧ t.boot.running = none ∧ t.boot.lastWarm = true ∧ t.boot.dead = s.boot.dead ∧
      t.master = Master.reset ∧ (∀ r, ringAt t r = Ring.reset) ∧ t.hst.halterRun = none ∧
      t.blocks = List.replicate 9 BlockCtl.reset ∧ t.slots = List.replicate 96 .unmapped ∧ (∀ a, memGet t.spad a = 0) ∧
      t.glb.taskBase = 0 ∧ t.glb.taskBound = 0x200 ∧ t.glb.dupRate = 9 ∧ t.pwr.cap = 0 ∧ t.pwr.maxGait = 2 ∧
      t.lnk.jobTag = 0 ∧ t.clk.asleep = false ∧ (∀ l, (linkAt t l).lanes = 0) ∧
      (∀ r, (regionAt t r).powered = false) ∧ (∀ f, (fieldAt t f).spineOn = false) ∧
      t.dram = s.dram ∧ t.fuses = s.fuses ∧ t.stud = s.stud) ∧
  (∀ (n : Nat) (s : State), 10000 ≤ n → s.pwr.railIn = false → ∃ t, exec (.modresetNAssert n) s = .next t ∧
    t.pwr = { s.pwr with modresetLow := true } ∧ Only [.pwr] s t) ∧
  ∀ (n : Nat) (s : State), n < 10000 → exec (.modresetNAssert n) s = .next s

/-! ### Halter and zeroing -/

/-- A halter asked for: the running work is discarded, every op ring disabled, the bring-up step stopped, sync objects, stale list
and scratchpad cleared, and the record's contents noted (17 R413, R414); stated where no commit waits for its safe point.
While K reaches no field, the sync objects the fields hold stay (log entry 164). The halter record is posted with the link up:
every descriptor owed one gets its HALTERED record, the 32 bytes of Table 17-3 stand in the halter line of the doorbell page,
the count goes up and PHASE changes, and no halter runs any more (17 R413 step 6, R415). Where the spec's words leave a point
to be read, the clauses take the model's own reading of log entries 3, 7, 8, 9, 10, 61, 62, 96, 126, 164. -/
def Obligations.HalterDiscardsWorkAndReports : Prop :=
  (∀ (s : State) (q : HalterReq), s.hst.halterReq = some q → s.hst.halterRun = none →
    (ctlAt s .rgn).cinch ≠ .waiting → (ctlAt s .clk).cinch ≠ .waiting → ∃ t, exec .halter s = .next t ∧
    t.hst.halterRun = some { cause := q.cause, seq := q.seq, step := stoppedStep s, seen := gtcNs s, owed := owedRecords s } ∧
    t.hst.halterReq = none ∧ (∀ r, r < 16 → (ringAt t r).en = false ∧ (ringAt t r).entries = []) ∧
    t.master.sel = none ∧ t.master.op = none ∧ t.master.done = [] ∧ t.master.tiles = [] ∧ t.master.colls = [] ∧
    t.master.stale = [] ∧ t.lnk.jobTag = 0 ∧ t.clk.entering = false ∧
    (kCutOff s = false → t.sync = [] ∧ (∀ a, memGet t.spad a = 0) ∧
      ∀ r, (regionAt t r).hits = 0 ∧ (regionAt t r).banks = [CellBank.reset, CellBank.reset] ∧ (regionAt t r).working = 0) ∧
    (kCutOff s = true → t.sync = s.sync) ∧
    (stoppedStep s ≠ 0 → t.boot.running = none ∧ t.boot.errCode = 8 ∧ t.boot.failedStep = BitVec.ofNat 4 (stoppedStep s)) ∧
    t.dram = s.dram ∧ t.fuses = s.fuses ∧ t.pwr = s.pwr) ∧
  ∀ (s : State) (r : HalterRun), Inv s → s.glb.zeroing = false → s.hst.halterRun = some r → s.na.up = true →
    ∃ t, exec .halterRecordPost s = .next t ∧
      t.hst.halterRun = none ∧ t.hst.halterReq = none ∧ t.hst.halters = s.hst.halters + 1 ∧
      t.hst.halterPhase = !s.hst.halterPhase ∧
      t.hst.lastHalter = halterBytes { s with hst := { s.hst with halters := t.hst.halters, halterPhase := t.hst.halterPhase } }
        (latestSeq s r) ∧
      (∀ k, k < 16 → (ringAt t k).posted = (ringAt s k).posted + BitVec.ofNat 32 (r.owed.filter (fun x => x.ring = k)).length) ∧
      (∀ j x, r.owed[j]? = some x → x.ring < 16 → OwedApart s r.owed j x → OwedRecordStands s t r.owed j x) ∧
      readBytes (hostByte t) (doorbellPage s + 0x480 + 32) 32 = t.hst.lastHalter ∧ t.na.msix.getLsbD 18 = true ∧
      Only [.na, .hst, .side, .host] s t

/-- JOB_END: with an op ring enabled only JOB_ERR is set; else the job tag clears and the zeroing is due; while a halter or a
zeroing runs nothing happens (R410). The zeroing of a job end clears what Table 8-11 lists: the scratchpads, the sync objects,
the stale list, and of every region its hit counter, both stationary banks and the gates; while K reaches no field it clears
what K itself holds (log entry 164). Its end rebuilds the slot map, switches off the banks R217 does not keep and closes the
job (08 R226 to R228, 17 R410). Where the spec's words leave a point to be read, the clauses take the model's own reading of
log entries 62, 100, 164. -/
def Obligations.JobEndZeroes : Prop :=
  ((∀ s : State, RegisterOpen s .hst 0x060 → anyRingEn s = true → ∃ t, exec .jobEnd s = .next t ∧
    t.hst = { s.hst with jobErr := true } ∧ Only [.hst, .blocks] s t) ∧
  (∀ s : State, RegisterOpen s .hst 0x060 → anyRingEn s = false → s.hst.halterRun ≠ none ∨ s.glb.zeroing = true →
    ∃ t, exec .jobEnd s = .next t ∧ Only [.blocks] s t) ∧
  ∀ s : State, RegisterOpen s .hst 0x060 → anyRingEn s = false → s.hst.halterRun = none → s.glb.zeroing = false →
    ∃ t, exec .jobEnd s = .next t ∧
      t.glb.zeroDue = true ∧ t.lnk = { s.lnk with jobTag := 0 } ∧ t.farrier.session = none ∧ t.sync = s.sync ∧
      t.dram = s.dram ∧ t.master = s.master ∧ t.boot = s.boot ∧ t.clk = s.clk) ∧
  (∀ s : State, s.glb.zeroDue = true → s.glb.zeroing = false → ∃ t, exec .zeroingStart s = .next t ∧
    t.glb = { s.glb with zeroing := true, zeroDue := false } ∧ t.held = [] ∧ t.master.stale = [] ∧ t.master.staleFull = false ∧
    (kCutOff s = false → (∀ a, memGet t.spad a = 0) ∧ t.sync = [] ∧
      ∀ r, (regionAt t r).hits = 0 ∧ (regionAt t r).banks = [CellBank.reset, CellBank.reset] ∧ (regionAt t r).working = 0) ∧
    (kCutOff s = true → t.spad = s.spad ∧ t.sync = s.sync ∧ t.regions = s.regions) ∧
    (∀ r, (regionAt t r).bankOn = (regionAt s r).bankOn) ∧
    Only [.clk, .fields, .regions, .memStacks, .glb, .master, .sync, .held, .spad, .before, .badSpad] s t) ∧
  ∀ s : State, s.glb.zeroing = true → ∃ t, exec .zeroingEnd s = .next t ∧
    t.glb = { s.glb with zeroing := false } ∧ t.slots = buildSlots s ∧ t.hst.active = false ∧ t.master.stale = [] ∧
    t.master.staleFull = false ∧
    (s.master.op = none → s.master.pre = none → ∀ r, r < 96 →
      (regionAt t r).bankOn = bankNeeds s r ∧ (regionAt t r).bankReady = (regionAt s r).bankReady &&& bankNeeds s r) ∧
    Only [.regions, .slots, .lnk, .na, .hst, .glb, .master, .spad, .before, .host, .badSpad] s t

/-! ### The host link and the doorbell page -/

/-- The Nolot link trains to x4, x2 or x1 and reports the change with vector 19; a training after the first is counted; the link
going down clears its width (17 R397). With the Nolot link down for 2 s a halter is asked for, unless one runs or has run
since (17 R414). Setting EN of NA_DB_BASE_LO takes the SEQ that then stands in the halter line as forwarded; a conventional
reset of the adapter clears its registers and leaves the link as it is (17 R412, R419). Where the spec's words leave a point
to be read, the clauses take the model's own reading of log entries 6, 10, 95, 101. -/
def Obligations.NolotLinkAndAdapter : Prop :=
  ((∀ (c : Instr) (n : Nat) (s : State), c = .nolotLinkTraining n ∨ c = .nolotRetrainRetry n → s.pwr.railIn = true →
    s.na.up = false → 0 < n → ∃ t, exec c s = .next t ∧
      t.na.up = true ∧ t.na.width = (if 4 ≤ n then 4 else if 2 ≤ n then 2 else 1) ∧ t.na.trained = true ∧
      t.na.retrains = (if s.na.trained then min 65535 (s.na.retrains + 1) else s.na.retrains) ∧
      t.na.msix.getLsbD 19 = true ∧ t.hst.halterWaitsLink = none ∧ t.na.en = s.na.en ∧ t.na.base = s.na.base ∧
      Only [.na, .hst, .host] s t) ∧
  (∀ s : State, s.na.up = true → ∃ t, exec .nolotLinkDown s = .next t ∧
    t.na.up = false ∧ t.na.width = 0 ∧ t.na.msix.getLsbD 19 = true ∧ t.na.pageTail = s.na.pageTail ∧
    t.na.pageHead = s.na.pageHead ∧ Only [.na] s t) ∧
  ∀ s : State, exec .nolotPacketRetry s = .next s) ∧
  (∀ s : State, s.pwr.railIn = true → s.na.up = false → selfHaltered s = false → s.hst.halterReq = none → s.hst.halterRun = none →
    ∃ t, exec .linkDownSelfHalter s = .next t ∧
      t.hst = { s.hst with halterReq := some { cause := 3, seq := 0 } } ∧ t.na.haltWord = none ∧ Only [.na, .hst] s t) ∧
  (∀ (v : Word) (host : List Host.Cell) (s : State), v.getLsbD 0 = true → s.na.en = false →
    ∃ t, exec (.naDbBaseEnable v host) s = .next t ∧
      t.na.en = true ∧ t.na.base = setLow s.na.base v ∧ t.na.haltSeq = BitVec.ofNat 16 (wBits (halterWord t) 15 0) ∧
      t.na.haltWord = none ∧ t.na.up = s.na.up ∧ t.na.forwards = s.na.forwards ∧ Only [.na, .host] s t) ∧
  ∀ s : State, ∃ t, exec .adapterConventionalReset s = .next t ∧
    t.na.en = false ∧ t.na.base = 0 ∧ t.na.haltWord = none ∧ t.na.up = s.na.up ∧ t.na.width = s.na.width ∧
    t.na.retrains = 0 ∧ Only [.na] s t

/-- While enabled, the adapter's poll brings the TAIL and HEAD of each of the 18 ring lines into the adapter, whatever the module
does, and changes no ring; nothing is forwarded with the link down (17 R401). A forwarded line gives an enabled op ring its
TAIL and CQ_HEAD, whether or not they break R405 (log entry 99); where they break it DB_ERR is set and the ring stops with
STOP_STATUS 0; a ring that is stopped already stays stopped and keeps its STOP_STATUS. The line of an enabled error or event
ring gives that ring its HEAD; a line of a ring that is not enabled changes no ring (17 R404, R405). A forwarded halter word
asks for a halter with its SEQ (17 R412). Where the spec's words leave a point to be read, the clauses take the model's own
reading of log entries 6, 96, 98, 99. -/
def Obligations.DoorbellsReachRings : Prop :=
  ((∀ (host : List Host.Cell) (s : State), Inv s → s.na.en = true → ∃ t, exec (.doorbellPoll host) s = .next t ∧
    (∀ line, line < 18 → (t.na.pageTail.getD line 0, t.na.pageHead.getD line 0) = pageLine t line) ∧
    (∀ line, line < 18 → pageLine t line ≠ (s.na.pageTail.getD line 0, s.na.pageHead.getD line 0) → line ∈ t.na.forwards) ∧
    (wBits (halterWord t) 31 16 = 0x4854 → BitVec.ofNat 16 (wBits (halterWord t) 15 0) ≠ s.na.haltSeq →
      t.na.haltWord = some (BitVec.ofNat 16 (wBits (halterWord t) 15 0))) ∧
    t.host = (hostMerge s host).host ∧ Only [.na, .host] s t) ∧
  ∀ (line : Nat) (s : State), line < 19 → s.na.up = false → exec (.doorbellForward line) s = .next s) ∧
  (∀ (r : Nat) (s : State), Inv s → r < 16 → s.na.up = true → r ∈ s.na.forwards → (ringAt s r).en = true →
    ∃ t, exec (.doorbellForward r) s = .next t ∧
      (ringAt t r).tail = s.na.pageTail.getD r 0 ∧ (ringAt t r).head = s.na.pageHead.getD r 0 ∧ r ∉ t.na.forwards ∧
      (∀ k, k ≠ r → ringAt t k = ringAt s k) ∧
      (lineBroken (ringAt s r) (s.na.pageTail.getD r 0) (s.na.pageHead.getD r 0) = false →
        ringAt t r = { ringAt s r with tail := s.na.pageTail.getD r 0, head := s.na.pageHead.getD r 0 } ∧
        Only [.na, .hst] s t) ∧
      (lineBroken (ringAt s r) (s.na.pageTail.getD r 0) (s.na.pageHead.getD r 0) = true →
        (ringAt t r).stopped = true ∧ (ringAt t r).dbErr = true ∧ (ringAt t r).posted = (ringAt s r).posted ∧
        (ringAt t r).stopStatus = (if (ringAt s r).stopped = true then (ringAt s r).stopStatus else 0) ∧
        ((ringAt s r).stopped = true → Only [.na, .hst] s t))) ∧
  (∀ (r : Nat) (s : State), Inv s → r < 18 → s.na.up = true → r ∈ s.na.forwards → (ringAt s r).en = false ∨ 16 ≤ r →
    ∃ t, exec (.doorbellForward r) s = .next t ∧ r ∉ t.na.forwards ∧
      ((ringAt s r).en = true → ringAt t r = { ringAt s r with head := s.na.pageHead.getD r 0 }) ∧
      ((ringAt s r).en = false → t.hst = s.hst) ∧
      (∀ k, k ≠ r → ringAt t k = ringAt s k) ∧ Only [.na, .hst] s t) ∧
  ∀ (q : BitVec 16) (s : State), s.na.up = true → s.na.haltWord = some q → ∃ t, exec (.doorbellForward 18) s = .next t ∧
    (∃ k, t.hst.halterReq = some { cause := k, seq := q }) ∧ t.na.haltWord = none ∧ t.na.haltSeq = q ∧
    t.hst.rings = s.hst.rings ∧ Only [.na, .hst] s t

/-- A host read that fails, by a completion or a timeout (17 R399). One of the operation in flight ends it UNCORRECTABLE and its
ring stops. One of an acceptance, which is made before the operation is in flight, ends the head that is being accepted so,
and no operation that runs beside it. A descriptor fetch stops its ring with FETCH_ERR (17 R405), and an image read ends the
update with HOST_ACCESS (18 R424). Where the spec's words leave a point to be read, the clauses take the model's own reading
of log entries 7, 8, 10, 126, 163. -/
def Obligations.HostAccessFailureEndsReader : Prop :=
  (∀ (c : Instr) (k : HostFailure) (a : Nat) (s : State) (o : Op) (x : Selection),
    c = .hostAccessFailure .operation k a ∨ c = .hostAccessTimeout .operation a → s.na.up = true → isHost a = true →
    acceptIssues s a = none → opIssues a o = true →
    s.master.op = some o → s.master.sel = some x → x.ring < s.hst.rings.length → ∃ t, exec c s = .next t ∧
      t.master.op = none ∧ t.master.sel = none ∧ t.master.done = [] ∧ t.master.tiles = [] ∧ (ringAt t x.ring).stopped = true ∧
      (ringAt t x.ring).stopStatus = stUncorrectable ∧ t.dram = s.dram ∧ t.sync = s.sync) ∧
  (∀ (c : Instr) (k : HostFailure) (a : Nat) (s : State) (x : Selection) (e : Entry),
    c = .hostAccessFailure .operation k a ∨ c = .hostAccessTimeout .operation a → s.na.up = true → isHost a = true →
    s.master.op = none → acceptIssues s a = some (s, x, e) → x.next = 0 → AtFront s x.ring e → x.ring < 16 → Inv s →
    ∃ t, exec c s = .next t ∧
      t.master.op = none ∧ t.master.sel = none ∧ (∀ o ∈ s.master.colls, o.ring ≠ x.ring → o ∈ t.master.colls) ∧
      (ringAt t x.ring).stopped = true ∧
      (ringAt t x.ring).stopStatus = stUncorrectable ∧ t.dram = s.dram ∧ t.sync = s.sync) ∧
  (∀ (c : Instr) (k : HostFailure) (r a : Nat) (s : State),
    c = .hostAccessFailure (.fetch r) k a ∨ c = .hostAccessTimeout (.fetch r) a → s.na.up = true → isHost a = true →
    mayFetch s r = true → r < 16 → r < s.hst.rings.length → ∃ t, exec c s = .next t ∧
      (ringAt t r).stopped = true ∧ (ringAt t r).fetchErr = true ∧ (ringAt t r).head = (ringAt s r).head ∧
      t.master.op = s.master.op ∧ t.dram = s.dram ∧ t.sync = s.sync) ∧
  ∀ (c : Instr) (k : HostFailure) (a : Nat) (s : State),
    c = .hostAccessFailure .firmware k a ∨ c = .hostAccessTimeout .firmware a → s.na.up = true → isHost a = true →
    s.sec.update = .running → s.sec.resetWaits = false → ∃ t, exec c s = .next t ∧
      t.sec = { s.sec with update := .idle, result := 0x08, updHash := [] } ∧ Only [.sec] s t

/-! ### Bring-up -/

/-- A command of a bring-up step is accepted by Table 14-1 and the rules of R333; FAST is denied without FAST_OK (R346); every
other command only sets ERR_CODE and FAILED_STEP, and after a K_LANDING failure not even these. Where the spec's words leave a
point to be read, the clauses take the model's own reading of log entries 71, 72. -/
def Obligations.BringUpCommandAcceptedOrRefused : Prop :=
  ∀ (c : Instr) (n : Nat) (fast : Bool) (s : State), StepCommand c n fast → kListens s = true → stepOpen s n = false →
    (s.boot.dead = true → exec c s = .next s) ∧
    (s.boot.dead = false → ¬ StepAllowed s n →
      exec c s = .next { s with boot := { s.boot with errCode := 1, failedStep := 0 } }) ∧
    (s.boot.dead = false → StepAllowed s n → n = 3 → fast = true → s.boot.fastOk = false →
      exec c s = .next { s with boot := { s.boot with errCode := 7, failedStep := 3 } }) ∧
    (s.boot.dead = false → StepAllowed s n → ¬ (n = 3 ∧ fast = true ∧ s.boot.fastOk = false) → ∃ t, exec c s = .next t ∧
      (if n = 6 then t.boot.linkBusy = true else t.boot.running = some n) ∧ t.boot.done = s.boot.done ∧
      t.boot.errCode = s.boot.errCode ∧ t.boot.failedStep = s.boot.failedStep ∧ t.boot.dead = s.boot.dead)

/-- The power-entry checks note the four VIN blades and the coolant, count each field's failed stage phases, up to seven, as the
highest number found, and find RAIL or COOLANT (12 R294, R334, 20 R461). K boot: what flash finds of the copies of each record
is noted, an image that verifies starts, with its measurements, the rollback counter it commits, and the trims and the wear
credit of the stud book; one that does not leaves K in recovery mode with IMAGE found (R334, R335, 18 R421, R422). Where the
spec's words leave a point to be read, the clauses take the model's own reading of log entries 71, 84, 171. -/
def Obligations.PowerEntryAndKBoot : Prop :=
  (∀ (vin inlet outlet : Nat) (lidOk : Bool) (failed : List (Nat × Nat)) (blades : List Nat) (s : State), CommandReady s 1 false →
    ∃ t, exec (.powerEntryChecks vin inlet outlet lidOk failed blades) s = .next t ∧
      t.pwr = { s.pwr with vin := if blades.length = 4 then blades else [vin, vin, vin, vin], inlet := inlet, outlet := outlet } ∧
      t.glb = { s.glb with fuseKnown := true } ∧ t.boot.running = some 1 ∧ t.boot.found = true ∧
      t.boot.pendErr = (if bladesIn t.pwr.vin = false ∨ curbLow s = true then 2 else if 45 < inlet ∨ lidOk = false then 3 else 0) ∧
      (∀ f, fieldAt t f = { fieldAt s f with stageFailed := (fieldAt t f).stageFailed }) ∧
      (∀ f, f < s.fields.length → (fieldAt t f).stageFailed =
        ((failed.filter (fun p => p.1 = f)).map (·.2)).foldl (fun n k => min 7 (max n k)) (fieldAt s f).stageFailed) ∧
      Only [.pwr, .fields, .boot, .glb] s t) ∧
  ∀ (landing1 landing4 : Bool) (flash : FlashFindings) (s : State), CommandReady s 2 false →
    ∃ t, exec (.kBoot landing1 landing4 flash) s = .next t ∧
    t.boot.running = some 2 ∧ t.boot.found = true ∧
    (if verifyImage s (flashByte s) = 0x01 then
      t.boot.recovery = false ∧ t.fuses = advanceSvn s.fuses (flashByte s) ∧ t.sec.imageValid = true ∧
      t.sec.fwMeas = fwMeasOf (flashByte s) ∧ t.sec.fuseMeas = fuseMeasOf t.fuses ∧ t.pwr.kMode = s.pwr.kMode ∧
      t.pwr.kLandingOk =
        [landing1 && !(fieldAt s 1).lost && !(fieldAt s 1).planeOff && !gated t .kLanding 0,
         landing4 && !(fieldAt s 4).lost && !(fieldAt s 4).planeOff && !gated t .kLanding 1] ∧
      t.stud = (noteFlash s flash).stud ∧ (∀ k i, isRetired t k i = isRetired s k i) ∧
      t.glb = { s.glb with flashBad := flash.weave } ∧
      t.boot.pendErr = (if kReaches t then 0 else 5) ∧
      (∀ r, r < s.regions.length → (regionAt t r).delta = bootDelta { s with fuses := t.fuses } r) ∧
      (∀ f, f < s.fields.length → (fieldAt t f).credit =
        (match s.stud.creditCkpt[f]? with
          | some c => 50000 * (c - 60)
          | none => 720000000)) ∧
      ∀ f, f < s.fields.length → (fieldAt t f).spineOn = ((fieldAt s f).spineOn ||
        ((f = 1 || f = 4) && !(fieldAt s f).lost && !(fieldAt s f).planeOff))
    else
      t.boot.recovery = true ∧ t.boot.pendErr = 4 ∧ t.pwr = { s.pwr with kMode := .recovery } ∧ t.fuses = s.fuses ∧
      t.sec.imageValid = false ∧ t.sec.result = verifyImage s (flashByte s) ∧ t.regions = s.regions ∧ t.fields = s.fields ∧
      t.stud = s.stud ∧ t.glb = s.glb) ∧
    Only [.pwr, .fields, .regions, .boot, .glb, .sec, .stud, .fuses] s t

/-- Field power-up, on both paths: a field is taken if no cause of R336, no fuse, no retirement and no loss since the last cold
bring-up keeps it out, and only then; a field that is taken has its plane, spine and PLL on and walks, one that is not has its
spine off and a reason. A region of a taken field powers up if its isolation fuse is whole, its e-fuse stays closed, fewer
than three of its phases are retired, lost or fail their test and, on the fast path, the record shows it live; no region
powers outside a taken field, behind a blown e-fuse, with three phases lost, or, on the fast path, against the record (R334,
R336, R347). Where the spec's words leave a point to be read, the clauses take the model's own reading of log entries 76, 79,
81, 82, 126, 164, 169. -/
def Obligations.FieldPowerUpTakesFields : Prop :=
  ∀ (c : Instr) (fast : Bool) (found : PowerUpFindings) (s : State), Inv s →
    c = (if fast then .fieldPowerUpFast found else .fieldPowerUp found) → CommandReady s 3 fast → ∃ t, exec c s = .next t ∧
    t.boot.running = some 3 ∧ t.boot.found = true ∧ t.boot.fastUsed = (s.boot.fastUsed || fast) ∧
    t.boot.pendErr = (if kReaches t then 0 else 5) ∧
    (∀ f, f < 16 → (fieldAt t f).included = true →
      (fieldAt t f).planeOn = true ∧ (fieldAt t f).spineOn = true ∧ (fieldAt t f).pllLock = true ∧ (fieldAt t f).gait = .walk ∧
      (fieldAt t f).gtcCopy = gtcNs s) ∧
    (∀ f, f < 16 → FieldSound s found f → (fieldAt t f).included = true ∧ (fieldAt t f).reason = 0) ∧
    (∀ f, f < 16 → ¬ FieldSound s found f →
      (fieldAt t f).included = false ∧ (fieldAt t f).spineOn = false ∧ (fieldAt t f).reason ≠ 0) ∧
    (∀ f, f < 16 → s.fuses.badSpines.contains f = true → (fieldAt t f).reason = 0x03) ∧
    (∀ r, r < 96 → FieldSound s found (fieldOf r) → RegionSound s found r → (t.boot.fastUsed = true → recLive s r = true) →
      (regionAt t r).powered = true) ∧
    (∀ r, r < 96 → (regionAt t r).powered = true →
      (fieldAt t (fieldOf r)).included = true ∧ (regionAt s r).fuseBlown = false ∧ phasesLost (regionAt t r) < 3 ∧
      (t.boot.fastUsed = true → recLive s r = true)) ∧
    t.pwr.vdramOn = [true, true, true, true] ∧
    Only [.pwr, .clk, .fields, .regions, .memStacks, .na, .hst, .boot, .stud, .spad, .before, .host, .badSpad, .free] s t

/-- The start-up tests complete at once on the fast path; otherwise a tested unit that fails its retest is retired, and one that
passes it has a fault recorded now (R337). DRAM training: a stack that cannot train is left as it is; one that trains in full
keeps its repairs and its training temperature and time; on the fast path saved settings that verify are taken (09 R241,
R242). Where the spec's words leave a point to be read, the clauses take the model's own reading of log entries 71, 74, 79. -/
def Obligations.StartUpTestsAndDramTraining : Prop :=
  ((∀ (found : List TestFinding) (efuseOpen : List Nat) (s : State), CommandReady s 4 false → s.boot.fastUsed = true →
    ∃ t, exec (.startUpTests found efuseOpen) s = .next t ∧
      t.boot.running = some 4 ∧ t.boot.found = true ∧ t.boot.pendErr = 0 ∧ Only [.boot] s t) ∧
  (∀ (found : List TestFinding) (efuseOpen : List Nat) (s : State), CommandReady s 4 false → s.boot.fastUsed = false →
    ∃ t, exec (.startUpTests found efuseOpen) s = .next t ∧
      t.boot.running = some 4 ∧ t.boot.found = true ∧ t.boot.pendErr = 0 ∧
      Only [.pwr, .fields, .regions, .memStacks, .lnk, .na, .hst, .boot, .stud, .spad, .before, .host, .badSpad] s t) ∧
  ∀ (x : TestFinding) (s : State), CommandReady s 4 false → s.boot.fastUsed = false → testedUnit s x.kind x.index = true →
    ∃ t, exec (.startUpTests [x] []) s = .next t ∧
      (x.retestPass = false → isRetired t x.kind x.index = true) ∧
      (x.retestPass = true → (studUnit t x.kind x.index).faults.head? = some (lifeTime s))) ∧
  ∀ (found : List StackFinding) (s : State), Inv s → CommandReady s 5 false → ∃ t, exec (.dramTraining found) s = .next t ∧
    t.boot.running = some 5 ∧ t.boot.found = true ∧ t.boot.pendErr = 0 ∧
    (∀ m, m < 16 → stackTrains s m = false → stackAt t m = stackAt s m) ∧
    (∀ m x, m < 16 → stackTrains s m = true → found.find? (fun y => decide (y.stack = m)) = some x →
      stackAt t m =
        (if s.boot.fastUsed = true ∧ (stackAt s m).trainOk = true ∧ x.savedVerify = true ∧
            (∀ p ∈ x.lanes, p.2 ≤ laneSpares (stackAt s m).spareLanes p.1) ∧
            x.temp ≤ (stackAt s m).trainTemp + 15 ∧ (stackAt s m).trainTemp ≤ x.temp + 15 then
          { stackBands x.temp (stackAt s m) with trained := true, selfRefresh := false }
        else if x.eyes = true ∧ lanesFit x.lanes = true then
          { stackBands x.temp (stackAt s m) with
            trained := true
            trainOk := true
            retraining := false
            selfRefresh := false
            spareLanes := laneTable x.lanes
            trainTemp := x.temp
            trainedAt := gtcNs s
            retrainFailed := false }
        else { stackBands x.temp (stackAt s m) with trained := false })) ∧
    Only [.memStacks, .boot, .stud] s t

/-- Link training begins on every fitted link of a live die that is not retired; no link has a lane yet (16 R377). One attempt of
link training ends: a full-width pass on the port's plane settles the link live with both lanes and sends LINK_CTRL; without
one the link tries again, and after the third attempt it settles with the last pass it had (16 R377). Where the spec's words
leave a point to be read, the clauses take the model's own reading of log entries 79, 80, 103. -/
def Obligations.LinkTrainingBeginsAndSettles : Prop :=
  (∀ s : State, Inv s → CommandReady s 6 false → ∃ t, exec .linkTraining s = .next t ∧
    t.boot = { s.boot with linkBusy := true } ∧
    (∀ l, l < 96 → linkAt t l = { linkAt s l with
      st := if linkFitted s.fuses.orderCode l then .absent else .notFitted
      lanes := 0
      lastLane := 0
      attempts := 0
      training := linkTrains s l
      peer := 0 }) ∧
    t.lnk.coord = s.lnk.coord ∧ t.lnk.jobTag = s.lnk.jobTag ∧ Only [.pwr, .lnk, .boot] s t) ∧
  ∀ (l peerPlane : Nat) (lanes : BitVec 2) (peer : BitVec 48) (s : State), Inv s → l < 96 → (linkAt s l).training = true →
    ∃ t, exec (.linkTrainingAttemptEnd l lanes peer peerPlane) s = .next t ∧
      (linkAt t l).attempts = (linkAt s l).attempts + 1 ∧
      (lanes = 3 → barred s .lane (2 * l) = false → barred s .lane (2 * l + 1) = false →
        ((linkAt s l).plane = none ∨ (linkAt s l).plane = some peerPlane) →
        (linkAt t l).st = .live2 ∧ (linkAt t l).lanes = 3 ∧ (linkAt t l).training = false ∧ (linkAt t l).peer = peer ∧
        t.side.flits = s.side.flits ++ [linkCtrlFlit s l]) ∧
      (lanes ≠ 3 → (linkAt s l).attempts + 1 < 3 → (linkAt t l).training = true ∧ (linkAt t l).st = (linkAt s l).st) ∧
      (lanes = 0 → 3 ≤ (linkAt s l).attempts + 1 → (linkAt t l).training = false ∧ (linkAt t l).lanes = (linkAt s l).lastLane) ∧
      (∀ k, k ≠ l → linkAt t k = linkAt s k) ∧ Only [.lnk, .na, .hst, .side, .stud, .host] s t

/-- Weave assembly, with link training over: no unit is live that a fuse, a blown e-fuse, the stud book, its field or its power
keeps out, and a region that none of them keeps out, with a stake left and, on the fast path, live in the record, is live; the
slot map lists the live regions in order; the counts and the floor are those of the assembled weave (R340 to R342, 08 R209).
While link training runs the command waits. Where the spec's words leave a point to be read, the clauses take the model's own
reading of log entries 5, 77, 78, 87, 88, 138. -/
def Obligations.WeaveAssemblySettlesUnits : Prop :=
  (∀ s : State, Inv s → CommandReady s 7 false → s.boot.linkBusy = false → ∃ t, exec .weaveAssembly s = .next t ∧
    t.boot.running = some 7 ∧ t.boot.found = true ∧ t.boot.pendErr = (if kReaches t then 0 else 5) ∧
    t.boot.belowFloor = (weaveCounts t).2.2 ∧ t.glb.liveRegions = (weaveCounts t).1 ∧ t.glb.liveStakes = (weaveCounts t).2.1 ∧
    (∀ r, r < 96 → (regionAt t r).live = true →
      s.fuses.badRegions.contains r = false ∧ (regionAt s r).fuseBlown = false ∧ gated s .region r = false ∧
      bankLost s r = false ∧ (fieldAt t (fieldOf r)).included = true ∧ (regionAt t r).powered = true ∧
      phasesLost (regionAt t r) < 3 ∧ (regionAt t r).testMap ≠ BitVec.allOnes 512 ∧ (regionAt t r).reason = 0) ∧
    (∀ r, r < 96 → (regionAt t r).live = false → (regionAt t r).powered = false ∧ (regionAt t r).reason ≠ 0) ∧
    (∀ r, r < 96 → s.fuses.badRegions.contains r = false → (regionAt s r).fuseBlown = false → gated s .region r = false →
      bankLost s r = false → (fieldAt t (fieldOf r)).included = true → (regionAt s r).powered = true →
      phasesLost (regionAt s r) < 3 → settledMap s r ≠ BitVec.allOnes 512 → (s.boot.fastUsed = true → recLive s r = true) →
      (regionAt t r).live = true) ∧
    t.slots = assembleSlots t ∧
    (∀ m, m < 16 → (stackAt t m).inMap = (stackAt t m).live) ∧
    (∀ m, m < 16 → (stackAt t m).live = true → (stackAt s m).trained = true ∧ gated s .stack m = false) ∧
    (mapStacks t = mapStacks s → t.dram = s.dram) ∧ (mapStacks t ≠ mapStacks s → ∀ a, memGet t.dram a = 0) ∧
    t.sec = s.sec ∧ t.fuses = s.fuses ∧ t.master = s.master) ∧
  ∀ s : State, CommandReady s 7 false → s.boot.linkBusy = true → ∃ t, exec .weaveAssembly s = .next t ∧
    t.boot.running = some 7 ∧ t.boot.found = false ∧ t.boot.waitLinks = true ∧ Only [.boot] s t

/-- Weave publication: the record that stands, else a new signed record in flash, is published: every region's live state and map
are those just assembled. A flash write that fails leaves everything but the step's finding (R343, R344, R347). Ring enable:
sync objects read 0, the stale list is empty and the NaN count clear (R334). Where the spec's words leave a point to be read,
the clauses take the model's own reading of log entries 83, 133, 138. -/
def Obligations.WeavePublicationAndRingEnable : Prop :=
  (∀ (flashOk : Bool) (s : State), CommandReady s 8 false → ∃ t, exec (.weavePublication flashOk) s = .next t ∧
    t.boot.running = some 8 ∧ t.boot.found = true ∧
    (if recordStands s = true ∨ flashOk = true then
      t.boot.pendErr = 0 ∧
      t.glb.flashWeave = (if recordStands s = true then s.glb.flashWeave else newRecord s (nextSeq s)) ∧
      (flashReads s = true ∨ s.glb.flashWeaveOk = false → nextSeq s = readNat (recByte s) 0x0C 4 + 1) ∧
      t.glb.weaveRecord = t.glb.flashWeave ∧ t.glb.flashWeaveOk = true ∧
      (∀ r, (regionAt t r).pubLive = (regionAt t r).live ∨ s.regions.length ≤ r) ∧
      (∀ r, r < s.regions.length →
        regionAt t r = { regionAt s r with pubLive := (regionAt s r).live, pubMap := shownMap (regionAt s r) }) ∧
      (isHost s.glb.weaveAddr = false → t.host = s.host)
    else t.boot.pendErr = 9 ∧ t.glb = s.glb ∧ t.regions = s.regions ∧ t.host = s.host) ∧
    Only [.regions, .boot, .glb, .host] s t) ∧
  ∀ s : State, CommandReady s 9 false → ∃ t, exec .ringEnableStep s = .next t ∧
    t.boot.running = some 9 ∧ t.boot.found = true ∧ t.boot.pendErr = 0 ∧ (∀ o, syncGet t o = 0) ∧
    t.master = { s.master with stale := [], staleFull := false } ∧ t.glb = { s.glb with nanSquash := 0 } ∧
    Only [.boot, .glb, .master, .sync] s t

/-- A step that completed sets its DONE bit, and step 8 makes its record the one attestation shows (18 R430); one that failed
leaves it and sets ERR_CODE and FAILED_STEP, and K_LANDING stays; step 6 completes when every link has settled, and a step
that is not over is left alone (R333). Where the spec's words leave a point to be read, the clauses take the model's own
reading of log entry 71. -/
def Obligations.BootStepCompletes : Prop :=
  (∀ (n : Nat) (s : State), 1 ≤ n → n ≤ 9 → n ≠ 6 → s.boot.running = some n → s.boot.found = true → s.boot.pendErr = 0 →
    ∃ t, exec (.bootStepComplete n) s = .next t ∧
      (∀ k, k < 10 → t.boot.done.getLsbD k = (s.boot.done.getLsbD k || decide (k = n))) ∧ t.boot.running = none ∧
      t.boot.errCode = s.boot.errCode ∧ t.boot.dead = s.boot.dead ∧ (n = 8 → s.boot.fastUsed = false → t.boot.coldUp = true) ∧
      (n = 2 → t.pwr = { s.pwr with kMode := .firmware }) ∧ (n ≠ 2 → t.pwr = s.pwr) ∧
      t.glb = { s.glb with recordShown := s.glb.recordShown || decide (n = 8) } ∧ Only [.pwr, .boot, .glb] s t) ∧
  (∀ (n : Nat) (s : State), 1 ≤ n → n ≤ 9 → n ≠ 6 → s.boot.running = some n → s.boot.found = true → s.boot.pendErr ≠ 0 →
    ∃ t, exec (.bootStepComplete n) s = .next t ∧
      t.boot.done = s.boot.done ∧ t.boot.running = none ∧ t.boot.errCode = s.boot.pendErr ∧
      t.boot.failedStep = BitVec.ofNat 4 n ∧ (t.boot.dead = true ↔ s.boot.dead = true ∨ s.boot.pendErr = 5) ∧ Only [.boot] s t) ∧
  (∀ s : State, s.boot.linkBusy = true → s.boot.waitLinks = false → (∀ l ∈ s.lnk.links, l.training = false) →
    ∃ t, exec (.bootStepComplete 6) s = .next t ∧
      t.boot = { s.boot with linkBusy := false, done := s.boot.done ||| 64 } ∧ Only [.boot] s t) ∧
  ∀ (n : Nat) (s : State), 1 ≤ n → n ≤ 9 → n ≠ 6 → s.boot.running ≠ some n ∨ s.boot.found = false →
    exec (.bootStepComplete n) s = .next s

/-! ### The set-up window, sync objects and rings -/

/-- A write reaches K as aligned 32-bit words: an aligned 8-byte write is its low and then its high word, every other write that
is not one aligned word is discarded, and so is every write while K does not listen (17 R398, 19 R439). A register all of
whose fields are RW reads back what was written; the write closes the block's key and changes no other part of the state
(R443, R448). Where the spec's words leave a point to be read, the clauses take the model's own reading of log entries 104,
124, 170. -/
def Obligations.WindowWritesAndReads : Prop :=
  ((∀ (off n : Nat) (v : Word64) (s : State), ¬ (n = 4 ∧ off % 4 = 0) → ¬ (n = 8 ∧ off % 8 = 0) →
    exec (.registerWrite .bar0 off n v) s = .next s) ∧
  (∀ (off : Nat) (v : Word64) (s : State), off % 8 = 0 → ∃ u,
    exec (.registerWrite .bar0 off 4 (v &&& 0xFFFFFFFF)) s = .next u ∧
    exec (.registerWrite .bar0 off 8 v) s = exec (.registerWrite .bar0 (off + 4) 4 (v >>> 32)) u) ∧
  (∀ (off n : Nat) (v : Word64) (s : State), kListens s = false → exec (.registerWrite .bar0 off n v) s = .next s) ∧
  ∀ (off : Nat) (v : Word64) (s : State), off = 0x000 ∨ off = 0x004 → ∃ t, exec (.registerWrite .bar2 off 4 v) s = .next t ∧
    bar2Word t off = (if off = 0 then BitVec.ofNat 32 v.toNat &&& 0xFFFFF001 else BitVec.ofNat 32 v.toNat &&& 0x00007FFF) ∧
    (off = 4 → t.na.en = s.na.en) ∧ t.na.up = s.na.up ∧ Only [.na] s t) ∧
  ∀ (b : Blk) (loc : Nat) (mask : Word) (p : Part) (v : Word) (s : State), Inv s → (b, loc, mask, p) ∈ plainRegisters →
    RegisterOpen s b loc → ∃ t, exec (hostWriteReg b loc v) s = .next t ∧
      regRead t b loc = v &&& mask ∧ (ctlAt t b).keyOpen = false ∧ (ctlAt t b).keyErr = (ctlAt s b).keyErr ∧
      (∀ c, c ≠ b → ctlAt t c = ctlAt s c) ∧ Only [p, .blocks] s t

/-- The key of a block: 0x4C6B opens it and OPEN reads 1, any other value closes it with KEY_ERR; a write of any other location of
the block closes it, and RWK fields it reaches take effect together with the write's other fields; neither a read nor, a warm
reset apart, a write to another block closes it (R448). -/
def Obligations.KeyOpensAndCloses : Prop :=
  (∀ (b : Blk) (v : Word) (s : State), kListens s = true → answers s b 0x004 = true → v &&& 0xFFFF = 0x4C6B →
    exec (.keylockWrite b v) s = .next (modCtl s b (fun c => { c with keyOpen := true }))) ∧
  (∀ (b : Blk) (v : Word) (s : State), Inv s → kListens s = true → answers s b 0x004 = true → v &&& 0xFFFF = 0x4C6B →
    ∃ t, exec (.keylockWrite b v) s = .next t ∧ (ctlAt t b).keyOpen = true ∧ (regRead t b 0x004).getLsbD 16 = true) ∧
  (∀ (b : Blk) (v : Word) (s : State), kListens s = true → answers s b 0x004 = true → v &&& 0xFFFF ≠ 0x4C6B →
    exec (.keylockWrite b v) s = .next (modCtl s b (fun c => { c with keyOpen := false, keyErr := true }))) ∧
  (∀ (b : Blk) (loc : Nat) (v : Word) (s : State), loc < 4096 → loc % 4 = 0 → loc ≠ 0x004 → kListens s = true →
    answers s b loc = true → ∃ t, exec (hostWriteReg b loc v) s = .next t ∧ (ctlAt t b).keyOpen = false ∧
      ∀ c, c ≠ b → ¬ (b = .glb ∧ (loc = 0x048 ∨ loc = 0x008)) → (ctlAt t c).keyOpen = (ctlAt s c).keyOpen) ∧
  (∀ (b : Blk) (loc : Nat) (v : Word) (s : State), Inv s → (b, loc) ∈ keyedRegisters → RegisterOpen s b loc →
    (ctlAt s b).keyOpen = true → ∃ t, exec (hostWriteReg b loc v) s = .next t ∧
      (b = .glb → loc = 0x200 → t.glb.dupRate = v.setWidth 4 ∧ t.glb.dupRepeat = v.getLsbD 4) ∧
      (b = .glb → loc = 0x210 → t.farrier.en = v.getLsbD 0) ∧
      (b = .lnk → loc = 0x078 → anyRingEn s = false → t.lnk.jobTag = v) ∧
      (b = .pwr → loc = 0x060 → t.pwr.capPolicy = v.getLsbD 0) ∧
      (b = .pwr → loc = 0x064 → t.pwr.maxGait = v.setWidth 2 ∧ t.pwr.idleWalkEn = v.getLsbD 2) ∧
      (b = .pwr → loc = 0x068 → t.pwr.cap = v.setWidth 11 ∧ t.pwr.capUnmet = (s.pwr.capUnmet && !v.getLsbD 16)) ∧
      (b = .clk → loc = 0x058 →
        t.clk.ppsEn = v.getLsbD 1 ∧ t.clk.syncRole = (v >>> 2).setWidth 2 ∧ t.clk.beatTime = v.getLsbD 0) ∧
      (b ≠ .glb → (ctlAt t b).keyErr = (ctlAt s b).keyErr)) ∧
  ∀ (p : LatchedPair) (start bytes : Nat) (s : State), ∃ t, exec (.lowWordReadLatch p start bytes) s = .next t ∧ t.blocks = s.blocks

/-- A write that reaches an RWK field with the key closed leaves every RWK field, sets KEY_ERR, and gives the register's RW fields
their value (R449). -/
def Obligations.KeyedFieldsKeepWithoutKey : Prop :=
  ∀ (b : Blk) (loc : Nat) (v : Word) (s : State), Inv s → (b, loc) ∈ keyedRegisters → RegisterOpen s b loc →
    (ctlAt s b).keyOpen = false → ∃ t, exec (hostWriteReg b loc v) s = .next t ∧
      (ctlAt t b).keyErr = ((ctlAt s b).keyErr || reachesKey s b loc v) ∧ t.glb.dupRepeat = s.glb.dupRepeat ∧
      t.farrier.en = s.farrier.en ∧ t.glb.retrainQueue = s.glb.retrainQueue ∧ t.lnk.jobTag = s.lnk.jobTag ∧
      t.pwr.capPolicy = s.pwr.capPolicy ∧ t.pwr.maxGait = s.pwr.maxGait ∧ t.pwr.cap = s.pwr.cap ∧ t.clk.ppsEn = s.clk.ppsEn ∧
      t.clk.syncRole = s.clk.syncRole ∧ t.boot = s.boot ∧ t.sec = s.sec ∧
      (b = .glb → loc = 0x200 → t.glb.dupRate = v.setWidth 4) ∧ (b = .pwr → loc = 0x064 → t.pwr.idleWalkEn = v.getLsbD 2) ∧
      (b = .pwr → loc = 0x068 → t.pwr.capUnmet = (s.pwr.capUnmet && !v.getLsbD 16)) ∧
      (b = .clk → loc = 0x058 → t.clk.beatTime = v.getLsbD 0) ∧ Only [.pwr, .clk, .fields, .glb, .blocks] s t

/-- CINCH_OPEN on a closed cinch, a staged write, the 17th write, CINCH_ABANDON: staging has no effect and leaves every reading of
the block's own registers (R450). The misuses of a cinch are ignored and set CINCH_ERR (R452). CINCH_COMMIT: an overflow is
refused; staged writes without a paired field are applied in order; a paired field waits for the block's safe point, is
refused with its bit when the check fails, and else applied (R451, R455, R456). A commit that waited is applied the same way
when its safe point comes. Where the spec's words leave a point to be read, the clauses take the model's own reading of log
entry 63. -/
def Obligations.CinchStagesAndCommits : Prop :=
  ((∀ (b : Blk) (s : State), Inv s → kListens s = true → answers s b 0x008 = true → (ctlAt s b).cinch = .closed →
    ∃ t, exec (.cinchOpen b) s = .next t ∧
      ctlAt t b = { ctlAt s b with keyOpen := false, cinch := .opened, staged := [], overflow := false } ∧ Only [.blocks] s t) ∧
  (∀ (b : Blk) (loc : Nat) (v : Word) (s : State), Inv s → OwnLocation loc → kListens s = true → answers s b loc = true →
    (ctlAt s b).cinch = .opened → (ctlAt s b).staged.length < 16 → ∃ t, exec (hostWriteReg b loc v) s = .next t ∧
      ∃ w, w.offset = loc ∧ w.value = v ∧ w.keyed = (ctlAt s b).keyOpen ∧
        w.dropped = (reachesKey s b loc v && !(ctlAt s b).keyOpen) ∧
        ctlAt t b = { ctlAt s b with
          keyOpen := false
          staged := (ctlAt s b).staged ++ [w]
          keyErr := (ctlAt s b).keyErr || w.dropped } ∧
        (∀ c k, 0x040 ≤ k → regRead t c k = regRead s c k) ∧ Only [.blocks] s t) ∧
  (∀ (b : Blk) (loc : Nat) (v : Word) (s : State), Inv s → OwnLocation loc → kListens s = true → answers s b loc = true →
    (ctlAt s b).cinch = .opened → (ctlAt s b).staged.length = 16 → ∃ t, exec (hostWriteReg b loc v) s = .next t ∧
      ctlAt t b = { ctlAt s b with keyOpen := false, overflow := true } ∧ Only [.blocks] s t) ∧
  ∀ (b : Blk) (s : State), Inv s → kListens s = true → answers s b 0x008 = true → (ctlAt s b).cinch ≠ .closed →
    ∃ t, exec (.cinchAbandon b) s = .next t ∧
      ctlAt t b = { ctlAt s b with keyOpen := false, cinch := .closed, staged := [], last := .abandoned } ∧ Only [.blocks] s t) ∧
  (∀ (b : Blk) (c : Instr) (s : State), kListens s = true → answers s b 0x008 = true →
    (c = .cinchOpen b ∧ (ctlAt s b).cinch ≠ .closed) ∨ (c = .cinchCommit b ∧ (ctlAt s b).cinch = .closed) ∨
      (c = .cinchAbandon b ∧ (ctlAt s b).cinch = .closed) ∨ (c = .cinchCommit b ∧ (ctlAt s b).cinch = .waiting) ∨
      ((ctlAt s b).cinch = .waiting ∧ ∃ loc v, OwnLocation loc ∧ answers s b loc = true ∧ c = hostWriteReg b loc v) →
    exec c s = .next (modCtl s b (fun k => { k with keyOpen := false, cinchErr := true }))) ∧
  (∀ (b : Blk) (s : State), Inv s → kListens s = true → answers s b 0x008 = true → (ctlAt s b).cinch = .opened →
    (ctlAt s b).overflow = true → ∃ t, exec (.cinchCommit b) s = .next t ∧
      ctlAt t b = { ctlAt s b with keyOpen := false, cinch := .closed, staged := [], last := .refused } ∧ Only [.blocks] s t) ∧
  (∀ (b : Blk) (s : State), kListens s = true → answers s b 0x008 = true → (ctlAt s b).cinch = .opened →
    (ctlAt s b).overflow = false → stagesPair b (ctlAt s b).staged = false →
    exec (.cinchCommit b) s = .next ((ctlAt s b).staged.foldl
      (fun u w => writeBlock b u w.offset w.value { keyed := w.keyed, commit := true, dropped := w.dropped })
      (modCtl s b (fun c => { c with keyOpen := false, cinch := .closed, staged := [], last := .applied })))) ∧
  (∀ (b : Blk) (s : State), Inv s → kListens s = true → answers s b 0x008 = true → (ctlAt s b).cinch = .opened →
    (ctlAt s b).overflow = false → stagesPair b (ctlAt s b).staged = true → safePoint s b = false →
    ∃ t, exec (.cinchCommit b) s = .next t ∧
      ctlAt t b = { ctlAt s b with keyOpen := false, cinch := .waiting } ∧ Only [.blocks] s t) ∧
  ∀ (c : Instr) (b : Blk) (s : State), Inv s → safePoint s b = true → stagesPair b (ctlAt s b).staged = true →
    (c = .cinchCommit b ∧ kListens s = true ∧ answers s b 0x008 = true ∧ (ctlAt s b).cinch = .opened ∧
        (ctlAt s b).overflow = false) ∨ (c = .cinchCommitApply b ∧ (ctlAt s b).cinch = .waiting) →
    (pairOk s b (ctlAt s b).staged = false → ∃ t, exec c s = .next t ∧
      (ctlAt t b).cinch = .closed ∧ (ctlAt t b).last = .refused ∧ (b = .rgn → t.glb = { s.glb with rangeErr := true }) ∧
      (b = .clk → t.clk = { s.clk with stepErr := true }) ∧ Only [.clk, .glb, .blocks] s t) ∧
    (pairOk s b (ctlAt s b).staged = true → b = .rgn → answers s .rgn 0x100 = true → ∃ t, exec c s = .next t ∧
      (ctlAt t b).cinch = .closed ∧ (ctlAt t b).last = .applied ∧
      (t.glb.taskBase.toNat, t.glb.taskBound.toNat) = stagedRange s (ctlAt s b).staged ∧
      Only [.regions, .glb, .blocks, .spad, .before, .badSpad] s t) ∧
    (pairOk s b (ctlAt s b).staged = true → b = .clk → answers s .clk 0x060 = true → ∃ t, exec c s = .next t ∧
      (ctlAt t b).cinch = .closed ∧ (ctlAt t b).last = .applied ∧ t.clk.gtc.toNat = stagedGtc s (ctlAt s b).staged ∧
      (∀ f, (fieldAt t f).spineOn = true → (fieldAt t f).gtcCopy = t.clk.gtc) ∧ t.dram = s.dram ∧ t.fuses = s.fuses)

/-- A read of the low word of a pair, or of an aligned part of it, answers what it names of the word and latches the high bits, as
they stand, into the pair's shadow, which the high word reads; an aligned 8-byte read of GTC, or of a peer address, answers
both words of one moment; an unaligned read answers all ones and latches nothing; a change of a select leaves the shadows, and
reset clears them (R439, R446). Where the spec's words leave a point to be read, the clauses take the model's own reading of
log entries 124, 170. -/
def Obligations.LowWordReadsLatch : Prop :=
  (∀ (p : LatchedPair) (start bytes : Nat) (s : State), start < 4 → alignedPart start bytes = true → kListens s = true →
    answers s (pairRegister p).1 (pairRegister p).2 = true →
    ∃ t, exec (.lowWordReadLatch p start bytes) s = .next t ∧
      t.side.readData.toNat = (regRead s (pairRegister p).1 (pairRegister p).2).toNat / 2 ^ (8 * start) % 2 ^ (8 * bytes) ∧
      (p = .syncValue → (regRead t .glb 0x1C8).toNat = (syncShown s).toNat / 2 ^ 32) ∧
      (p = .clkGtc → (regRead t .clk 0x054).toNat = s.clk.gtc.toNat / 2 ^ 32 ∧
        (start = 0 → bytes = 4 → t.side.readData.toNat = s.clk.gtc.toNat % 2 ^ 32)) ∧
      (p = .lnkPeer → (regRead t .lnk 0x04C).toNat = peerShown s / 2 ^ 32) ∧
      (p = .lnkCoord → (regRead t .lnk 0x064).toNat = s.lnk.coord.toNat / 2 ^ 32 + (if s.lnk.coordValid then 65536 else 0)) ∧
      (p = .pwrVmin → s.pwr.selRegion.toNat < 96 →
        (regRead t .pwr 0x058).toNat + 2 ^ 32 * (regRead t .pwr 0x05C).toNat =
          (regionAt s s.pwr.selRegion.toNat).vminTime.toNat) ∧
      Only [.pwr, .clk, .lnk, .glb, .side] s t) ∧
  (∀ s : State, kListens s = true → answers s .clk 0x050 = true → answers s .clk 0x054 = true →
    ∃ t, exec (.lowWordReadLatch .clkGtc 0 8) s = .next t ∧ t.side.readData = s.clk.gtc ∧ Only [.clk, .side] s t) ∧
  (∀ s : State, kListens s = true → answers s .lnk 0x048 = true → answers s .lnk 0x04C = true →
    ∃ t, exec (.lowWordReadLatch .lnkPeer 0 8) s = .next t ∧ t.side.readData.toNat = peerShown s ∧ Only [.lnk, .side] s t) ∧
  (∀ (p : LatchedPair) (start bytes : Nat) (s : State), start < 4 → alignedPart start bytes = false → bytes ≠ 8 →
    exec (.lowWordReadLatch p start bytes) s = .next (modSide s (fun d => { d with readData := BitVec.ofNat 64 (2 ^ (8 * bytes) - 1) }))) ∧
  (∀ (b : Blk) (loc : Nat) (v : Word) (s : State), Inv s →
    (b, loc) ∈ [(Blk.glb, 0x1C0), (Blk.lnk, 0x040), (Blk.pwr, 0x040), (Blk.clk, 0x040)] → RegisterOpen s b loc →
    ∃ t, exec (hostWriteReg b loc v) s = .next t ∧ ∀ c k,
      (c, k) ∈ [(Blk.glb, 0x1C8), (Blk.clk, 0x054), (Blk.lnk, 0x04C), (Blk.lnk, 0x064), (Blk.pwr, 0x058), (Blk.pwr, 0x05C)] →
      regRead t c k = regRead s c k) ∧
  ∀ c k, (c, k) ∈ [(Blk.glb, 0x1C8), (Blk.clk, 0x054), (Blk.lnk, 0x04C), (Blk.lnk, 0x064), (Blk.pwr, 0x058), (Blk.pwr, 0x05C)] →
    readBlock State.reset c k = 0

/-- GLB_SYNC_CMD sets the selected object to the operand or adds the operand to it, modulo 2^64; every other object stays, and a
begun wait on it whose threshold the new value meets is satisfied. In deep sleep the command is held. While the object's spine
is off, or K is cut off from the fields, it is discarded (07 R189 to R193). Where the spec's words leave a point to be read,
the clauses take the model's own reading of log entries 113, 137. -/
def Obligations.SyncCommandsTakeEffect : Prop :=
  (∀ (c : Instr) (s : State), Inv s → c = .syncSet ∨ c = .syncAdd → RegisterOpen s .glb 0x1D4 → s.clk.asleep = false →
    kCutOff s = false → syncAvailable s s.glb.syncSel.toNat = true → ∃ t, exec c s = .next t ∧
      syncGet t s.glb.syncSel.toNat =
        (if c = .syncSet then s.glb.syncOpnd else syncGet s s.glb.syncSel.toNat + s.glb.syncOpnd) ∧
      (∀ o, o ≠ s.glb.syncSel.toNat → syncGet t o = syncGet s o) ∧
      (∀ r ∈ t.hst.rings, ∀ e ∈ r.entries, e.begun = true → dWaitObj e.words = s.glb.syncSel.toNat →
        dWaitThreshold e.words ≤ (syncGet t s.glb.syncSel.toNat).toNat → e.satisfied = true) ∧
      (∀ r, (ringAt t r).entries.map (fun e => { e with satisfied := false }) =
        (ringAt s r).entries.map (fun e => { e with satisfied := false })) ∧
      Only [.hst, .blocks, .sync] s t) ∧
  (∀ (c : Instr) (s : State), c = .syncSet ∨ c = .syncAdd → RegisterOpen s .glb 0x1D4 → s.clk.asleep = true →
    kCutOff s = false → syncAvailable s s.glb.syncSel.toNat = true → ∃ t, exec c s = .next t ∧
      t.held = s.held ++ [{ obj := s.glb.syncSel.toNat, set := decide (c = .syncSet), peer := false, value := s.glb.syncOpnd }] ∧
      Only [.blocks, .held] s t) ∧
  ∀ (c : Instr) (s : State), c = .syncSet ∨ c = .syncAdd → RegisterOpen s .glb 0x1D4 →
    syncAvailable s s.glb.syncSel.toNat = false ∨ kCutOff s = true → ∃ t, exec c s = .next t ∧ Only [.blocks] s t

/-- EN = 1 on a disabled ring: with the doorbell line at zero and the bases in the host range the ring is enabled with every entry
free and its counts at 0, else EN stays 0 and DB_ERR or BASE_ERR is set (R404, R418); an op ring stays disabled while a
rebuild that a halter met is not yet published (07 R202). EN = 0 on an enabled op ring: refused with EN_ERR while an entry is
accepted, else the ring is disabled and its entries discarded; the error and event rings are disabled at any time (R408).
RESTART of a stopped op ring: refused with EN_ERR while the stale list has overflowed or K is cut off from the fields, with
DB_ERR while the doorbell line still breaks R405, else the ring goes on with the line's counts, its waits to begin afresh; one
that R61 stopped and whose line is broken stops again under R405 (log entry 98); a ring that is not stopped is left as it is
(R407). Where the spec's words leave a point to be read, the clauses take the model's own reading of log entries 6, 97, 98,
102, 137, 147. -/
def Obligations.RingsStartStopAndResume : Prop :=
  (∀ (v : Word) (host : List Host.Cell) (k : Nat) (s : State), Inv s → RegisterOpen s .hst 0x054 → ringSetupOpen s = true →
    s.hst.ringSel.toNat = k → k < 18 → (ringAt s k).en = false → v.getLsbD 8 = true →
    ∃ t, exec (.ringEnable v host) s = .next t ∧
      (ringAt t k).sizeLog2 = v.setWidth 5 ∧ (∀ j, j ≠ k → ringAt t j = ringAt s j) ∧ t.host = (hostMerge s host).host ∧
      (if rebuildHalted s = true ∧ k < 16 then ringAt t k = { ringAt s k with sizeLog2 := v.setWidth 5 }
      else if pageLine (hostMerge s host) k = (0, 0) ∧ isHost (ringAt s k).base = true ∧
          (16 ≤ k ∨ isHost (ringAt s k).cqBase = true) then
        ringAt t k = { ringAt s k with
          sizeLog2 := v.setWidth 5, en := true, stopped := false, stopDb := false, stopStatus := 0, tail := 0, head := 0,
          fetch := 0, posted := 0, entries := [] } ∧
        t.na.pageTail.getD k 0 = 0 ∧ t.na.pageHead.getD k 0 = 0 ∧ k ∉ t.na.forwards
      else
        (ringAt t k).en = false ∧ ((ringAt t k).dbErr = true ↔ (ringAt s k).dbErr = true ∨ pageLine (hostMerge s host) k ≠ (0, 0)) ∧
        ((ringAt t k).baseErr = true ↔ (ringAt s k).baseErr = true ∨
          ¬ (isHost (ringAt s k).base = true ∧ (16 ≤ k ∨ isHost (ringAt s k).cqBase = true)))) ∧
      Only [.na, .hst, .blocks, .host] s t) ∧
  (∀ (v : Word) (k : Nat) (s : State), Inv s → RegisterOpen s .hst 0x054 → ringSetupOpen s = true → s.hst.ringSel.toNat = k →
    k < 18 → (ringAt s k).en = true → v.getLsbD 8 = false → v.getLsbD 9 = false → v.setWidth 5 = (ringAt s k).sizeLog2 →
    ∃ t, exec (.ringDisable v) s = .next t ∧
      (∀ j, j ≠ k → ringAt t j = ringAt s j) ∧
      (if 16 ≤ k ∨ (∀ e ∈ (ringAt s k).entries, e.st ≠ .accepted ∧ e.st ≠ .running) then
        ringAt t k = { ringAt s k with en := false, stopped := false, stopDb := false, stopStatus := 0, entries := [] }
      else ringAt t k = { ringAt s k with enErr := true } ∧ t.master = s.master) ∧
      (∀ o, s.master.op = some o → o.ring ≠ k ∨ collWaits o = false → t.master.op = some o) ∧
      (16 ≤ k → t.master = s.master) ∧ t.master.done = s.master.done ∧
      t.master.tiles.map (fun x => x.id) = s.master.tiles.map (fun x => x.id) ∧ t.dram = s.dram ∧ t.host = s.host ∧ t.sync = s.sync ∧
      Only [.fields, .regions, .lnk, .hst, .blocks, .master, .spad, .before, .badSpad] s t) ∧
  ∀ (v : Word) (host : List Host.Cell) (k : Nat) (s : State), Inv s → RegisterOpen s .hst 0x054 → ringSetupOpen s = true →
    s.hst.ringSel.toNat = k → k < 16 → (ringAt s k).en = true → v.getLsbD 8 = true → v.getLsbD 9 = true →
    v.setWidth 5 = (ringAt s k).sizeLog2 → ∃ t, exec (.ringRestart v host) s = .next t ∧
      (∀ j, j ≠ k → ringAt t j = ringAt s j) ∧
      ((ringAt s k).stopped = false → ringAt t k = ringAt s k) ∧
      ((ringAt s k).stopped = true → s.master.staleFull = true ∨ kCutOff s = true →
        ringAt t k = { ringAt s k with enErr := true }) ∧
      ((ringAt s k).stopped = true → s.master.staleFull = false → kCutOff s = false →
        (ringAt s k).stopDb = true ∧ lineBroken (ringAt s k) (pageLine (hostMerge s host) k).1 (pageLine (hostMerge s host) k).2 = true →
        ringAt t k = { ringAt s k with dbErr := true }) ∧
      ((ringAt s k).stopped = true → s.master.staleFull = false → kCutOff s = false →
        (ringAt s k).stopDb = false ∧ lineBroken (ringAt s k) (pageLine (hostMerge s host) k).1 (pageLine (hostMerge s host) k).2 = true →
        ringAt t k = { ringAt s k with
          stopped := true, stopDb := true, stopStatus := 0, dbErr := true, tail := (pageLine (hostMerge s host) k).1,
          head := (pageLine (hostMerge s host) k).2, entries := (ringAt s k).entries.map unwait }) ∧
      ((ringAt s k).stopped = true → s.master.staleFull = false → kCutOff s = false →
        lineBroken (ringAt s k) (pageLine (hostMerge s host) k).1 (pageLine (hostMerge s host) k).2 = false →
        (ringAt t k).tail = (pageLine (hostMerge s host) k).1 ∧ (ringAt t k).head = (pageLine (hostMerge s host) k).2 ∧
        (ringAt t k).en = true ∧ (ringAt t k).fetch = (ringAt s k).fetch ∧
        ((∀ e ∈ (ringAt s k).entries, dWaitEn e.words = false) → ringAt t k = { ringAt s k with
          stopped := false, stopDb := false, stopStatus := 0, tail := (pageLine (hostMerge s host) k).1,
          head := (pageLine (hostMerge s host) k).2, entries := (ringAt s k).entries.map unwait })) ∧
      t.dram = s.dram ∧ t.sync = s.sync ∧
      Only [.fields, .regions, .lnk, .na, .hst, .blocks, .master, .spad, .before, .host, .badSpad] s t

/-! ### Sleep, firmware, tokens and the sideband -/

/-- A sleep request after step 9, outside a halter, awake, sets ENTERING and gives up the pre-selection and an entry selected and
not accepted; at any other moment it only sets SLEEP_ERR (11 R273). Deep sleep is entered with nothing in flight: live stacks
in self-refresh, every field that is on halted with its gait kept, the sync objects as they stand (11 R273, R274). A wake
request in deep sleep restarts the fields at the gait they halted in, or at the granted gait or, under CURB_N, walk where that
is lower, takes the stacks out of self-refresh and applies what was held; awake it only sets SLEEP_ERR (11 R274). Where the
spec's words leave a point to be read, the clauses take the model's own reading of log entries 45, 66, 113. -/
def Obligations.DeepSleepEntersAndEnds : Prop :=
  (∀ s : State, RegisterOpen s .clk 0x068 →
    (s.boot.done.getLsbD 9 = true → s.hst.halterReq = none → s.hst.halterRun = none → s.clk.entering = false →
      s.clk.asleep = false → ∃ t, exec .sleepRequest s = .next t ∧
        t.clk = { s.clk with entering := true } ∧
        t.master = { s.master with
          pre := none
          preSel := none
          preTiles := []
          sel := if s.master.op = none ∧ s.master.done = [] then none else s.master.sel
          tiles := t.master.tiles } ∧
        t.master.tiles.map (fun x => x.id) = s.master.tiles.map (fun x => x.id) ∧
        (∀ f, fieldAt t f = { fieldAt s f with idle := (fieldAt t f).idle, idleExit := (fieldAt t f).idleExit }) ∧
        Only [.clk, .fields, .regions, .blocks, .master, .spad, .before, .badSpad] s t) ∧
    (s.boot.done.getLsbD 9 = false ∨ s.hst.halterReq ≠ none ∨ s.hst.halterRun ≠ none ∨ s.clk.entering = true ∨
        s.clk.asleep = true → ∃ t, exec .sleepRequest s = .next t ∧
      t.clk = { s.clk with sleepErr := true } ∧ Only [.clk, .blocks] s t)) ∧
  (∀ s : State, s.clk.entering = true → nothingInFlight s = true → ∃ t, exec .sleepEnter s = .next t ∧
    t.clk = { s.clk with entering := false, asleep := true } ∧
    (∀ f, (fieldAt s f).spineOn = true → fieldAt t f = { fieldAt s f with halted := true, rising := none }) ∧
    (∀ f, (fieldAt s f).spineOn = false → fieldAt t f = fieldAt s f) ∧
    (∀ m, (stackAt s m).live = true → (stackAt s m).failed = false → (stackAt t m).selfRefresh = true) ∧
    t.sync = s.sync ∧ t.dram = s.dram ∧ Only [.clk, .fields, .regions, .memStacks, .spad, .before, .badSpad] s t) ∧
  ∀ s : State, RegisterOpen s .clk 0x068 →
    (s.clk.asleep = true → ∃ t, exec .wake s = .next t ∧
      t.clk = { s.clk with asleep := false } ∧ t.held = [] ∧ (∀ f, (fieldAt t f).halted = false) ∧
      (∀ f, gaitNum (fieldAt t f).gait ≤ gaitNum (fieldAt s f).gait) ∧
      (curbLow s = true → ∀ f, f < 16 → (fieldAt s f).spineOn = true → (fieldAt t f).gait = .walk) ∧
      (curbLow s = false → ∀ f, gaitNum (fieldAt s f).gait ≤ gaitNum (grantedGait s f) →
        (fieldAt t f).gait = (fieldAt s f).gait) ∧
      (curbLow s = false → ∀ f, f < 16 → (fieldAt s f).spineOn = true → gaitNum (grantedGait s f) < gaitNum (fieldAt s f).gait →
        (fieldAt t f).gait = grantedGait s f) ∧ (∀ m, (stackAt t m).selfRefresh = false) ∧
      (s.held = [] → t.sync = s.sync) ∧
      (∀ h, s.held = [h] → h.peer = false → syncAvailable s h.obj = true →
        t.sync = (syncRaw s h.obj h.set h.value).sync) ∧
      Only [.clk, .fields, .regions, .memStacks, .lnk, .na, .hst, .blocks, .glb, .master, .sync, .held, .spad, .before, .host,
        .badSpad] s t) ∧
    (s.clk.asleep = false → ∃ t, exec .wake s = .next t ∧ t.clk = { s.clk with sleepErr := true } ∧ Only [.clk, .blocks] s t)

/-- FIRMWARE_UPDATE with the key: refused with its result when a job runs, the image lies outside the host range, has another
length or does not verify; else the old image is erased and pass 2 runs on the address of the command. A host read of pass 1
that fails ends the update with HOST_ACCESS and leaves flash as it is. While an update runs nothing happens (18 R424). Pass 2
ends, no warm reset waiting: a flash error or a body whose hash, as read or as read back, is not that of pass 1 leaves no
valid image; else the image in flash is the bytes read, valid and at 100. A paused update resumes after the halter (18 R424,
R425). Where the spec's words leave a point to be read, the clauses take the model's own reading of log entries 6, 22, 89, 90.
-/
def Obligations.FirmwareUpdates : Prop :=
  ((∀ (host : List Host.Cell) (s : State), RegisterOpen s .sec 0x04C → (ctlAt s .sec).keyOpen = true → s.sec.update = .idle →
    ∃ t, exec (.firmwareUpdate host) s = .next t ∧
      (updateBusy s = true → t.sec = { s.sec with result := 0x0A }) ∧
      (updateBusy s = false → imageInHost s = false → t.sec = { s.sec with result := 0x08 }) ∧
      (if updateVerdict (hostMerge s host) = 0x01 then
        t.sec.update = .running ∧ t.sec.image = [] ∧ t.sec.imageValid = false ∧ t.sec.progress ≤ 99 ∧
        t.sec.updHash = imgMeas (hostImage (hostMerge s host)) ∧ t.sec.updAddr = s.sec.imgAddr ∧ t.sec.result = s.sec.result
      else t.sec = { s.sec with result := updateVerdict (hostMerge s host) }) ∧
      t.fuses = s.fuses ∧ t.host = (hostMerge s host).host ∧ Only [.blocks, .sec, .host, .free] s t) ∧
  (∀ (host : List Host.Cell) (s : State), RegisterOpen s .sec 0x04C → (ctlAt s .sec).keyOpen = true → s.sec.update ≠ .idle →
    ∃ t, exec (.firmwareUpdate host) s = .next t ∧ t.sec = s.sec ∧ Only [.blocks, .host] s t) ∧
  (∀ (host : List Host.Cell) (s : State), RegisterOpen s .sec 0x04C → (ctlAt s .sec).keyOpen = true → s.sec.update = .idle →
    updateBusy s = false → imageInHost s = true → ∃ t, exec (.firmwareUpdate host true) s = .next t ∧
      t.sec = { s.sec with result := 0x08 } ∧ t.host = (hostMerge s host).host ∧ Only [.blocks, .sec, .host] s t) ∧
  (∀ (host : List Host.Cell) (s : State), s.sec.update ≠ .idle ∨ updateBusy s = true ∨ imageInHost s = false →
    exec (.firmwareUpdate host true) s = exec (.firmwareUpdate host) s) ∧
  ∀ (host : List Host.Cell) (s : State), Inv s → RegisterOpen s .sec 0x04C → (ctlAt s .sec).keyOpen = false →
    ∃ t, exec (.firmwareUpdate host) s = .next t ∧
      t.sec = s.sec ∧ (ctlAt t .sec).keyErr = true ∧ Only [.blocks, .host] s t) ∧
  (∀ (host : List Host.Cell) (flashOk : Bool) (readBack : List (Nat × Byte)) (s : State), s.sec.update = .running →
    s.sec.resetWaits = false → ∃ t, exec (.firmwareUpdateEnd host flashOk readBack) s = .next t ∧
      t.sec.update = .idle ∧ t.sec.updHash = [] ∧ t.sec.fwMeas = s.sec.fwMeas ∧ t.sec.runningSvn = s.sec.runningSvn ∧
      (flashOk = false → t.sec.result = 0x09 ∧ t.sec.imageValid = s.sec.imageValid ∧ t.sec.image = s.sec.image) ∧
      (flashOk = true →
        t.sec.image = programmed (hostMerge s host) readBack ∧
        (if shake256 (imgBody (updImage (hostMerge s host))) = s.sec.updHash ∧
            shake256 (readBytes (memGet t.sec.image) 0x8000 (imgBodyLen (updImage (hostMerge s host)))) = s.sec.updHash then
          t.sec.result = 0x01 ∧ t.sec.imageValid = true ∧ t.sec.progress = 100
        else t.sec.result = 0x07 ∧ t.sec.imageValid = s.sec.imageValid) ∧
        (readBack = [] → ∀ a, memGet t.sec.image a =
          (if a < 32768 + imgBodyLen (updImage (hostMerge s host)) then hostByte (hostMerge s host) (s.sec.updAddr + a) else 0))) ∧
      Only [.sec, .host] s t) ∧
  (∀ s : State, s.sec.update = .paused → s.hst.halterRun = none → ∃ t, exec .firmwareUpdateResume s = .next t ∧
    t.sec = { s.sec with update := .running } ∧ Only [.sec] s t) ∧
  ∀ s : State, s.hst.halterRun ≠ none ∨ s.sec.update ≠ .paused → exec .firmwareUpdateResume s = .next s

/-- The failure-analysis port: every attempt with the key uses a nonce up; an active job refuses it; it opens only on a token that
holds, and closes again (18 R432). Discovery requests: VERSION 1.3 starts a new transcript; each answer and its request join
it, an ERROR joins none (18 R429). Signed requests wait for one signature at a time: a second one is answered Busy; the signed
response ends the transcript (18 R430, R431). Where the spec's words leave a point to be read, the clauses take the model's
own reading of log entries 12, 85, 91, 92, 93, 150. -/
def Obligations.TokensAndSpdm : Prop :=
  ((∀ (host : List Host.Cell) (s : State), RegisterOpen s .sec 0x050 → (ctlAt s .sec).keyOpen = true →
    ∃ t, exec (.faUnlock host) s = .next t ∧
      t.sec.nonceCount = s.sec.nonceCount + 1 ∧
      (s.hst.active = true → t.sec.faOpen = s.sec.faOpen ∧ t.sec.result = 0x0A) ∧
      (s.hst.active = false → imageInHost s = false → t.sec.faOpen = s.sec.faOpen ∧ t.sec.result = 0x08) ∧
      (s.hst.active = false → imageInHost s = true →
        (if tokenOk (hostMerge s host) = true then t.sec.faOpen = true ∧ t.sec.result = 0x01
        else t.sec.faOpen = s.sec.faOpen ∧ t.sec.result = 0x06)) ∧
      t.sec.image = s.sec.image ∧ t.sec.update = s.sec.update ∧ Only [.blocks, .sec, .host] s t) ∧
  ∀ s : State, RegisterOpen s .sec 0x050 → (ctlAt s .sec).keyOpen = true → ∃ t, exec .faClose s = .next t ∧
    t.sec = { s.sec with faOpen := false } ∧ Only [.blocks, .sec] s t) ∧
  (∀ s : State, s.side.ready = true →
    (∃ t, exec .getVersion s = .next t ∧ t.side.response = [0x10, 0x04, 0, 0, 0, 1, 0x00, 0x13] ∧
      t.side.transcript = [0x10, 0x84, 0, 0] ++ t.side.response ∧ Only [.side] s t) ∧
    (∃ t, exec .getCapabilities s = .next t ∧
      t.side.response.take 12 = [0x13, 0x61, 0, 0, 0, 22, 0, 0, 0x36, 0, 0, 0] ∧
      t.side.transcript = s.side.transcript ++ [0x13, 0xE1, 0, 0] ++ t.side.response ∧ Only [.side] s t) ∧
    (∀ a h, (a || h) = true → ∃ t, exec (.negotiateAlgorithms a h) s = .next t ∧
      t.side.response.take 2 = [0x13, 0x63] ∧
      t.side.transcript = s.side.transcript ++ [0x13, 0xE3, 0, 0] ++ t.side.response ∧ Only [.side] s t) ∧
    (∃ t, exec (.negotiateAlgorithms false false) s = .next t ∧
      t.side.response = [0x13, 0x7F, 1, 0] ∧ t.side.transcript = s.side.transcript ∧ Only [.side] s t) ∧
    (∃ t, exec .getDigests s = .next t ∧ t.side.response = [0x13, 0x01, 0, 1] ++ shake256 Config.certChain ∧
      t.side.transcript = s.side.transcript ++ [0x13, 0x81, 0, 0] ++ t.side.response ∧ Only [.side] s t) ∧
    (∀ slot offset length, ∃ t, exec (.getCertificate slot offset length) s = .next t ∧
      (if slot = 0 ∧ offset < Config.certChain.length then
        t.side.response.drop 8 = (Config.certChain.drop offset).take length ∧ t.side.response.take 4 = [0x13, 0x02, 0, 0]
      else t.side.response = [0x13, 0x7F, 1, 0] ∧ t.side.transcript = s.side.transcript) ∧ Only [.side] s t) ∧
    ∀ code, ∃ t, exec (.spdmUnsupportedRequest code) s = .next t ∧
      t.side.response = [0x13, 0x7F, 7, code] ∧ t.side.transcript = s.side.transcript ∧ Only [.side] s t) ∧
  (∀ (nonce : List Byte) (c : Instr) (i : Nat) (s : State), s.side.ready = true → measIndexOk i = true → signingBusy s = false →
    c = .challenge 0 nonce ∨ c = .getMeasurements i true nonce → ∃ t, exec c s = .next t ∧
      (∃ j, t.side.signing = some j ∧ j.challenge = decide (c = .challenge 0 nonce) ∧
        j.body.take 2 = [0x13, if c = .challenge 0 nonce then 0x03 else 0x60]) ∧
      t.side.response = s.side.response ∧ t.free = s.free + 1 ∧ Only [.side, .free] s t) ∧
  (∀ (nonce : List Byte) (c : Instr) (i : Nat) (s : State), s.side.ready = true → measIndexOk i = true → signingBusy s = true →
    c = .challenge 0 nonce ∨ c = .getMeasurements i true nonce → ∃ t, exec c s = .next t ∧
      t.side = { s.side with response := [0x13, 0x7F, 3, 0] } ∧ Only [.side] s t) ∧
  (∀ (nonce : List Byte) (i : Nat) (s : State), s.side.ready = true → i ≤ 6 → ∃ t, exec (.getMeasurements i false nonce) s = .next t ∧
    t.side.response.take 5 = [0x13, 0x60, if i = 0 then 6 else 0, 0, if i = 0 then 0 else 1] ∧
    (0 < i → (t.side.response.drop 15).take (measurement s i).length = measurement s i) ∧
    t.side.signing = s.side.signing ∧ Only [.side, .free] s t) ∧
  (∀ (nonce : List Byte) (i slot : Nat) (sgn : Bool) (c : Instr) (s : State), s.side.ready = true →
    (c = .challenge slot nonce ∧ slot ≠ 0) ∨ (c = .getMeasurements i sgn nonce ∧ measIndexOk i = false) → ∃ t, exec c s = .next t ∧
      t.side = { s.side with response := [0x13, 0x7F, 1, 0] } ∧ Only [.side] s t) ∧
  ∀ (j : SignJob) (s : State), s.side.signing = some j → ∃ t, exec .signatureComplete s = .next t ∧
    t.side.signing = none ∧ t.side.transcript = [] ∧ t.side.response.take j.body.length = j.body ∧
    t.side.response = signedResponse s j ∧ Only [.side] s t

/-- The endpoint answers from SIDEBAND_ENDPOINT_READY on, takes a dynamic address and an endpoint identifier; before that no
message has an effect (17 R416). Telemetry pages with their content, GET_WEAVE, GET_COORD and an unknown command (17 Table
17-4, Table 17-5). SET_COORD and SET_PLANE_MAP take effect at once while no op ring is enabled, every live link then sends
LINK_CTRL, one flit more on its link, and two links on one plane conflict; with a ring enabled they are answered Busy (16
R375, R376, 17 R417). A halter command of the sideband asks for a halter, which one already asked for or running satisfies (17
R411, R416). Where the spec's words leave a point to be read, the clauses take the model's own reading of log entries 14, 26,
94, 112, 114, 115, 116. -/
def Obligations.SidebandAnswers : Prop :=
  ((∀ s : State, s.pwr.railIn = true → ∃ t, exec .sidebandEndpointReady s = .next t ∧
    t.side = { s.side with ready := true } ∧ Only [.side] s t) ∧
  (∀ (a : BitVec 7) (s : State), s.pwr.railIn = true → ∃ t, exec (.entdaa a) s = .next t ∧
    t.side = { s.side with i3cAddr := some a } ∧ Only [.side] s t) ∧
  (∀ (m : MctpControl) (s : State), s.side.ready = true → ∃ t, exec (.mctpControl m) s = .next t ∧
    (∀ e, m = .setEndpointId e → t.side.eid = e ∧ t.side.response.head? = some 0) ∧
    (m = .getEndpointId → t.side.response.take 2 = [0, s.side.eid]) ∧
    (m = .getMessageTypes → t.side.response = [0, 3, 0, 5, 0x7F]) ∧
    (∀ c, m = .other c → t.side.response = [1]) ∧ t.side.transcript = s.side.transcript ∧ Only [.side, .free] s t) ∧
  ∀ (c : Instr) (s : State), s.side.ready = false →
    (c = .getWeave ∨ c = .getCoord ∨ c = .sidebandHalter ∨ c = .getVersion ∨ (∃ a, c = .setCoord a) ∨ (∃ l, c = .setPlaneMap l) ∨
      (∃ p, c = .getTelemetry p) ∨ (∃ m, c = .mctpControl m) ∨ ∃ k, c = .unknownVendorCommand k) → exec c s = .next s) ∧
  ((∀ (p : Nat) (s : State), s.side.ready = true → ∃ t, exec (.getTelemetry p) s = .next t ∧
    (p = 0 → t.side.response = 0 :: (natBytes 4 (regRead s .pwr 0x044).toNat ++ natBytes 4 (regRead s .pwr 0x07C).toNat ++
      natBytes 4 (regRead s .pwr 0x048).toNat)) ∧
    (p = 1 → t.side.response = 0 :: (List.range 16).flatMap (fun f =>
      natBytes 4 (if answers s .clk 0x044 = true then fieldStatus s f else 0))) ∧
    (p = 2 → t.side.response = 0 :: (natBytes 4 (regRead s .glb 0x060).toNat ++ natBytes 4 (regRead s .mem 0x044).toNat ++
      natBytes 2 (censusCount s .live2) ++ natBytes 2 (censusCount s .live1) ++ natBytes 2 (censusCount s .absent) ++
      natBytes 2 ((List.range 96).filter (fun l => !linkFitted s.fuses.orderCode l)).length)) ∧
    (p = 3 → t.side.response = 0 :: (natBytes 4 (regRead s .glb 0x204).toNat ++ natBytes 4 (regRead s .glb 0x214).toNat)) ∧
    (3 < p → t.side.response = [2]) ∧ t.side.transcript = s.side.transcript ∧ Only [.side, .free] s t) ∧
  (∀ s : State, s.side.ready = true → ∃ t, exec .getWeave s = .next t ∧
    t.side.response = (if s.boot.done.getLsbD 8 then 0 :: readBytes (memGet s.glb.weaveRecord) 0 168 else [4]) ∧ Only [.side] s t) ∧
  (∀ s : State, s.side.ready = true → ∃ t, exec .getCoord s = .next t ∧
    t.side.response.take 7 = 0 :: natBytes 6 s.lnk.coord.toNat ∧
    (∀ l, l < 96 → t.side.response.getD (7 + l) 0 = ((linkAt s l).plane.map (fun p => BitVec.ofNat 8 p)).getD 0xFF) ∧
    Only [.side] s t) ∧
  ∀ (k : Byte) (s : State), s.side.ready = true → k = 0 ∨ 6 < k.toNat → ∃ t, exec (.unknownVendorCommand k) s = .next t ∧
    t.side = { s.side with response := [1] } ∧ Only [.side] s t) ∧
  ((∀ (a : BitVec 48) (s : State), s.side.ready = true → anyRingEn s = false → ∃ t, exec (.setCoord a) s = .next t ∧
    t.lnk = { s.lnk with coord := a, coordValid := true, links := t.lnk.links } ∧
    (∀ l, linkAt t l = { linkAt s l with txSeq := (linkAt t l).txSeq, retry := (linkAt t l).retry }) ∧
    (∀ l, l < 96 → s.lnk.links.length = 96 → (linkAt t l).txSeq = (linkAt s l).txSeq + if isLiveLink (linkAt s l) = true then 1 else 0) ∧
    t.side.response = [0] ∧
    t.side.flits = s.side.flits ++ ((List.range 96).filter (fun l => isLiveLink (linkAt s l))).map (linkCtrlFlit t) ∧
    Only [.lnk, .side] s t) ∧
  (∀ (ps : List Byte) (s : State), s.side.ready = true → anyRingEn s = false → planeMapOk ps = true → s.lnk.links.length = 96 →
    ∃ t, exec (.setPlaneMap ps) s = .next t ∧
      (∀ l, l < 96 → (linkAt t l).plane = mapPlane s.fuses.orderCode ps l ∧
        ((linkAt t l).conflict = true ↔ ∃ m p, m < 96 ∧ m ≠ l ∧ mapPlane s.fuses.orderCode ps l = some p ∧
          mapPlane s.fuses.orderCode ps m = some p) ∧
        (linkAt t l).txSeq = (linkAt s l).txSeq + (if isLiveLink (linkAt s l) = true then 1 else 0) ∧
        linkAt t l = { linkAt s l with
          plane := (linkAt t l).plane
          conflict := (linkAt t l).conflict
          txSeq := (linkAt t l).txSeq
          retry := (linkAt t l).retry }) ∧
      t.side.response = [0] ∧
      t.side.flits = s.side.flits ++ ((List.range 96).filter (fun l => isLiveLink (linkAt s l))).map (linkCtrlFlit t) ∧
      Only [.lnk, .side] s t) ∧
  (∀ (ps : List Byte) (s : State), s.side.ready = true → anyRingEn s = false → planeMapOk ps = false →
    ∃ t, exec (.setPlaneMap ps) s = .next t ∧ t.side = { s.side with response := [2] } ∧ Only [.side] s t) ∧
  ∀ (c : Instr) (a : BitVec 48) (ps : List Byte) (s : State), s.side.ready = true → anyRingEn s = true →
    c = .setCoord a ∨ c = .setPlaneMap ps → ∃ t, exec c s = .next t ∧ t.side = { s.side with response := [3] } ∧ Only [.side] s t) ∧
  ∀ s : State, s.side.ready = true → ∃ t, exec .sidebandHalter s = .next t ∧
    t.hst = { s.hst with
      sidebandHalter := true
      halterReq := if s.hst.halterReq = none ∧ s.hst.halterRun = none then some { cause := 2, seq := 0 } else s.hst.halterReq } ∧
    Only [.hst] s t

/-! ### Records, memories and stacks -/

/-- An event record: with the event ring enabled and not full its 64 bytes stand at the ring's tail, SEQ first and PHASE last, and
vector 17 is raised; else it is dropped and counted, the count stopping at its top. The error ring does the same with its
records (15 R370, R371, 17 R408). A fault counts in a unit's life; the second within 24 hours of life time retires the unit
(15 R368). Where the spec's words leave a point to be read, the clauses take the model's own reading of log entries 3, 7, 8,
10. -/
def Obligations.RecordsAndFaults : Prop :=
  ((∀ (s : State) (code detail unit : Nat) (k : UnitKind), Inv s → (ringAt s 17).en = true → recordRingFull (ringAt s 17) = false →
    let t := postEvent s code k unit detail
    let a := (ringAt s 17).base + 64 * ((ringAt s 17).posted.toNat % ringSize (ringAt s 17))
    readBytes (hostByte t) a 64 =
      natBytes 4 (ringAt s 17).posted.toNat ++ natBytes 2 code ++ [BitVec.ofNat 8 (unitCode k)] ++ [0] ++
        natBytes 8 (gtcNs s).toNat ++ natBytes 2 unit ++ [0, 0] ++ natBytes 8 detail ++ List.replicate 32 0 ++
        natBytes 4 (phaseOf (ringAt s 17).posted.toNat (ringSize (ringAt s 17))) ∧
    (∀ b, b < a ∨ a + 64 ≤ b → hostByte t b = hostByte s b) ∧ (ringAt t 17).posted = (ringAt s 17).posted + 1 ∧
    t.na.msix.getLsbD 17 = true ∧ Only [.na, .hst, .host] s t) ∧
  (∀ (s : State) (code detail unit : Nat) (k : UnitKind), (ringAt s 17).en = false ∨ recordRingFull (ringAt s 17) = true →
    (postEvent s code k unit detail).hst = { s.hst with evtDropped := min top32 (s.hst.evtDropped + 1) } ∧
    Only [.hst] s (postEvent s code k unit detail)) ∧
  (∀ (s : State) (e : ErrRec), Inv s → (ringAt s 16).en = true → recordRingFull (ringAt s 16) = false →
    let t := postError s e
    let a := (ringAt s 16).base + 64 * ((ringAt s 16).posted.toNat % ringSize (ringAt s 16))
    readBytes (hostByte t) a 16 =
      natBytes 4 (ringAt s 16).posted.toNat ++ [BitVec.ofNat 8 e.kind, BitVec.ofNat 8 (unitCode e.unitKind)] ++
        natBytes 2 e.unit ++ natBytes 8 (gtcNs s).toNat ∧
    readBytes (hostByte t) (a + 60) 4 = natBytes 4 (phaseOf (ringAt s 16).posted.toNat (ringSize (ringAt s 16))) ∧
    (∀ b, b < a ∨ a + 64 ≤ b → hostByte t b = hostByte s b) ∧ (ringAt t 16).posted = (ringAt s 16).posted + 1 ∧
    t.na.msix.getLsbD 16 = true ∧ Only [.na, .hst, .host] s t) ∧
  ∀ (s : State) (e : ErrRec), (ringAt s 16).en = false ∨ recordRingFull (ringAt s 16) = true →
    postError s e = { s with glb := { s.glb with errDropped := min top32 (s.glb.errDropped + 1) } }) ∧
  ∀ (s : State) (k : UnitKind) (i : Nat) (reason : Byte), isRetired s k i = false →
    (studUnit (recordFault s k i reason) k i).life = min top16 ((studUnit s k i).life + 1) ∧
    (isRetired (recordFault s k i reason) k i = true ↔ ∃ x ∈ (studUnit s k i).faults, lifeTime s < x + 86400) ∧
    (∀ k' i', (k', i') ≠ (k, i) → studUnit (recordFault s k i reason) k' i' = studUnit s k' i') ∧
    Only [.na, .hst, .stud, .host] s (recordFault s k i reason)

/-- A bank that is on becomes ready; one that is off does not (08 R219). A scrub of a line in a ready bank: clean changes nothing;
a corrected word is logged, and only the 1,001st of its bank within an hour is a fault; an uncorrectable one marks a word of
the line bad, posts its record and is a fault of the bank; no byte of the scratchpad changes; a region whose bank that retires
is marked to leave the weave (08 R207, 15 R353, R354, R368). A patrol scrub of a stack that serves: a corrected codeword
counts in ECC_CORR, an uncorrectable one in ECC_UNCORR and is marked bad, with its record; no byte of DRAM changes (09 R236,
R237, 15 R353). Where the spec's words leave a point to be read, the clauses take the model's own reading of log entries 23,
35, 37, 120, 168. -/
def Obligations.BanksAndScrubs : Prop :=
  (∀ (r b : Nat) (s : State), Inv s → r < 96 → b < 32 → ∃ t, exec (.bankReady r b) s = .next t ∧
    (∀ j, j < 32 → (regionAt t r).bankReady.getLsbD j =
      ((regionAt s r).bankReady.getLsbD j || (decide (j = b) && (regionAt s r).bankOn.getLsbD j))) ∧
    regionAt t r = { regionAt s r with bankReady := (regionAt t r).bankReady } ∧
    (∀ k, k ≠ r → regionAt t k = regionAt s k) ∧ Only [.regions] s t) ∧
  (∀ (r line : Nat) (found : ScrubFinding) (s : State), Inv s → r < 96 → line < 524288 → (regionAt s r).powered = true →
    ((regionAt s r).bankOn &&& (regionAt s r).bankReady).getLsbD (line / 16384) = true →
    ∃ t, exec (.spadScrub r line found) s = .next t ∧
      (found = .clean → t = s) ∧
      (found = .correctable → t.badSpad = s.badSpad ∧
        (((regionAt s r).bankCorr.filter (fun e => decide (e.1 = line / 16384) && decide (lifeTime s < e.2 + 3600))).length < 1000 →
          (line / 16384, lifeTime s) ∈ (regionAt t r).bankCorr ∧ t.stud = s.stud) ∧
        (1000 ≤ ((regionAt s r).bankCorr.filter (fun e => decide (e.1 = line / 16384) && decide (lifeTime s < e.2 + 3600))).length →
          (studUnit t .bank (r * 32 + line / 16384)).faults.head? = some (lifeTime s))) ∧
      (found = .uncorrectable →
        (∃ w, r * 2 ^ 26 + line * 128 ≤ w ∧ w < r * 2 ^ 26 + line * 128 + 128 ∧ w % 8 = 0 ∧ w ∈ t.badSpad) ∧
        (∀ w ∈ s.badSpad, w ∈ t.badSpad) ∧ (studUnit t .bank (r * 32 + line / 16384)).faults.head? = some (lifeTime s) ∧
        ((ringAt s 16).en = true → recordRingFull (ringAt s 16) = false → (ringAt t 16).posted = (ringAt s 16).posted + 1) ∧
        ((regionAt s r).live = true → isRetired t .bank (r * 32 + line / 16384) = true → (regionAt t r).leavePending = true)) ∧
      Only [.regions, .na, .hst, .glb, .stud, .host, .badSpad, .free] s t) ∧
  ∀ (a : Nat) (found : ScrubFinding) (s : State), Inv s → isDram s a = true → stackServes (stackAt s (dramPlace s a).1) = true →
    ∃ t, exec (.dramPatrolScrub a found) s = .next t ∧
      (found = .clean → t = s) ∧
      (found = .correctable → (stackAt t (dramPlace s a).1).eccCorr = min top32 ((stackAt s (dramPlace s a).1).eccCorr + 1) ∧
        t.badDram = s.badDram ∧ Only [.memStacks, .glb] s t) ∧
      (found = .uncorrectable →
        (stackAt t (dramPlace s a).1).eccUncorr = min top32 ((stackAt s (dramPlace s a).1).eccUncorr + 1) ∧
        a / 64 * 64 ∈ t.badDram ∧ (∀ w ∈ s.badDram, w ∈ t.badDram) ∧
        ((stackAt s (dramPlace s a).1).uncorrLog.length < 100 → t.stud = s.stud) ∧
        ((ringAt s 16).en = true → recordRingFull (ringAt s 16) = false → (ringAt t 16).posted = (ringAt s 16).posted + 1 ∧
          readBytes (hostByte t) ((ringAt s 16).base + 64 * ((ringAt s 16).posted.toNat % ringSize (ringAt s 16))) 8 =
            natBytes 4 (ringAt s 16).posted.toNat ++ [3, BitVec.ofNat 8 (unitCode .stack)] ++
              natBytes 2 (dramPlace s a).1) ∧
        ((ringAt s 16).en = false ∨ recordRingFull (ringAt s 16) = true →
          t.glb.errDropped = min top32 (s.glb.errDropped + 1))) ∧
      (∀ m, m ≠ (dramPlace s a).1 → stackAt t m = stackAt s m) ∧
      Only [.memStacks, .na, .hst, .glb, .stud, .host, .badDram] s t

/-- Refresh commands owed by a pseudo-channel: postponed ones add up to at most seven, an issued one takes one off; every other
channel owes what it did (09 R239). A reading of a fitted stack under a spine that is on: the refresh rate doubles from 84 and
returns at 82 degrees, throttling begins at 95 and ends at 93, self-refresh for heat ends at 90; on reaching 93 the field
under the stack is limited to one gait lower and, unless it is halted, moves down to it; a live stack 15 K from its last
training and 60 s after it the stack queues for retraining (09 R238, R240, R243). A hot stack: each further millisecond at 93
degrees or more takes its field down a gait, at 90 or less it lets the field up one; after a second at 95 with the field at
walk it goes into self-refresh (09 R240). Where the spec's words leave a point to be read, the clauses take the model's own
reading of log entries 24, 107. -/
def Obligations.RefreshAndHeatOfStacks : Prop :=
  (∀ (m pc : Nat) (late : Bool) (s : State), Inv s → m < 16 → pc < 64 → stackServes (stackAt s m) = true →
    (stackAt s m).owed.Pairwise (fun p q => p.1 < q.1) → ∃ t, exec (.refreshDue m pc late) s = .next t ∧
      owedOf (stackAt t m) pc = (if late then min 7 (owedOf (stackAt s m) pc + 1) else owedOf (stackAt s m) pc - 1) ∧
      (∀ k, k ≠ pc → owedOf (stackAt t m) k = owedOf (stackAt s m) k) ∧
      (stackAt t m).owed.Pairwise (fun p q => p.1 < q.1) ∧
      stackAt t m = { stackAt s m with owed := (stackAt t m).owed } ∧
      (∀ k, k ≠ m → stackAt t k = stackAt s k) ∧ Only [.memStacks] s t) ∧
  (∀ (m temp : Nat) (s : State), Inv s → m < 16 → stackFitted s.fuses.orderCode m = true → (fieldAt s m).spineOn = true →
    ∃ t, exec (.stackTempSample m temp) s = .next t ∧
      stackAt t m = { stackAt s m with
        temp := temp
        hotRefresh := decide (84 ≤ temp) || ((stackAt s m).hotRefresh && decide (82 < temp))
        throttled := decide (95 ≤ temp) || ((stackAt s m).throttled && decide (93 < temp))
        hotSelfRefresh := (stackAt s m).hotSelfRefresh && decide (90 < temp) } ∧
      (93 ≤ temp → (stackAt s m).temp < 93 →
        (fieldAt t m).stackLimit = gaitBelow (fieldAt s m).gait ∧
        ((fieldAt s m).halted = false → gaitNum (fieldAt t m).gait ≤ gaitNum (gaitBelow (fieldAt s m).gait))) ∧
      (temp < 93 ∨ 93 ≤ (stackAt s m).temp → t.fields = s.fields) ∧
      ((stackAt s m).live = true → (stackAt s m).failed = false →
        (stackAt s m).trainTemp + 15 < temp ∨ temp + 15 < (stackAt s m).trainTemp →
        (stackAt s m).trainedAt.toNat + 60000000000 ≤ (gtcNs s).toNat → m ∈ t.glb.retrainQueue) ∧
      ((stackAt s m).live = false ∨ (stackAt s m).failed = true → t.glb = s.glb) ∧
      (∀ k, k ≠ m → stackAt t k = stackAt s k) ∧ Only [.fields, .memStacks, .glb] s t) ∧
  (∀ (m : Nat) (s : State), Inv s → m < 16 → stackFitted s.fuses.orderCode m = true → (fieldAt s m).spineOn = true →
    ∃ t, exec (.stackHotStep m) s = .next t ∧
      (93 ≤ (stackAt s m).temp → (fieldAt t m).stackLimit = gaitBelow (fieldAt s m).gait ∧
        ((fieldAt s m).halted = false → gaitNum (fieldAt t m).gait ≤ gaitNum (gaitBelow (fieldAt s m).gait))) ∧
      ((stackAt s m).temp ≤ 90 → (fieldAt t m).stackLimit = gaitAbove (fieldAt s m).stackLimit ∧
        (fieldAt t m).gait = (fieldAt s m).gait) ∧
      (90 < (stackAt s m).temp → (stackAt s m).temp < 93 → t = s) ∧ Only [.fields] s t) ∧
  ∀ (m : Nat) (s : State), Inv s → m < 16 → stackServes (stackAt s m) = true → 95 ≤ (stackAt s m).temp →
    (fieldAt s m).gait = .walk → ∃ t, exec (.stackHotSelfRefresh m) s = .next t ∧
      stackAt t m = { stackAt s m with hotSelfRefresh := true } ∧ (∀ k, k ≠ m → stackAt t k = stackAt s k) ∧ Only [.memStacks] s t

/-- A retraining begins with the stack at the head of the queue when none runs, with event 0x0010, unless the K spine is cut off;
it ends with new settings, its temperature bands applied and event 0x0011, or with the earlier settings, RETRAIN_FAILED, a
fault of the stack and event 0x0012 (01 R17, 09 R243 to R245). A stack fails: reported, after 10 s in self-refresh for heat,
or with its lanes exhausted. It is FAILED and retired, leaves the retraining queue, and ends the operation, in flight or
started and set aside, that reaches it; another operation goes on, and so does a COLLECTIVE that has not started (09 R240,
R245, 16 R388). Where the spec's words leave a point to be read, the clauses take the model's own reading of log entries 7, 8,
10, 35, 57, 106, 121, 126. -/
def Obligations.RetrainingAndStackFailure : Prop :=
  ((∀ (m : Nat) (rest : List Nat) (s : State), Inv s → s.glb.retrainQueue = m :: rest → retrainingStack s = none →
    stackServes (stackAt s m) = true → kCutOff s = false → ∃ t, exec .retrainBegin s = .next t ∧
      stackAt t m = { stackAt s m with retraining := true } ∧ t.glb = { s.glb with retrainQueue := rest } ∧
      EventSent s t (gtcNs s) 0x0010 .stack m (stackAt s m).temp ∧
      (∀ k, k ≠ m → stackAt t k = stackAt s k) ∧ Only [.memStacks, .na, .hst, .glb, .host] s t) ∧
  (∀ s : State, kCutOff s = true → exec .retrainBegin s = .next s) ∧
  (∀ (m temp : Nat) (lanes : List (Nat × Nat)) (s : State), Inv s → retrainingStack s = some m →
    lanesFit ((stackAt s m).spareLanes ++ lanes) = true →
    ∃ t, exec (.retrainEnd (.centred temp lanes)) s = .next t ∧
      stackAt t m = { stackBands temp (stackAt s m) with
        trained := true
        trainOk := true
        retraining := false
        selfRefresh := false
        spareLanes := laneTable ((stackAt s m).spareLanes ++ lanes)
        trainTemp := temp
        trainedAt := gtcNs s
        retrainFailed := false } ∧ EventSent s t (gtcNs s) 0x0011 .stack m temp ∧
      (∀ k, k ≠ m → stackAt t k = stackAt s k) ∧ t.stud.units = s.stud.units ∧ Only [.memStacks, .na, .hst, .stud, .host] s t) ∧
  (∀ (m : Nat) (s : State), Inv s → retrainingStack s = some m → ∃ t, exec (.retrainEnd .eyesNotCentred) s = .next t ∧
    stackAt t m = { stackAt s m with retraining := false, retrainFailed := true } ∧
    (isRetired t .stack m = isRetired s .stack m → EventSent s t (gtcNs s) 0x0012 .stack m (stackAt s m).temp) ∧
    (studUnit t .stack m).faults.head? = some (lifeTime s) ∧ Only [.memStacks, .na, .hst, .stud, .host] s t) ∧
  ∀ (s : State), RegisterOpen s .mem 0x054 → (ctlAt s .mem).keyOpen = true → stackFitted s.fuses.orderCode s.glb.memSel.toNat = true →
    (stackAt s s.glb.memSel.toNat).live = true → (stackAt s s.glb.memSel.toNat).failed = false → ∃ t, exec .memRetrainStart s = .next t ∧
      t.glb.retrainQueue = (if s.glb.memSel.toNat ∈ s.glb.retrainQueue ∨ (stackAt s s.glb.memSel.toNat).retraining = true then
        s.glb.retrainQueue else s.glb.retrainQueue ++ [s.glb.memSel.toNat]) ∧
      t.memStacks = s.memStacks ∧ Only [.blocks, .glb] s t) ∧
  ∀ (c : Instr) (m : Nat) (s : State), Inv s → m < 16 → (stackAt s m).live = true → (stackAt s m).failed = false →
    c = .stackFailed m ∨ (c = .stackHotTimeout m ∧ (stackAt s m).hotSelfRefresh = true ∧ 90 < (stackAt s m).temp) ∨
      (∃ temp lanes, c = .retrainEnd (.centred temp lanes) ∧ retrainingStack s = some m ∧
        lanesFit ((stackAt s m).spareLanes ++ lanes) = false) → ∃ t, exec c s = .next t ∧
    (stackAt t m).failed = true ∧ (stackAt t m).retraining = false ∧ (stackAt t m).live = true ∧ isRetired t .stack m = true ∧
    m ∉ t.glb.retrainQueue ∧
    (∀ o ∈ acceptedOps s, collWaits o = false → needsStack s m o = true → s.master.sel ≠ none →
      t.master.op = none ∧ t.master.sel = none ∧ t.master.tiles = []) ∧
    (∀ o ∈ s.master.colls, collStarted o = true → needsStack s m o = true → o ∉ t.master.colls) ∧
    ((∀ o, (o ∈ acceptedOps s ∧ collWaits o = false) ∨ (o ∈ s.master.colls ∧ collStarted o = true) → needsStack s m o = false) →
      t.master = s.master ∧ t.regions = s.regions) ∧
    t.dram = s.dram ∧ t.sync = s.sync ∧
    Only [.fields, .regions, .memStacks, .lnk, .na, .hst, .glb, .master, .stud, .spad, .before, .host, .badSpad] s t

/-! ### Gaits, crossings and time -/

/-- GAIT_DOWN takes the field to its granted gait when that is lower; a halted field keeps its gait; GAIT_UP ends a rise that is
still granted at its gait; GRANTED_GAIT_RISE begins a rise by one gait; IDLE_WALK lets an idle field walk (11 R271, 13 R313,
R314). A droop trip stretches the field's period and counts its own stretch, and samples the rail of a live region; in a
period that is stretched already it does not stretch again. A field behind a neighbour stretches, one behind none, or in a
period already stretched, does not (11 R279 to R281). The end of a millisecond: more than 5 % of stretched beats demote the
field by one gait, or post event 0x0031 at walk; at most 1 % counts a quiet millisecond; the count of own stretches is
published and starts again (11 R282). Where the spec's words leave a point to be read, the clauses take the model's own
reading of log entries 7, 8, 10, 45, 48, 50, 51, 53, 54, 82, 139. -/
def Obligations.GaitsAndReins : Prop :=
  ((∀ (f : Nat) (s : State), Inv s → f < 16 → ∃ t, exec (.gaitDown f) s = .next t ∧
    gaitNum (fieldAt t f).gait =
      (if (fieldAt s f).halted = true then gaitNum (fieldAt s f).gait
       else min (gaitNum (fieldAt s f).gait) (gaitNum (grantedGait s f))) ∧
    (∀ k, k ≠ f → (fieldAt t k).gait = (fieldAt s k).gait) ∧ Only [.fields] s t) ∧
  (∀ (f : Nat) (g : Gait) (s : State), Inv s → f < 16 → (fieldAt s f).halted = false → (fieldAt s f).rising = some g →
    ∃ t, exec (.gaitUp f) s = .next t ∧
    (fieldAt t f).rising = none ∧
    (fieldAt t f).gait = (if mayRise s = true ∧ gaitNum g ≤ gaitNum (grantedGait s f) then g else (fieldAt s f).gait) ∧
    (∀ k, k ≠ f → (fieldAt t k).gait = (fieldAt s k).gait) ∧ Only [.fields] s t) ∧
  (∀ (f : Nat) (s : State), Inv s → f < 16 → ∃ t, exec (.grantedGaitRise f) s = .next t ∧
    fieldAt t f = (if fieldRuns s f = true ∧ mayRise s = true ∧ (fieldAt s f).rising = none ∧
        gaitNum (fieldAt s f).gait < gaitNum (grantedGait s f)
      then { fieldAt s f with rising := some (gaitAbove (fieldAt s f).gait) } else fieldAt s f) ∧
    (∀ k, k ≠ f → fieldAt t k = fieldAt s k) ∧ Only [.fields] s t) ∧
  ∀ (f : Nat) (s : State), Inv s → f < 16 → s.pwr.idleWalkEn = true → (∀ r ∈ regionsOf f, (regionAt s r).queue = []) →
    ∃ t, exec (.idleWalk f) s = .next t ∧ ((fieldAt s f).halted = false → (fieldAt t f).gait = .walk) ∧ (fieldAt t f).idle = true ∧ Only [.fields] s t) ∧
  ((∀ (r vcore : Nat) (same : Bool) (s : State), Inv s → r < 96 → (regionAt s r).powered = true →
    fieldRuns s (fieldOf r) = true → ∃ t, exec (.droopTrip r same vcore) s = .next t ∧
      fieldAt t (fieldOf r) = { fieldAt s (fieldOf r) with
        rein := if same then (fieldAt s (fieldOf r)).rein else (fieldAt s (fieldOf r)).rein + 1
        ownRun := if same then (fieldAt s (fieldOf r)).ownRun else (fieldAt s (fieldOf r)).ownRun + 1
        beats := (fieldAt t (fieldOf r)).beats
        edges := (fieldAt t (fieldOf r)).edges } ∧
      (∀ k, k ≠ fieldOf r → fieldAt t k = { fieldAt s k with edges := (fieldAt t k).edges }) ∧
      (∀ k e, edgeAt t k e =
        { edgeAt s k e with occMin := (edgeAt t k e).occMin, occMax := (edgeAt t k e).occMax }) ∧
      ((regionAt s r).live = true → vcore ≤ 1023 → (regionAt t r).vminValid = true ∧ (regionAt t r).vmin =
        (if (regionAt s r).vminValid = true ∧ (regionAt s r).vmin ≤ vcore then (regionAt s r).vmin else vcore)) ∧
      ((regionAt s r).live = false ∨ 1023 < vcore → t.regions = s.regions) ∧ Only [.fields, .regions, .free] s t) ∧
  (∀ (f : Nat) (s : State), f < 16 → exec (.reinEcho f true) s = .next s) ∧
  ∀ (f : Nat) (s : State), Inv s → f < 16 → fieldRuns s f = true → ∃ t, exec (.reinEcho f false) s = .next t ∧
    ((∃ d n, d < 4 ∧ neighbour f d = some n ∧ (edgeAt s f d).mode = .meso ∧ fieldRuns s n = true ∧
        1 ≤ ((fieldAt s n).rein - (fieldAt s f).rein - (edgeAt s f d).offset).toNat ∧
        ((fieldAt s n).rein - (fieldAt s f).rein - (edgeAt s f d).offset).toNat ≤ 7) →
      fieldAt t f = { fieldAt s f with rein := (fieldAt s f).rein + 1, edges := (fieldAt t f).edges }) ∧
    ((∀ d n, d < 4 → neighbour f d = some n → (edgeAt s f d).mode = .meso → fieldRuns s n = true →
        ((fieldAt s n).rein - (fieldAt s f).rein - (edgeAt s f d).offset).toNat = 0 ∨
        7 < ((fieldAt s n).rein - (fieldAt s f).rein - (edgeAt s f d).offset).toNat) → t = s) ∧
    (∀ k, k ≠ f → fieldAt t k = { fieldAt s k with edges := (fieldAt t k).edges }) ∧
    (∀ k e, edgeAt t k e = { edgeAt s k e with occMin := (edgeAt t k e).occMin, occMax := (edgeAt t k e).occMax }) ∧
    Only [.fields] s t) ∧
  ∀ (f beats : Nat) (s : State), Inv s → f < 16 → ∃ t, exec (.demotionCheck f beats) s = .next t ∧
    (fieldAt t f).ownRun = 0 ∧ (fieldAt t f).ownReins = min 65535 (fieldAt s f).ownRun ∧
    (beats < 20 * (fieldAt s f).ownRun → (fieldAt t f).quietMs = 0 ∧
      ((fieldAt s f).gait ≠ .walk → (fieldAt t f).demoted = true ∧ (fieldAt t f).demoteLimit = gaitBelow (fieldAt s f).gait ∧
        ((fieldAt s f).halted = false → gaitNum (fieldAt t f).gait ≤ gaitNum (gaitBelow (fieldAt s f).gait)) ∧ t.hst = s.hst) ∧
      ((fieldAt s f).gait = .walk → (fieldAt t f).gait = .walk ∧
        EventSent s t (gtcNs s) 0x0031 .spine f (fieldAt s f).ownRun)) ∧
    (20 * (fieldAt s f).ownRun ≤ beats → (fieldAt t f).gait = (fieldAt s f).gait ∧ t.hst = s.hst ∧
      (beats < 100 * (fieldAt s f).ownRun → (fieldAt t f).quietMs = 0) ∧
      (100 * (fieldAt s f).ownRun ≤ beats → (fieldAt s f).demoted = false ∨ (fieldAt s f).quietMs < 99 →
        (fieldAt t f).quietMs = min 100 ((fieldAt s f).quietMs + 1) ∧ (fieldAt t f).demoteLimit = (fieldAt s f).demoteLimit) ∧
      (100 * (fieldAt s f).ownRun ≤ beats → (fieldAt s f).demoted = true → 99 ≤ (fieldAt s f).quietMs →
        (fieldAt t f).quietMs = 0 ∧ gaitNum (fieldAt s f).demoteLimit ≤ gaitNum (fieldAt t f).demoteLimit)) ∧
    (∀ k, k ≠ f → (fieldAt t k).gait = (fieldAt s k).gait ∧ (fieldAt t k).demoted = (fieldAt s k).demoted) ∧
    Only [.fields, .na, .hst, .host] s t

/-- A PLL that locks starts its field at walk; one that loses lock stops the clock and abandons a rise, with event 0x0030 (11
R270). A crossing of two neighbours: a replay is counted; an alignment that ends with every FIFO between 3 and 5 full makes it
mesochronous, with the offset between the two reins and the entries found in each FIFO, and a sub-link it leaves at another
occupancy is disabled with its fault; a slip is counted and aligns it again; FIFOs that have drained are empty and pass flits
again (10 R262, 11 R275 to R278). A sub-link whose flit failed a third time is disabled on both sides, with its fault; a join
that falls below its need comes down, ends the operation and stops every op ring (10 R262, R263). Where the spec's words leave
a point to be read, the clauses take the model's own reading of log entries 7, 8, 10, 49, 50, 56, 126, 139, 140, 146, 164. -/
def Obligations.LocksCrossingsAndJoins : Prop :=
  ((∀ (f : Nat) (s : State), Inv s → f < 16 → (fieldAt s f).spineOn = true → (fieldAt s f).pllLock = false →
    ∃ t, exec (.pllLock f) s = .next t ∧
      (fieldAt t f).pllLock = true ∧ (fieldAt t f).gait = .walk ∧ (fieldAt t f).rising = none ∧ (fieldAt t f).halted = false ∧
      (∀ k, k ≠ f → (fieldAt t k).gait = (fieldAt s k).gait ∧ (fieldAt t k).pllLock = (fieldAt s k).pllLock) ∧
      Only [.fields] s t) ∧
  ∀ (f : Nat) (s : State), Inv s → f < 16 → (fieldAt s f).pllLock = true → ∃ t, exec (.pllLossOfLock f) s = .next t ∧
    fieldAt t f = { fieldAt s f with pllLock := false, rising := none } ∧ (∀ k, k ≠ f → fieldAt t k = fieldAt s k) ∧
    EventSent s t (fieldTime s f) 0x0030 .spine f 0 ∧ Only [.fields, .na, .hst, .host] s t) ∧
  ((∀ (f d k n : Nat) (s : State), Inv s → f < 16 → d < 4 → k < 32 → neighbour f d = some n → (edgeAt s f d).up = true →
    (edgeAt s f d).draining = true ∨ (edgeAt s f d).mode = .meso ∨ (edgeAt s f d).mode = .ratio →
    ∃ t, exec (.crossingFlitParityReplay f d k false) s = .next t ∧
      edgeAt t f d = { edgeAt s f d with replays := min top32 ((edgeAt s f d).replays + 1) } ∧
      (∀ g e, (g, e) ≠ (f, d) → edgeAt t g e = edgeAt s g e) ∧ Only [.fields] s t) ∧
  (∀ (f d n : Nat) (leaving entering : List Nat) (s : State), Inv s → f < 16 → d < 4 → neighbour f d = some n →
    (edgeAt s f d).mode = .aligning → (edgeAt s f d).draining = false → joinNeed f n ≤ liveSubLinks (edgeAt s f d) →
    (∀ k, (edgeAt s f d).live.getLsbD k = true →
      3 ≤ leaving.getD k 4 ∧ leaving.getD k 4 ≤ 5 ∧ 3 ≤ entering.getD k 4 ∧ entering.getD k 4 ≤ 5) →
    ∃ t, exec (.crossingAlignEnd f d leaving entering) s = .next t ∧
      edgeAt t f d = { edgeAt s f d with
        mode := .meso
        offset := (fieldAt s n).rein - (fieldAt s f).rein
        fifo := (List.range 32).map (fun k => fifoOf s f d k (leaving.getD k 4))
        occMin := (edgeAt t f d).occMin
        occMax := (edgeAt t f d).occMax } ∧
      edgeAt t n (opposite d) = { edgeAt s n (opposite d) with
        mode := .meso
        draining := false
        offset := (fieldAt s f).rein - (fieldAt s n).rein
        fifo := (List.range 32).map (fun k => fifoOf s n (opposite d) k (entering.getD k 4))
        occMin := (edgeAt t n (opposite d)).occMin
        occMax := (edgeAt t n (opposite d)).occMax } ∧
      (∀ k, (edgeAt s f d).live.getLsbD k = true →
        (edgeAt t f d).occMin ≤ leaving.getD k 4 ∧ leaving.getD k 4 ≤ (edgeAt t f d).occMax) ∧ Only [.fields, .free] s t) ∧
  (∀ (f d k n : Nat) (leaving entering : List Nat) (s : State), Inv s → f < 16 → d < 4 → neighbour f d = some n →
    (edgeAt s f d).mode = .aligning → (edgeAt s f d).draining = false → (edgeAt s f d).live.getLsbD k = true →
    leaving.getD k 4 < 3 ∨ 5 < leaving.getD k 4 ∨ entering.getD k 4 < 3 ∨ 5 < entering.getD k 4 →
    ∃ t, exec (.crossingAlignEnd f d leaving entering) s = .next t ∧
      (edgeAt t f d).live.getLsbD k = false ∧ (edgeAt t n (opposite d)).live.getLsbD k = false ∧
      (studUnit t .subLink (subLinkIndex f d k)).faults.head? = some (lifeTime s) ∧ t.dram = s.dram ∧
      Only [.fields, .regions, .lnk, .na, .hst, .glb, .master, .stud, .spad, .before, .host, .badSpad, .free] s t) ∧
  (∀ (f d n : Nat) (leaving full : Bool) (s : State), Inv s → f < 16 → d < 4 → neighbour f d = some n →
    (edgeAt s f d).mode = .meso → ∃ t, exec (.crossingSlip f d leaving full) s = .next t ∧
      edgeAt t f d = { edgeAt s f d with
        mode := .aligning
        slips := min top16 ((edgeAt s f d).slips + 1)
        replays := min top32 ((edgeAt s f d).replays + 1)
        occMin := if leaving && !full then 0 else (edgeAt s f d).occMin
        occMax := if leaving && full then 8 else (edgeAt s f d).occMax } ∧
      edgeAt t n (opposite d) = { edgeAt s n (opposite d) with
        mode := .aligning
        slips := min top16 ((edgeAt s n (opposite d)).slips + 1)
        occMin := if !leaving && !full then 0 else (edgeAt s n (opposite d)).occMin
        occMax := if !leaving && full then 8 else (edgeAt s n (opposite d)).occMax } ∧
      Only [.fields, .na, .hst, .host, .free] s t) ∧
  ∀ (f d n : Nat) (s : State), Inv s → f < 16 → d < 4 → neighbour f d = some n → ∃ t, exec (.crossingFifoDrained f d) s = .next t ∧
    (∀ g e, (g, e) = (f, d) ∨ (g, e) = (n, opposite d) → edgeAt t g e =
      (if (edgeAt s g e).draining = true then { edgeAt s g e with draining := false, fifo := List.replicate 32 [] } else edgeAt s g e)) ∧
    Only [.fields] s t) ∧
  ∀ (f d k n : Nat) (s : State), Inv s → f < 16 → d < 4 → k < 32 → neighbour f d = some n → (edgeAt s f d).up = true →
    (edgeAt s f d).draining = true ∨ (edgeAt s f d).mode = .meso ∨ (edgeAt s f d).mode = .ratio →
    (edgeAt s f d).live.getLsbD k = true → ∃ t, exec (.crossingFlitParityReplay f d k true) s = .next t ∧
      (edgeAt t f d).live = (edgeAt s f d).live &&& ~~~(BitVec.ofNat 32 (2 ^ k)) ∧
      (edgeAt t n (opposite d)).live = (edgeAt s n (opposite d)).live &&& ~~~(BitVec.ofNat 32 (2 ^ k)) ∧
      (studUnit t .subLink (subLinkIndex f d k)).faults.head? = some (lifeTime s) ∧
      (joinNeed f n ≤ liveSubLinks (edgeAt t f d) → (edgeAt t f d).up = true ∧ t.master = s.master) ∧
      (liveSubLinks (edgeAt t f d) < joinNeed f n →
        (edgeAt t f d).up = false ∧ (edgeAt t n (opposite d)).up = false ∧
        (s.master.sel ≠ none → s.master.op ≠ none → t.master.op = none) ∧
        ∀ r, r < 16 → (ringAt t r).en = true → (ringAt t r).stopped = true) ∧
      t.dram = s.dram ∧ t.sync = s.sync ∧
      Only [.fields, .regions, .lnk, .na, .hst, .glb, .master, .stud, .spad, .before, .host, .badSpad, .free] s t

/-- GTC_TIME_CODE: each microsecond adds 1,000 ns, and the counter slews by one tick in 1,024, until nothing is left to slew;
every spine that is on and the landings of every I/O die that is on, and K's, take the value. FOLLOWER_CONTACT_LOST: a
follower runs free, with event 0x0032. PPS_EDGE within 1 us of a whole second slews the counter toward it; one further away
sets FAR, with event 0x0033 when it was clear. PPS_LOST sets PPS_LOST, with event 0x0034. A module whose rail is out, or that
does not use PPS, or follows nobody, takes none of them (11 R283, R284, R286, R287). Where the spec's words leave a point to
be read, the clauses take the model's own reading of log entries 4, 7, 8, 10, 52, 111. -/
def Obligations.TimeAdvancesAndSlews : Prop :=
  (∀ (n : Nat) (s : State), s.pwr.railIn = true → ∃ t, exec (.gtcTimeCode n) s = .next t ∧
    (∃ d : Int, t.clk.gtc = s.clk.gtc + BitVec.ofNat 64 (1000 * n) + BitVec.ofInt 64 d ∧ t.clk.slew = s.clk.slew - d ∧
      d.natAbs = min ((s.clk.tickPhase + 250 * n) / 1024) s.clk.slew.natAbs ∧ 0 ≤ d * s.clk.slew) ∧
    t.clk.upNs = s.clk.upNs + 1000 * n ∧
    (∀ f, (fieldAt t f).gtcCopy = (if (fieldAt s f).spineOn then t.clk.gtc else (fieldAt s f).gtcCopy)) ∧
    (∀ k, k < s.clk.landGtc.length → t.clk.landGtc.getD k 0 =
      (if 8 ≤ k ∨ s.pwr.ioCoreOn.getD (k / 2) false = true then t.clk.gtc else s.clk.landGtc.getD k 0)) ∧
    (∀ f, (fieldAt t f).gait = (fieldAt s f).gait) ∧ (s.farrier.session = none → t.farrier = s.farrier) ∧
    Only [.clk, .fields, .farrier] s t) ∧
  (∀ (n : Nat) (s : State), s.pwr.railIn = false → exec (.gtcTimeCode n) s = .next s) ∧
  (∀ s : State, Inv s → s.clk.syncRole = 2 → ∃ t, exec .followerContactLost s = .next t ∧
    t.clk = { s.clk with locked := false, slew := 0 } ∧ EventSent s t (gtcNs s) 0x0032 .none 0 (detailInt s.clk.offsetNs) ∧
    Only [.clk, .na, .hst, .host] s t) ∧
  (∀ s : State, s.clk.syncRole ≠ 2 → exec .followerContactLost s = .next s) ∧
  (∀ s : State, Inv s → s.clk.ppsEn = true → s.clk.syncRole ≠ 2 → ∃ t, exec .ppsEdge s = .next t ∧
    ((ppsOffset s.clk.gtc).natAbs ≤ 1000 →
      t.clk = { s.clk with offsetNs := ppsOffset s.clk.gtc, far := false, slew := -ppsOffset s.clk.gtc } ∧ Only [.clk] s t) ∧
    (1000 < (ppsOffset s.clk.gtc).natAbs → t.clk = { s.clk with offsetNs := ppsOffset s.clk.gtc, far := true } ∧
      (s.clk.far = true → Only [.clk] s t) ∧
      (s.clk.far = false → EventSent s t (gtcNs s) 0x0033 .none 0 (detailInt (ppsOffset s.clk.gtc)) ∧
        Only [.clk, .na, .hst, .host] s t))) ∧
  (∀ s : State, Inv s → s.clk.ppsEn = true → s.clk.syncRole ≠ 2 → ∃ t, exec .ppsLost s = .next t ∧
    t.clk = { s.clk with ppsLost := true, slew := 0 } ∧ EventSent s t (gtcNs s) 0x0034 .none 0 (detailInt s.clk.offsetNs) ∧
    Only [.clk, .na, .hst, .host] s t) ∧
  ∀ (c : Instr) (s : State), (c = .ppsEdge ∨ c = .ppsLost) ∧ (s.clk.ppsEn = false ∨ s.clk.syncRole = 2) → exec c s = .next s

/-! ### Power and heat -/

/-- Input overcurrent, a low plane, a plane above its 30 s rating and a stage above 125 degrees each drive CURB_N low; a release
lets the line go (12 R292, R295, R308, R310). CURB_N low takes every field that is on to walk, abandons its rise and the
farrier's session, slows soft-starts, is counted and posts event 0x0041; high for 10 ms, every field that may begins a rise of
one gait (12 R309, R310, 15 R367). Where the spec's words leave a point to be read, the clauses take the model's own reading
of log entries 7, 8, 10, 45, 55. -/
def Obligations.CurbDrivenAndAsserted : Prop :=
  ((∀ (c : Instr) (f : Nat) (s : State), f < 16 →
    c = .inputOvercurrent ∨ c = .planeLow f ∨ c = .planeAbove30sRating f ∨ c = .stageAbove125c f → ∃ t, exec c s = .next t ∧
      t.pwr = { s.pwr with curbOwn := true, curbHigh10ms := false } ∧ curbLow t = true ∧ Only [.pwr] s t) ∧
  (∀ s : State, ∃ t, exec .curbNModuleRelease s = .next t ∧
    t.pwr = { s.pwr with curbOwn := false } ∧ curbLow t = s.pwr.curbExt ∧ Only [.pwr] s t) ∧
  ∀ s : State, ∃ t, exec .curbNExternalRelease s = .next t ∧
    t.pwr = { s.pwr with curbExt := false } ∧ curbLow t = s.pwr.curbOwn ∧ Only [.pwr] s t) ∧
  (∀ (own : Bool) (s : State), Inv s → ∃ t, exec (.curbNAssert own) s = .next t ∧
    (∀ f, f < 16 → (fieldAt s f).spineOn = true → (fieldAt s f).halted = false →
      (fieldAt t f).gait = .walk ∧ (fieldAt t f).rising = none) ∧
    (∀ f, f < 16 → (fieldAt s f).spineOn = false ∨ (fieldAt s f).halted = true → (fieldAt t f).gait = (fieldAt s f).gait) ∧
    (∀ f y, f < 16 → (fieldAt s f).softStart = some y → (fieldAt t f).softStart = some { y with slow := true }) ∧
    curbLow t = true ∧ mayRise t = false ∧ t.farrier.session = none ∧
    (s.farrier.session = none → EventSent s t (gtcNs s) 0x0041 .none 0 (if own then 1 else 0)) ∧
    t.pwr.curbOwnCount = (if own then min top16 (s.pwr.curbOwnCount + 1) else s.pwr.curbOwnCount) ∧
    t.pwr.curbExtCount = (if own then s.pwr.curbExtCount else min top16 (s.pwr.curbExtCount + 1)) ∧
    Only [.pwr, .fields, .regions, .na, .hst, .farrier, .spad, .before, .host, .badSpad] s t) ∧
  (∀ s : State, Inv s → curbLow s = false → ∃ t, exec .curbRestore s = .next t ∧
    t.pwr = { s.pwr with curbHigh10ms := true } ∧
    (∀ f, f < 16 → fieldAt t f = (if fieldRuns s f = true ∧ (fieldAt s f).rising = none ∧
        gaitNum (fieldAt s f).gait < gaitNum (grantedGait s f)
      then { fieldAt s f with rising := some (gaitAbove (fieldAt s f).gait) } else fieldAt s f)) ∧ Only [.pwr, .fields] s t) ∧
  ∀ s : State, curbLow s = true → exec .curbRestore s = .next s

/-- A failed stage phase is counted, one caps the field at canter and the second switches the plane off; lost sense regulates on
local sense at canter with the plane's fault; lost spine and D28 phases within their reserve are only noted (12 R294, R295,
R300). A field is lost with its plane, by the second stage phase or by three spine phases: its spine is off and retired, its
regions are dark and out of the weave, its joins down and retired, its stack failed, and a plane switched off is retired too
(15 R355); the operation ends and every op ring stops (01 R24, 09 R245, 10 R263, 12 R294, R295, R300). Where the spec's words
leave a point to be read, the clauses take the model's own reading of log entries 56, 57, 58, 99, 126, 135. -/
def Obligations.PlanesAndFieldsLost : Prop :=
  ((∀ (f : Nat) (s : State), Inv s → f < 16 → ∃ t, exec (.stagePhaseFailure f) s = .next t ∧
    (fieldAt t f).stageFailed = min 7 ((fieldAt s f).stageFailed + 1) ∧
    ((fieldAt s f).planeOff = false → (fieldAt s f).stageFailed = 0 →
      ((fieldAt s f).halted = false → gaitNum (fieldAt t f).gait ≤ 2) ∧ Only [.fields] s t) ∧
    ((fieldAt s f).planeOff = false → 1 ≤ (fieldAt s f).stageFailed →
      (fieldAt t f).planeOff = true ∧ (fieldAt t f).planeOn = false ∧ (fieldAt t f).spineOn = false) ∧
    t.dram = s.dram ∧ t.sync = s.sync ∧ t.boot = s.boot) ∧
  (∀ (f : Nat) (s : State), Inv s → f < 16 → (fieldAt s f).localSense = false → ∃ t, exec (.planeSenseLost f) s = .next t ∧
    (fieldAt t f).localSense = true ∧ ((fieldAt s f).halted = false → gaitNum (fieldAt t f).gait ≤ 2) ∧
    (studUnit t .plane f).life = min top16 ((studUnit s .plane f).life + 1) ∧
    isRetired t .plane f = isRetired s .plane f ∧ Only [.fields, .na, .hst, .stud, .host] s t) ∧
  (∀ (f n : Nat) (s : State), Inv s → f < 16 → n ≤ 2 → ∃ t, exec (.spineIvrLoss true f n) s = .next t ∧
    fieldAt t f = { fieldAt s f with spineIvrLost := max (fieldAt s f).spineIvrLost n } ∧
    (∀ k, k ≠ f → fieldAt t k = fieldAt s k) ∧ Only [.fields] s t) ∧
  (∀ (c n : Nat) (s : State), c < 4 → n ≤ 1 → ∃ t, exec (.spineIvrLoss false c n) s = .next t ∧
    t.pwr = { s.pwr with d28Lost := s.pwr.d28Lost.modify c (fun k => max k n) } ∧ Only [.pwr] s t) ∧
  ∀ (c n : Nat) (s : State), c < 4 → 1 < n → s.pwr.d28On.getD c false = true → ∃ t, exec (.spineIvrLoss false c n) s = .next t ∧
    t.pwr.d28On.getD c false = false ∧ (∀ p ∈ dieJoins c, (edgeAt t p.1 p.2).up = false) ∧
    (∀ r, r < 16 → (ringAt t r).en = true → (ringAt t r).stopped = true) ∧ t.dram = s.dram ∧ t.sync = s.sync) ∧
  ∀ (c : Instr) (f : Nat) (s : State), Inv s → f < 16 → (fieldAt s f).spineOn = true → (fieldAt s f).planeOff = false →
    c = .planeCollapse f ∨ (c = .stagePhaseFailure f ∧ 1 ≤ (fieldAt s f).stageFailed) ∨
      (∃ n, 2 < n ∧ c = .spineIvrLoss true f n) → ∃ t, exec c s = .next t ∧
    (fieldAt t f).spineOn = false ∧ (fieldAt t f).lost = true ∧ (fieldAt t f).pllLock = false ∧ (fieldAt t f).gait = .walk ∧
    isRetired t .spine f = true ∧ (c = .planeCollapse f ∨ c = .stagePhaseFailure f → isRetired t .plane f = true) ∧
    (∀ d n k, neighbour f d = some n → (edgeAt s f d).up = true → k < joinWidth f n → isRetired t .subLink (subLinkIndex f d k) = true) ∧
    (∀ r ∈ regionsOf f, (regionAt t r).live = false ∧ (regionAt t r).powered = false) ∧
    (∀ d n, neighbour f d = some n → (edgeAt t f d).up = false) ∧
    ((stackAt s f).live = true → (stackAt t f).failed = true) ∧
    (∀ o, o / 4096 = f → syncAvailable t o = false) ∧
    (s.master.sel ≠ none → s.master.op ≠ none → t.master.op = none) ∧
    (∀ r, r < 16 → (ringAt t r).en = true → (ringAt t r).stopped = true) ∧ t.dram = s.dram ∧ t.sync = s.sync ∧
    Only [.pwr, .fields, .regions, .slots, .memStacks, .lnk, .na, .hst, .glb, .master, .farrier, .stud, .spad, .before, .host,
      .badSpad, .free] s t

/-- A lost IVR phase of a powered region is noted, recorded and posted; the third makes the region a failure: dark, quarantined
and out of the weave (12 R296 to R298). An opening of a region's e-fuse switches its domain off, is counted and posted, and
darkens the region for a second; the third blows the isolation fuse and retires the region (12 R301 to R303). Regions power up
one at a time on a plane: a request joins the queue in region order, the head of the queue starts with headroom or slowly
without it, and at the end the region is on, its lowest rail reading recorded, unless the spine of its field went off: then
the soft-start is only over; a request for a region that is dark for its time, has lost three phases or whose field is lost or
excluded is complete at once (01 R24, 12 R297, R303 to R305, R307, 13 R326). VMIN_CLEAR clears VMIN and VALID of the selected
region and nothing else (12 R307). Where the spec's words leave a point to be read, the clauses take the model's own reading
of log entries 7, 8, 10, 59, 60, 82, 122, 126, 139. -/
def Obligations.RegionPowerLossesAndReturn : Prop :=
  (∀ (r p : Nat) (s : State), Inv s → r < 96 → p < 12 → (regionAt s r).powered = true →
    (regionAt s r).phaseLost.getLsbD p = false → ∃ t, exec (.ivrPhaseLost r p) s = .next t ∧
      (regionAt t r).phaseLost = (regionAt s r).phaseLost ||| BitVec.ofNat 12 (2 ^ p) ∧
      (studUnit t .ivrPhase (12 * r + p)).faults.head? = some (lifeTime s) ∧
      (phasesLost (regionAt t r) < 3 → (regionAt t r).powered = true ∧ (regionAt t r).live = (regionAt s r).live ∧
        t.master = s.master ∧ ((regionAt s r).live = true → phasesLost (regionAt t r) = 1 ∨ s.pwr.capPolicy = false →
          (fieldAt s (fieldOf r)).halted = false → gaitNum (fieldAt t (fieldOf r)).gait ≤ 2) ∧
        (isRetired t .ivrPhase (12 * r + p) = isRetired s .ivrPhase (12 * r + p) → s.clk.beatTime = false →
          EventSent s t (fieldAt s (fieldOf r)).gtcCopy 0x0005 .ivrPhase (12 * r + p) (regionAt t r).phaseLost.toNat)) ∧
      (3 ≤ phasesLost (regionAt t r) → (regionAt t r).powered = false ∧ (regionAt t r).live = false ∧
        (regionAt t r).quarantined = true) ∧
      t.dram = s.dram ∧ t.sync = s.sync) ∧
  (∀ (r : Nat) (s : State), Inv s → r < 96 → ∃ t, exec (.efuseOpening r) s = .next t ∧
    (regionAt t r).efuseOpenings = min 3 ((regionAt s r).efuseOpenings + 1) ∧ (regionAt t r).powered = false ∧
    (regionAt t r).live = false ∧ (regionAt t r).quarantined = true ∧
    (regionAt t r).heatOff = false ∧ (regionAt t r).darkUntil = gtcNs s + 1000000000 ∧ (regionAt t r).bankReady = 0 ∧
    (2 ≤ (regionAt s r).efuseOpenings → (regionAt t r).fuseBlown = true ∧ isRetired t .region r = true) ∧
    ((regionAt s r).efuseOpenings < 2 → (regionAt t r).fuseBlown = (regionAt s r).fuseBlown) ∧
    ((ringAt s 17).en = true → recordRingFull (ringAt s 17) = false → t.na.msix.getLsbD 17 = true) ∧
    ((regionAt s r).live = false → (regionAt s r).efuseOpenings < 2 → s.farrier.session = none →
      EventSent s t (gtcNs s) 0x0004 .region r ((regionAt s r).efuseOpenings + 1)) ∧
    (∀ a, a / 2 ^ 26 = r → memGet t.spad a = 0) ∧ t.dram = s.dram ∧ t.sync = s.sync) ∧
  ((∀ (r : Nat) (s : State), Inv s → r < 96 → (fieldAt s (fieldOf r)).spineOn = true → (fieldAt s (fieldOf r)).planeOff = false →
    (regionAt s r).fuseBlown = false → (regionAt s r).powered = false → (fieldAt s (fieldOf r)).softStart = none →
    phasesLost (regionAt s r) < 3 → (regionAt s r).darkUntil.toNat ≤ (gtcNs s).toNat → (regionAt s r).quarantined = false →
    ∃ t, exec (.regionPowerUpRequest r) s = .next t ∧
      r ∈ (fieldAt t (fieldOf r)).powerQueue ∧
      ((fieldAt s (fieldOf r)).powerQueue.Pairwise (· < ·) → (fieldAt t (fieldOf r)).powerQueue.Pairwise (· < ·)) ∧
      (∀ k, k ≠ r → (k ∈ (fieldAt t (fieldOf r)).powerQueue ↔ k ∈ (fieldAt s (fieldOf r)).powerQueue)) ∧
      (∀ k, k ≠ fieldOf r → fieldAt t k = fieldAt s k) ∧ Only [.fields] s t) ∧
  (∀ (r : Nat) (s : State), r < 96 → (regionAt s r).fuseBlown = true ∨ 3 ≤ phasesLost (regionAt s r) ∨
      (gtcNs s).toNat < (regionAt s r).darkUntil.toNat ∨ (fieldAt s (fieldOf r)).lost = true ∧ (fieldAt s (fieldOf r)).spineOn = false ∨
      (fieldAt s (fieldOf r)).reason ≠ 0 ∧ (fieldAt s (fieldOf r)).spineOn = false → exec (.regionPowerUpRequest r) s = .next s) ∧
  (∀ (c : Instr) (f r : Nat) (q : List Nat) (s : State), Inv s → f < 16 → c = .softStartBegin f ∨ c = .softStartSlow f →
    (fieldAt s f).softStart = none → (fieldAt s f).planeOff = false → (fieldAt s f).spineOn = true → curbLow s = false →
    (fieldAt s f).powerQueue = r :: q → ∃ t, exec c s = .next t ∧
      fieldAt t f = { fieldAt s f with
        softStart := some { region := r, slow := decide (c = .softStartSlow f) }
        powerQueue := q
        headroom := decide (c = .softStartBegin f) } ∧ (∀ k, k ≠ f → fieldAt t k = fieldAt s k) ∧ Only [.fields] s t) ∧
  (∀ (f vcore temp : Nat) (y : SoftStart) (s : State), Inv s → f < 16 → (fieldAt s f).softStart = some y →
    (fieldAt s f).spineOn = false → ∃ t, exec (.softStartEnd f vcore temp) s = .next t ∧
      fieldAt t f = { fieldAt s f with softStart := none } ∧ (∀ k, k ≠ f → fieldAt t k = fieldAt s k) ∧ Only [.fields] s t) ∧
  ∀ (f vcore temp : Nat) (y : SoftStart) (s : State), Inv s → f < 16 → y.region < 96 → (fieldAt s f).softStart = some y →
    (fieldAt s f).spineOn = true → ∃ t, exec (.softStartEnd f vcore temp) s = .next t ∧
      (fieldAt t f).softStart = none ∧ (regionAt t y.region).temp = temp ∧
      (vcore ≤ 1023 → (regionAt t y.region).vminValid = true ∧
        (regionAt t y.region).vmin = (if (regionAt s y.region).vminValid = true ∧ (regionAt s y.region).vmin ≤ vcore
          then (regionAt s y.region).vmin else vcore)) ∧
      ((regionAt s y.region).heatOff = false → (regionAt s y.region).hardHot = false →
        (regionAt t y.region).powered = true ∧ (regionAt t y.region).live = (regionAt s y.region).live) ∧
      ((regionAt s y.region).heatOff = true → temp ≤ 95 →
        (regionAt t y.region).live = true ∧ (regionAt t y.region).pubLive = true ∧ (regionAt t y.region).heatOff = false) ∧
      ((regionAt s y.region).heatOff = true → 95 < temp →
        (regionAt t y.region).powered = false ∧ (regionAt t y.region).darkUntil = gtcNs s + 5000000000) ∧
      t.dram = s.dram ∧ t.stud = s.stud) ∧
  ∀ s : State, RegisterOpen s .pwr 0x054 → ∃ t, exec .vminClear s = .next t ∧
    (∀ r, regionAt t r = (if r = s.pwr.selRegion.toNat then { regionAt s r with vmin := 0, vminValid := false } else regionAt s r) ∨
      s.regions.length ≤ r) ∧ Only [.regions, .blocks] s t

/-- One update of the gallop limits: the module's and each plane's excess, the limits at their levels, five units of wear credit
spent by a field that gallops and one refilled otherwise; no field then stands above its granted gait (13 R318 to R320). The
wear credit and the life time are checkpointed in the stud book once step 2 has read them from it; no unit's history changes
(13 R320, 15 R368). The power cap: above it the field of the highest gait goes down one gait, and with every field at walk
CAP_UNMET is set once, with its event; at 97 % or less one field that a cap holds down, of the lowest gait among them, is let
up by one gait, and otherwise nothing moves (13 R321 to R323). Where the spec's words leave a point to be read, the clauses
take the model's own reading of log entries 7, 8, 10, 48, 52, 54. -/
def Obligations.GallopLimitsAndCredit : Prop :=
  (∀ (p : Nat) (is : List Nat) (s : State), Inv s → ∃ t, exec (.gallopLimitUpdate p is) s = .next t ∧
    t.pwr.powerIn = p ∧ t.pwr.eMod = s.pwr.eMod + p - 8000 ∧
    (t.pwr.elecModule = true ↔ 840000000 ≤ s.pwr.eMod + p - 8000 ∨ 10800 < p ∨
      s.pwr.elecModule = true ∧ 420000000 < s.pwr.eMod + p - 8000) ∧
    (∀ f, f < 16 →
      ((fieldAt s f).planeOn = true ∧ (fieldAt s f).spineOn = true →
        (fieldAt t f).iplane = is.getD f 0 ∧ ((fieldAt t f).headroom = true ↔ is.getD f 0 ≤ 260)) ∧
      ((fieldAt s f).planeOn = false ∨ (fieldAt s f).spineOn = false →
        (fieldAt t f).iplane = (fieldAt s f).iplane ∧ (fieldAt t f).headroom = (fieldAt s f).headroom) ∧
      (fieldAt t f).qExcess = (fieldAt s f).qExcess + is.getD f 0 - 320 ∧
      ((fieldAt t f).planeLimit = true ↔ 48000000 ≤ (fieldAt t f).qExcess ∨ 480 < is.getD f 0 ∨
        (fieldAt s f).planeLimit = true ∧ 24000000 < (fieldAt t f).qExcess) ∧
      (fieldAt t f).credit = (if (fieldAt s f).gait = .gallop ∧ (fieldAt s f).spineOn = true ∧ (fieldAt s f).halted = false
        then (fieldAt s f).credit - 5 else min 720000000 ((fieldAt s f).credit + 1)) ∧
      ((fieldAt t f).wearLimit = true ↔ (fieldAt t f).credit = 0 ∨
        (fieldAt s f).wearLimit = true ∧ (fieldAt t f).credit < 15000000) ∧
      ((fieldAt s f).halted = false → gaitNum (fieldAt t f).gait ≤ gaitNum (grantedGait t f)) ∧
      gaitNum (fieldAt t f).gait ≤ gaitNum (fieldAt s f).gait) ∧
    Only [.pwr, .fields] s t) ∧
  (∀ s : State, s.pwr.railIn = false ∨ s.boot.done.getLsbD 2 = false → exec .wearCreditCheckpoint s = .next s) ∧
  (∀ s : State, s.pwr.railIn = true → s.boot.done.getLsbD 2 = true → ∃ t, exec .wearCreditCheckpoint s = .next t ∧
    t.stud = { s.stud with creditCkpt := s.fields.map (fun x => x.credit / 50000), lifeCkpt := lifeTime s } ∧ Only [.stud] s t) ∧
  (∀ (p w : Nat) (s : State), Inv s → capInForce s.pwr = some w → w < p →
    (∃ f, f < 16 ∧ (fieldAt s f).spineOn = true ∧ (fieldAt s f).gait ≠ .walk) → ∃ t, exec (.powerCapCompare p) s = .next t ∧
      (∃ f, f < 16 ∧ (fieldAt s f).spineOn = true ∧ (fieldAt s f).gait ≠ .walk ∧
        (∀ g, g < 16 → (fieldAt s g).spineOn = true → gaitNum (fieldAt s g).gait ≤ gaitNum (fieldAt s f).gait) ∧
        (fieldAt t f).capLimit = gaitBelow (fieldAt s f).gait ∧
        ((fieldAt s f).halted = false → gaitNum (fieldAt t f).gait ≤ gaitNum (gaitBelow (fieldAt s f).gait)) ∧
        ∀ g, g ≠ f → (fieldAt t g).gait = (fieldAt s g).gait ∧ (fieldAt t g).capLimit = (fieldAt s g).capLimit) ∧
      t.pwr = { s.pwr with powerIn := p } ∧ Only [.pwr, .fields] s t) ∧
  (∀ (p w : Nat) (s : State), Inv s → capInForce s.pwr = some w → w < p →
    (∀ f, f < 16 → (fieldAt s f).spineOn = true → (fieldAt s f).gait = .walk) → ∃ t, exec (.powerCapCompare p) s = .next t ∧
      t.pwr = { s.pwr with powerIn := p, capUnmet := true } ∧ (s.pwr.capUnmet = true → Only [.pwr] s t) ∧
      (s.pwr.capUnmet = false → EventSent s t (gtcNs s) 0x0042 .none 0 p) ∧ Only [.pwr, .na, .hst, .host] s t) ∧
  (∀ (p : Nat) (s : State), capInForce s.pwr = none ∨ (∃ w, capInForce s.pwr = some w ∧ p ≤ w) →
    ∃ t, exec (.powerCapCompare p) s = .next t ∧ t.pwr = { s.pwr with powerIn := p } ∧ Only [.pwr] s t) ∧
  (∀ (p : Nat) (s : State), Inv s → capInForce s.pwr = none ∨ (∃ w, capInForce s.pwr = some w ∧ 100 * p ≤ 97 * w) →
    (∃ f, f < 16 ∧ capBinds s f = true) → ∃ t, exec (.powerCapRaise p) s = .next t ∧
      (∃ f, f < 16 ∧ capBinds s f = true ∧
        (∀ g, g < 16 → capBinds s g = true → gaitNum (fieldAt s f).gait ≤ gaitNum (fieldAt s g).gait) ∧
        (fieldAt t f).capLimit = gaitAbove (fieldAt s f).capLimit ∧ ∀ g, g ≠ f → fieldAt t g = fieldAt s g) ∧
      (∀ g, (fieldAt t g).gait = (fieldAt s g).gait) ∧ Only [.pwr, .fields] s t) ∧
  (∀ (p : Nat) (s : State), (∀ f, f < 16 → capBinds s f = false) → ∃ t, exec (.powerCapRaise p) s = .next t ∧
    t.pwr = { s.pwr with powerIn := p } ∧ Only [.pwr] s t) ∧
  ∀ (p w : Nat) (s : State), capInForce s.pwr = some w → 97 * w < 100 * p → ∃ t, exec (.powerCapRaise p) s = .next t ∧
    t.pwr = { s.pwr with powerIn := p } ∧ Only [.pwr] s t

/-- A reading of a live region: from 100 degrees the thermal limit is in force and the field drops a gait; at 105, or with a
failed sensor, the region is off at once too, quarantined and dark for 5 s, and the field no longer gallops; with every live
region at 95 or less no temperature term holds the field, but for a region that is marked for heat and still works (13 R318,
R324 to R326). Regions leave the weave at an operation boundary: one marked for heat with no work placed goes dark for 5 s,
within an operation too where it holds no slot, one whose session found it out leaves, and under CAP_POLICY one with two lost
phases leaves without being quarantined; 5 s later a region dark for heat asks for power (08 R224, 12 R298, 13 R325, R326). A
thermal trip of a compute die switches every spine of the die off and quarantines its live regions; a coolant alarm notes the
temperatures and is an event beyond 10 K of spread or 15 K of rise; 30 days under the trim cap retire a region (13 R327, R330,
15 R368). Where the spec's words leave a point to be read, the clauses take the model's own reading of log entries 7, 8, 10,
48, 59, 64, 126, 139. -/
def Obligations.HeatActsOnRegionsAndModule : Prop :=
  ((∀ (r temp : Nat) (s : State), Inv s → r < 96 → (regionAt s r).live = true → 100 ≤ temp → temp < 105 →
    ∃ t, exec (.regionTempSample r temp true) s = .next t ∧
      (regionAt t r).temp = temp ∧ (fieldAt t (fieldOf r)).thermLimit = true ∧
      (tempStepDue s (fieldAt s (fieldOf r)) = true →
        gaitNum (fieldAt t (fieldOf r)).tempLimit ≤ gaitNum (gaitBelow (fieldAt s (fieldOf r)).gait) ∧
        ((regionAt s r).hotSince = none → (fieldAt t (fieldOf r)).tempLimit = gaitBelow (fieldAt s (fieldOf r)).gait) ∧
        ((fieldAt s (fieldOf r)).halted = false →
          gaitNum (fieldAt t (fieldOf r)).gait ≤ gaitNum (gaitBelow (fieldAt s (fieldOf r)).gait))) ∧
      t.dram = s.dram ∧ t.sync = s.sync ∧ t.stud = s.stud) ∧
  (∀ (r temp : Nat) (ok : Bool) (s : State), Inv s → r < 96 → (regionAt s r).live = true → ok = false ∨ 105 ≤ temp →
    ∃ t, exec (.regionTempSample r temp ok) s = .next t ∧
      (regionAt t r).live = false ∧ (regionAt t r).powered = false ∧ (regionAt t r).quarantined = true ∧
      (regionAt t r).hardHot = true ∧ (regionAt t r).darkUntil = gtcNs s + 5000000000 ∧
      (fieldAt t (fieldOf r)).thermLimit = true ∧ ((fieldAt s (fieldOf r)).gait = .gallop → (fieldAt s (fieldOf r)).halted = false →
        (fieldAt t (fieldOf r)).gait ≠ .gallop) ∧
      (ok = false → (regionAt t r).temp = (regionAt s r).temp) ∧ t.dram = s.dram ∧ t.sync = s.sync ∧ t.stud = s.stud) ∧
  (∀ (r temp : Nat) (s : State), Inv s → r < 96 → (regionAt s r).live = true → temp ≤ 95 →
    (∀ k ∈ regionsOf (fieldOf r), k ≠ r → (regionAt s k).live = true → (regionAt s k).temp ≤ 95) →
    ∃ t, exec (.regionTempSample r temp true) s = .next t ∧
      (regionAt t r) = { regionAt s r with temp := temp, hotSince := none } ∧
      fieldAt t (fieldOf r) = { fieldAt s (fieldOf r) with
        thermLimit := false
        tempLimit := if heatWaits s (fieldOf r) = true then (fieldAt s (fieldOf r)).tempLimit else .gallop
        tempStepAt := none } ∧
      Only [.fields, .regions, .farrier] s t) ∧
  ∀ (r temp : Nat) (s : State), Inv s → r < 96 → (regionAt s r).live = false → temp < 100 →
    ∃ t, exec (.regionTempSample r temp true) s = .next t ∧
      regionAt t r = { regionAt s r with temp := temp } ∧ (∀ k, k ≠ r → regionAt t k = regionAt s k) ∧ Only [.regions, .farrier] s t) ∧
  ((∀ (r : Nat) (s : State), Inv s → r < 96 → (regionAt s r).live = true → atBoundary s = true ∨ slotOfRegion s r = none →
    (regionAt s r).leavePending = false → (regionAt s r).heatPending = true → placedWork s r = false → ∃ t, exec (.operationBoundarySwitchOff r) s = .next t ∧
      (regionAt t r).live = false ∧ (regionAt t r).pubLive = false ∧ (regionAt t r).powered = false ∧
      (regionAt t r).heatOff = true ∧ (regionAt t r).heatPending = false ∧
      (regionAt t r).darkUntil = gtcNs s + 5000000000 ∧ t.dram = s.dram ∧ t.sync = s.sync ∧ t.stud = s.stud) ∧
  (∀ (r : Nat) (s : State), Inv s → r < 96 → (regionAt s r).live = true → atBoundary s = true → (regionAt s r).leavePending = true →
    ∃ t, exec (.operationBoundarySwitchOff r) s = .next t ∧
      (regionAt t r).live = false ∧ (regionAt t r).pubLive = false ∧ (regionAt t r).powered = false ∧
      (regionAt t r).leavePending = false ∧ t.dram = s.dram ∧ t.sync = s.sync) ∧
  (∀ (r : Nat) (s : State), Inv s → r < 96 → s.pwr.capPolicy = true → (regionAt s r).live = true → phasesLost (regionAt s r) = 2 →
    atBoundary s = true → ∃ t, exec (.capPolicySwitchOff r) s = .next t ∧
      (regionAt t r).live = false ∧ (regionAt t r).pubLive = false ∧ (regionAt t r).powered = false ∧
      (regionAt t r).quarantined = (regionAt s r).quarantined ∧ t.dram = s.dram ∧ t.sync = s.sync ∧ t.stud = s.stud) ∧
  ∀ (r : Nat) (s : State), Inv s → r < 96 → (regionAt s r).heatOff = true → (regionAt s r).darkUntil.toNat ≤ (gtcNs s).toNat →
    (fieldAt s (fieldOf r)).spineOn = true → (fieldAt s (fieldOf r)).planeOff = false → (regionAt s r).fuseBlown = false →
    (regionAt s r).powered = false → (fieldAt s (fieldOf r)).softStart = none → phasesLost (regionAt s r) < 3 →
    (regionAt s r).quarantined = false → ∃ t, exec (.heatDarkEnd r) s = .next t ∧
      r ∈ (fieldAt t (fieldOf r)).powerQueue ∧ Only [.fields] s t) ∧
  (∀ (c : Nat) (s : State), Inv s → c < 4 → ∃ t, exec (.dieThermalTrip c) s = .next t ∧
    (∀ f, f / 4 = c → f < 16 → (fieldAt t f).spineOn = false) ∧
    (∀ r, r < 96 → r / 24 = c → (regionAt s r).live = true → (∃ f, f = fieldOf r ∧ (fieldAt s f).spineOn = true) →
      (regionAt t r).live = false ∧ (regionAt t r).powered = false ∧ (regionAt t r).quarantined = true) ∧
    t.dram = s.dram ∧ t.sync = s.sync) ∧
  (∀ (a b d : Nat) (s : State), Inv s → ∃ t, exec (.coolantAlarm a b d) s = .next t ∧
    t.pwr = { s.pwr with inlet := a, outlet := b, spread := d } ∧
    (d ≤ 10 → b ≤ a + 15 → Only [.pwr] s t) ∧
    (10 < d ∨ a + 15 < b → EventSent s t (gtcNs s) 0x0043 .none 0 (d % 256 + 256 * ((b - a) % 256))) ∧ Only [.pwr, .na, .hst, .host] s t) ∧
  ∀ (r : Nat) (s : State), r < 96 → (regionAt s r).trimCap = true → (regionAt s r).trimCapSince + 30 * 86400 ≤ lifeTime s →
    ∃ t, exec (.trimCapHeld30Days r) s = .next t ∧ isRetired t .region r = true ∧ Only [.na, .hst, .stud, .host] s t

/-- Sessions start: a dark region that may return first, then, in turn, the next live region; a rolling session that cannot start
waits (15 R364). A session holds its region once no work is placed there, with the banks of the session area on; it ends with
no finding: the trim is made, the result is 0, no unit's history changes (15 R365, R366, 13 R315, R316). Where the spec's
words leave a point to be read, the clauses take the model's own reading of log entries 66, 67, 148. -/
def Obligations.FarrierSessionsRun : Prop :=
  ((∀ (c : Instr) (r : Nat) (s : State), maySession s = true → returnNext s = some r →
    c = .farrierReturnStart ∨ c = .farrierRetry ∨ (c = .farrierRollingStart ∧ s.farrier.en = true) → ∃ t, exec c s = .next t ∧
      t.farrier.session = some
        { region := r, returning := true, held := false, taken := (regionAt s r).temp, heldAt := 0, stressed := false } ∧
      t.farrier.region = r ∧
      t.farrier.en = s.farrier.en ∧ t.farrier.lastRegion = s.farrier.lastRegion ∧ Only [.fields, .farrier] s t) ∧
  (∀ (c : Instr) (r : Nat) (s : State), maySession s = true → returnNext s = none → rollingNext s = some r → s.farrier.en = true →
    c = .farrierRollingStart ∨ (c = .farrierRetry ∧ s.farrier.waiting = true) → ∃ t, exec c s = .next t ∧
      t.farrier = { s.farrier with
        session := some
          { region := r, returning := false, held := false, taken := (regionAt s r).temp, heldAt := 0, stressed := false }
        waiting := false
        region := r } ∧
      (regionAt s r).live = true ∧ r < 96 ∧ Only [.farrier] s t) ∧
  (∀ s : State, maySession s = false → s.farrier.en = true → ∃ t, exec .farrierRollingStart s = .next t ∧
    t.farrier = { s.farrier with waiting := true } ∧ Only [.farrier] s t) ∧
  ∀ (c : Instr) (s : State), maySession s = false → c = .farrierReturnStart ∨ c = .farrierRetry → exec c s = .next s) ∧
  (∀ (x : Session) (s : State), Inv s → s.farrier.session = some x → x.held = false → x.region < 96 →
    masterOn s = true → s.glb.zeroing = false → s.glb.zeroDue = false →
    (regionAt s x.region).powered = true → (x.returning = true ∨ unverifiedWork s x.region = false) → ∃ t, exec .farrierHold s = .next t ∧
      t.farrier = { s.farrier with session := some { x with held := true, heldAt := gtcNs s } } ∧
      (∀ j ∈ banksOf (taskBound s) (2 ^ 26), (regionAt t x.region).bankOn.getLsbD j = true) ∧
      Only [.regions, .farrier, .spad, .before, .badSpad] s t) ∧
  ∀ (r v : Nat) (x : Session) (s : State), Inv s → s.farrier.session = some x → x.region = r → x.returning = false → x.held = true →
    masterOn s = true → s.glb.zeroing = false → s.glb.zeroDue = false → r < 96 → (regionAt s r).powered = true → ∃ t, exec (.farrierRelease { scan := [], vPass := v }) s = .next t ∧
      t.farrier = { s.farrier with session := none, lastRegion := r, lastResult := 0 } ∧ t.stud.units = s.stud.units ∧
      (regionAt t r).sessionAt = lifeTime s + 1 ∧
      ((fieldAt s (fieldOf r)).halted = false → gaitNum (fieldAt t (fieldOf r)).gait ≤ gaitNum (grantedGait t (fieldOf r))) ∧
      (let m := 620 + 5 * (regionAt s r).delta - v
       let d := (regionAt t r).delta
       (m < 40 → 620 + 5 * d - v < 40 → d = 12 ∧ (regionAt t r).trimCap = true) ∧
       (m < 40 → (regionAt t r).wideSessions = 0) ∧
       (m < 40 → 620 + 5 * (d - 1) - v < 40) ∧
       (40 ≤ m → (regionAt s r).delta = 12 → (regionAt t r).trimCap = false) ∧
       (40 ≤ m → (regionAt s r).delta ≠ 12 → (regionAt t r).trimCap = (regionAt s r).trimCap) ∧
       (40 ≤ m → m < 60 → d = (regionAt s r).delta ∧ (regionAt t r).wideSessions = 0) ∧
       (60 ≤ m → (regionAt s r).wideSessions < 6 → d = (regionAt s r).delta ∧
        (regionAt t r).wideSessions = (regionAt s r).wideSessions + 1) ∧
       (60 ≤ m → (regionAt s r).wideSessions = 6 → d = max (-8) ((regionAt s r).delta - 1) ∧ (regionAt t r).wideSessions = 0) ∧
       (t.stud.trims = s.stud.trims ↔ d = (regionAt s r).delta ∧ (regionAt t r).trimCap = (regionAt s r).trimCap)) ∧
      t.dram = s.dram ∧ t.sync = s.sync

/-! ### Heads, waits, selection and acceptance -/

/-- SELECT_OPERATION, with nothing selected and no COLLECTIVE waiting to be accepted or to go into flight: a pre-selected entry is
selected, else the ready head of the lowest-numbered ring; a head with WAIT_EN begins its wait with the time it began,
satisfied at once when its object stands at the threshold, and ends with BAD_FIELD when its object's spine is off.
WAIT_SATISFIED releases the descriptor whose wait is satisfied. WAIT_TIMEOUT_EXPIRY ends with TIMEOUT the unsatisfied wait, or
the readiness exchange, whose timeout has run. SPINE_OFF_LEARNT ends with BAD_FIELD the waits on objects of a spine that is
off, and with UNCORRECTABLE an accepted operation that signals one (02 R27, R49, 07 R192, R194). Where the spec's words leave
a point to be read, the clauses take the model's own reading of log entries 3, 7, 8, 10, 38, 46, 99, 126, 130, 135. -/
def Obligations.HeadsWaitAndAreSelected : Prop :=
  (∀ (reads : ReadOutcome) (s : State), mayStart s = true → s.master.sel = none → s.master.op = none → asideOps s = [] →
    (∀ o ∈ s.master.colls, ∀ c, o.coll = some c → c.agreed = true → c.started = true ∨ c.stalled = true) →
    ∃ t, exec (.selectOperation reads) s = .next t ∧
      (s.master.preSel = none →
        t.master.sel = (readyRing t).map (fun p => { ring := p.1, members := p.2, next := 0 }) ∧
        ∀ r es, t.master.sel = some { ring := r, members := es, next := 0 } →
          r < 16 ∧ headReady t r = some es ∧ ∀ k < r, headReady t k = none) ∧
      (∀ p, s.master.preSel = some p → p.ring < 16 → (∀ o, s.master.pre = some o → o.ring = p.ring) →
        (∀ e es, headOf s p.ring = some (e :: es) → dWaitEn e.words = false ∨ e.begun = true ∨ e.ended ≠ none) →
        t.master.sel = some { p with next := 0 } ∧ t.master.preSel = none) ∧
      (∀ r e es, r < 16 → headOf s r = some (e :: es) → dWaitEn e.words = true → e.begun = false → e.ended = none →
        (syncAvailable s (dWaitObj e.words) = true → ringAt t r = { ringAt s r with
          entries := (ringAt s r).entries.map (fun x => if x.count = e.count then
            { x with
              st := if decide (dWaitThreshold e.words ≤ (syncGet s (dWaitObj e.words)).toNat) then x.st else .waiting
              since := gtcNs s
              begun := true
              satisfied := decide (dWaitThreshold e.words ≤ (syncGet s (dWaitObj e.words)).toNat)
              released := decide (dWaitThreshold e.words ≤ (syncGet s (dWaitObj e.words)).toNat) } else x) }) ∧
        (syncAvailable s (dWaitObj e.words) = false → HeadEnds s t r (e :: es) stBadField (dfWord (opF 88)))) ∧
      (∀ r, r < 16 → (headOf s r = none ∨
          ∃ e es, headOf s r = some (e :: es) ∧ (dWaitEn e.words = false ∨ e.begun = true ∨ e.ended ≠ none)) →
        ringAt t r = ringAt s r) ∧
      t.master.op = none ∧ Only [.fields, .regions, .lnk, .na, .hst, .master, .spad, .before, .host, .badSpad] s t) ∧
  (∀ (ring : Nat) (s : State) (e : Entry), waitingHead s ring = some e → e.satisfied = true →
    ∃ t, exec (.waitSatisfied ring) s = .next t ∧
      ringAt t ring = { ringAt s ring with
        entries := (ringAt s ring).entries.map (fun x => if x.count = e.count then { x with released := true } else x) } ∧
      (∀ k, k ≠ ring → ringAt t k = ringAt s k) ∧ Only [.hst] s t) ∧
  (∀ (ring : Nat) (s : State), Inv s → ring < 16 → s.clk.asleep = false → (∀ o, s.master.op = some o → collWaits o = false) →
    (∀ e l, exchanging s ring = none → waitingHead s ring = some e → headOf s ring = some l → e.satisfied = false →
      timeoutRun s e = true → ∃ t, exec (.waitTimeoutExpiry ring) s = .next t ∧
        HeadEnds s t ring l stTimeout 0 ∧ (AtFront s ring e → l = [e] → RecordStands s t ring (headRecord s e stTimeout 0)) ∧
        (∀ k, k ≠ ring → ringAt t k = ringAt s k) ∧ t.master.op = s.master.op ∧
        Only [.fields, .regions, .lnk, .na, .hst, .master, .spad, .before, .host, .badSpad] s t) ∧
    (∀ o e, exchanging s ring = some (o, e) → timeoutRun s e = true → inFlight s o = false →
      ∃ t, exec (.waitTimeoutExpiry ring) s = .next t ∧
        HeadEnds s t ring ((ringAt s ring).entries.filter (fun x => x.count = o.count)) stTimeout 0 ∧
        t.master.colls.all (fun x => !sameOp x o) = true ∧ t.master.op = s.master.op ∧ t.sync = s.sync ∧ t.dram = s.dram) ∧
    (exchanging s ring = none → (∀ e, waitingHead s ring = some e → e.satisfied = true ∨ timeoutRun s e = false) →
      exec (.waitTimeoutExpiry ring) s = .next s)) ∧
  (∀ (ring : Nat) (s : State), s.clk.asleep = true → exec (.waitTimeoutExpiry ring) s = .next s) ∧
  ∀ (f : Nat) (s : State), Inv s → f < 16 →
    ((fieldAt s f).spineOn = true → exec (.spineOffLearnt f) s = .next s) ∧
    ((fieldAt s f).spineOn = false → s.master.sel = none → asideOps s = [] → ∃ t, exec (.spineOffLearnt f) s = .next t ∧
      (∀ r e es, r < 16 → freshEntries s r = e :: es → lostWait s e = true →
        HeadEnds s t r ((membersOf 16 (e :: es)).getD [e]) stBadField (dfWord (opF 88))) ∧
      (∀ r, r < 16 → (∀ e es, freshEntries s r = e :: es → lostWait s e = false) → ringAt t r = ringAt s r) ∧
      t.master.op = s.master.op ∧ t.sync = s.sync ∧ t.dram = s.dram) ∧
    ((fieldAt s f).spineOn = false → asideOps s = [] →
      (∀ r e es, r < 16 → freshEntries s r = e :: es → lostWait s e = false) →
      ∀ sel i, s.master.sel = some sel → signalLost s (acceptedMembers s sel) = some i →
      ∃ t, exec (.spineOffLearnt f) s = .next t ∧ OperationEnds s t stUncorrectable ∧ t.sync = s.sync ∧ t.dram = s.dram)

/-- DESCRIPTOR_FETCH reads the 128 bytes of the next posted entry and appends it, Fetched, to its ring's held entries; as a head
with WAIT_EN it begins its wait, or ends with BAD_FIELD when its object's spine is off. ACCEPT_OPERATION on the next member of
the selection: while what it reads has to wait nothing changes; a member other than a COLLECTIVE that passes the checks
becomes Accepted and the operation in flight, unless it is a CAPQUERY whose record cannot be written, which ends the ring; a
COLLECTIVE outside a group, with no mail for its communicator, takes the next number: a rank other than 0 sends its READY to
rank 0 and waits, rank 0 and a send wait, and a recv is accepted, tells its peer so with READY and begins (16 R387, R388,
R392); the first member, when it fails a check or cannot be read, ends its head with the failing status or UNCORRECTABLE; a
later member that fails ends the whole group. PRESELECT_NEXT, once the running operation is dealt, notes the ready head of the
lowest-numbered ring and leaves the op rings as their early checks do (02 R49, R59, R61, R66, 07 R178). Where the spec's words
leave a point to be read, the clauses take the model's own reading of log entries 6, 7, 8, 10, 30, 35, 38, 99, 119, 126, 129,
130, 159. -/
def Obligations.DescriptorsFetchedAndAccepted : Prop :=
  (∀ (ring : Nat) (host : List Host.Cell) (s : State) (e : Entry), Inv s → mayFetch (hostMerge s host) ring = true →
    e = { noEntry with
      count := (ringAt s ring).fetch
      words := wordsOf (descriptorAt (hostMerge s host) (ringAt s ring)) } →
    ∃ t, exec (.descriptorFetch ring host) s = .next t ∧
      (ringAt t ring).fetch = (ringAt s ring).fetch + 1 ∧
      (dWaitEn e.words = false → (∀ h ∈ freshEntries s ring, dWaitEn h.words = false ∨ h.begun = true) →
        ringAt t ring = { ringAt s ring with
          fetch := (ringAt s ring).fetch + 1
          entries := (ringAt s ring).entries ++ [e] }) ∧
      (dWaitEn e.words = true → dGroupNext e.words = false → freshEntries s ring = [] → s.master.sel = none →
        s.glb.zeroDue = false → s.glb.zeroing = false →
        (syncAvailable s (dWaitObj e.words) = true → ringAt t ring = { ringAt s ring with
          fetch := (ringAt s ring).fetch + 1
          entries := ((ringAt s ring).entries ++ [e]).map (fun x => if x.count = e.count then
            { x with
              st := if decide (dWaitThreshold e.words ≤ (syncGet s (dWaitObj e.words)).toNat) then x.st else .waiting
              since := gtcNs s
              begun := true
              satisfied := decide (dWaitThreshold e.words ≤ (syncGet s (dWaitObj e.words)).toNat)
              released := decide (dWaitThreshold e.words ≤ (syncGet s (dWaitObj e.words)).toNat) } else x) }) ∧
        (syncAvailable s (dWaitObj e.words) = false → (ringAt s ring).entries = [] →
          (ringAt t ring).stopped = true ∧ (ringAt t ring).stopStatus = stBadField ∧
          (ringAt t ring).posted = (ringAt s ring).posted + 1 ∧
          RecordStands s t ring (headRecord s e stBadField (dfWord (opF 88))))) ∧
      (∀ k, k ≠ ring → ringAt t k = ringAt s k) ∧
      Only [.fields, .regions, .lnk, .na, .hst, .host, .master, .spad, .before, .badSpad] s t) ∧
  (∀ (host : List Host.Cell) (reads : ReadOutcome) (s u w v : State) (sel : Selection) (e : Entry) (spans : List Interval)
      (bad : List Nat), Inv s →
    mayRun s = true → u = closeMember (hostMerge s host) → u.master.op = none → u.master.sel = some sel → sel.ring < 16 →
    sel.members[sel.next]? = some e → mayAccept u sel = true → w = openMember u sel.next → v = seenState w reads →
    spans = acceptReads v sel.ring sel.members sel.next e (earlierFoots w sel.next) true →
    bad = (outcomeOf reads spans).uncorrectable →
    (readAccess w spans [] = .waits → exec (.acceptOperation host reads) s = .next u) ∧
    (∀ m, readAccess w spans [] = .failed m → sel.next = 0 → ∃ t, exec (.acceptOperation host reads) s = .next t ∧
      t.master.sel = none ∧ t.master.op = none ∧ HeadEnds u t sel.ring sel.members stUncorrectable ((nextErrSeq u).getD 0) ∧
      t.sync = s.sync ∧ t.dram = u.dram) ∧
    (readAccess w spans [] ≠ .waits → (∀ m, readAccess w spans [] ≠ .failed m) →
      (acceptVerdict v sel.ring sel.members sel.next e (earlierFoots w sel.next) bad true = .ok →
        dOpcode e.words ≠ 12 → ∃ t, exec (.acceptOperation host reads) s = .next t ∧
          (t.master.sel = some { sel with next := sel.next + 1 } ∧
            (∃ o, t.master.op = some o ∧ o.ring = sel.ring ∧ o.count = e.count ∧ o.words = e.words ∧ o.placed = true) ∧
            (∀ x ∈ (ringAt t sel.ring).entries, x.count = e.count → x.st = .accepted) ∧
            (e ∈ (ringAt s sel.ring).entries → ∃ x ∈ (ringAt t sel.ring).entries, x.count = e.count) ∧
            t.hst.active = true ∧ t.master.pre = none ∨
           dOpcode e.words = 15 ∧ t.master.sel = none ∧ (ringAt t sel.ring).stopped = true) ∧
          (dOpcode e.words ≠ 15 → t.dram = u.dram) ∧ t.sync = s.sync) ∧
      (∀ status detail, sel.next = 0 →
        acceptVerdict v sel.ring sel.members sel.next e (earlierFoots w sel.next) bad true = .reject status detail →
        ∃ t, exec (.acceptOperation host reads) s = .next t ∧
          t.master.sel = none ∧ t.master.op = none ∧ HeadEnds u t sel.ring sel.members status detail ∧
          (AtFront u sel.ring e → sel.members = [e] → RecordStands u t sel.ring (headRecord s e status detail)) ∧
          (∀ k, k < 16 → k ≠ sel.ring → ringAt t k = ringAt u k) ∧ t.sync = s.sync ∧ t.dram = u.dram) ∧
      (∀ a, sel.next = 0 →
        acceptVerdict v sel.ring sel.members sel.next e (earlierFoots w sel.next) bad true = .bad a →
        ∃ t, exec (.acceptOperation host reads) s = .next t ∧
          t.master.sel = none ∧ t.master.op = none ∧
          HeadEnds u t sel.ring sel.members stUncorrectable ((nextErrSeq u).getD 0) ∧ t.sync = s.sync ∧ t.dram = u.dram) ∧
      (∀ status detail, 0 < sel.next → acceptedOps u ≠ [] →
        acceptVerdict v sel.ring sel.members sel.next e (earlierFoots w sel.next) bad true = .reject status detail →
        ∃ t, exec (.acceptOperation host reads) s = .next t ∧
          OperationEnds u t status ∧ t.sync = s.sync ∧ t.dram = u.dram))) ∧
  (∀ (host : List Host.Cell) (s u v : State) (ring : Nat) (e : Entry) (c : Coll), Inv s → mayRun s = true →
    u = closeMember (hostMerge s host) → u.master.op = none → u.master.sel = some { ring := ring, members := [e], next := 0 } →
    ring < 16 → (ringAt u ring).entries = [e] → mayAccept u { ring := ring, members := [e], next := 0 } = true →
    u.master.colls = [] → u.master.pre = none → u.master.preTiles = [] → v = openMember u 0 → dOpcode e.words = 12 →
    readAccess v (acceptReads v ring [e] 0 e [] true) [] = .ok → acceptVerdict v ring [e] 0 e [] [] true = .ok →
    c = newColl v e.words → (∀ f ∈ s.lnk.mail, f.comm ≠ c.comm) → c.variant = 4 ∨ c.variant = 5 ∨ c.rank ≠ 0 ∨ 1 < c.ranks →
    ∃ t p, exec (.acceptOperation host ReadOutcome.clean) s = .next t ∧
      p.ring = ring ∧ p.count = e.count ∧ p.words = e.words ∧ (∃ k, entryKey v e.words = some k ∧ nextColl t k = c.num + 1) ∧
      (c.variant ≠ 5 → t.master.sel = none ∧ t.master.op = none ∧ t.master.colls = [p] ∧
        (ringAt t ring).entries = [{ e with st := .waiting }] ∧ p.coll.map (·.started) = some false) ∧
      (c.variant = 5 → t.master.op = some p ∧ t.master.colls = [] ∧ (ringAt t ring).entries = [{ e with st := .running }] ∧
        p.coll.map (·.begun) = some true) ∧
      t.side.flits = s.side.flits ++ (if (planeLink s (c.planes.headD 0)).isSome = true ∧ (c.variant = 5 ∨ c.variant ≤ 3 ∧ c.rank ≠ 0)
        then [ownFlit s (c.list.getD (if c.variant = 5 then (dParam e.words 1).toNat else 0) 0) ftReady (c.planes.headD 0) c.comm 0 0
          (readyBody v (parseOp v ring e) c)] else []) ∧
      t.sync = s.sync ∧ t.dram = u.dram) ∧
  ∀ (host : List Host.Cell) (reads : ReadOutcome) (s u : State), mayStart s = true → allDealt s = true →
    s.master.preSel = none → u = updateHeads (hostMerge s host) →
    ∃ t, exec (.preselectNext host reads) s = .next t ∧
      (readyRing u = none → t = u) ∧
      (∀ r e es, readyRing u = some (r, e :: es) →
        (readAccess u (acceptReads (seenState (openPre u) reads) r (e :: es) 0 e [] false) [] = .waits → t = u) ∧
        (readAccess u (acceptReads (seenState (openPre u) reads) r (e :: es) 0 e [] false) [] ≠ .waits →
          t.master.preSel = some { ring := r, members := e :: es, next := 0 }) ∧
        r < 16 ∧ headReady u r = some (e :: es) ∧ ∀ k < r, headReady u k = none) ∧
      (∀ k, k < 16 → ringAt t k = ringAt u k) ∧ t.master.sel = u.master.sel ∧ t.master.op = u.master.op ∧
      t.master.tiles = u.master.tiles ∧ t.sync = s.sync ∧ t.dram = s.dram

/-! ### Values -/

/-- A finite code of an element format decodes to a value that every rounding mode encodes as that code again: the formats of
Table 3-1 with INT8, each zero keeping its sign (03 R69, R70, R74, R76). -/
def Obligations.FiniteCodesRoundTrip : Prop :=
  ∀ (fmt code : Nat) (mode : RoundMode), fmt < 8 → code < 2 ^ fmtBits fmt → valFinite (decodeCode fmt code) = true →
    encodeVal fmt mode (decodeCode fmt code) = (code, false)

/-- The reduced value of a chunk tree is the binary tree of R88 over the chunk results, whatever the order in which the results
arrive: arrival order changes when an addition happens, never which additions happen (05 R127, R128; 16 R391 over ranks). -/
def Obligations.ArrivalOrderDoesNotMatter : Prop :=
  ∀ (n fuel : Nat) (v : Nat → FootVal) (order : List Nat), 0 < n → n ≤ 2 ^ fuel → order.Perm (List.range n) →
    treeRoot n (order.foldl (fun nodes j => treeInsert n fuel nodes { level := 0, idx := j, val := v j }) []) =
      treeFold FootVal.add n ((List.range n).map v)

/-! ### Tiles -/

/-- PLACEMENT_DEALT deals the work of the operation in flight once, its runs and tiles numbered on; then that of a pre-selected
one; an operation with work that no region took ends with FAULT_NONREPLAYABLE (log entry 174); the frozen rows of a masked
product are written, and an error in a part write ends the operation. TILE_BUFFERS_TAKEN gives an ASSIGNED tile a free pair of
buffers under their present generations, and it is LOADING. LOADER_READ_RETURN makes a LOADING tile RESIDENT over what its
addresses then held, a line that met a write as it was before, less what it will read in place; a read that must wait changes
nothing of the tile; an uncorrectable error or a failed stack ends the operation with UNCORRECTABLE, an address outside the
task range or a table index out of range with BOUND; a pre-selected tile meets none of these and stays LOADING; a dark target
leaves the tile invalid (04 R112, 05 R124, 06 R162, 07 R179 to R184, 08 R212, R220, R223, 09 R235, R236, 10 R264). Where the
spec's words leave a point to be read, the clauses take the model's own reading of log entries 29, 31, 32, 34, 35, 36, 126,
127, 128, 136. -/
def Obligations.TilesAreDealtAndLoaded : Prop :=
  ((∀ (merge : ReadOutcome) (s : State) (o : Op), s.master.op = some o → hasTiles o = true → o.dealt = false →
    stranded o = false → o.frozenLeft = false → masterOn s = true → s.master.recovery = none → ∃ t, exec (.placementDealt merge) s = .next t ∧
      t.master.op = some { o with dealt := true, share := numberShares o.share s.master.nextRun } ∧
      t.master.nextRun = s.master.nextRun + o.share.length ∧
      (t.master.tiles.filter (fun x => decide (x.role = .original))).length =
        (s.master.tiles.filter (fun x => decide (x.role = .original))).length +
          (numberTiles o o.orient (numberShares o.share s.master.nextRun) s.master.nextTile).length ∧
      t.master.sel = s.master.sel ∧ t.hst = s.hst ∧ t.sync = s.sync ∧ t.dram = s.dram) ∧
  (∀ (merge : ReadOutcome) (s : State) (o q : Op), s.master.op = some o → (hasTiles o = false ∨ o.dealt = true) →
    o.frozenLeft = false → s.master.pre = some q → q.dealt = false → stranded q = false → masterOn s = true → s.master.recovery = none →
    ∃ t, exec (.placementDealt merge) s = .next t ∧
      t.master.pre = some { q with dealt := true, share := numberShares q.share s.master.nextRun } ∧ t.master.op = some o ∧
      (t.master.preTiles.filter (fun x => decide (x.role = .original))).length =
        (s.master.preTiles.filter (fun x => decide (x.role = .original))).length +
          (numberTiles q q.orient (numberShares q.share s.master.nextRun) s.master.nextTile).length ∧
      t.hst = s.hst ∧ t.sync = s.sync ∧ t.dram = s.dram) ∧
  ∀ (merge : ReadOutcome) (s : State) (o : Op) (cells : List Host.Cell) (bad : List Nat), s.master.op = some o → o.dealt = true →
    o.frozenLeft = true → s.master.pre = none → masterOn s = true → s.master.recovery = none →
    cells = cellsOf (readByte s) (frozenWrites o) → bad = (mergesOf merge cells).uncorrectable →
    (writeAccess s (cells.map (·.1)) bad = .ok → merge.corrected = [] → merge.wrong = [] →
      ∃ t, exec (.placementDealt merge) s = .next t ∧
      t.master.op = some { o with frozenLeft := false } ∧ (∀ a, readByte t a = readByte (writeCells s cells) a) ∧
      Only [.master, .dram, .host, .spad, .before, .badDram, .badSpad] s t) ∧
    (writeAccess s (cells.map (·.1)) bad = .waits → exec (.placementDealt merge) s = .next s) ∧
    ((∃ as, writeAccess s (cells.map (·.1)) bad = .bad as) ∨ (∃ m, writeAccess s (cells.map (·.1)) bad = .failed m) →
      ∃ t, exec (.placementDealt merge) s = .next t ∧ OperationEnds s t stUncorrectable ∧ t.sync = s.sync)) ∧
  (∀ (n b : Nat) (s u : State) (x y : Tile) (o : Op), tileAt s n = some x → opOfTile s n = some o →
    u = (if (freeBuf s x.region).isSome then s else advanceArray s x.region) → mayTakeBuffers u x = true →
    (isPre s n = false ∨ preMayLoad s o = true) → s.master.recovery = none → masterOn s = true →
    freeBuf u x.region = some b → tileAt u n = some y → ∃ t, exec (.tileBuffersTaken n) s = .next t ∧
      tileAt t n = some { y with
        st := .loading
        buf := b
        statGen := (regionAt u x.region).statGen.getD b 0
        strmGen := (regionAt u x.region).strmGen.getD b 0 } ∧
      t.master.op = s.master.op ∧ Only [.master] u t) ∧
  (∀ (n : Nat) (reads out : ReadOutcome) (meets : List Nat) (host : List Host.Cell) (s u : State) (x : Tile) (o : Op), Inv s →
    out = { reads with met := meets ++ reads.met } →
    u = countMeets (hostMerge s host) o out.met → tileAt s n = some x → opOfTile s n = some o → x.st = .loading →
    ownGens s x = true → banksReady s x.region = true → masterOn s = true → reads.darkTarget = false →
    ∃ t, exec (.loaderReadReturn n reads meets host) s = .next t ∧
      (readAccess u (loaderReads u (readByte u) o x) reads.uncorrectable = .ok → tileIndexBad (readByte u) o x = false →
        tileAt t n = some { x with
          st := .resident
          snap := memKeep (seenMem (noteReads u out) o.inFoots out) (fun a => !anyFoot (inPlaceFoots (noteReads u out) o x) a) } ∧
        t.master.op = s.master.op ∧ (reads.corrected = [] → Only [.regions, .master, .host] s t)) ∧
      (readAccess u (loaderReads u (readByte u) o x) reads.uncorrectable = .waits →
        tileAt t n = some x ∧ t.master = { u.master with tiles := t.master.tiles, preTiles := t.master.preTiles }) ∧
      (isPre s n = true → readAccess u (loaderReads u (readByte u) o x) reads.uncorrectable ≠ .ok →
        tileAt t n = some x ∧ t.master.op = s.master.op) ∧
      (isPre s n = false → (∃ as, readAccess u (loaderReads u (readByte u) o x) reads.uncorrectable = .bad as) ∨
          (∃ m, readAccess u (loaderReads u (readByte u) o x) reads.uncorrectable = .failed m) →
        OperationEnds s t stUncorrectable ∧ t.sync = s.sync ∧ t.dram = s.dram) ∧
      (isPre s n = false → readAccess u (loaderReads u (readByte u) o x) reads.uncorrectable = .bound ∨
          readAccess u (loaderReads u (readByte u) o x) reads.uncorrectable = .ok ∧ tileIndexBad (readByte u) o x = true →
        OperationEnds s t stBound ∧ t.sync = s.sync ∧ t.dram = s.dram)) ∧
  (∀ (n : Nat) (reads : ReadOutcome) (meets : List Nat) (host : List Host.Cell) (s : State) (x : Tile) (o : Op),
    tileAt s n = some x → opOfTile s n = some o → x.st = .loading → ownGens s x = true → banksReady s x.region = true →
    masterOn s = true → reads.darkTarget = true → ∃ t, exec (.loaderReadReturn n reads meets host) s = .next t ∧
      tileAt t n = some { x with invalid := true } ∧ Only [.master, .host] s t) ∧
  ∀ (merge : ReadOutcome) (s : State) (o : Op), s.master.op = some o → o.dealt = false → stranded o = true → masterOn s = true →
    s.master.recovery = none → ∃ t, exec (.placementDealt merge) s = .next t ∧ OperationEnds s t stFault ∧ t.sync = s.sync ∧
      t.dram = s.dram

/-- TILE_ISSUE: a tile that may issue enters the array, its load in the bank that was the shadow one, where it may lie already,
and swaps in at once where no tile streams; a bypass tile whose reads are served is EMITTED at once over what it then reads in
place; the entry is Running; of a pre-selected operation only the load goes into the shadow bank. TILE_LEAVES_ARRAY: the
oldest issued tile of its region, once the reads it makes in place are served, is EMITTED with its foot rows over what the
Feeder read, and the operation takes them. CHUNK_RESULT_ARRIVAL brings the results of a unit of another chunk to its home's
tree, once; STATISTICS_BLOCK_ARRIVAL the blocks of a completing tile, once; ROW_MAX_MULTICAST forms the row maxima of a panel,
once, rewrites the blocks they reach, and counts the copies that dark regions of the published weave drop; while the master
does not work none of the three has an effect (04 R96 to R99, 05 R125 to R128, R133, R144, R145, 07 R180, R181, 10 R259).
Where the spec's words leave a point to be read, the clauses take the model's own reading of log entries 16, 18, 33, 34, 126,
136, 145. -/
def Obligations.TilesPassTheArray : Prop :=
  (∀ (n : Nat) (reads : ReadOutcome) (s u w : State) (x : Tile) (o : Op), TilesNumbered s → tileAt s n = some x →
    s.master.op = some o → mayIssue s o x = true → u = modEntry s o.ring o.count (fun e => { e with st := .running }) →
    w = countMeets (noteReads u reads) o reads.met →
    (x.kind ≠ .bypass → x.arr = .outside ∨ x.arr = .shadow → ∃ t, exec (.tileIssue n reads) s = .next t ∧
      tileAt t n = some { x with
        st := .issued
        arr := if (inPhase s x.region .working).isEmpty then .working else .shadow
        inPlace := snapshot s (inPlaceFoots s o x) } ∧
      (x.region < s.regions.length → (regionAt s x.region).banks.length = 2 →
        (x.arr = .outside → ((regionAt t x.region).banks.getD (shadowBank (regionAt s x.region)) CellBank.reset).tile = some n) ∧
        (x.arr = .shadow → (regionAt t x.region).banks = (regionAt s x.region).banks) ∧
        (regionAt t x.region).working =
          (if (inPhase s x.region .working).isEmpty then ~~~ (regionAt s x.region).working else (regionAt s x.region).working)) ∧
      ringAt t o.ring = ringAt u o.ring ∧ t.master.op = some o ∧ Only [.regions, .hst, .master] s t) ∧
    (x.kind = .bypass → readAccess u (feederReads u (readByte u) o x) reads.uncorrectable = .ok →
      ∃ t, exec (.tileIssue n reads) s = .next t ∧
      tileAt t n = some { x with
        st := .emitted
        snap := memWrite x.snap (seenMem w (inPlaceFoots w o x) reads)
        inPlace := snapshot s (inPlaceFoots s o x) } ∧
      (o.ring < 16 → ringAt t o.ring = ringAt u o.ring) ∧
      (hasColSums o = false → t.master.op = some o) ∧ (reads.corrected = [] → Only [.fields, .regions, .hst, .master] s t)) ∧
    (x.kind = .bypass → readAccess u (feederReads u (readByte u) o x) reads.uncorrectable = .waits →
      exec (.tileIssue n reads) s = .next u) ∧
    (x.kind = .bypass → (∃ as, readAccess u (feederReads u (readByte u) o x) reads.uncorrectable = .bad as) →
      ∃ t, exec (.tileIssue n reads) s = .next t ∧ OperationEnds s t stUncorrectable ∧ t.sync = s.sync ∧ t.dram = s.dram)) ∧
  (∀ (n : Nat) (reads : ReadOutcome) (s : State) (x : Tile) (o : Op), TilesNumbered s → isPre s n = true → tileAt s n = some x →
    s.master.pre = some o → mayPreload s o x = true → ∃ t, exec (.tileIssue n reads) s = .next t ∧
      tileAt t n = some { x with arr := .shadow } ∧
      (x.region < s.regions.length → (regionAt s x.region).banks.length = 2 →
        ((regionAt t x.region).banks.getD (shadowBank (regionAt s x.region)) CellBank.reset).tile = some n) ∧
      t.master.tiles = s.master.tiles ∧ t.master.op = s.master.op ∧ Only [.regions, .master] s t) ∧
  (∀ (n : Nat) (upset : List (Nat × Word)) (early : List (Nat × Bool)) (reads : ReadOutcome) (s : State) (x y : Tile) (o : Op),
    TilesNumbered s → tileAt s n = some x → s.master.op = some o → isOldest s x = true → masterOn s = true →
    readAccess s (feederReads s (readByte s) o x) reads.uncorrectable = .ok →
    y = { x with
      st := .emitted
      arr := .outside
      snap := feederSees (noteReads s reads) o x early reads
      foot := upsetFoot (tileFoot (memGet (feederSees (noteReads s reads) o x early reads)) o x) upset
      arrived := treeLocal o x } →
    ∃ t, exec (.tileLeavesArray n upset early reads) s = .next t ∧
      tileAt t n = some y ∧ t.master.op = some (takeFoot (memGet y.snap) o y) ∧
      (reads.corrected = [] → Only [.fields, .regions, .master] s t)) ∧
  (∀ (n : Nat) (upset : List (Nat × Word)) (s : State) (x : Tile) (o : Op), tileAt s n = some x → s.master.op = some o →
    hasLeft x = true → x.role = .original → masterOn s = true →
    (x.kind = .array → o.orient = .exchanged → x.arrived = false → ∃ t, exec (.chunkResultArrival n) s = .next t ∧
      tileAt t n = some { x with arrived := true } ∧ t.master.op = some (treePut o x) ∧ Only [.master] s t) ∧
    (x.arrived = true → exec (.chunkResultArrival n) s = .next s) ∧
    (o.isArray = true → o.has 4 = true → tileCompletes o x = true → tileReady o x = true → x.statsSent = false →
      ∃ t, exec (.statisticsBlockArrival n upset) s = .next t ∧
        tileAt t n = some { x with statsSent := true } ∧
        t.master.op = some { o with stats := o.stats ++ upsetStats upset (tileStats (memGet x.snap) o x) } ∧ Only [.master] s t) ∧
    (x.statsSent = true → exec (.statisticsBlockArrival n upset) s = .next s)) ∧
  (∀ (n : Nat) (upset : List (Nat × Word)) (s : State), masterOn s = false → exec (.chunkResultArrival n) s = .next s ∧
    exec (.statisticsBlockArrival n upset) s = .next s ∧ exec (.rowMaxMulticast n) s = .next s) ∧
  ∀ (n : Nat) (s : State) (x : Tile) (o : Op), Inv s → tileAt s n = some x → s.master.op = some o → hasLeft x = true →
    x.role = .original → x.kind = .attn1 → o.variant = 0 → x.col0 = 0 → isDark s x.region = false → masterOn s = true →
    (∀ r, r < x.rows → rowBlocksIn o x (x.row0 + r) = true) →
    (x.rewritten = true → exec (.rowMaxMulticast n) s = .next s) ∧
    (x.rewritten = false → ∃ t, exec (.rowMaxMulticast n) s = .next t ∧
      tileAt t n = some { x with rewritten := true } ∧
      (∃ p, t.master.op = some p ∧ p.pBlocks.length = o.pBlocks.length ∧
        (∀ b ∈ p.pBlocks, b.batch = x.batch → x.row0 ≤ b.i → b.i < x.row0 + x.rows → blockReached s o x b.blk = true →
          b.rewritten = true) ∧
        ∀ r, r < x.rows → (x.batch, x.row0 + r,
          attnRowMax ((o.pBlocks.filter (fun b => decide (b.batch = x.batch) && decide (b.i = x.row0 + r))).map (·.mb))) ∈ p.rowMax) ∧
      (∀ f, f < 16 → (fieldAt t f).mcDrop = min top32 ((fieldAt s f).mcDrop +
        x.rows * ((blockRegions o x).filter (fun r => (regionAt s r).pubLive && isDark s r && decide (fieldOf r = f))).length)) ∧
      Only [.fields, .master] s t)

/-- DRAIN_COMPLETE of an emitted tile: a copy keeps its checksum and writes nothing. An original whose writes are served writes
its output's bytes and no other byte: DRAM and host memory by address, the scratchpad by the place of the window's address; a
SWEEP zeroes its span. A tile that was sampled is DRAINED with its checksum, another one VERIFIED. Writes that must wait
change nothing; a merge over bad data or a failed stack ends the operation with UNCORRECTABLE, an address outside the task
range with BOUND (05 R137, 02 R44, R61, 08 R212, 09 R235, 15 R358). Where the spec's words leave a point to be read, the
clauses take the model's own reading of log entries 13, 17, 31, 34, 35, 126, 132. -/
def Obligations.DrainWritesOutputs : Prop :=
  ∀ (n : Nat) (upset : List (Nat × Nat)) (merge : ReadOutcome) (s : State) (x : Tile) (o : Op) (rows : List OutRow)
      (sum : Word64), Inv s →
    tileAt s n = some x → s.master.op = some o → x.st = .emitted → isPre s n = false → tileReady o x = true → statsIn o x = true →
    masterOn s = true → rows = upsetRows upset 0 (withStats o x (tileOut (memGet x.snap) o x)) →
    sum = tileChecksum (memGet x.snap) o x (rows.take (tileOut (memGet x.snap) o x).length) →
    (x.role ≠ .original → ∃ t, exec (.drainComplete n upset merge) s = .next t ∧
      tileAt t n = some { x with st := .drained, checksum := some sum } ∧
      t.master.op = some o ∧ Only [.master] s t) ∧
    (∀ access : AccessEnd, x.role = .original → o.opcode = 11 →
      access = accessOf s [tileSpan x] (merge.uncorrectable ++
        (sweepBad s (tileSpan x)).filter (fun a => !merge.uncorrectable.contains a)) (spanInTask s (tileSpan x)) →
      ∃ t, exec (.drainComplete n upset merge) s = .next t ∧
        (access = .ok →
          (∀ a, (tileSpan x).1 ≤ a → a ≤ (tileSpan x).2 → memGet t.dram a = 0 ∧ memGet t.host a = 0) ∧
          (∀ p a, windowOf s p = some a → (tileSpan x).1 ≤ a → a ≤ (tileSpan x).2 → inTask s a = true → memGet t.spad p = 0) ∧
          (merge.wrong = [] →
            (∀ a, (a < (tileSpan x).1 ∨ (tileSpan x).2 < a) → memGet t.dram a = memGet s.dram a ∧
              (merge.corrected = [] → memGet t.host a = memGet s.host a)) ∧
            (∀ p, (∀ a, windowOf s p = some a → a < (tileSpan x).1 ∨ (tileSpan x).2 < a) → memGet t.spad p = memGet s.spad p)) ∧
          (∃ y, tileAt t n = some y ∧ y.st = (if x.sampled then .drained else .verified) ∧ y.checksum.isSome = x.sampled)) ∧
        (access = .waits → t = s) ∧
        ((∃ as, access = .bad as) ∨ (∃ m, access = .failed m) → OperationEnds s t stUncorrectable) ∧
        (access = .bound → OperationEnds s t stBound)) ∧
    ∀ (cells : List Host.Cell) (access : AccessEnd), x.role = .original → o.opcode ≠ 11 →
      cells = cellsOf (readByte s) (rowWrites rows) →
      access = writeAccess s (cells.map (·.1)) (mergesOf merge cells).uncorrectable →
      ∃ t, exec (.drainComplete n upset merge) s = .next t ∧
        (access = .ok →
          (∀ c ∈ cells, isHost c.1 = true → memGet t.host c.1 = c.2) ∧
          (∀ c ∈ cells, isHost c.1 = false → isSpad c.1 = false → isDram s c.1 = true → memGet t.dram c.1 = c.2) ∧
          (∀ c ∈ cells, ∀ p, isSpad c.1 = true → spadPlace s c.1 = some p →
            (∀ d ∈ cells, spadPlace s d.1 = some p → d.1 = c.1) → merge.wrong = [] → memGet t.spad p = c.2) ∧
          (merge.corrected = [] → merge.wrong = [] →
            (∀ a, a ∉ cells.map (·.1) → memGet t.dram a = memGet s.dram a ∧ memGet t.host a = memGet s.host a) ∧
            (∀ p, (∀ c ∈ cells, isSpad c.1 = true → spadPlace s c.1 ≠ some p) → memGet t.spad p = memGet s.spad p) ∧
            Only [.glb, .master, .dram, .host, .spad, .before, .badDram, .badSpad] s t) ∧
          tileAt t n = some { x with
            st := if x.sampled then .drained else .verified
            squash := rowSquash rows
            checksum := if x.sampled then some sum else none }) ∧
        (access = .waits → t = s) ∧
        ((∃ as, access = .bad as) ∨ (∃ m, access = .failed m) → OperationEnds s t stUncorrectable) ∧
        (access = .bound → OperationEnds s t stBound)

/-! ### Commit, votes and failures -/

/-- COMMIT of a selection that has run and is verified, once a CAPQUERY's record is written, is one event: every member's record
is posted, with status OK in each, and its entry leaves, the selection and its operations are gone, stale intervals only
shrink, and a lone signal has its effect on its object; DRAM changes only with an advised output, whose advisor's entry the
commit waits for and fails with. A selection that signals an object of a spine that is off ends with UNCORRECTABLE instead;
the next head then ends if it owes its record (02 R53, R54, R56, R64, R67, 07 R191, R194). Where the spec's words leave a
point to be read, the clauses take the model's own reading of log entries 7, 8, 10, 99, 126, 130, 132, 141, 158. -/
def Obligations.CommitIsOneEvent : Prop :=
  ∀ (reads own : ReadOutcome) (s u : State) (sel : Selection), Inv s → u = runRecord s → readyToCommit u = true →
    masterOn u = true → u.master.sel = some sel → sel.ring < 16 → own = outcomeOf reads (commitSpans u) →
    (signalLost u sel.members = none → readAccess u (commitSpans u) own.uncorrectable = .waits →
      exec (.commit reads) s = .next u) ∧
    (signalLost u sel.members = none → (∃ m, readAccess u (commitSpans u) own.uncorrectable = .failed m) ∨
        (∃ as, readAccess u (commitSpans u) own.uncorrectable = .bad as) → ∃ t, exec (.commit reads) s = .next t ∧
      OperationEnds u t stUncorrectable ∧ t.sync = u.sync ∧ t.dram = u.dram) ∧
    (signalLost u sel.members = none → readAccess u (commitSpans u) own.uncorrectable = .ok →
      ∃ t, exec (.commit reads) s = .next t ∧
      t.master.sel = none ∧ t.master.op = none ∧ t.master.done = [] ∧ t.master.tiles = [] ∧
      (∀ e ∈ (ringAt t sel.ring).entries, ∀ m ∈ sel.members, e.count ≠ m.count) ∧
      (∀ iv ∈ t.master.stale, iv ∈ u.master.stale ∧
        ∀ o ∈ u.master.done ++ u.master.op.toList, ∀ w ∈ o.outFoots, covers w iv = false) ∧
      ((∀ e ∈ (ringAt u sel.ring).entries, e.ended = none) →
        (∀ i e, sel.members[i]? = some e →
          (∀ j d, sel.members[j]? = some d → j ≠ i →
            d.count.toNat % ringSize (ringAt u sel.ring) ≠ e.count.toNat % ringSize (ringAt u sel.ring)) →
          ∃ c : Completion, c.tag = dTag e.words ∧ c.count = e.count ∧ c.status = stOk ∧ c.detail = 0 ∧ c.gtc = gtcNs s ∧
            c.group = decide (1 < sel.members.length) ∧
            readBytes (hostByte t) ((ringAt u sel.ring).cqBase + 32 * (c.count.toNat % ringSize (ringAt u sel.ring))) 32 =
              completionBytes { ringAt u sel.ring with posted := (ringAt u sel.ring).posted + BitVec.ofNat 32 i } c) ∧
        (ringAt t sel.ring).posted = (ringAt u sel.ring).posted + BitVec.ofNat 32 sel.members.length ∧
        (ringAt t sel.ring).stopped = (ringAt u sel.ring).stopped ∧
        (∀ e, sel.members = [e] → ∃ c : Completion, c.tag = dTag e.words ∧ c.count = e.count ∧ c.status = stOk ∧
          c.group = false ∧ c.detail = 0 ∧ c.gtc = gtcNs s ∧ RecordStands u t sel.ring c)) ∧
      (∀ e es p, (ringAt u sel.ring).entries.filter (fun x => sel.members.all (fun m => x.count ≠ m.count)) = e :: es →
        e.ended = some p → (ringAt t sel.ring).stopped = true ∧ (ringAt t sel.ring).stopStatus = p.1) ∧
      (sel.members.flatMap (fun e => dSignals e.words) = [] → t.sync = u.sync) ∧
      (∀ g : Signal, sel.members.flatMap (fun e => dSignals e.words) = [g] →
        syncGet t g.obj = (if g.set then BitVec.ofNat 64 g.value else syncGet u g.obj + BitVec.ofNat 64 g.value) ∧
        ∀ k, k ≠ g.obj → syncGet t k = syncGet u k) ∧
      ((∀ o ∈ acceptedOps u, o.advStats = []) → t.dram = u.dram) ∧ t.fuses = s.fuses ∧ (own.corrected = [] → t.stud = u.stud)) ∧
    (∀ i, signalLost u sel.members = some i → ∃ t, exec (.commit reads) s = .next t ∧
      OperationEnds u t stUncorrectable ∧ t.sync = u.sync)

/-- DUPLICATE_COMPARE of a sampled tile with its duplicate: agreement verifies the tile and drops the copies; a mismatch is
counted and goes to a vote tile on the next eligible region, in repeat mode beside repeats of the original and the duplicate,
or ends the operation with UNCORRECTABLE where no region is eligible. VOTE_VERDICT fails the region in the minority, or both,
and no other, with a fault of each. REPEAT_VERDICT: three repeats that agree spare the regions, and the tile is verified, or
its runs are replayed; else the odd ones are retired and failed, and no other region (15 R361 to R363, 07 R197). Where the
spec's words leave a point to be read, the clauses take the model's own reading of log entries 11, 28, 43, 126, 131. -/
def Obligations.DuplicatesAndVotes : Prop :=
  (∀ (n : Nat) (s : State) (x d : Tile) (o : Op), Inv s → TilesNumbered s → comparePair s n = some (x, d) →
    voteOf s n = none → s.master.op = some o →
    (x.checksum = d.checksum → ∃ t, exec (.duplicateCompare n) s = .next t ∧
      tileAt t n = some { x with st := .verified } ∧ dupOf t n = none ∧
      t.master.op = some { o with dupChecks := o.dupChecks + 1 } ∧ Only [.fields, .regions, .master] s t) ∧
    (x.checksum ≠ d.checksum → ∃ t, exec (.duplicateCompare n) s = .next t ∧
      t.glb.mismatches = min 65535 (s.glb.mismatches + 1) ∧
      (∀ r, nextEligible s o x [fieldOf x.region, fieldOf d.region] = some r →
        (∃ y, voteOf t n = some y ∧ y.region = r ∧ y.row0 = x.row0 ∧ y.rows = x.rows ∧ y.col0 = x.col0 ∧ y.cols = x.cols) ∧
        t.master.op = some { o with dupChecks := o.dupChecks + 1 } ∧
        (s.master.repeatInForce = true → againOf s n 0 = none → againOf s n 1 = none →
          ∃ y z, againOf t n 0 = some y ∧ y.region = x.region ∧ againOf t n 1 = some z ∧ z.region = d.region)) ∧
      (nextEligible s o x [fieldOf x.region, fieldOf d.region] = none → OperationEnds s t stUncorrectable))) ∧
  (∀ (n : Nat) (s : State) (x d v : Tile) (named : List Nat), Inv s → comparePair s n = some (x, d) → voteOf s n = some v →
    v.st = .drained → againOf s n 0 = none →
    named = (if v.checksum = x.checksum then [d.region] else if v.checksum = d.checksum then [x.region] else [x.region, d.region]) →
    ∃ t, exec (.voteVerdict n) s = .next t ∧
      (∀ r ∈ named, (regionAt t r).live = false ∧ (studUnit t .region r).faults.head? = some (lifeTime s) ∧
        (r < 96 → (regionAt s r).live = true → (regionAt t r).quarantined = true ∧ (regionAt t r).powered = false ∧
          t.master.recovery.isSome = true)) ∧
      (∀ r, r ∉ named → (regionAt t r).live = (regionAt s r).live) ∧ t.sync = s.sync ∧ t.dram = s.dram) ∧
  (∀ (n : Nat) (s : State) (x d o2 d2 v : Tile) (named : List Nat), Inv s → comparePair s n = some (x, d) →
    againOf s n 0 = some o2 → againOf s n 1 = some d2 → voteOf s n = some v → o2.st = .drained → d2.st = .drained →
    v.st = .drained → ¬ (o2.checksum = d2.checksum ∧ d2.checksum = v.checksum) →
    named = (if o2.checksum = d2.checksum then [v.region] else if o2.checksum = v.checksum then [d.region]
          else if d2.checksum = v.checksum then [x.region] else [x.region, d.region]) →
    ∃ t, exec (.repeatVerdict n) s = .next t ∧
      (∀ r ∈ named, isRetired t .region r = true ∧ (regionAt t r).live = false) ∧
      (∀ r, r ∉ named → (regionAt t r).live = (regionAt s r).live) ∧ t.sync = s.sync ∧ t.dram = s.dram) ∧
  ∀ (n : Nat) (s : State) (x d o2 d2 v : Tile) (o : Op) (sel : Selection), Inv s → comparePair s n = some (x, d) →
    againOf s n 0 = some o2 → againOf s n 1 = some d2 → voteOf s n = some v → o2.st = .drained → d2.st = .drained →
    v.st = .drained → o2.checksum = d2.checksum → d2.checksum = v.checksum → s.master.op = some o → s.master.sel = some sel →
    ∃ t, exec (.repeatVerdict n) s = .next t ∧
      (∀ k i, isRetired t k i = isRetired s k i) ∧ (∀ r, (regionAt t r).live = (regionAt s r).live) ∧
      (x.checksum = v.checksum → ∃ y, tileAt t n = some y ∧ y.st = .verified) ∧
      (x.checksum ≠ v.checksum → t.master.op = none ∨ ∃ p, t.master.op = some p ∧ p.replayed = true) ∧
      (x.checksum ≠ v.checksum → dNonreplayable o.words = true → OperationEnds s t stFault)

/-- REGION_HEARTBEAT notes the time of the field's copy of the counter. HEARTBEAT_CHECK fails the regions of its field that were
silent for 1 ms, and no other. REGION_FLIT_PARITY_ERROR and REGION_FAILED fail a live region: it is off, quarantined and dark
for 1 s, no slot is its own any more, and a rebuild runs. WEAVE_REBUILD_COMPLETE publishes the weave as it now stands, with
the event of a change of the weave where no operation is in flight (07 R197 to R202, 08 R224). Where the spec's words leave a
point to be read, the clauses take the model's own reading of log entries 7, 8, 10, 28, 44, 126, 127, 133. -/
def Obligations.FailedRegionsLeaveTheWeave : Prop :=
  (∀ (r vcore : Nat) (s : State), Inv s → r < 96 → (regionAt s r).powered = true → fieldRuns s (fieldOf r) = true →
    ∃ t, exec (.regionHeartbeat r vcore) s = .next t ∧
      (regionAt t r).lastBeat = (fieldAt s (fieldOf r)).gtcCopy ∧ (regionAt t r).live = (regionAt s r).live ∧
      (regionAt t r).powered = true ∧
      ((regionAt s r).live = false → regionAt t r = { regionAt s r with lastBeat := (fieldAt s (fieldOf r)).gtcCopy }) ∧
      (∀ k, k ≠ r → regionAt t k = regionAt s k) ∧ Only [.fields, .regions, .free] s t) ∧
  (∀ (f : Nat) (s : State), f < 16 → (fieldAt s f).spineOn = true → (fieldAt s f).halted = false →
    ∃ t, exec (.heartbeatCheck f) s = .next t ∧
      (∀ r, r ∈ silentRegions s f → (regionAt t r).live = false) ∧
      (∀ r, r ∉ silentRegions s f → (regionAt t r).live = (regionAt s r).live) ∧ t.sync = s.sync ∧ t.dram = s.dram) ∧
  (∀ (c : Instr) (r : Nat) (s : State), Inv s → r < 96 → (regionAt s r).live = true →
    (c = .regionFlitParityError r ∨ ∃ k, c = .regionFailed r k) → ∃ t, exec c s = .next t ∧
      (regionAt t r).live = false ∧ (regionAt t r).powered = false ∧ (regionAt t r).quarantined = true ∧
      (regionAt t r).darkUntil = gtcNs s + 1000000000 ∧ (∃ x, t.master.recovery = some x ∧ r ∈ x.failed) ∧
      (∀ k, k ≠ r → (regionAt t k).live = (regionAt s k).live) ∧
      ((∀ j k, j < 96 → k < 96 → slotAt s j = .mapped r → slotAt s k = .mapped r → j = k) →
        ∀ k, k < 96 → slotAt t k ≠ .mapped r) ∧ t.sync = s.sync ∧ t.dram = s.dram) ∧
  ∀ (s : State) (x : Recovery), Inv s → s.master.recovery = some x → ∃ t, exec .weaveRebuildComplete s = .next t ∧
    t.master.recovery = none ∧ (∀ r, r < 96 → (regionAt t r).pubLive = (regionAt s r).live ∧ (regionAt t r).live = (regionAt s r).live) ∧
    t.glb.liveRegions = (weaveCounts s).1 ∧ t.glb.liveStakes = (weaveCounts s).2.1 ∧ t.glb.floor = (weaveCounts s).2.2 ∧
    (s.master.op = none → EventSent s t (gtcNs s) 0x0001 .none 0 (weaveDetail (publishWeave s))) ∧
    t.slots = s.slots ∧ t.sync = s.sync ∧ t.stud = s.stud

/-! ### Fabric links, time messages and collectives -/

/-- FLIT_CRC_RETRY on a live link counts the replay and the codewords that could not be corrected, none or more, and the eighth
replay loses the link. LANE_LOST leaves a live link x1, or absent with its last lane, and is a fault of the lane, with event
0x0061. LINK_LOST leaves the link absent, with event 0x0060, and the collectives of its plane stall (16 R379 to R381). Where
the spec's words leave a point to be read, the clauses take the model's own reading of log entries 7, 8, 10, 108, 109, 126. -/
def Obligations.LinkAndLaneLosses : Prop :=
  (∀ (l n : Nat) (eighth : Bool) (s : State), Inv s → l < 96 → isLiveLink (linkAt s l) = true →
    ∃ t, exec (.flitCrcRetry l eighth n) s = .next t ∧
      linkAt t l = { linkAt s l with
        fecUncorr := min 65535 ((linkAt s l).fecUncorr + n)
        retries := min 65535 ((linkAt s l).retries + 1)
        st := if eighth then .absent else (linkAt s l).st
        lanes := if eighth then 0 else (linkAt s l).lanes
        retry := if eighth then [] else (linkAt s l).retry } ∧
      (∀ k, k ≠ l → linkAt t k = linkAt s k) ∧ (eighth = false → Only [.lnk] s t) ∧
      (eighth = true → EventSent s t (gtcNs s) 0x0060 .link l (lostDetail l (linkAt s l).plane) ∧
        Only [.lnk, .na, .hst, .master, .host] s t)) ∧
  (∀ (l m : Nat) (s : State), Inv s → l < 96 → m < 2 → isLiveLink (linkAt s l) = true → (linkAt s l).lanes.getLsbD m = true →
    ∃ t, exec (.laneLost l m) s = .next t ∧
      (∀ k, k < 2 → (linkAt t l).lanes.getLsbD k = ((linkAt s l).lanes.getLsbD k && decide (k ≠ m))) ∧
      (linkAt t l).st = (if (linkAt t l).lanes = 0 then .absent else .live1) ∧ (linkAt t l).plane = (linkAt s l).plane ∧
      (studUnit t .lane (2 * l + m)).faults.head? = some (lifeTime s) ∧
      (recentFaults s (studUnit s .lane (2 * l + m)) = [] → (linkAt t l).lanes ≠ 0 →
        EventSent s t (gtcNs s) 0x0061 .lane (2 * l + m) (l + 256 * m)) ∧
      (∀ k, k ≠ l → linkAt t k = { linkAt s k with txSeq := (linkAt t k).txSeq, retry := (linkAt t k).retry }) ∧
      t.sync = s.sync ∧ t.dram = s.dram) ∧
  ∀ (l : Nat) (s : State), Inv s → l < 96 → isLiveLink (linkAt s l) = true → ∃ t, exec (.linkLost l) s = .next t ∧
    linkAt t l = { linkAt s l with st := .absent, lanes := 0, retry := [] } ∧ (∀ k, k ≠ l → linkAt t k = linkAt s k) ∧
    (∀ o ∈ t.master.op.toList ++ t.master.colls, ∀ c p, o.coll = some c → (linkAt s l).plane = some p → p ∈ c.planes → c.stalled = true) ∧
    EventSent s t (gtcNs s) 0x0060 .link l (lostDetail l (linkAt s l).plane) ∧ Only [.lnk, .na, .hst, .master, .host] s t

/-- A flit other than a LINK_CTRL on a plane that no working link of the module carries is no traffic and has no effect. A flit of
an unknown TYPE is dropped and counted; one that carries the job tag is ignored while the module has no coordinates, tag or no
tag, which is the model's own order of R375 before R382 (log entry 161), and else dropped and counted when its tag is not the
job's or the job has none (16 R374 to R376, R382). -/
def Obligations.StrayFlitsAreDropped : Prop :=
  ∀ (c : Instr) (f : Flit) (s : State), FlitCommand c f →
    (f.type ≠ ftLinkCtrl → planeLink s f.plane = none → exec c s = .next s) ∧
    (f.type = ftLinkCtrl ∨ (planeLink s f.plane).isSome = true →
      (knownType f.type = false → exec c s = .next { s with lnk := { s.lnk with dropType := min 65535 (s.lnk.dropType + 1) } }) ∧
      (knownType f.type = true → taggedType f.type = true → s.lnk.coordValid = false → exec c s = .next s) ∧
      (knownType f.type = true → taggedType f.type = true → s.lnk.coordValid = true → s.lnk.jobTag = 0 ∨ f.jobTag ≠ s.lnk.jobTag →
        exec c s = .next { s with lnk := { s.lnk with dropTag := min 65535 (s.lnk.dropTag + 1) } }))

/-- LINK_CTRL on a live link teaches the port its peer's address, and a plane that differs from the map is recorded with event
0x0060 and leaves the link without a live lane. PEER_SYNC_ADD adds its value to an object, is held in deep sleep, and becomes
event 0x0050 where the object's spine is off. TIME_EXCHANGE of a follower asks its slice master for the time; TIME_REQ at a
slice master is answered with its two timestamps, taken at the landing of the link's die; TIME_RESP within 1 us slews the
follower, one further away sets FAR, with event 0x0033 when it was clear (16 R375, R377, R383, R384, 11 R284, R286, 07 R190,
R194). Where the spec's words leave a point to be read, the clauses take the model's own reading of log entries 7, 8, 10, 19,
25, 111, 112, 113. -/
def Obligations.ControlFlitsAndTime : Prop :=
  (∀ (l : Nat) (f : Flit) (s : State), Inv s → l < 96 → f.type = ftLinkCtrl → isLiveLink (linkAt s l) = true →
    ∃ t, exec (.linkCtrl l f) s = .next t ∧
      (∀ k, k ≠ l → linkAt t k = linkAt s k) ∧
      ((linkAt s l).plane = none ∨ (linkAt s l).plane = some (ctrlPlane f) →
        linkAt t l = { linkAt s l with peer := f.src } ∧ Only [.lnk] s t) ∧
      (∀ p, (linkAt s l).plane = some p → p ≠ ctrlPlane f →
        linkAt t l = { linkAt s l with peer := f.src, st := .absent, lanes := 0, retry := [] } ∧
        (UnitKind.link, l, ctrlPlane f, lifeTime s) ∈ t.stud.repairs ∧
        EventSent s t (gtcNs s) 0x0060 .link l (l + 256 * p + 65536) ∧
        Only [.lnk, .na, .hst, .master, .stud, .host] s t)) ∧
  (∀ (f : Flit) (obj : Nat) (v : Word64) (s : State), Inv s → FlitTaken s f ftSyncAdd → obj = leNat ((flitBody f).take 2) →
    v = BitVec.ofNat 64 (leNat (((flitBody f).drop 8).take 8)) → ∃ t, exec (.peerSyncAdd f) s = .next t ∧
      (s.clk.asleep = true → t = { s with held := s.held ++ [{ obj := obj, set := false, peer := true, value := v }] }) ∧
      (s.clk.asleep = false → syncAvailable s obj = true → syncGet t obj = syncGet s obj + v ∧
        (∀ k, k ≠ obj → syncGet t k = syncGet s k) ∧ Only [.hst, .sync] s t) ∧
      (s.clk.asleep = false → syncAvailable s obj = false → EventSent s t (gtcNs s) 0x0050 .none 0 obj ∧
        Only [.na, .hst, .host] s t)) ∧
  (∀ (s : State) (p : Nat), timePlane s = some p → s.clk.syncRole = 2 → ∃ t, exec .timeExchange s = .next t ∧
    (∃ f, t.side.flits = s.side.flits ++ [f] ∧ f.type = ftTimeReq ∧ f.plane = p ∧
      f.payload = natBytes 8 (laneTime s (timeLink s none)) ++ natBytes 8 0) ∧
    t.clk = { s.clk with timeReqSent := some (BitVec.ofNat 64 (laneTime s (timeLink s none))) } ∧ Only [.clk, .lnk, .side] s t) ∧
  (∀ (f : Flit) (s : State), f.type = ftTimeReq → (planeLink s f.plane).isSome = true → s.clk.syncRole = 1 → ∃ t, exec (.timeReq f) s = .next t ∧
    (∃ g, t.side.flits = s.side.flits ++ [g] ∧ g.type = ftTimeResp ∧ g.dest = f.src ∧ g.plane = f.plane ∧
      g.payload = natBytes 8 (laneTime s (timeLink s (some f.plane))) ++ natBytes 8 (laneTime s (timeLink s (some f.plane))) ++
        natBytes 8 (bodyNat f 1) ++ natBytes 8 0) ∧
    Only [.lnk, .side] s t) ∧
  ∀ (f : Flit) (t1 : Word64) (d : Int) (s : State), Inv s → f.type = ftTimeResp → (planeLink s f.plane).isSome = true → s.clk.syncRole = 2 →
    s.clk.timeReqSent = some t1 →
    d = (((bodyNat f 0 : Int) - t1.toNat - bodyNat f 2) -
      ((laneTime s (timeLink s (some f.plane)) : Int) - (bodyNat f 1 : Int) - bodyNat f 3)).tdiv 2 →
    ∃ t, exec (.timeResp f) s = .next t ∧
      t.clk.offsetNs = d ∧ t.clk.timeReqSent = none ∧
      (d.natAbs ≤ 1000 → t.clk.slew = d ∧ t.clk.far = false ∧ (t.clk.locked = true ↔ d.natAbs ≤ 10) ∧ Only [.clk] s t) ∧
      (1000 < d.natAbs → t.clk.slew = 0 ∧ t.clk.far = true ∧ t.clk.locked = false ∧ t.clk.gtc = s.clk.gtc ∧
        (s.clk.far = false → EventSent s t (gtcNs s) 0x0033 .none 0 (detailInt d)) ∧ Only [.clk, .na, .hst, .host] s t)

/-- READY waits in the mail when its collective is not reached here yet, or the master does not work, and is dropped when its
collective is over; rank 0 counts it until every rank's is in; then, agreed, it sends START to every other rank 20 us ahead,
and the collective is Accepted where nothing holds acceptance, and otherwise it sends ABORT and the collective ends with
BAD_SHAPE. START schedules a waiting collective, whose entry is Accepted, or waits with what held acceptance. SLOT_ADJ
reschedules an agreed one from its slot on; one that comes before START waits for it. ABORT waits in the mail when its
collective is not reached, and else ends the collective it is for with the status it brings, which rank 0 sends on. Stated
with another operation selected where the collective is not the one in flight (16 R387, R388, R394; the bodies are laid out as
log entry 19 says). Where the spec's words leave a point to be read, the clauses take the model's own reading of log entries
19, 35, 38, 41, 42, 110, 126, 134, 159. -/
def Obligations.CollectivesAgreeAndStart : Prop :=
  (∀ (f : Flit) (reads : ReadOutcome) (s : State), FlitTaken s f ftReady →
    (takerOf s f = none → notReached s f = true → ∃ t, exec (.ready f reads) s = .next t ∧
      t.lnk = { s.lnk with mail := s.lnk.mail ++ [f] } ∧ Only [.lnk] s t) ∧
    (takerOf s f = none → notReached s f = false → exec (.ready f reads) s = .next s) ∧
    ((takerOf s f).isSome = true → masterOn s = false → ∃ t, exec (.ready f reads) s = .next t ∧
      t.lnk = { s.lnk with mail := s.lnk.mail ++ [f] } ∧ Only [.lnk] s t) ∧
    ∀ (o : Op) (c d : Coll), takerOf s f = some (o, c) → masterOn s = true → c.variant ≠ 4 →
      d = { c with ready := c.ready ++ [(rankOf c f.src, flitBody f)] } →
      (¬ (others c).all (fun r => d.ready.any (fun p => p.1 = r)) = true → ∃ t, exec (.ready f reads) s = .next t ∧
        t = setOpOf s (putColl o d) ∧ Only [.master] s t) ∧
      ((others c).all (fun r => d.ready.any (fun p => p.1 = r)) = true → d.ready.all (fun p => readyAgrees (readyBody s o c) p.2) = true →
        s.master.sel.isSome = true → inFlight s o = false → (∀ q, s.master.op = some q → collWaits q = false) →
        (planeLink s (c.planes.headD 0)).isSome = true → mayRun s = true → s.clk.entering = false → boundaryClear s = true →
        addressCheck s o = .ok → staleCheck s o = .ok → ∃ t, exec (.ready f reads) s = .next t ∧
        (∃ len ws, t.side.flits = s.side.flits ++
          (others c).map (fun r => toRank s c ftStart r (startBody c ((gtcNs s).toNat + 20000) len ws)) ∧
          ws = minWidths c.planes.length (readyBody s o c :: d.ready.map (·.2)) ∧ len = slotLength (largestTransfer o c) ws) ∧
        (∀ x ∈ (ringAt t o.ring).entries, x.count = o.count → x.st = .accepted) ∧
        t.master.op = s.master.op ∧ t.sync = s.sync ∧ t.dram = s.dram) ∧
      ((others c).all (fun r => d.ready.any (fun p => p.1 = r)) = true →
        d.ready.all (fun p => readyAgrees (readyBody s o c) p.2) = false → c.started = false → inFlight s o = false →
        (∀ q, s.master.op = some q → collWaits q = false) → (planeLink s (c.planes.headD 0)).isSome = true →
        ∃ t, exec (.ready f reads) s = .next t ∧
        t.side.flits = s.side.flits ++ (others c).map (fun r => toRank s c ftAbort r (abortBody c stBadShape)) ∧
        HeadEnds s t o.ring ((ringAt s o.ring).entries.filter (fun e => e.count = o.count)) stBadShape 14 ∧
        t.master.op = s.master.op ∧ t.sync = s.sync ∧ t.dram = s.dram)) ∧
  (∀ (f : Flit) (reads : ReadOutcome) (s : State) (o : Op) (c : Coll), FlitTaken s f ftStart → masterOn s = true →
    collWhere s f.comm (fun c => c.variant ≤ 3 && !c.agreed && forColl c f && c.rank ≠ 0 && decide (c.list.getD 0 0 = f.src)) = some o →
    o.coll = some c → c.early = [] → c.told = c.planes.map (planeWidth s) → s.master.sel.isSome = true → inFlight s o = false →
    (∀ q, s.master.op = some q → collWaits q = false) → addressCheck s o = .ok → staleCheck s o = .ok →
    ∃ t, exec (.start f reads) s = .next t ∧
      (∃ p ∈ t.master.colls, ∃ q, sameOp p o = true ∧ p.coll = some q ∧ q.agreed = true ∧
        q.started = (mayRun s && (!s.clk.entering || !s.master.done.isEmpty) && boundaryClear s) ∧
        q.t0 = leNat ((flitBody f).take 8) ∧ slotStart q 1 = leNat ((flitBody f).take 8) ∧
        slotStart q 2 = leNat ((flitBody f).take 8) + leNat (((flitBody f).drop 8).take 4)) ∧
      (mayRun s = true → s.clk.entering = false → boundaryClear s = true →
        ∀ x ∈ (ringAt t o.ring).entries, x.count = o.count → x.st = .accepted) ∧
      t.master.op = s.master.op ∧ t.sync = s.sync ∧ t.dram = s.dram) ∧
  (∀ (f : Flit) (s : State) (o : Op) (c : Coll), FlitTaken s f ftSlotAdj →
    collWhere s f.comm (fun c => c.variant ≤ 3 && forColl c f && c.list.contains f.src) = some o → o.coll = some c →
    (c.agreed = true → ∃ t, exec (.slotAdj f) s = .next t ∧
      t = setOpOf s (putColl o (adjusted c f)) ∧
      slotStart (adjusted c f) (leNat (((flitBody f).drop 4).take 4)) = slotStart c (leNat (((flitBody f).drop 4).take 4)) ∧
      slotStart (adjusted c f) (leNat (((flitBody f).drop 4).take 4) + 1) =
        slotStart c (leNat (((flitBody f).drop 4).take 4)) + leNat ((flitBody f).take 4) ∧ Only [.master] s t) ∧
    (c.agreed = false → ∃ t, exec (.slotAdj f) s = .next t ∧
      t = setOpOf s (putColl o { c with early := c.early ++ [f] }) ∧ Only [.master] s t)) ∧
  ∀ (f : Flit) (s : State), Inv s → FlitTaken s f ftAbort →
    (abortTaker s f = none → notReached s f = true → ∃ t, exec (.abort f) s = .next t ∧
      t.lnk = { s.lnk with mail := s.lnk.mail ++ [f] } ∧ Only [.lnk] s t) ∧
    (abortTaker s f = none → notReached s f = false → exec (.abort f) s = .next s) ∧
    (∀ o c, abortTaker s f = some (o, c) → o.ring < 16 →
      (inFlight s o = false → collStarted o = false → (∀ q, s.master.op = some q → collWaits q = false) →
        ∃ t, exec (.abort f) s = .next t ∧
        HeadEnds s t o.ring ((ringAt s o.ring).entries.filter (fun e => e.count = o.count)) ((flitBody f).headD 0)
          (abortDetail ((flitBody f).headD 0)) ∧
        (∀ x ∈ t.master.colls, sameOp x o = false) ∧
        t.side.flits = s.side.flits ++ (if c.variant ≤ 3 ∧ c.rank = 0 ∧ (planeLink s (c.planes.headD 0)).isSome = true then
          ((others c).filter (fun r => r ≠ rankOf c f.src)).map (fun r => toRank s c ftAbort r (abortBody c ((flitBody f).headD 0)))
          else []) ∧
        t.master.op = s.master.op ∧ t.sync = s.sync ∧ t.dram = s.dram) ∧
      (inFlight s o = true → ∃ t, exec (.abort f) s = .next t ∧ OperationEnds s t ((flitBody f).headD 0) ∧
        t.sync = s.sync ∧ t.dram = s.dram))

/-- DATA of a transfer that is not whole, or whose collective has not begun, and that it has not had, is kept by slot, plane and
INDEX; a whole transfer that is not reduced is written into z; a disagreement of the reduction lanes ends the collective with
UNCORRECTABLE. SEND_DATA of a recv is kept while it is not whole. COLLECTIVE_SLOT_START: the next slot of the collective in
flight goes out as stripes of its peer's transfer when its time has come and its reads are served, and so do the slots left of
one that has committed; a send that has not begun begins: its data goes out and its entry is Running. SEND_ACKNOWLEDGED
commits the send, with its SYNC_ADD to the peer (16 R389 to R393, 15 R359). Where the spec's words leave a point to be read,
the clauses take the model's own reading of log entries 7, 8, 10, 19, 20, 35, 39, 40, 117, 118, 126, 158, 162. -/
def Obligations.CollectiveDataAndSlots : Prop :=
  (∀ (f : Flit) (lane : Bool) (merge : ReadOutcome) (s : State) (o : Op) (c d : Coll), FlitTaken s f ftData →
    collWhere s f.comm (fun c => c.variant ≤ 3 && !c.done && awaitsFlit c f && decide (1 ≤ f.slot) && decide (f.slot ≤ lastSlot c) &&
      decide (c.list.getD (slotSource c f.slot) 0 = f.src)) = some o → o.coll = some c →
    d = { c with got := c.got ++ [{ slot := f.slot, plane := f.plane, index := f.index, bytes := flitBody f }] } →
    ((lane = false ∨ c.started = false ∨ reduces c f.slot = false) →
      (c.begun = false ∨ inFlight s o = false ∨ (gotBytes d.got f.slot).length < slotLen o c f.slot) →
      (∀ p k, flightColl s = some (p, k) → sameOp p o = true → p = o ∧ k = c) →
      (∀ p k, flightColl s = some (p, k) → k.got.any (fun g => decide (g.slot = f.slot)) = false ∨ sameOp p o = true) →
      (∀ p k, flightColl s = some (p, k) → k.begun = false ∨ 3 < k.variant ∨ (k.ownDone = false ∧ (k.variant = 0 ∨ k.variant = 2)) ∨
        ∃ r ∈ wanted p k, r ∉ k.gathered) →
      ∃ t, exec (.data f lane merge) s = .next t ∧ t = setOpOf s (putColl o d) ∧ Only [.master] s t) ∧
    (∀ cells : List Host.Cell, (lane = false ∨ reduces c f.slot = false) → masterOn s = true → s.master.op = some o → c.begun = true →
      reduces c f.slot = false → slotLen o c f.slot ≤ (gotBytes d.got f.slot).length →
      cells = cellsOf (readByte s) (zWrites o
        (blockOf (if c.variant = 3 then tdElems (collZ o) else collElems o) c.ranks (slotSource c f.slot)).1
        ((List.range (blockOf (if c.variant = 3 then tdElems (collZ o) else collElems o) c.ranks (slotSource c f.slot)).2).map
          (packedCode (collZ o).format (gotBytes d.got f.slot)))) →
      writeAccess s (cells.map (·.1)) (mergesOf merge cells).uncorrectable = .ok → merge.corrected = [] → merge.wrong = [] →
      ∃ t, exec (.data f lane merge) s = .next t ∧
        (∀ a, readByte t a = readByte (writeCells s cells) a) ∧
        (∃ p q, t.master.op = some p ∧ p.coll = some q ∧ q.gathered = slotSource c f.slot :: c.gathered ∧
          q.got = d.got.filter (fun g => g.slot ≠ f.slot) ∧ q.slotsIn = f.slot :: c.slotsIn) ∧
        Only [.master, .dram, .host, .spad, .before, .badDram, .badSpad] s t) ∧
    (Inv s → lane = true → c.started = true → reduces c f.slot = true → inFlight s o = true →
      ∃ t, exec (.data f lane merge) s = .next t ∧ OperationEnds s t stUncorrectable ∧ t.sync = s.sync ∧ t.dram = s.dram)) ∧
  (∀ (f : Flit) (merge : ReadOutcome) (s : State) (o : Op) (c d : Coll), FlitTaken s f ftSendData →
    o ∈ s.master.op.toList ++ s.master.colls →
    (∀ x ∈ s.master.op.toList ++ s.master.colls, x ≠ o →
      sameOp x o = false ∧ ∀ k, x.coll = some k → k.variant ≠ 5) →
    o.coll = some c → c.variant = 5 → c.comm = f.comm → f.slot = c.num % 2 ^ 24 → c.stalled = false → c.started = true → c.done = false →
    c.list.getD (collPeer o) 0 = f.src →
    d = { c with got := c.got ++ [{ slot := 0, plane := f.plane, index := f.index, bytes := flitBody f }] } →
    (gotBytes d.got 0).length < recvLen o → ∃ t, exec (.sendData f merge) s = .next t ∧
      t = setOpOf s (putColl o d) ∧ Only [.master] s t) ∧
  (∀ (reads own : ReadOutcome) (s : State) (o : Op) (c : Coll), s.master.op = some o → o.coll = some c → masterOn s = true →
    s.master.tail = [] →
    (slotDue s c = true → own = outcomeOf reads (slotSpans o c c.slotNext) →
      readAccess s (slotSpans o c c.slotNext) own.uncorrectable = .ok →
      ∃ t, exec (.collectiveSlotStart reads) s = .next t ∧
      t.side.flits = s.side.flits ++
        transferFlits s c (slotWidths c c.slotNext) ftData (slotPeer c c.slotNext) c.slotNext
          (slotBytes (seenByte (noteReads s own) own) o c c.slotNext) ∧
      (∃ p q, t.master.op = some p ∧ p.coll = some q ∧ q.slotNext = c.slotNext + 1 ∧ q.got = c.got) ∧
      (own.corrected = [] → Only [.lnk, .side, .master] s t)) ∧
    (c.variant = 4 → c.started = true → c.begun = false → c.stalled = false → c.done = false →
      c.got = [] → (∀ p ∈ c.planes, (planeLink s p).isSome = true) → own = outcomeOf reads (beginSpans o c) →
      readAccess s (beginSpans o c) own.uncorrectable = .ok →
      ∃ t, exec (.collectiveSlotStart reads) s = .next t ∧
      t.side.flits = s.side.flits ++ transferFlits s c c.widths ftSendData (collPeer o) (c.num % 2 ^ 24)
        (sendBytes (seenByte (noteReads s own) own) o) ∧
      t.master.op = some (putColl o { c with sent := true, begun := true }) ∧
      (o.ring < 16 → (ringAt t o.ring).entries =
        (ringAt s o.ring).entries.map (fun e => if e.count = o.count then { e with st := .running } else e)) ∧
      (own.corrected = [] → Only [.lnk, .hst, .side, .master] s t))) ∧
  (∀ (reads own : ReadOutcome) (s : State) (x : Tail) (ts : List Tail) (c : Coll), masterOn s = true → s.master.tail = x :: ts →
    x.op.coll = some c → slotDue s c = true → own = outcomeOf reads (slotSpans x.op c c.slotNext) →
    readAccess s (slotSpans x.op c c.slotNext) own.uncorrectable = .ok →
    ∃ t, exec (.collectiveSlotStart reads) s = .next t ∧
      t.side.flits = s.side.flits ++ slotFlits s (memGet (turned x.data own.wrong)) x.op c ∧
      t.master.op = s.master.op ∧ (lastSlot c ≤ c.slotNext → t.master.tail = ts) ∧
      (c.slotNext < lastSlot c → t.master.tail = { x with op := putColl x.op { c with slotNext := c.slotNext + 1 } } :: ts)) ∧
  ∀ (reads : ReadOutcome) (s : State) (o : Op) (c : Coll) (sel : Selection), Inv s → s.master.op = some o → o.coll = some c →
    o.opcode = 12 → o.variant = 4 → c.variant = 4 → c.sent = true → c.stalled = false → c.done = false → s.master.sel = some sel →
    o.advStats = [] → (planeLink s (c.planes.getLastD 0)).isSome = true →
    sel.next = sel.members.length → sel.ring < 16 → s.master.done = [] → s.master.recovery = none → masterOn s = true →
    signalLost s sel.members = none → (∀ e ∈ (ringAt s sel.ring).entries, e.ended = none) →
    ∃ t, exec (.sendAcknowledged reads) s = .next t ∧
      t.master.sel = none ∧ t.master.op = none ∧
      (ringAt t sel.ring).posted = (ringAt s sel.ring).posted + BitVec.ofNat 32 sel.members.length ∧
      (∀ e, sel.members = [e] → ∃ r : Completion, r.tag = dTag e.words ∧ r.count = e.count ∧ r.status = stOk ∧
        RecordStands s t sel.ring r) ∧
      ∃ f, t.side.flits = s.side.flits ++ [f] ∧ f.type = ftSyncAdd ∧ f.dest = c.list.getD (o.param 1).toNat 0 ∧
        leNat ((flitBody f).take 2) = bits (o.param 2).toNat 15 0 ∧ leNat (((flitBody f).drop 8).take 8) = (o.param 3).toNat

end
end

