-- ==== Sys2Proof/Laws/Check.lean ====
section
/-!
SUPPORT. The invariant of Safety.lean as a test that evaluates, with the proof that a state which passes it satisfies the
invariant. A test is the list of its clauses; passing it is passing every clause.
-/
namespace Sys2Proof.Machine

def edgeTest (e : Edge) : Bool := decide (e.replays ≤ top32) && decide (e.slips ≤ top16) && e.fifo.all (fun q => decide (q.length ≤ 8))

def deltaTest (d : Int) : Bool := decide (-8 ≤ d ∧ d ≤ 12)

def fieldTest (x : Field) : Bool :=
  x.edges.all edgeTest && decide (x.edges.length = 4 ∧ x.credit ≤ fullCredit ∧ x.mcDrop ≤ top32 ∧ x.stageFailed ≤ 7 ∧
    x.ownReins ≤ top16)

def regionTest (x : Region) : Bool :=
  deltaTest x.delta && decide (x.efuseOpenings ≤ 3 ∧ x.hits ≤ top32 ∧ x.margin ≤ 255 ∧ x.wideSessions ≤ 6 ∧
    x.bankReady &&& x.bankOn = x.bankReady)

def stackTest (x : Stack) : Bool := decide (x.eccCorr ≤ top32 ∧ x.eccUncorr ≤ top32)

def linkTest (x : Link) : Bool := decide (x.fecUncorr ≤ top16 ∧ x.retries ≤ top16 ∧ x.retry.length ≤ 256)

def lnkTest (k : Lnk) : Bool :=
  k.links.all linkTest && decide (k.links.length = 96 ∧ k.dropTag ≤ top16 ∧ k.dropType ≤ top16)

def hstTest (h : Hst) : Bool := decide (h.rings.length = 18 ∧ h.evtDropped ≤ top32)

def glbTest (g : Glb) : Bool :=
  decide (Memory.wf g.weaveRecord = true ∧ Memory.wf g.flashWeave = true ∧ g.nanSquash ≤ top32 ∧ g.mismatches ≤ top16 ∧
    g.skipped ≤ top16 ∧ g.errDropped ≤ top32)

def pwrTest (p : Power) : Bool := decide (p.curbOwnCount ≤ top16 ∧ p.curbExtCount ≤ top16)

def naTest (n : Adapter) : Bool := decide (n.retrains ≤ top16 ∧ n.pageTail.length = 18 ∧ n.pageHead.length = 18)

def studTest (b : StudBook) : Bool :=
  b.units.all (fun u => decide (u.life ≤ top16)) && b.trims.all (fun t => deltaTest t.new) &&
    b.creditCkpt.all (fun c => decide (c ≤ 14400))

def fusesTest (x : Fuses) : Bool := x.delta.all deltaTest && decide (x.svn ≤ 64)

def syncTest : List (Nat × Word64) → Bool
  | [] => true
  | [p] => decide (p.2 ≠ 0)
  | p :: q :: l => decide (p.2 ≠ 0 ∧ p.1 < q.1) && syncTest (q :: l)

theorem deltaTest_ok {d : Int} (h : deltaTest d = true) : DeltaOk d := by
  simpa [deltaTest, DeltaOk] using h

/-- Every element of a list that passes a test has the property the test shows. -/
theorem all_ok {α : Type} {test : α → Bool} {P : α → Prop} {l : List α} (ok : ∀ {x}, test x = true → P x)
    (h : l.all test = true) : ∀ x ∈ l, P x := fun x hx => ok (List.all_eq_true.1 h x hx)

theorem edgeTest_ok {e : Edge} (h : edgeTest e = true) : EdgeOk e := by
  rw [edgeTest, Bool.and_eq_true, Bool.and_eq_true] at h
  exact { replays := of_decide_eq_true h.1.1, slips := of_decide_eq_true h.1.2, fifo := all_ok of_decide_eq_true h.2 }

theorem fieldTest_ok {x : Field} (h : fieldTest x = true) : FieldOk x := by
  rw [fieldTest, Bool.and_eq_true] at h
  obtain ⟨count, credit, drop, stage, reins⟩ := of_decide_eq_true h.2
  exact ⟨count, all_ok edgeTest_ok h.1, credit, drop, stage, reins⟩

theorem regionTest_ok {x : Region} (h : regionTest x = true) : RegionOk x := by
  rw [regionTest, Bool.and_eq_true] at h
  obtain ⟨openings, hits, margin, wide, banks⟩ := of_decide_eq_true h.2
  exact ⟨openings, hits, margin, wide, deltaTest_ok h.1, banks⟩

theorem stackTest_ok {x : Stack} (h : stackTest x = true) : StackOk x :=
  have ⟨corr, uncorr⟩ := of_decide_eq_true h
  ⟨corr, uncorr⟩

theorem linkTest_ok {x : Link} (h : linkTest x = true) : LinkOk x :=
  have ⟨fec, retries, retry⟩ := of_decide_eq_true h
  ⟨fec, retries, retry⟩

theorem lnkTest_ok {k : Lnk} (h : lnkTest k = true) : LnkOk k := by
  rw [lnkTest, Bool.and_eq_true] at h
  obtain ⟨count, tag, type⟩ := of_decide_eq_true h.2
  exact ⟨count, all_ok linkTest_ok h.1, tag, type⟩

theorem hstTest_ok {x : Hst} (h : hstTest x = true) : HstOk x :=
  have ⟨count, dropped⟩ := of_decide_eq_true h
  ⟨count, dropped⟩

theorem glbTest_ok {g : Glb} (h : glbTest g = true) : GlbOk g :=
  have ⟨record, flash, nan, mis, skip, err⟩ := of_decide_eq_true h
  ⟨record, flash, nan, mis, skip, err⟩

theorem pwrTest_ok {p : Power} (h : pwrTest p = true) : PowerOk p :=
  have ⟨own, ext⟩ := of_decide_eq_true h
  ⟨own, ext⟩

theorem naTest_ok {n : Adapter} (h : naTest n = true) : AdapterOk n :=
  have ⟨retrains, tails, heads⟩ := of_decide_eq_true h
  ⟨retrains, tails, heads⟩

theorem studTest_ok {b : StudBook} (h : studTest b = true) : StudOk b := by
  rw [studTest, Bool.and_eq_true, Bool.and_eq_true] at h
  obtain ⟨⟨units, trims⟩, ckpt⟩ := h
  exact ⟨all_ok of_decide_eq_true units, all_ok deltaTest_ok trims, all_ok of_decide_eq_true ckpt⟩

theorem fusesTest_ok {x : Fuses} (h : fusesTest x = true) : FusesOk x := by
  rw [fusesTest, Bool.and_eq_true] at h
  exact ⟨all_ok deltaTest_ok h.1, of_decide_eq_true h.2⟩

theorem syncTest_ok : ∀ l : List (Nat × Word64), syncTest l = true → SyncOk l
  | [], _ => trivial
  | [_], h => by simpa [syncTest, SyncOk] using h
  | p :: q :: l, h => by
    rw [syncTest, Bool.and_eq_true] at h
    exact ⟨(of_decide_eq_true h.1).1, (of_decide_eq_true h.1).2, syncTest_ok (q :: l) h.2⟩

/-- A table of n units passes when it has n and each passes. -/
def tableTest {α : Type} (n : Nat) (l : List α) (test : α → Bool) : Bool := decide (l.length = n) && l.all test

theorem tableTest_ok {α : Type} {n : Nat} {l : List α} {test : α → Bool} {P : α → Prop} (ok : ∀ {x}, test x = true → P x)
    (h : tableTest n l test = true) : l.length = n ∧ ∀ x ∈ l, P x := by
  rw [tableTest, Bool.and_eq_true] at h
  exact ⟨of_decide_eq_true h.1, all_ok ok h.2⟩

/-- The clauses of the test of the invariant. -/
def invTests (s : State) : List Bool :=
  [Memory.wf s.dram, Memory.wf s.spad, Memory.wf s.host, syncTest s.sync, tableTest 16 s.fields fieldTest,
   tableTest 96 s.regions regionTest, tableTest 16 s.memStacks stackTest, decide (s.slots.length = 96),
   tableTest 9 s.blocks (fun c => decide (c.staged.length ≤ 16)), lnkTest s.lnk, hstTest s.hst, glbTest s.glb,
   Memory.wf s.sec.image, decide (s.master.stale.length ≤ 64), pwrTest s.pwr, naTest s.na, studTest s.stud,
   fusesTest s.fuses]

/-- The test of the invariant. -/
def invTest (s : State) : Bool := (invTests s).all id

/-- A state that passes the test satisfies the invariant. -/
theorem inv_of_test {s : State} (h : invTest s = true) : Inv s := by
  have k : ∀ x ∈ invTests s, x = true := List.all_eq_true.1 h
  have part : ∀ i (hi : i < 18), (invTests s)[i]'hi = true := fun i hi => k _ (List.getElem_mem hi)
  have fields := tableTest_ok fieldTest_ok (part 4 (by decide))
  have regions := tableTest_ok regionTest_ok (part 5 (by decide))
  have stackTable := tableTest_ok stackTest_ok (part 6 (by decide))
  have blocks := tableTest_ok (P := BlockOk) (fun h => by simpa [BlockOk] using h) (part 8 (by decide))
  exact {
    dram := part 0 (by decide)
    spad := part 1 (by decide)
    host := part 2 (by decide)
    sync := syncTest_ok _ (part 3 (by decide))
    fieldCount := fields.1
    fields := fields.2
    regionCount := regions.1
    regions := regions.2
    stackCount := stackTable.1
    memStacks := stackTable.2
    slots := of_decide_eq_true (part 7 (by decide))
    blockCount := blocks.1
    blocks := blocks.2
    lnk := lnkTest_ok (part 9 (by decide))
    hst := hstTest_ok (part 10 (by decide))
    glb := glbTest_ok (part 11 (by decide))
    sec := part 12 (by decide)
    master := of_decide_eq_true (p := s.master.stale.length ≤ 64) (part 13 (by decide))
    pwr := pwrTest_ok (part 14 (by decide))
    na := naTest_ok (part 15 (by decide))
    stud := studTest_ok (part 16 (by decide))
    fuses := fusesTest_ok (part 17 (by decide)) }

end Sys2Proof.Machine
end

