-- ==== Sys2Proof/Laws/Memory.lean ====
section
/-!
SUPPORT. The laws of memory: every operation keeps the canonical form, a write is read back, and a write leaves every other
address alone.
-/
namespace Sys2Proof.Machine

/-! ### The canonical form -/

/-- Every listed address lies above a bound. -/
def Memory.above (a : Nat) (m : Mem) : Prop := ∀ c ∈ m, a < c.1

theorem Memory.above_nil (a : Nat) : Memory.above a [] := by intro c h; cases h

theorem Memory.above_cons {a : Nat} {c : Host.Cell} {m : Mem} :
    Memory.above a (c :: m) ↔ a < c.1 ∧ Memory.above a m := by simp [Memory.above]

theorem Memory.above_mono {a b : Nat} {m : Mem} (h : a ≤ b) (hb : Memory.above b m) : Memory.above a m :=
  fun c hc => Nat.lt_of_le_of_lt h (hb c hc)

/-- The form, one cell at a time. -/
theorem Memory.wf_cons {c : Host.Cell} {m : Mem} :
    Memory.wf (c :: m) = true ↔ c.2 ≠ 0 ∧ Memory.above c.1 m ∧ Memory.wf m = true := by
  induction m generalizing c with
  | nil => simp [Memory.wf, Memory.above_nil]
  | cons d m ih =>
    simp only [Memory.wf, Bool.and_eq_true, decide_eq_true_eq, Memory.above_cons]
    constructor
    · rintro ⟨⟨hc, hlt⟩, hw⟩
      exact ⟨hc, ⟨hlt, Memory.above_mono (Nat.le_of_lt hlt) (ih.1 hw).2.1⟩, hw⟩
    · rintro ⟨hc, ⟨hlt, _⟩, hw⟩
      exact ⟨⟨hc, hlt⟩, hw⟩

@[simp] theorem Memory.wf_nil : Memory.wf [] = true := rfl

theorem memSet_above {x a : Nat} {b : Byte} {m : Mem} (ha : x < a) (hm : Memory.above x m) :
    Memory.above x (memSet m a b) := by
  induction m with
  | nil =>
    simp only [memSet]
    split
    · exact Memory.above_nil x
    · exact Memory.above_cons.2 ⟨ha, Memory.above_nil x⟩
  | cons c m ih =>
    obtain ⟨hc, ht⟩ := Memory.above_cons.1 hm
    simp only [memSet]
    split
    · exact Memory.above_cons.2 ⟨hc, ih ht⟩
    · split
      · split
        · exact ht
        · exact Memory.above_cons.2 ⟨ha, ht⟩
      · split
        · exact hm
        · exact Memory.above_cons.2 ⟨ha, hm⟩

/-- A one-byte write keeps the canonical form. -/
theorem memSet_wf {m : Mem} (a : Nat) (b : Byte) (h : Memory.wf m = true) : Memory.wf (memSet m a b) = true := by
  induction m with
  | nil =>
    simp only [memSet]
    split
    · rfl
    · exact Memory.wf_cons.2 ⟨by assumption, Memory.above_nil a, rfl⟩
  | cons c m ih =>
    obtain ⟨hc, hab, hw⟩ := Memory.wf_cons.1 h
    simp only [memSet]
    split
    · next hlt => exact Memory.wf_cons.2 ⟨hc, memSet_above hlt hab, ih hw⟩
    · split
      · next heq =>
        split
        · exact hw
        · exact Memory.wf_cons.2 ⟨by assumption, heq ▸ hab, hw⟩
      · split
        · exact h
        · refine Memory.wf_cons.2 ⟨by assumption, Memory.above_cons.2 ⟨by simp only; omega, ?_⟩, h⟩
          exact Memory.above_mono (by simp only; omega) hab

theorem memWrite_wf {m : Mem} (cells : List Host.Cell) (h : Memory.wf m = true) : Memory.wf (memWrite m cells) = true := by
  induction cells generalizing m with
  | nil => exact h
  | cons c cells ih => exact ih (memSet_wf c.1 c.2 h)

theorem Memory.wf_filter {m : Mem} (p : Host.Cell → Bool) (h : Memory.wf m = true) : Memory.wf (m.filter p) = true := by
  induction m with
  | nil => rfl
  | cons c m ih =>
    obtain ⟨hc, hab, hw⟩ := Memory.wf_cons.1 h
    rw [List.filter_cons]
    split
    · exact Memory.wf_cons.2 ⟨hc, fun d hd => hab d (List.mem_filter.1 hd).1, ih hw⟩
    · exact ih hw

theorem memKeep_wf {m : Mem} (p : Nat → Bool) (h : Memory.wf m = true) : Memory.wf (memKeep m p) = true :=
  Memory.wf_filter _ h

/-! ### Reading -/

theorem memGet_above {a : Nat} {m : Mem} (h : Memory.above a m) : memGet m a = 0 := by
  cases m with
  | nil => rfl
  | cons c m =>
    have := (Memory.above_cons.1 h).1
    simp only [memGet]
    rw [if_neg (by omega), if_pos this]

/-- A byte written is the byte read there. -/
theorem memGet_memSet_same {m : Mem} (a : Nat) (b : Byte) (h : Memory.wf m = true) : memGet (memSet m a b) a = b := by
  induction m with
  | nil => simp only [memSet]; split <;> simp_all [memGet]
  | cons c m ih =>
    obtain ⟨hc, hab, hw⟩ := Memory.wf_cons.1 h
    simp only [memSet]
    split
    · next hlt =>
      simp only [memGet]
      rw [if_neg (by omega), if_neg (by omega)]
      exact ih hw
    · split
      · next heq =>
        split
        · next hz => rw [hz, ← heq]; exact memGet_above hab
        · simp [memGet]
      · split
        · next hz =>
          rw [hz]
          simp only [memGet]
          rw [if_neg (by assumption), if_pos (by omega)]
        · simp [memGet]

/-- A write leaves every other address as it was. -/
theorem memGet_memSet_other {m : Mem} {a x : Nat} (b : Byte) (hx : x ≠ a) (h : Memory.wf m = true) :
    memGet (memSet m a b) x = memGet m x := by
  induction m with
  | nil =>
    simp only [memSet]
    split
    · rfl
    · simp only [memGet]; rw [if_neg (by omega)]; split <;> rfl
  | cons c m ih =>
    obtain ⟨hc, hab, hw⟩ := Memory.wf_cons.1 h
    simp only [memSet]
    split
    · simp only [memGet]; rw [ih hw]
    · split
      · next heq =>
        split
        · simp only [memGet]
          rw [if_neg (by omega)]
          split
          · next hlt => exact memGet_above (Memory.above_mono (Nat.le_of_lt (by omega : x < c.1)) hab)
          · rfl
        · simp only [memGet]; rw [heq, if_neg (Ne.symm hx), if_neg (Ne.symm hx)]
      · split
        · rfl
        · simp only [memGet]
          rw [if_neg (by omega)]
          split
          · next hlt => rw [if_neg (by omega), if_pos (by omega)]
          · rfl

/-- A list of writes leaves the addresses it does not name as they were. -/
theorem memGet_memWrite_other {m : Mem} {x : Nat} (cells : List Host.Cell) (hx : ∀ c ∈ cells, x ≠ c.1)
    (h : Memory.wf m = true) : memGet (memWrite m cells) x = memGet m x := by
  induction cells generalizing m with
  | nil => rfl
  | cons c cells ih =>
    show memGet (memWrite (memSet m c.1 c.2) cells) x = memGet m x
    rw [ih (fun d hd => hx d (List.mem_cons_of_mem _ hd)) (memSet_wf c.1 c.2 h),
      memGet_memSet_other c.2 (hx c List.mem_cons_self) h]

/-- The cells of bytes laid from an address on name only their own addresses. -/
theorem mem_cellsAt {a : Nat} {bs : List Byte} {c : Host.Cell} (h : c ∈ cellsAt a bs) :
    a ≤ c.1 ∧ c.1 < a + bs.length := by
  simp only [cellsAt, List.mem_map] at h
  obtain ⟨p, hp, rfl⟩ := h
  obtain ⟨i, hi⟩ := List.mem_iff_getElem.1 hp
  obtain ⟨hlen, heq⟩ := hi
  simp only [List.length_zipIdx] at hlen
  have : p.2 = i := by rw [← heq]; simp
  simp only
  omega

theorem cellsAt_cons (a : Nat) (b : Byte) (bs : List Byte) : cellsAt a (b :: bs) = (a, b) :: cellsAt (a + 1) bs := by
  simp only [cellsAt, List.zipIdx_cons, List.map_cons, Nat.add_zero, Nat.zero_add, List.cons.injEq, true_and]
  rw [List.zipIdx_succ, List.map_map]
  refine List.map_congr_left fun p _ => ?_
  simp only [Function.comp, Prod.mk.injEq, and_true]
  omega

/-- What stands in memory after bytes are laid from an address on. -/
theorem memGet_memWrite_cellsAt {m : Mem} (a : Nat) (bs : List Byte) (x : Nat) (h : Memory.wf m = true) :
    memGet (memWrite m (cellsAt a bs)) x = if a ≤ x ∧ x < a + bs.length then bs.getD (x - a) 0 else memGet m x := by
  split
  · next hx =>
    induction bs generalizing a m with
    | nil => exact absurd hx.2 (by simp only [List.length_nil]; omega)
    | cons b bs ih =>
      rw [cellsAt_cons]
      show memGet (memWrite (memSet m a b) (cellsAt (a + 1) bs)) x = _
      by_cases hxa : x = a
      · subst hxa
        rw [memGet_memWrite_other _ (fun c hc => by have := mem_cellsAt hc; omega) (memSet_wf _ _ h), memGet_memSet_same _ _ h]
        simp
      · rw [ih (a + 1) (memSet_wf _ _ h) ⟨by omega, by simp only [List.length_cons] at hx; omega⟩]
        obtain ⟨k, rfl⟩ : ∃ k, x = a + k + 1 := ⟨x - a - 1, by omega⟩
        have h1 : a + k + 1 - (a + 1) = k := by omega
        have h2 : a + k + 1 - a = k + 1 := by omega
        rw [h1, h2, List.getD_cons_succ]
  · next hx => exact memGet_memWrite_other _ (fun c hc => by have := mem_cellsAt hc; omega) h

end Sys2Proof.Machine
end

