-- ==== Sys2Proof/Laws/State.lean ====
section
/-!
SUPPORT. One lemma per field of State and per update of a part of it, true by unfolding: no later proof unfolds a record
update.
-/
namespace Sys2Proof.Machine

variable (s : State)

/-! ### modField -/

@[simp] theorem modField_pending (f : Nat) (g : Field → Field) : (modField s f g).pending = s.pending := rfl
@[simp] theorem modField_pwr (f : Nat) (g : Field → Field) : (modField s f g).pwr = s.pwr := rfl
@[simp] theorem modField_clk (f : Nat) (g : Field → Field) : (modField s f g).clk = s.clk := rfl
@[simp] theorem modField_fields (f : Nat) (g : Field → Field) : (modField s f g).fields = s.fields.modify f g := rfl
@[simp] theorem modField_regions (f : Nat) (g : Field → Field) : (modField s f g).regions = s.regions := rfl
@[simp] theorem modField_slots (f : Nat) (g : Field → Field) : (modField s f g).slots = s.slots := rfl
@[simp] theorem modField_memStacks (f : Nat) (g : Field → Field) : (modField s f g).memStacks = s.memStacks := rfl
@[simp] theorem modField_lnk (f : Nat) (g : Field → Field) : (modField s f g).lnk = s.lnk := rfl
@[simp] theorem modField_na (f : Nat) (g : Field → Field) : (modField s f g).na = s.na := rfl
@[simp] theorem modField_hst (f : Nat) (g : Field → Field) : (modField s f g).hst = s.hst := rfl
@[simp] theorem modField_blocks (f : Nat) (g : Field → Field) : (modField s f g).blocks = s.blocks := rfl
@[simp] theorem modField_boot (f : Nat) (g : Field → Field) : (modField s f g).boot = s.boot := rfl
@[simp] theorem modField_glb (f : Nat) (g : Field → Field) : (modField s f g).glb = s.glb := rfl
@[simp] theorem modField_sec (f : Nat) (g : Field → Field) : (modField s f g).sec = s.sec := rfl
@[simp] theorem modField_side (f : Nat) (g : Field → Field) : (modField s f g).side = s.side := rfl
@[simp] theorem modField_master (f : Nat) (g : Field → Field) : (modField s f g).master = s.master := rfl
@[simp] theorem modField_farrier (f : Nat) (g : Field → Field) : (modField s f g).farrier = s.farrier := rfl
@[simp] theorem modField_stud (f : Nat) (g : Field → Field) : (modField s f g).stud = s.stud := rfl
@[simp] theorem modField_fuses (f : Nat) (g : Field → Field) : (modField s f g).fuses = s.fuses := rfl
@[simp] theorem modField_sync (f : Nat) (g : Field → Field) : (modField s f g).sync = s.sync := rfl
@[simp] theorem modField_held (f : Nat) (g : Field → Field) : (modField s f g).held = s.held := rfl
@[simp] theorem modField_dram (f : Nat) (g : Field → Field) : (modField s f g).dram = s.dram := rfl
@[simp] theorem modField_spad (f : Nat) (g : Field → Field) : (modField s f g).spad = s.spad := rfl
@[simp] theorem modField_before (f : Nat) (g : Field → Field) : (modField s f g).before = s.before := rfl
@[simp] theorem modField_host (f : Nat) (g : Field → Field) : (modField s f g).host = s.host := rfl
@[simp] theorem modField_badSpad (f : Nat) (g : Field → Field) : (modField s f g).badSpad = s.badSpad := rfl
@[simp] theorem modField_badDram (f : Nat) (g : Field → Field) : (modField s f g).badDram = s.badDram := rfl
@[simp] theorem modField_free (f : Nat) (g : Field → Field) : (modField s f g).free = s.free := rfl

/-! ### modRegion -/

@[simp] theorem modRegion_pending (r : Nat) (g : Region → Region) : (modRegion s r g).pending = s.pending := rfl
@[simp] theorem modRegion_pwr (r : Nat) (g : Region → Region) : (modRegion s r g).pwr = s.pwr := rfl
@[simp] theorem modRegion_clk (r : Nat) (g : Region → Region) : (modRegion s r g).clk = s.clk := rfl
@[simp] theorem modRegion_fields (r : Nat) (g : Region → Region) : (modRegion s r g).fields = s.fields := rfl
@[simp] theorem modRegion_regions (r : Nat) (g : Region → Region) : (modRegion s r g).regions = s.regions.modify r g := rfl
@[simp] theorem modRegion_slots (r : Nat) (g : Region → Region) : (modRegion s r g).slots = s.slots := rfl
@[simp] theorem modRegion_memStacks (r : Nat) (g : Region → Region) : (modRegion s r g).memStacks = s.memStacks := rfl
@[simp] theorem modRegion_lnk (r : Nat) (g : Region → Region) : (modRegion s r g).lnk = s.lnk := rfl
@[simp] theorem modRegion_na (r : Nat) (g : Region → Region) : (modRegion s r g).na = s.na := rfl
@[simp] theorem modRegion_hst (r : Nat) (g : Region → Region) : (modRegion s r g).hst = s.hst := rfl
@[simp] theorem modRegion_blocks (r : Nat) (g : Region → Region) : (modRegion s r g).blocks = s.blocks := rfl
@[simp] theorem modRegion_boot (r : Nat) (g : Region → Region) : (modRegion s r g).boot = s.boot := rfl
@[simp] theorem modRegion_glb (r : Nat) (g : Region → Region) : (modRegion s r g).glb = s.glb := rfl
@[simp] theorem modRegion_sec (r : Nat) (g : Region → Region) : (modRegion s r g).sec = s.sec := rfl
@[simp] theorem modRegion_side (r : Nat) (g : Region → Region) : (modRegion s r g).side = s.side := rfl
@[simp] theorem modRegion_master (r : Nat) (g : Region → Region) : (modRegion s r g).master = s.master := rfl
@[simp] theorem modRegion_farrier (r : Nat) (g : Region → Region) : (modRegion s r g).farrier = s.farrier := rfl
@[simp] theorem modRegion_stud (r : Nat) (g : Region → Region) : (modRegion s r g).stud = s.stud := rfl
@[simp] theorem modRegion_fuses (r : Nat) (g : Region → Region) : (modRegion s r g).fuses = s.fuses := rfl
@[simp] theorem modRegion_sync (r : Nat) (g : Region → Region) : (modRegion s r g).sync = s.sync := rfl
@[simp] theorem modRegion_held (r : Nat) (g : Region → Region) : (modRegion s r g).held = s.held := rfl
@[simp] theorem modRegion_dram (r : Nat) (g : Region → Region) : (modRegion s r g).dram = s.dram := rfl
@[simp] theorem modRegion_spad (r : Nat) (g : Region → Region) : (modRegion s r g).spad = s.spad := rfl
@[simp] theorem modRegion_before (r : Nat) (g : Region → Region) : (modRegion s r g).before = s.before := rfl
@[simp] theorem modRegion_host (r : Nat) (g : Region → Region) : (modRegion s r g).host = s.host := rfl
@[simp] theorem modRegion_badSpad (r : Nat) (g : Region → Region) : (modRegion s r g).badSpad = s.badSpad := rfl
@[simp] theorem modRegion_badDram (r : Nat) (g : Region → Region) : (modRegion s r g).badDram = s.badDram := rfl
@[simp] theorem modRegion_free (r : Nat) (g : Region → Region) : (modRegion s r g).free = s.free := rfl

/-! ### modStack -/

@[simp] theorem modStack_pending (m : Nat) (g : Stack → Stack) : (modStack s m g).pending = s.pending := rfl
@[simp] theorem modStack_pwr (m : Nat) (g : Stack → Stack) : (modStack s m g).pwr = s.pwr := rfl
@[simp] theorem modStack_clk (m : Nat) (g : Stack → Stack) : (modStack s m g).clk = s.clk := rfl
@[simp] theorem modStack_fields (m : Nat) (g : Stack → Stack) : (modStack s m g).fields = s.fields := rfl
@[simp] theorem modStack_regions (m : Nat) (g : Stack → Stack) : (modStack s m g).regions = s.regions := rfl
@[simp] theorem modStack_slots (m : Nat) (g : Stack → Stack) : (modStack s m g).slots = s.slots := rfl
@[simp] theorem modStack_memStacks (m : Nat) (g : Stack → Stack) : (modStack s m g).memStacks = s.memStacks.modify m g := rfl
@[simp] theorem modStack_lnk (m : Nat) (g : Stack → Stack) : (modStack s m g).lnk = s.lnk := rfl
@[simp] theorem modStack_na (m : Nat) (g : Stack → Stack) : (modStack s m g).na = s.na := rfl
@[simp] theorem modStack_hst (m : Nat) (g : Stack → Stack) : (modStack s m g).hst = s.hst := rfl
@[simp] theorem modStack_blocks (m : Nat) (g : Stack → Stack) : (modStack s m g).blocks = s.blocks := rfl
@[simp] theorem modStack_boot (m : Nat) (g : Stack → Stack) : (modStack s m g).boot = s.boot := rfl
@[simp] theorem modStack_glb (m : Nat) (g : Stack → Stack) : (modStack s m g).glb = s.glb := rfl
@[simp] theorem modStack_sec (m : Nat) (g : Stack → Stack) : (modStack s m g).sec = s.sec := rfl
@[simp] theorem modStack_side (m : Nat) (g : Stack → Stack) : (modStack s m g).side = s.side := rfl
@[simp] theorem modStack_master (m : Nat) (g : Stack → Stack) : (modStack s m g).master = s.master := rfl
@[simp] theorem modStack_farrier (m : Nat) (g : Stack → Stack) : (modStack s m g).farrier = s.farrier := rfl
@[simp] theorem modStack_stud (m : Nat) (g : Stack → Stack) : (modStack s m g).stud = s.stud := rfl
@[simp] theorem modStack_fuses (m : Nat) (g : Stack → Stack) : (modStack s m g).fuses = s.fuses := rfl
@[simp] theorem modStack_sync (m : Nat) (g : Stack → Stack) : (modStack s m g).sync = s.sync := rfl
@[simp] theorem modStack_held (m : Nat) (g : Stack → Stack) : (modStack s m g).held = s.held := rfl
@[simp] theorem modStack_dram (m : Nat) (g : Stack → Stack) : (modStack s m g).dram = s.dram := rfl
@[simp] theorem modStack_spad (m : Nat) (g : Stack → Stack) : (modStack s m g).spad = s.spad := rfl
@[simp] theorem modStack_before (m : Nat) (g : Stack → Stack) : (modStack s m g).before = s.before := rfl
@[simp] theorem modStack_host (m : Nat) (g : Stack → Stack) : (modStack s m g).host = s.host := rfl
@[simp] theorem modStack_badSpad (m : Nat) (g : Stack → Stack) : (modStack s m g).badSpad = s.badSpad := rfl
@[simp] theorem modStack_badDram (m : Nat) (g : Stack → Stack) : (modStack s m g).badDram = s.badDram := rfl
@[simp] theorem modStack_free (m : Nat) (g : Stack → Stack) : (modStack s m g).free = s.free := rfl

/-! ### modLink -/

@[simp] theorem modLink_pending (l : Nat) (g : Link → Link) : (modLink s l g).pending = s.pending := rfl
@[simp] theorem modLink_pwr (l : Nat) (g : Link → Link) : (modLink s l g).pwr = s.pwr := rfl
@[simp] theorem modLink_clk (l : Nat) (g : Link → Link) : (modLink s l g).clk = s.clk := rfl
@[simp] theorem modLink_fields (l : Nat) (g : Link → Link) : (modLink s l g).fields = s.fields := rfl
@[simp] theorem modLink_regions (l : Nat) (g : Link → Link) : (modLink s l g).regions = s.regions := rfl
@[simp] theorem modLink_slots (l : Nat) (g : Link → Link) : (modLink s l g).slots = s.slots := rfl
@[simp] theorem modLink_memStacks (l : Nat) (g : Link → Link) : (modLink s l g).memStacks = s.memStacks := rfl
@[simp] theorem modLink_lnk (l : Nat) (g : Link → Link) : (modLink s l g).lnk = { s.lnk with links := s.lnk.links.modify l g } := rfl
@[simp] theorem modLink_na (l : Nat) (g : Link → Link) : (modLink s l g).na = s.na := rfl
@[simp] theorem modLink_hst (l : Nat) (g : Link → Link) : (modLink s l g).hst = s.hst := rfl
@[simp] theorem modLink_blocks (l : Nat) (g : Link → Link) : (modLink s l g).blocks = s.blocks := rfl
@[simp] theorem modLink_boot (l : Nat) (g : Link → Link) : (modLink s l g).boot = s.boot := rfl
@[simp] theorem modLink_glb (l : Nat) (g : Link → Link) : (modLink s l g).glb = s.glb := rfl
@[simp] theorem modLink_sec (l : Nat) (g : Link → Link) : (modLink s l g).sec = s.sec := rfl
@[simp] theorem modLink_side (l : Nat) (g : Link → Link) : (modLink s l g).side = s.side := rfl
@[simp] theorem modLink_master (l : Nat) (g : Link → Link) : (modLink s l g).master = s.master := rfl
@[simp] theorem modLink_farrier (l : Nat) (g : Link → Link) : (modLink s l g).farrier = s.farrier := rfl
@[simp] theorem modLink_stud (l : Nat) (g : Link → Link) : (modLink s l g).stud = s.stud := rfl
@[simp] theorem modLink_fuses (l : Nat) (g : Link → Link) : (modLink s l g).fuses = s.fuses := rfl
@[simp] theorem modLink_sync (l : Nat) (g : Link → Link) : (modLink s l g).sync = s.sync := rfl
@[simp] theorem modLink_held (l : Nat) (g : Link → Link) : (modLink s l g).held = s.held := rfl
@[simp] theorem modLink_dram (l : Nat) (g : Link → Link) : (modLink s l g).dram = s.dram := rfl
@[simp] theorem modLink_spad (l : Nat) (g : Link → Link) : (modLink s l g).spad = s.spad := rfl
@[simp] theorem modLink_before (l : Nat) (g : Link → Link) : (modLink s l g).before = s.before := rfl
@[simp] theorem modLink_host (l : Nat) (g : Link → Link) : (modLink s l g).host = s.host := rfl
@[simp] theorem modLink_badSpad (l : Nat) (g : Link → Link) : (modLink s l g).badSpad = s.badSpad := rfl
@[simp] theorem modLink_badDram (l : Nat) (g : Link → Link) : (modLink s l g).badDram = s.badDram := rfl
@[simp] theorem modLink_free (l : Nat) (g : Link → Link) : (modLink s l g).free = s.free := rfl

/-! ### modRing -/

@[simp] theorem modRing_pending (r : Nat) (g : Ring → Ring) : (modRing s r g).pending = s.pending := rfl
@[simp] theorem modRing_pwr (r : Nat) (g : Ring → Ring) : (modRing s r g).pwr = s.pwr := rfl
@[simp] theorem modRing_clk (r : Nat) (g : Ring → Ring) : (modRing s r g).clk = s.clk := rfl
@[simp] theorem modRing_fields (r : Nat) (g : Ring → Ring) : (modRing s r g).fields = s.fields := rfl
@[simp] theorem modRing_regions (r : Nat) (g : Ring → Ring) : (modRing s r g).regions = s.regions := rfl
@[simp] theorem modRing_slots (r : Nat) (g : Ring → Ring) : (modRing s r g).slots = s.slots := rfl
@[simp] theorem modRing_memStacks (r : Nat) (g : Ring → Ring) : (modRing s r g).memStacks = s.memStacks := rfl
@[simp] theorem modRing_lnk (r : Nat) (g : Ring → Ring) : (modRing s r g).lnk = s.lnk := rfl
@[simp] theorem modRing_na (r : Nat) (g : Ring → Ring) : (modRing s r g).na = s.na := rfl
@[simp] theorem modRing_hst (r : Nat) (g : Ring → Ring) : (modRing s r g).hst = { s.hst with rings := s.hst.rings.modify r g } := rfl
@[simp] theorem modRing_blocks (r : Nat) (g : Ring → Ring) : (modRing s r g).blocks = s.blocks := rfl
@[simp] theorem modRing_boot (r : Nat) (g : Ring → Ring) : (modRing s r g).boot = s.boot := rfl
@[simp] theorem modRing_glb (r : Nat) (g : Ring → Ring) : (modRing s r g).glb = s.glb := rfl
@[simp] theorem modRing_sec (r : Nat) (g : Ring → Ring) : (modRing s r g).sec = s.sec := rfl
@[simp] theorem modRing_side (r : Nat) (g : Ring → Ring) : (modRing s r g).side = s.side := rfl
@[simp] theorem modRing_master (r : Nat) (g : Ring → Ring) : (modRing s r g).master = s.master := rfl
@[simp] theorem modRing_farrier (r : Nat) (g : Ring → Ring) : (modRing s r g).farrier = s.farrier := rfl
@[simp] theorem modRing_stud (r : Nat) (g : Ring → Ring) : (modRing s r g).stud = s.stud := rfl
@[simp] theorem modRing_fuses (r : Nat) (g : Ring → Ring) : (modRing s r g).fuses = s.fuses := rfl
@[simp] theorem modRing_sync (r : Nat) (g : Ring → Ring) : (modRing s r g).sync = s.sync := rfl
@[simp] theorem modRing_held (r : Nat) (g : Ring → Ring) : (modRing s r g).held = s.held := rfl
@[simp] theorem modRing_dram (r : Nat) (g : Ring → Ring) : (modRing s r g).dram = s.dram := rfl
@[simp] theorem modRing_spad (r : Nat) (g : Ring → Ring) : (modRing s r g).spad = s.spad := rfl
@[simp] theorem modRing_before (r : Nat) (g : Ring → Ring) : (modRing s r g).before = s.before := rfl
@[simp] theorem modRing_host (r : Nat) (g : Ring → Ring) : (modRing s r g).host = s.host := rfl
@[simp] theorem modRing_badSpad (r : Nat) (g : Ring → Ring) : (modRing s r g).badSpad = s.badSpad := rfl
@[simp] theorem modRing_badDram (r : Nat) (g : Ring → Ring) : (modRing s r g).badDram = s.badDram := rfl
@[simp] theorem modRing_free (r : Nat) (g : Ring → Ring) : (modRing s r g).free = s.free := rfl

/-! ### modEdge -/

@[simp] theorem modEdge_pending (f e : Nat) (g : Edge → Edge) : (modEdge s f e g).pending = s.pending := rfl
@[simp] theorem modEdge_pwr (f e : Nat) (g : Edge → Edge) : (modEdge s f e g).pwr = s.pwr := rfl
@[simp] theorem modEdge_clk (f e : Nat) (g : Edge → Edge) : (modEdge s f e g).clk = s.clk := rfl
@[simp] theorem modEdge_fields (f e : Nat) (g : Edge → Edge) : (modEdge s f e g).fields = s.fields.modify f (fun x => { x with edges := x.edges.modify e g }) := rfl
@[simp] theorem modEdge_regions (f e : Nat) (g : Edge → Edge) : (modEdge s f e g).regions = s.regions := rfl
@[simp] theorem modEdge_slots (f e : Nat) (g : Edge → Edge) : (modEdge s f e g).slots = s.slots := rfl
@[simp] theorem modEdge_memStacks (f e : Nat) (g : Edge → Edge) : (modEdge s f e g).memStacks = s.memStacks := rfl
@[simp] theorem modEdge_lnk (f e : Nat) (g : Edge → Edge) : (modEdge s f e g).lnk = s.lnk := rfl
@[simp] theorem modEdge_na (f e : Nat) (g : Edge → Edge) : (modEdge s f e g).na = s.na := rfl
@[simp] theorem modEdge_hst (f e : Nat) (g : Edge → Edge) : (modEdge s f e g).hst = s.hst := rfl
@[simp] theorem modEdge_blocks (f e : Nat) (g : Edge → Edge) : (modEdge s f e g).blocks = s.blocks := rfl
@[simp] theorem modEdge_boot (f e : Nat) (g : Edge → Edge) : (modEdge s f e g).boot = s.boot := rfl
@[simp] theorem modEdge_glb (f e : Nat) (g : Edge → Edge) : (modEdge s f e g).glb = s.glb := rfl
@[simp] theorem modEdge_sec (f e : Nat) (g : Edge → Edge) : (modEdge s f e g).sec = s.sec := rfl
@[simp] theorem modEdge_side (f e : Nat) (g : Edge → Edge) : (modEdge s f e g).side = s.side := rfl
@[simp] theorem modEdge_master (f e : Nat) (g : Edge → Edge) : (modEdge s f e g).master = s.master := rfl
@[simp] theorem modEdge_farrier (f e : Nat) (g : Edge → Edge) : (modEdge s f e g).farrier = s.farrier := rfl
@[simp] theorem modEdge_stud (f e : Nat) (g : Edge → Edge) : (modEdge s f e g).stud = s.stud := rfl
@[simp] theorem modEdge_fuses (f e : Nat) (g : Edge → Edge) : (modEdge s f e g).fuses = s.fuses := rfl
@[simp] theorem modEdge_sync (f e : Nat) (g : Edge → Edge) : (modEdge s f e g).sync = s.sync := rfl
@[simp] theorem modEdge_held (f e : Nat) (g : Edge → Edge) : (modEdge s f e g).held = s.held := rfl
@[simp] theorem modEdge_dram (f e : Nat) (g : Edge → Edge) : (modEdge s f e g).dram = s.dram := rfl
@[simp] theorem modEdge_spad (f e : Nat) (g : Edge → Edge) : (modEdge s f e g).spad = s.spad := rfl
@[simp] theorem modEdge_before (f e : Nat) (g : Edge → Edge) : (modEdge s f e g).before = s.before := rfl
@[simp] theorem modEdge_host (f e : Nat) (g : Edge → Edge) : (modEdge s f e g).host = s.host := rfl
@[simp] theorem modEdge_badSpad (f e : Nat) (g : Edge → Edge) : (modEdge s f e g).badSpad = s.badSpad := rfl
@[simp] theorem modEdge_badDram (f e : Nat) (g : Edge → Edge) : (modEdge s f e g).badDram = s.badDram := rfl
@[simp] theorem modEdge_free (f e : Nat) (g : Edge → Edge) : (modEdge s f e g).free = s.free := rfl

/-! ### modCtl -/

@[simp] theorem modCtl_pending (b : Blk) (g : BlockCtl → BlockCtl) : (modCtl s b g).pending = s.pending := rfl
@[simp] theorem modCtl_pwr (b : Blk) (g : BlockCtl → BlockCtl) : (modCtl s b g).pwr = s.pwr := rfl
@[simp] theorem modCtl_clk (b : Blk) (g : BlockCtl → BlockCtl) : (modCtl s b g).clk = s.clk := rfl
@[simp] theorem modCtl_fields (b : Blk) (g : BlockCtl → BlockCtl) : (modCtl s b g).fields = s.fields := rfl
@[simp] theorem modCtl_regions (b : Blk) (g : BlockCtl → BlockCtl) : (modCtl s b g).regions = s.regions := rfl
@[simp] theorem modCtl_slots (b : Blk) (g : BlockCtl → BlockCtl) : (modCtl s b g).slots = s.slots := rfl
@[simp] theorem modCtl_memStacks (b : Blk) (g : BlockCtl → BlockCtl) : (modCtl s b g).memStacks = s.memStacks := rfl
@[simp] theorem modCtl_lnk (b : Blk) (g : BlockCtl → BlockCtl) : (modCtl s b g).lnk = s.lnk := rfl
@[simp] theorem modCtl_na (b : Blk) (g : BlockCtl → BlockCtl) : (modCtl s b g).na = s.na := rfl
@[simp] theorem modCtl_hst (b : Blk) (g : BlockCtl → BlockCtl) : (modCtl s b g).hst = s.hst := rfl
@[simp] theorem modCtl_blocks (b : Blk) (g : BlockCtl → BlockCtl) : (modCtl s b g).blocks = s.blocks.modify (blkNum b) g := rfl
@[simp] theorem modCtl_boot (b : Blk) (g : BlockCtl → BlockCtl) : (modCtl s b g).boot = s.boot := rfl
@[simp] theorem modCtl_glb (b : Blk) (g : BlockCtl → BlockCtl) : (modCtl s b g).glb = s.glb := rfl
@[simp] theorem modCtl_sec (b : Blk) (g : BlockCtl → BlockCtl) : (modCtl s b g).sec = s.sec := rfl
@[simp] theorem modCtl_side (b : Blk) (g : BlockCtl → BlockCtl) : (modCtl s b g).side = s.side := rfl
@[simp] theorem modCtl_master (b : Blk) (g : BlockCtl → BlockCtl) : (modCtl s b g).master = s.master := rfl
@[simp] theorem modCtl_farrier (b : Blk) (g : BlockCtl → BlockCtl) : (modCtl s b g).farrier = s.farrier := rfl
@[simp] theorem modCtl_stud (b : Blk) (g : BlockCtl → BlockCtl) : (modCtl s b g).stud = s.stud := rfl
@[simp] theorem modCtl_fuses (b : Blk) (g : BlockCtl → BlockCtl) : (modCtl s b g).fuses = s.fuses := rfl
@[simp] theorem modCtl_sync (b : Blk) (g : BlockCtl → BlockCtl) : (modCtl s b g).sync = s.sync := rfl
@[simp] theorem modCtl_held (b : Blk) (g : BlockCtl → BlockCtl) : (modCtl s b g).held = s.held := rfl
@[simp] theorem modCtl_dram (b : Blk) (g : BlockCtl → BlockCtl) : (modCtl s b g).dram = s.dram := rfl
@[simp] theorem modCtl_spad (b : Blk) (g : BlockCtl → BlockCtl) : (modCtl s b g).spad = s.spad := rfl
@[simp] theorem modCtl_before (b : Blk) (g : BlockCtl → BlockCtl) : (modCtl s b g).before = s.before := rfl
@[simp] theorem modCtl_host (b : Blk) (g : BlockCtl → BlockCtl) : (modCtl s b g).host = s.host := rfl
@[simp] theorem modCtl_badSpad (b : Blk) (g : BlockCtl → BlockCtl) : (modCtl s b g).badSpad = s.badSpad := rfl
@[simp] theorem modCtl_badDram (b : Blk) (g : BlockCtl → BlockCtl) : (modCtl s b g).badDram = s.badDram := rfl
@[simp] theorem modCtl_free (b : Blk) (g : BlockCtl → BlockCtl) : (modCtl s b g).free = s.free := rfl

/-! ### modMaster -/

@[simp] theorem modMaster_pending (g : Master → Master) : (modMaster s g).pending = s.pending := rfl
@[simp] theorem modMaster_pwr (g : Master → Master) : (modMaster s g).pwr = s.pwr := rfl
@[simp] theorem modMaster_clk (g : Master → Master) : (modMaster s g).clk = s.clk := rfl
@[simp] theorem modMaster_fields (g : Master → Master) : (modMaster s g).fields = s.fields := rfl
@[simp] theorem modMaster_regions (g : Master → Master) : (modMaster s g).regions = s.regions := rfl
@[simp] theorem modMaster_slots (g : Master → Master) : (modMaster s g).slots = s.slots := rfl
@[simp] theorem modMaster_memStacks (g : Master → Master) : (modMaster s g).memStacks = s.memStacks := rfl
@[simp] theorem modMaster_lnk (g : Master → Master) : (modMaster s g).lnk = s.lnk := rfl
@[simp] theorem modMaster_na (g : Master → Master) : (modMaster s g).na = s.na := rfl
@[simp] theorem modMaster_hst (g : Master → Master) : (modMaster s g).hst = s.hst := rfl
@[simp] theorem modMaster_blocks (g : Master → Master) : (modMaster s g).blocks = s.blocks := rfl
@[simp] theorem modMaster_boot (g : Master → Master) : (modMaster s g).boot = s.boot := rfl
@[simp] theorem modMaster_glb (g : Master → Master) : (modMaster s g).glb = s.glb := rfl
@[simp] theorem modMaster_sec (g : Master → Master) : (modMaster s g).sec = s.sec := rfl
@[simp] theorem modMaster_side (g : Master → Master) : (modMaster s g).side = s.side := rfl
@[simp] theorem modMaster_master (g : Master → Master) : (modMaster s g).master = g s.master := rfl
@[simp] theorem modMaster_farrier (g : Master → Master) : (modMaster s g).farrier = s.farrier := rfl
@[simp] theorem modMaster_stud (g : Master → Master) : (modMaster s g).stud = s.stud := rfl
@[simp] theorem modMaster_fuses (g : Master → Master) : (modMaster s g).fuses = s.fuses := rfl
@[simp] theorem modMaster_sync (g : Master → Master) : (modMaster s g).sync = s.sync := rfl
@[simp] theorem modMaster_held (g : Master → Master) : (modMaster s g).held = s.held := rfl
@[simp] theorem modMaster_dram (g : Master → Master) : (modMaster s g).dram = s.dram := rfl
@[simp] theorem modMaster_spad (g : Master → Master) : (modMaster s g).spad = s.spad := rfl
@[simp] theorem modMaster_before (g : Master → Master) : (modMaster s g).before = s.before := rfl
@[simp] theorem modMaster_host (g : Master → Master) : (modMaster s g).host = s.host := rfl
@[simp] theorem modMaster_badSpad (g : Master → Master) : (modMaster s g).badSpad = s.badSpad := rfl
@[simp] theorem modMaster_badDram (g : Master → Master) : (modMaster s g).badDram = s.badDram := rfl
@[simp] theorem modMaster_free (g : Master → Master) : (modMaster s g).free = s.free := rfl

/-! ### modGlb -/

@[simp] theorem modGlb_pending (g : Glb → Glb) : (modGlb s g).pending = s.pending := rfl
@[simp] theorem modGlb_pwr (g : Glb → Glb) : (modGlb s g).pwr = s.pwr := rfl
@[simp] theorem modGlb_clk (g : Glb → Glb) : (modGlb s g).clk = s.clk := rfl
@[simp] theorem modGlb_fields (g : Glb → Glb) : (modGlb s g).fields = s.fields := rfl
@[simp] theorem modGlb_regions (g : Glb → Glb) : (modGlb s g).regions = s.regions := rfl
@[simp] theorem modGlb_slots (g : Glb → Glb) : (modGlb s g).slots = s.slots := rfl
@[simp] theorem modGlb_memStacks (g : Glb → Glb) : (modGlb s g).memStacks = s.memStacks := rfl
@[simp] theorem modGlb_lnk (g : Glb → Glb) : (modGlb s g).lnk = s.lnk := rfl
@[simp] theorem modGlb_na (g : Glb → Glb) : (modGlb s g).na = s.na := rfl
@[simp] theorem modGlb_hst (g : Glb → Glb) : (modGlb s g).hst = s.hst := rfl
@[simp] theorem modGlb_blocks (g : Glb → Glb) : (modGlb s g).blocks = s.blocks := rfl
@[simp] theorem modGlb_boot (g : Glb → Glb) : (modGlb s g).boot = s.boot := rfl
@[simp] theorem modGlb_glb (g : Glb → Glb) : (modGlb s g).glb = g s.glb := rfl
@[simp] theorem modGlb_sec (g : Glb → Glb) : (modGlb s g).sec = s.sec := rfl
@[simp] theorem modGlb_side (g : Glb → Glb) : (modGlb s g).side = s.side := rfl
@[simp] theorem modGlb_master (g : Glb → Glb) : (modGlb s g).master = s.master := rfl
@[simp] theorem modGlb_farrier (g : Glb → Glb) : (modGlb s g).farrier = s.farrier := rfl
@[simp] theorem modGlb_stud (g : Glb → Glb) : (modGlb s g).stud = s.stud := rfl
@[simp] theorem modGlb_fuses (g : Glb → Glb) : (modGlb s g).fuses = s.fuses := rfl
@[simp] theorem modGlb_sync (g : Glb → Glb) : (modGlb s g).sync = s.sync := rfl
@[simp] theorem modGlb_held (g : Glb → Glb) : (modGlb s g).held = s.held := rfl
@[simp] theorem modGlb_dram (g : Glb → Glb) : (modGlb s g).dram = s.dram := rfl
@[simp] theorem modGlb_spad (g : Glb → Glb) : (modGlb s g).spad = s.spad := rfl
@[simp] theorem modGlb_before (g : Glb → Glb) : (modGlb s g).before = s.before := rfl
@[simp] theorem modGlb_host (g : Glb → Glb) : (modGlb s g).host = s.host := rfl
@[simp] theorem modGlb_badSpad (g : Glb → Glb) : (modGlb s g).badSpad = s.badSpad := rfl
@[simp] theorem modGlb_badDram (g : Glb → Glb) : (modGlb s g).badDram = s.badDram := rfl
@[simp] theorem modGlb_free (g : Glb → Glb) : (modGlb s g).free = s.free := rfl

/-! ### modPwr -/

@[simp] theorem modPwr_pending (g : Power → Power) : (modPwr s g).pending = s.pending := rfl
@[simp] theorem modPwr_pwr (g : Power → Power) : (modPwr s g).pwr = g s.pwr := rfl
@[simp] theorem modPwr_clk (g : Power → Power) : (modPwr s g).clk = s.clk := rfl
@[simp] theorem modPwr_fields (g : Power → Power) : (modPwr s g).fields = s.fields := rfl
@[simp] theorem modPwr_regions (g : Power → Power) : (modPwr s g).regions = s.regions := rfl
@[simp] theorem modPwr_slots (g : Power → Power) : (modPwr s g).slots = s.slots := rfl
@[simp] theorem modPwr_memStacks (g : Power → Power) : (modPwr s g).memStacks = s.memStacks := rfl
@[simp] theorem modPwr_lnk (g : Power → Power) : (modPwr s g).lnk = s.lnk := rfl
@[simp] theorem modPwr_na (g : Power → Power) : (modPwr s g).na = s.na := rfl
@[simp] theorem modPwr_hst (g : Power → Power) : (modPwr s g).hst = s.hst := rfl
@[simp] theorem modPwr_blocks (g : Power → Power) : (modPwr s g).blocks = s.blocks := rfl
@[simp] theorem modPwr_boot (g : Power → Power) : (modPwr s g).boot = s.boot := rfl
@[simp] theorem modPwr_glb (g : Power → Power) : (modPwr s g).glb = s.glb := rfl
@[simp] theorem modPwr_sec (g : Power → Power) : (modPwr s g).sec = s.sec := rfl
@[simp] theorem modPwr_side (g : Power → Power) : (modPwr s g).side = s.side := rfl
@[simp] theorem modPwr_master (g : Power → Power) : (modPwr s g).master = s.master := rfl
@[simp] theorem modPwr_farrier (g : Power → Power) : (modPwr s g).farrier = s.farrier := rfl
@[simp] theorem modPwr_stud (g : Power → Power) : (modPwr s g).stud = s.stud := rfl
@[simp] theorem modPwr_fuses (g : Power → Power) : (modPwr s g).fuses = s.fuses := rfl
@[simp] theorem modPwr_sync (g : Power → Power) : (modPwr s g).sync = s.sync := rfl
@[simp] theorem modPwr_held (g : Power → Power) : (modPwr s g).held = s.held := rfl
@[simp] theorem modPwr_dram (g : Power → Power) : (modPwr s g).dram = s.dram := rfl
@[simp] theorem modPwr_spad (g : Power → Power) : (modPwr s g).spad = s.spad := rfl
@[simp] theorem modPwr_before (g : Power → Power) : (modPwr s g).before = s.before := rfl
@[simp] theorem modPwr_host (g : Power → Power) : (modPwr s g).host = s.host := rfl
@[simp] theorem modPwr_badSpad (g : Power → Power) : (modPwr s g).badSpad = s.badSpad := rfl
@[simp] theorem modPwr_badDram (g : Power → Power) : (modPwr s g).badDram = s.badDram := rfl
@[simp] theorem modPwr_free (g : Power → Power) : (modPwr s g).free = s.free := rfl

/-! ### modClk -/

@[simp] theorem modClk_pending (g : Clock → Clock) : (modClk s g).pending = s.pending := rfl
@[simp] theorem modClk_pwr (g : Clock → Clock) : (modClk s g).pwr = s.pwr := rfl
@[simp] theorem modClk_clk (g : Clock → Clock) : (modClk s g).clk = g s.clk := rfl
@[simp] theorem modClk_fields (g : Clock → Clock) : (modClk s g).fields = s.fields := rfl
@[simp] theorem modClk_regions (g : Clock → Clock) : (modClk s g).regions = s.regions := rfl
@[simp] theorem modClk_slots (g : Clock → Clock) : (modClk s g).slots = s.slots := rfl
@[simp] theorem modClk_memStacks (g : Clock → Clock) : (modClk s g).memStacks = s.memStacks := rfl
@[simp] theorem modClk_lnk (g : Clock → Clock) : (modClk s g).lnk = s.lnk := rfl
@[simp] theorem modClk_na (g : Clock → Clock) : (modClk s g).na = s.na := rfl
@[simp] theorem modClk_hst (g : Clock → Clock) : (modClk s g).hst = s.hst := rfl
@[simp] theorem modClk_blocks (g : Clock → Clock) : (modClk s g).blocks = s.blocks := rfl
@[simp] theorem modClk_boot (g : Clock → Clock) : (modClk s g).boot = s.boot := rfl
@[simp] theorem modClk_glb (g : Clock → Clock) : (modClk s g).glb = s.glb := rfl
@[simp] theorem modClk_sec (g : Clock → Clock) : (modClk s g).sec = s.sec := rfl
@[simp] theorem modClk_side (g : Clock → Clock) : (modClk s g).side = s.side := rfl
@[simp] theorem modClk_master (g : Clock → Clock) : (modClk s g).master = s.master := rfl
@[simp] theorem modClk_farrier (g : Clock → Clock) : (modClk s g).farrier = s.farrier := rfl
@[simp] theorem modClk_stud (g : Clock → Clock) : (modClk s g).stud = s.stud := rfl
@[simp] theorem modClk_fuses (g : Clock → Clock) : (modClk s g).fuses = s.fuses := rfl
@[simp] theorem modClk_sync (g : Clock → Clock) : (modClk s g).sync = s.sync := rfl
@[simp] theorem modClk_held (g : Clock → Clock) : (modClk s g).held = s.held := rfl
@[simp] theorem modClk_dram (g : Clock → Clock) : (modClk s g).dram = s.dram := rfl
@[simp] theorem modClk_spad (g : Clock → Clock) : (modClk s g).spad = s.spad := rfl
@[simp] theorem modClk_before (g : Clock → Clock) : (modClk s g).before = s.before := rfl
@[simp] theorem modClk_host (g : Clock → Clock) : (modClk s g).host = s.host := rfl
@[simp] theorem modClk_badSpad (g : Clock → Clock) : (modClk s g).badSpad = s.badSpad := rfl
@[simp] theorem modClk_badDram (g : Clock → Clock) : (modClk s g).badDram = s.badDram := rfl
@[simp] theorem modClk_free (g : Clock → Clock) : (modClk s g).free = s.free := rfl

/-! ### modHst -/

@[simp] theorem modHst_pending (g : Hst → Hst) : (modHst s g).pending = s.pending := rfl
@[simp] theorem modHst_pwr (g : Hst → Hst) : (modHst s g).pwr = s.pwr := rfl
@[simp] theorem modHst_clk (g : Hst → Hst) : (modHst s g).clk = s.clk := rfl
@[simp] theorem modHst_fields (g : Hst → Hst) : (modHst s g).fields = s.fields := rfl
@[simp] theorem modHst_regions (g : Hst → Hst) : (modHst s g).regions = s.regions := rfl
@[simp] theorem modHst_slots (g : Hst → Hst) : (modHst s g).slots = s.slots := rfl
@[simp] theorem modHst_memStacks (g : Hst → Hst) : (modHst s g).memStacks = s.memStacks := rfl
@[simp] theorem modHst_lnk (g : Hst → Hst) : (modHst s g).lnk = s.lnk := rfl
@[simp] theorem modHst_na (g : Hst → Hst) : (modHst s g).na = s.na := rfl
@[simp] theorem modHst_hst (g : Hst → Hst) : (modHst s g).hst = g s.hst := rfl
@[simp] theorem modHst_blocks (g : Hst → Hst) : (modHst s g).blocks = s.blocks := rfl
@[simp] theorem modHst_boot (g : Hst → Hst) : (modHst s g).boot = s.boot := rfl
@[simp] theorem modHst_glb (g : Hst → Hst) : (modHst s g).glb = s.glb := rfl
@[simp] theorem modHst_sec (g : Hst → Hst) : (modHst s g).sec = s.sec := rfl
@[simp] theorem modHst_side (g : Hst → Hst) : (modHst s g).side = s.side := rfl
@[simp] theorem modHst_master (g : Hst → Hst) : (modHst s g).master = s.master := rfl
@[simp] theorem modHst_farrier (g : Hst → Hst) : (modHst s g).farrier = s.farrier := rfl
@[simp] theorem modHst_stud (g : Hst → Hst) : (modHst s g).stud = s.stud := rfl
@[simp] theorem modHst_fuses (g : Hst → Hst) : (modHst s g).fuses = s.fuses := rfl
@[simp] theorem modHst_sync (g : Hst → Hst) : (modHst s g).sync = s.sync := rfl
@[simp] theorem modHst_held (g : Hst → Hst) : (modHst s g).held = s.held := rfl
@[simp] theorem modHst_dram (g : Hst → Hst) : (modHst s g).dram = s.dram := rfl
@[simp] theorem modHst_spad (g : Hst → Hst) : (modHst s g).spad = s.spad := rfl
@[simp] theorem modHst_before (g : Hst → Hst) : (modHst s g).before = s.before := rfl
@[simp] theorem modHst_host (g : Hst → Hst) : (modHst s g).host = s.host := rfl
@[simp] theorem modHst_badSpad (g : Hst → Hst) : (modHst s g).badSpad = s.badSpad := rfl
@[simp] theorem modHst_badDram (g : Hst → Hst) : (modHst s g).badDram = s.badDram := rfl
@[simp] theorem modHst_free (g : Hst → Hst) : (modHst s g).free = s.free := rfl

/-! ### modNa -/

@[simp] theorem modNa_pending (g : Adapter → Adapter) : (modNa s g).pending = s.pending := rfl
@[simp] theorem modNa_pwr (g : Adapter → Adapter) : (modNa s g).pwr = s.pwr := rfl
@[simp] theorem modNa_clk (g : Adapter → Adapter) : (modNa s g).clk = s.clk := rfl
@[simp] theorem modNa_fields (g : Adapter → Adapter) : (modNa s g).fields = s.fields := rfl
@[simp] theorem modNa_regions (g : Adapter → Adapter) : (modNa s g).regions = s.regions := rfl
@[simp] theorem modNa_slots (g : Adapter → Adapter) : (modNa s g).slots = s.slots := rfl
@[simp] theorem modNa_memStacks (g : Adapter → Adapter) : (modNa s g).memStacks = s.memStacks := rfl
@[simp] theorem modNa_lnk (g : Adapter → Adapter) : (modNa s g).lnk = s.lnk := rfl
@[simp] theorem modNa_na (g : Adapter → Adapter) : (modNa s g).na = g s.na := rfl
@[simp] theorem modNa_hst (g : Adapter → Adapter) : (modNa s g).hst = s.hst := rfl
@[simp] theorem modNa_blocks (g : Adapter → Adapter) : (modNa s g).blocks = s.blocks := rfl
@[simp] theorem modNa_boot (g : Adapter → Adapter) : (modNa s g).boot = s.boot := rfl
@[simp] theorem modNa_glb (g : Adapter → Adapter) : (modNa s g).glb = s.glb := rfl
@[simp] theorem modNa_sec (g : Adapter → Adapter) : (modNa s g).sec = s.sec := rfl
@[simp] theorem modNa_side (g : Adapter → Adapter) : (modNa s g).side = s.side := rfl
@[simp] theorem modNa_master (g : Adapter → Adapter) : (modNa s g).master = s.master := rfl
@[simp] theorem modNa_farrier (g : Adapter → Adapter) : (modNa s g).farrier = s.farrier := rfl
@[simp] theorem modNa_stud (g : Adapter → Adapter) : (modNa s g).stud = s.stud := rfl
@[simp] theorem modNa_fuses (g : Adapter → Adapter) : (modNa s g).fuses = s.fuses := rfl
@[simp] theorem modNa_sync (g : Adapter → Adapter) : (modNa s g).sync = s.sync := rfl
@[simp] theorem modNa_held (g : Adapter → Adapter) : (modNa s g).held = s.held := rfl
@[simp] theorem modNa_dram (g : Adapter → Adapter) : (modNa s g).dram = s.dram := rfl
@[simp] theorem modNa_spad (g : Adapter → Adapter) : (modNa s g).spad = s.spad := rfl
@[simp] theorem modNa_before (g : Adapter → Adapter) : (modNa s g).before = s.before := rfl
@[simp] theorem modNa_host (g : Adapter → Adapter) : (modNa s g).host = s.host := rfl
@[simp] theorem modNa_badSpad (g : Adapter → Adapter) : (modNa s g).badSpad = s.badSpad := rfl
@[simp] theorem modNa_badDram (g : Adapter → Adapter) : (modNa s g).badDram = s.badDram := rfl
@[simp] theorem modNa_free (g : Adapter → Adapter) : (modNa s g).free = s.free := rfl

/-! ### modSec -/

@[simp] theorem modSec_pending (g : Sec → Sec) : (modSec s g).pending = s.pending := rfl
@[simp] theorem modSec_pwr (g : Sec → Sec) : (modSec s g).pwr = s.pwr := rfl
@[simp] theorem modSec_clk (g : Sec → Sec) : (modSec s g).clk = s.clk := rfl
@[simp] theorem modSec_fields (g : Sec → Sec) : (modSec s g).fields = s.fields := rfl
@[simp] theorem modSec_regions (g : Sec → Sec) : (modSec s g).regions = s.regions := rfl
@[simp] theorem modSec_slots (g : Sec → Sec) : (modSec s g).slots = s.slots := rfl
@[simp] theorem modSec_memStacks (g : Sec → Sec) : (modSec s g).memStacks = s.memStacks := rfl
@[simp] theorem modSec_lnk (g : Sec → Sec) : (modSec s g).lnk = s.lnk := rfl
@[simp] theorem modSec_na (g : Sec → Sec) : (modSec s g).na = s.na := rfl
@[simp] theorem modSec_hst (g : Sec → Sec) : (modSec s g).hst = s.hst := rfl
@[simp] theorem modSec_blocks (g : Sec → Sec) : (modSec s g).blocks = s.blocks := rfl
@[simp] theorem modSec_boot (g : Sec → Sec) : (modSec s g).boot = s.boot := rfl
@[simp] theorem modSec_glb (g : Sec → Sec) : (modSec s g).glb = s.glb := rfl
@[simp] theorem modSec_sec (g : Sec → Sec) : (modSec s g).sec = g s.sec := rfl
@[simp] theorem modSec_side (g : Sec → Sec) : (modSec s g).side = s.side := rfl
@[simp] theorem modSec_master (g : Sec → Sec) : (modSec s g).master = s.master := rfl
@[simp] theorem modSec_farrier (g : Sec → Sec) : (modSec s g).farrier = s.farrier := rfl
@[simp] theorem modSec_stud (g : Sec → Sec) : (modSec s g).stud = s.stud := rfl
@[simp] theorem modSec_fuses (g : Sec → Sec) : (modSec s g).fuses = s.fuses := rfl
@[simp] theorem modSec_sync (g : Sec → Sec) : (modSec s g).sync = s.sync := rfl
@[simp] theorem modSec_held (g : Sec → Sec) : (modSec s g).held = s.held := rfl
@[simp] theorem modSec_dram (g : Sec → Sec) : (modSec s g).dram = s.dram := rfl
@[simp] theorem modSec_spad (g : Sec → Sec) : (modSec s g).spad = s.spad := rfl
@[simp] theorem modSec_before (g : Sec → Sec) : (modSec s g).before = s.before := rfl
@[simp] theorem modSec_host (g : Sec → Sec) : (modSec s g).host = s.host := rfl
@[simp] theorem modSec_badSpad (g : Sec → Sec) : (modSec s g).badSpad = s.badSpad := rfl
@[simp] theorem modSec_badDram (g : Sec → Sec) : (modSec s g).badDram = s.badDram := rfl
@[simp] theorem modSec_free (g : Sec → Sec) : (modSec s g).free = s.free := rfl

/-! ### modSide -/

@[simp] theorem modSide_pending (g : Side → Side) : (modSide s g).pending = s.pending := rfl
@[simp] theorem modSide_pwr (g : Side → Side) : (modSide s g).pwr = s.pwr := rfl
@[simp] theorem modSide_clk (g : Side → Side) : (modSide s g).clk = s.clk := rfl
@[simp] theorem modSide_fields (g : Side → Side) : (modSide s g).fields = s.fields := rfl
@[simp] theorem modSide_regions (g : Side → Side) : (modSide s g).regions = s.regions := rfl
@[simp] theorem modSide_slots (g : Side → Side) : (modSide s g).slots = s.slots := rfl
@[simp] theorem modSide_memStacks (g : Side → Side) : (modSide s g).memStacks = s.memStacks := rfl
@[simp] theorem modSide_lnk (g : Side → Side) : (modSide s g).lnk = s.lnk := rfl
@[simp] theorem modSide_na (g : Side → Side) : (modSide s g).na = s.na := rfl
@[simp] theorem modSide_hst (g : Side → Side) : (modSide s g).hst = s.hst := rfl
@[simp] theorem modSide_blocks (g : Side → Side) : (modSide s g).blocks = s.blocks := rfl
@[simp] theorem modSide_boot (g : Side → Side) : (modSide s g).boot = s.boot := rfl
@[simp] theorem modSide_glb (g : Side → Side) : (modSide s g).glb = s.glb := rfl
@[simp] theorem modSide_sec (g : Side → Side) : (modSide s g).sec = s.sec := rfl
@[simp] theorem modSide_side (g : Side → Side) : (modSide s g).side = g s.side := rfl
@[simp] theorem modSide_master (g : Side → Side) : (modSide s g).master = s.master := rfl
@[simp] theorem modSide_farrier (g : Side → Side) : (modSide s g).farrier = s.farrier := rfl
@[simp] theorem modSide_stud (g : Side → Side) : (modSide s g).stud = s.stud := rfl
@[simp] theorem modSide_fuses (g : Side → Side) : (modSide s g).fuses = s.fuses := rfl
@[simp] theorem modSide_sync (g : Side → Side) : (modSide s g).sync = s.sync := rfl
@[simp] theorem modSide_held (g : Side → Side) : (modSide s g).held = s.held := rfl
@[simp] theorem modSide_dram (g : Side → Side) : (modSide s g).dram = s.dram := rfl
@[simp] theorem modSide_spad (g : Side → Side) : (modSide s g).spad = s.spad := rfl
@[simp] theorem modSide_before (g : Side → Side) : (modSide s g).before = s.before := rfl
@[simp] theorem modSide_host (g : Side → Side) : (modSide s g).host = s.host := rfl
@[simp] theorem modSide_badSpad (g : Side → Side) : (modSide s g).badSpad = s.badSpad := rfl
@[simp] theorem modSide_badDram (g : Side → Side) : (modSide s g).badDram = s.badDram := rfl
@[simp] theorem modSide_free (g : Side → Side) : (modSide s g).free = s.free := rfl

/-! ### modBoot -/

@[simp] theorem modBoot_pending (g : Boot → Boot) : (modBoot s g).pending = s.pending := rfl
@[simp] theorem modBoot_pwr (g : Boot → Boot) : (modBoot s g).pwr = s.pwr := rfl
@[simp] theorem modBoot_clk (g : Boot → Boot) : (modBoot s g).clk = s.clk := rfl
@[simp] theorem modBoot_fields (g : Boot → Boot) : (modBoot s g).fields = s.fields := rfl
@[simp] theorem modBoot_regions (g : Boot → Boot) : (modBoot s g).regions = s.regions := rfl
@[simp] theorem modBoot_slots (g : Boot → Boot) : (modBoot s g).slots = s.slots := rfl
@[simp] theorem modBoot_memStacks (g : Boot → Boot) : (modBoot s g).memStacks = s.memStacks := rfl
@[simp] theorem modBoot_lnk (g : Boot → Boot) : (modBoot s g).lnk = s.lnk := rfl
@[simp] theorem modBoot_na (g : Boot → Boot) : (modBoot s g).na = s.na := rfl
@[simp] theorem modBoot_hst (g : Boot → Boot) : (modBoot s g).hst = s.hst := rfl
@[simp] theorem modBoot_blocks (g : Boot → Boot) : (modBoot s g).blocks = s.blocks := rfl
@[simp] theorem modBoot_boot (g : Boot → Boot) : (modBoot s g).boot = g s.boot := rfl
@[simp] theorem modBoot_glb (g : Boot → Boot) : (modBoot s g).glb = s.glb := rfl
@[simp] theorem modBoot_sec (g : Boot → Boot) : (modBoot s g).sec = s.sec := rfl
@[simp] theorem modBoot_side (g : Boot → Boot) : (modBoot s g).side = s.side := rfl
@[simp] theorem modBoot_master (g : Boot → Boot) : (modBoot s g).master = s.master := rfl
@[simp] theorem modBoot_farrier (g : Boot → Boot) : (modBoot s g).farrier = s.farrier := rfl
@[simp] theorem modBoot_stud (g : Boot → Boot) : (modBoot s g).stud = s.stud := rfl
@[simp] theorem modBoot_fuses (g : Boot → Boot) : (modBoot s g).fuses = s.fuses := rfl
@[simp] theorem modBoot_sync (g : Boot → Boot) : (modBoot s g).sync = s.sync := rfl
@[simp] theorem modBoot_held (g : Boot → Boot) : (modBoot s g).held = s.held := rfl
@[simp] theorem modBoot_dram (g : Boot → Boot) : (modBoot s g).dram = s.dram := rfl
@[simp] theorem modBoot_spad (g : Boot → Boot) : (modBoot s g).spad = s.spad := rfl
@[simp] theorem modBoot_before (g : Boot → Boot) : (modBoot s g).before = s.before := rfl
@[simp] theorem modBoot_host (g : Boot → Boot) : (modBoot s g).host = s.host := rfl
@[simp] theorem modBoot_badSpad (g : Boot → Boot) : (modBoot s g).badSpad = s.badSpad := rfl
@[simp] theorem modBoot_badDram (g : Boot → Boot) : (modBoot s g).badDram = s.badDram := rfl
@[simp] theorem modBoot_free (g : Boot → Boot) : (modBoot s g).free = s.free := rfl

/-! ### modLnk -/

@[simp] theorem modLnk_pending (g : Lnk → Lnk) : (modLnk s g).pending = s.pending := rfl
@[simp] theorem modLnk_pwr (g : Lnk → Lnk) : (modLnk s g).pwr = s.pwr := rfl
@[simp] theorem modLnk_clk (g : Lnk → Lnk) : (modLnk s g).clk = s.clk := rfl
@[simp] theorem modLnk_fields (g : Lnk → Lnk) : (modLnk s g).fields = s.fields := rfl
@[simp] theorem modLnk_regions (g : Lnk → Lnk) : (modLnk s g).regions = s.regions := rfl
@[simp] theorem modLnk_slots (g : Lnk → Lnk) : (modLnk s g).slots = s.slots := rfl
@[simp] theorem modLnk_memStacks (g : Lnk → Lnk) : (modLnk s g).memStacks = s.memStacks := rfl
@[simp] theorem modLnk_lnk (g : Lnk → Lnk) : (modLnk s g).lnk = g s.lnk := rfl
@[simp] theorem modLnk_na (g : Lnk → Lnk) : (modLnk s g).na = s.na := rfl
@[simp] theorem modLnk_hst (g : Lnk → Lnk) : (modLnk s g).hst = s.hst := rfl
@[simp] theorem modLnk_blocks (g : Lnk → Lnk) : (modLnk s g).blocks = s.blocks := rfl
@[simp] theorem modLnk_boot (g : Lnk → Lnk) : (modLnk s g).boot = s.boot := rfl
@[simp] theorem modLnk_glb (g : Lnk → Lnk) : (modLnk s g).glb = s.glb := rfl
@[simp] theorem modLnk_sec (g : Lnk → Lnk) : (modLnk s g).sec = s.sec := rfl
@[simp] theorem modLnk_side (g : Lnk → Lnk) : (modLnk s g).side = s.side := rfl
@[simp] theorem modLnk_master (g : Lnk → Lnk) : (modLnk s g).master = s.master := rfl
@[simp] theorem modLnk_farrier (g : Lnk → Lnk) : (modLnk s g).farrier = s.farrier := rfl
@[simp] theorem modLnk_stud (g : Lnk → Lnk) : (modLnk s g).stud = s.stud := rfl
@[simp] theorem modLnk_fuses (g : Lnk → Lnk) : (modLnk s g).fuses = s.fuses := rfl
@[simp] theorem modLnk_sync (g : Lnk → Lnk) : (modLnk s g).sync = s.sync := rfl
@[simp] theorem modLnk_held (g : Lnk → Lnk) : (modLnk s g).held = s.held := rfl
@[simp] theorem modLnk_dram (g : Lnk → Lnk) : (modLnk s g).dram = s.dram := rfl
@[simp] theorem modLnk_spad (g : Lnk → Lnk) : (modLnk s g).spad = s.spad := rfl
@[simp] theorem modLnk_before (g : Lnk → Lnk) : (modLnk s g).before = s.before := rfl
@[simp] theorem modLnk_host (g : Lnk → Lnk) : (modLnk s g).host = s.host := rfl
@[simp] theorem modLnk_badSpad (g : Lnk → Lnk) : (modLnk s g).badSpad = s.badSpad := rfl
@[simp] theorem modLnk_badDram (g : Lnk → Lnk) : (modLnk s g).badDram = s.badDram := rfl
@[simp] theorem modLnk_free (g : Lnk → Lnk) : (modLnk s g).free = s.free := rfl

/-! ### modFarrier -/

@[simp] theorem modFarrier_pending (g : Farrier → Farrier) : (modFarrier s g).pending = s.pending := rfl
@[simp] theorem modFarrier_pwr (g : Farrier → Farrier) : (modFarrier s g).pwr = s.pwr := rfl
@[simp] theorem modFarrier_clk (g : Farrier → Farrier) : (modFarrier s g).clk = s.clk := rfl
@[simp] theorem modFarrier_fields (g : Farrier → Farrier) : (modFarrier s g).fields = s.fields := rfl
@[simp] theorem modFarrier_regions (g : Farrier → Farrier) : (modFarrier s g).regions = s.regions := rfl
@[simp] theorem modFarrier_slots (g : Farrier → Farrier) : (modFarrier s g).slots = s.slots := rfl
@[simp] theorem modFarrier_memStacks (g : Farrier → Farrier) : (modFarrier s g).memStacks = s.memStacks := rfl
@[simp] theorem modFarrier_lnk (g : Farrier → Farrier) : (modFarrier s g).lnk = s.lnk := rfl
@[simp] theorem modFarrier_na (g : Farrier → Farrier) : (modFarrier s g).na = s.na := rfl
@[simp] theorem modFarrier_hst (g : Farrier → Farrier) : (modFarrier s g).hst = s.hst := rfl
@[simp] theorem modFarrier_blocks (g : Farrier → Farrier) : (modFarrier s g).blocks = s.blocks := rfl
@[simp] theorem modFarrier_boot (g : Farrier → Farrier) : (modFarrier s g).boot = s.boot := rfl
@[simp] theorem modFarrier_glb (g : Farrier → Farrier) : (modFarrier s g).glb = s.glb := rfl
@[simp] theorem modFarrier_sec (g : Farrier → Farrier) : (modFarrier s g).sec = s.sec := rfl
@[simp] theorem modFarrier_side (g : Farrier → Farrier) : (modFarrier s g).side = s.side := rfl
@[simp] theorem modFarrier_master (g : Farrier → Farrier) : (modFarrier s g).master = s.master := rfl
@[simp] theorem modFarrier_farrier (g : Farrier → Farrier) : (modFarrier s g).farrier = g s.farrier := rfl
@[simp] theorem modFarrier_stud (g : Farrier → Farrier) : (modFarrier s g).stud = s.stud := rfl
@[simp] theorem modFarrier_fuses (g : Farrier → Farrier) : (modFarrier s g).fuses = s.fuses := rfl
@[simp] theorem modFarrier_sync (g : Farrier → Farrier) : (modFarrier s g).sync = s.sync := rfl
@[simp] theorem modFarrier_held (g : Farrier → Farrier) : (modFarrier s g).held = s.held := rfl
@[simp] theorem modFarrier_dram (g : Farrier → Farrier) : (modFarrier s g).dram = s.dram := rfl
@[simp] theorem modFarrier_spad (g : Farrier → Farrier) : (modFarrier s g).spad = s.spad := rfl
@[simp] theorem modFarrier_before (g : Farrier → Farrier) : (modFarrier s g).before = s.before := rfl
@[simp] theorem modFarrier_host (g : Farrier → Farrier) : (modFarrier s g).host = s.host := rfl
@[simp] theorem modFarrier_badSpad (g : Farrier → Farrier) : (modFarrier s g).badSpad = s.badSpad := rfl
@[simp] theorem modFarrier_badDram (g : Farrier → Farrier) : (modFarrier s g).badDram = s.badDram := rfl
@[simp] theorem modFarrier_free (g : Farrier → Farrier) : (modFarrier s g).free = s.free := rfl

end Sys2Proof.Machine
end

