-- ==== Sys2Proof/Laws/Units.lean ====
section
/-!
SUPPORT. Reading one unit after an update: the unit that was written, another unit, and units of another kind.
-/
namespace Sys2Proof.Machine

theorem getD_modify_same {α : Type} (l : List α) (i : Nat) (g : α → α) (d : α) (h : i < l.length) :
    (l.modify i g).getD i d = g (l.getD i d) := by
  simp [List.getD_eq_getElem?_getD, List.getElem?_modify, h]

theorem getD_modify_other {α : Type} (l : List α) {i j : Nat} (g : α → α) (d : α) (h : i ≠ j) :
    (l.modify i g).getD j d = l.getD j d := by
  simp [List.getD_eq_getElem?_getD, List.getElem?_modify, h]

variable (s : State)

/-! ### fieldAt -/

@[simp] theorem fieldAt_modRegion (r : Nat) (g : Region → Region) (k : Nat) : fieldAt (modRegion s r g) k = fieldAt s k := rfl
@[simp] theorem fieldAt_modStack (m : Nat) (g : Stack → Stack) (k : Nat) : fieldAt (modStack s m g) k = fieldAt s k := rfl
@[simp] theorem fieldAt_modLink (l : Nat) (g : Link → Link) (k : Nat) : fieldAt (modLink s l g) k = fieldAt s k := rfl
@[simp] theorem fieldAt_modRing (r : Nat) (g : Ring → Ring) (k : Nat) : fieldAt (modRing s r g) k = fieldAt s k := rfl
@[simp] theorem fieldAt_modCtl (b : Blk) (g : BlockCtl → BlockCtl) (k : Nat) : fieldAt (modCtl s b g) k = fieldAt s k := rfl
@[simp] theorem fieldAt_modMaster (g : Master → Master) (k : Nat) : fieldAt (modMaster s g) k = fieldAt s k := rfl
@[simp] theorem fieldAt_modGlb (g : Glb → Glb) (k : Nat) : fieldAt (modGlb s g) k = fieldAt s k := rfl
@[simp] theorem fieldAt_modPwr (g : Power → Power) (k : Nat) : fieldAt (modPwr s g) k = fieldAt s k := rfl
@[simp] theorem fieldAt_modClk (g : Clock → Clock) (k : Nat) : fieldAt (modClk s g) k = fieldAt s k := rfl
@[simp] theorem fieldAt_modHst (g : Hst → Hst) (k : Nat) : fieldAt (modHst s g) k = fieldAt s k := rfl
@[simp] theorem fieldAt_modNa (g : Adapter → Adapter) (k : Nat) : fieldAt (modNa s g) k = fieldAt s k := rfl
@[simp] theorem fieldAt_modSec (g : Sec → Sec) (k : Nat) : fieldAt (modSec s g) k = fieldAt s k := rfl
@[simp] theorem fieldAt_modSide (g : Side → Side) (k : Nat) : fieldAt (modSide s g) k = fieldAt s k := rfl
@[simp] theorem fieldAt_modBoot (g : Boot → Boot) (k : Nat) : fieldAt (modBoot s g) k = fieldAt s k := rfl
@[simp] theorem fieldAt_modLnk (g : Lnk → Lnk) (k : Nat) : fieldAt (modLnk s g) k = fieldAt s k := rfl
@[simp] theorem fieldAt_modFarrier (g : Farrier → Farrier) (k : Nat) : fieldAt (modFarrier s g) k = fieldAt s k := rfl

/-! ### regionAt -/

@[simp] theorem regionAt_modField (f : Nat) (g : Field → Field) (k : Nat) : regionAt (modField s f g) k = regionAt s k := rfl
@[simp] theorem regionAt_modStack (m : Nat) (g : Stack → Stack) (k : Nat) : regionAt (modStack s m g) k = regionAt s k := rfl
@[simp] theorem regionAt_modLink (l : Nat) (g : Link → Link) (k : Nat) : regionAt (modLink s l g) k = regionAt s k := rfl
@[simp] theorem regionAt_modRing (r : Nat) (g : Ring → Ring) (k : Nat) : regionAt (modRing s r g) k = regionAt s k := rfl
@[simp] theorem regionAt_modEdge (f e : Nat) (g : Edge → Edge) (k : Nat) : regionAt (modEdge s f e g) k = regionAt s k := rfl
@[simp] theorem regionAt_modCtl (b : Blk) (g : BlockCtl → BlockCtl) (k : Nat) : regionAt (modCtl s b g) k = regionAt s k := rfl
@[simp] theorem regionAt_modMaster (g : Master → Master) (k : Nat) : regionAt (modMaster s g) k = regionAt s k := rfl
@[simp] theorem regionAt_modGlb (g : Glb → Glb) (k : Nat) : regionAt (modGlb s g) k = regionAt s k := rfl
@[simp] theorem regionAt_modPwr (g : Power → Power) (k : Nat) : regionAt (modPwr s g) k = regionAt s k := rfl
@[simp] theorem regionAt_modClk (g : Clock → Clock) (k : Nat) : regionAt (modClk s g) k = regionAt s k := rfl
@[simp] theorem regionAt_modHst (g : Hst → Hst) (k : Nat) : regionAt (modHst s g) k = regionAt s k := rfl
@[simp] theorem regionAt_modNa (g : Adapter → Adapter) (k : Nat) : regionAt (modNa s g) k = regionAt s k := rfl
@[simp] theorem regionAt_modSec (g : Sec → Sec) (k : Nat) : regionAt (modSec s g) k = regionAt s k := rfl
@[simp] theorem regionAt_modSide (g : Side → Side) (k : Nat) : regionAt (modSide s g) k = regionAt s k := rfl
@[simp] theorem regionAt_modBoot (g : Boot → Boot) (k : Nat) : regionAt (modBoot s g) k = regionAt s k := rfl
@[simp] theorem regionAt_modLnk (g : Lnk → Lnk) (k : Nat) : regionAt (modLnk s g) k = regionAt s k := rfl
@[simp] theorem regionAt_modFarrier (g : Farrier → Farrier) (k : Nat) : regionAt (modFarrier s g) k = regionAt s k := rfl

/-! ### stackAt -/

@[simp] theorem stackAt_modField (f : Nat) (g : Field → Field) (k : Nat) : stackAt (modField s f g) k = stackAt s k := rfl
@[simp] theorem stackAt_modRegion (r : Nat) (g : Region → Region) (k : Nat) : stackAt (modRegion s r g) k = stackAt s k := rfl
@[simp] theorem stackAt_modLink (l : Nat) (g : Link → Link) (k : Nat) : stackAt (modLink s l g) k = stackAt s k := rfl
@[simp] theorem stackAt_modRing (r : Nat) (g : Ring → Ring) (k : Nat) : stackAt (modRing s r g) k = stackAt s k := rfl
@[simp] theorem stackAt_modEdge (f e : Nat) (g : Edge → Edge) (k : Nat) : stackAt (modEdge s f e g) k = stackAt s k := rfl
@[simp] theorem stackAt_modCtl (b : Blk) (g : BlockCtl → BlockCtl) (k : Nat) : stackAt (modCtl s b g) k = stackAt s k := rfl
@[simp] theorem stackAt_modMaster (g : Master → Master) (k : Nat) : stackAt (modMaster s g) k = stackAt s k := rfl
@[simp] theorem stackAt_modGlb (g : Glb → Glb) (k : Nat) : stackAt (modGlb s g) k = stackAt s k := rfl
@[simp] theorem stackAt_modPwr (g : Power → Power) (k : Nat) : stackAt (modPwr s g) k = stackAt s k := rfl
@[simp] theorem stackAt_modClk (g : Clock → Clock) (k : Nat) : stackAt (modClk s g) k = stackAt s k := rfl
@[simp] theorem stackAt_modHst (g : Hst → Hst) (k : Nat) : stackAt (modHst s g) k = stackAt s k := rfl
@[simp] theorem stackAt_modNa (g : Adapter → Adapter) (k : Nat) : stackAt (modNa s g) k = stackAt s k := rfl
@[simp] theorem stackAt_modSec (g : Sec → Sec) (k : Nat) : stackAt (modSec s g) k = stackAt s k := rfl
@[simp] theorem stackAt_modSide (g : Side → Side) (k : Nat) : stackAt (modSide s g) k = stackAt s k := rfl
@[simp] theorem stackAt_modBoot (g : Boot → Boot) (k : Nat) : stackAt (modBoot s g) k = stackAt s k := rfl
@[simp] theorem stackAt_modLnk (g : Lnk → Lnk) (k : Nat) : stackAt (modLnk s g) k = stackAt s k := rfl
@[simp] theorem stackAt_modFarrier (g : Farrier → Farrier) (k : Nat) : stackAt (modFarrier s g) k = stackAt s k := rfl

/-! ### linkAt -/

@[simp] theorem linkAt_modField (f : Nat) (g : Field → Field) (k : Nat) : linkAt (modField s f g) k = linkAt s k := rfl
@[simp] theorem linkAt_modRegion (r : Nat) (g : Region → Region) (k : Nat) : linkAt (modRegion s r g) k = linkAt s k := rfl
@[simp] theorem linkAt_modStack (m : Nat) (g : Stack → Stack) (k : Nat) : linkAt (modStack s m g) k = linkAt s k := rfl
@[simp] theorem linkAt_modRing (r : Nat) (g : Ring → Ring) (k : Nat) : linkAt (modRing s r g) k = linkAt s k := rfl
@[simp] theorem linkAt_modEdge (f e : Nat) (g : Edge → Edge) (k : Nat) : linkAt (modEdge s f e g) k = linkAt s k := rfl
@[simp] theorem linkAt_modCtl (b : Blk) (g : BlockCtl → BlockCtl) (k : Nat) : linkAt (modCtl s b g) k = linkAt s k := rfl
@[simp] theorem linkAt_modMaster (g : Master → Master) (k : Nat) : linkAt (modMaster s g) k = linkAt s k := rfl
@[simp] theorem linkAt_modGlb (g : Glb → Glb) (k : Nat) : linkAt (modGlb s g) k = linkAt s k := rfl
@[simp] theorem linkAt_modPwr (g : Power → Power) (k : Nat) : linkAt (modPwr s g) k = linkAt s k := rfl
@[simp] theorem linkAt_modClk (g : Clock → Clock) (k : Nat) : linkAt (modClk s g) k = linkAt s k := rfl
@[simp] theorem linkAt_modHst (g : Hst → Hst) (k : Nat) : linkAt (modHst s g) k = linkAt s k := rfl
@[simp] theorem linkAt_modNa (g : Adapter → Adapter) (k : Nat) : linkAt (modNa s g) k = linkAt s k := rfl
@[simp] theorem linkAt_modSec (g : Sec → Sec) (k : Nat) : linkAt (modSec s g) k = linkAt s k := rfl
@[simp] theorem linkAt_modSide (g : Side → Side) (k : Nat) : linkAt (modSide s g) k = linkAt s k := rfl
@[simp] theorem linkAt_modBoot (g : Boot → Boot) (k : Nat) : linkAt (modBoot s g) k = linkAt s k := rfl
@[simp] theorem linkAt_modFarrier (g : Farrier → Farrier) (k : Nat) : linkAt (modFarrier s g) k = linkAt s k := rfl

/-! ### ringAt -/

@[simp] theorem ringAt_modField (f : Nat) (g : Field → Field) (k : Nat) : ringAt (modField s f g) k = ringAt s k := rfl
@[simp] theorem ringAt_modRegion (r : Nat) (g : Region → Region) (k : Nat) : ringAt (modRegion s r g) k = ringAt s k := rfl
@[simp] theorem ringAt_modStack (m : Nat) (g : Stack → Stack) (k : Nat) : ringAt (modStack s m g) k = ringAt s k := rfl
@[simp] theorem ringAt_modLink (l : Nat) (g : Link → Link) (k : Nat) : ringAt (modLink s l g) k = ringAt s k := rfl
@[simp] theorem ringAt_modEdge (f e : Nat) (g : Edge → Edge) (k : Nat) : ringAt (modEdge s f e g) k = ringAt s k := rfl
@[simp] theorem ringAt_modCtl (b : Blk) (g : BlockCtl → BlockCtl) (k : Nat) : ringAt (modCtl s b g) k = ringAt s k := rfl
@[simp] theorem ringAt_modMaster (g : Master → Master) (k : Nat) : ringAt (modMaster s g) k = ringAt s k := rfl
@[simp] theorem ringAt_modGlb (g : Glb → Glb) (k : Nat) : ringAt (modGlb s g) k = ringAt s k := rfl
@[simp] theorem ringAt_modPwr (g : Power → Power) (k : Nat) : ringAt (modPwr s g) k = ringAt s k := rfl
@[simp] theorem ringAt_modClk (g : Clock → Clock) (k : Nat) : ringAt (modClk s g) k = ringAt s k := rfl
@[simp] theorem ringAt_modNa (g : Adapter → Adapter) (k : Nat) : ringAt (modNa s g) k = ringAt s k := rfl
@[simp] theorem ringAt_modSec (g : Sec → Sec) (k : Nat) : ringAt (modSec s g) k = ringAt s k := rfl
@[simp] theorem ringAt_modSide (g : Side → Side) (k : Nat) : ringAt (modSide s g) k = ringAt s k := rfl
@[simp] theorem ringAt_modBoot (g : Boot → Boot) (k : Nat) : ringAt (modBoot s g) k = ringAt s k := rfl
@[simp] theorem ringAt_modLnk (g : Lnk → Lnk) (k : Nat) : ringAt (modLnk s g) k = ringAt s k := rfl
@[simp] theorem ringAt_modFarrier (g : Farrier → Farrier) (k : Nat) : ringAt (modFarrier s g) k = ringAt s k := rfl

/-! ### slotAt -/

@[simp] theorem slotAt_modField (f : Nat) (g : Field → Field) (k : Nat) : slotAt (modField s f g) k = slotAt s k := rfl
@[simp] theorem slotAt_modRegion (r : Nat) (g : Region → Region) (k : Nat) : slotAt (modRegion s r g) k = slotAt s k := rfl
@[simp] theorem slotAt_modStack (m : Nat) (g : Stack → Stack) (k : Nat) : slotAt (modStack s m g) k = slotAt s k := rfl
@[simp] theorem slotAt_modLink (l : Nat) (g : Link → Link) (k : Nat) : slotAt (modLink s l g) k = slotAt s k := rfl
@[simp] theorem slotAt_modRing (r : Nat) (g : Ring → Ring) (k : Nat) : slotAt (modRing s r g) k = slotAt s k := rfl
@[simp] theorem slotAt_modEdge (f e : Nat) (g : Edge → Edge) (k : Nat) : slotAt (modEdge s f e g) k = slotAt s k := rfl
@[simp] theorem slotAt_modCtl (b : Blk) (g : BlockCtl → BlockCtl) (k : Nat) : slotAt (modCtl s b g) k = slotAt s k := rfl
@[simp] theorem slotAt_modMaster (g : Master → Master) (k : Nat) : slotAt (modMaster s g) k = slotAt s k := rfl
@[simp] theorem slotAt_modGlb (g : Glb → Glb) (k : Nat) : slotAt (modGlb s g) k = slotAt s k := rfl
@[simp] theorem slotAt_modPwr (g : Power → Power) (k : Nat) : slotAt (modPwr s g) k = slotAt s k := rfl
@[simp] theorem slotAt_modClk (g : Clock → Clock) (k : Nat) : slotAt (modClk s g) k = slotAt s k := rfl
@[simp] theorem slotAt_modHst (g : Hst → Hst) (k : Nat) : slotAt (modHst s g) k = slotAt s k := rfl
@[simp] theorem slotAt_modNa (g : Adapter → Adapter) (k : Nat) : slotAt (modNa s g) k = slotAt s k := rfl
@[simp] theorem slotAt_modSec (g : Sec → Sec) (k : Nat) : slotAt (modSec s g) k = slotAt s k := rfl
@[simp] theorem slotAt_modSide (g : Side → Side) (k : Nat) : slotAt (modSide s g) k = slotAt s k := rfl
@[simp] theorem slotAt_modBoot (g : Boot → Boot) (k : Nat) : slotAt (modBoot s g) k = slotAt s k := rfl
@[simp] theorem slotAt_modLnk (g : Lnk → Lnk) (k : Nat) : slotAt (modLnk s g) k = slotAt s k := rfl
@[simp] theorem slotAt_modFarrier (g : Farrier → Farrier) (k : Nat) : slotAt (modFarrier s g) k = slotAt s k := rfl

/-! ### ctlAt -/

@[simp] theorem ctlAt_modField (f : Nat) (g : Field → Field) (k : Blk) : ctlAt (modField s f g) k = ctlAt s k := rfl
@[simp] theorem ctlAt_modRegion (r : Nat) (g : Region → Region) (k : Blk) : ctlAt (modRegion s r g) k = ctlAt s k := rfl
@[simp] theorem ctlAt_modStack (m : Nat) (g : Stack → Stack) (k : Blk) : ctlAt (modStack s m g) k = ctlAt s k := rfl
@[simp] theorem ctlAt_modLink (l : Nat) (g : Link → Link) (k : Blk) : ctlAt (modLink s l g) k = ctlAt s k := rfl
@[simp] theorem ctlAt_modRing (r : Nat) (g : Ring → Ring) (k : Blk) : ctlAt (modRing s r g) k = ctlAt s k := rfl
@[simp] theorem ctlAt_modEdge (f e : Nat) (g : Edge → Edge) (k : Blk) : ctlAt (modEdge s f e g) k = ctlAt s k := rfl
@[simp] theorem ctlAt_modMaster (g : Master → Master) (k : Blk) : ctlAt (modMaster s g) k = ctlAt s k := rfl
@[simp] theorem ctlAt_modGlb (g : Glb → Glb) (k : Blk) : ctlAt (modGlb s g) k = ctlAt s k := rfl
@[simp] theorem ctlAt_modPwr (g : Power → Power) (k : Blk) : ctlAt (modPwr s g) k = ctlAt s k := rfl
@[simp] theorem ctlAt_modClk (g : Clock → Clock) (k : Blk) : ctlAt (modClk s g) k = ctlAt s k := rfl
@[simp] theorem ctlAt_modHst (g : Hst → Hst) (k : Blk) : ctlAt (modHst s g) k = ctlAt s k := rfl
@[simp] theorem ctlAt_modNa (g : Adapter → Adapter) (k : Blk) : ctlAt (modNa s g) k = ctlAt s k := rfl
@[simp] theorem ctlAt_modSec (g : Sec → Sec) (k : Blk) : ctlAt (modSec s g) k = ctlAt s k := rfl
@[simp] theorem ctlAt_modSide (g : Side → Side) (k : Blk) : ctlAt (modSide s g) k = ctlAt s k := rfl
@[simp] theorem ctlAt_modBoot (g : Boot → Boot) (k : Blk) : ctlAt (modBoot s g) k = ctlAt s k := rfl
@[simp] theorem ctlAt_modLnk (g : Lnk → Lnk) (k : Blk) : ctlAt (modLnk s g) k = ctlAt s k := rfl
@[simp] theorem ctlAt_modFarrier (g : Farrier → Farrier) (k : Blk) : ctlAt (modFarrier s g) k = ctlAt s k := rfl

/-! ### edgeAt -/

@[simp] theorem edgeAt_modRegion (r : Nat) (g : Region → Region) (k e' : Nat) : edgeAt (modRegion s r g) k e' = edgeAt s k e' := rfl
@[simp] theorem edgeAt_modStack (m : Nat) (g : Stack → Stack) (k e' : Nat) : edgeAt (modStack s m g) k e' = edgeAt s k e' := rfl
@[simp] theorem edgeAt_modLink (l : Nat) (g : Link → Link) (k e' : Nat) : edgeAt (modLink s l g) k e' = edgeAt s k e' := rfl
@[simp] theorem edgeAt_modRing (r : Nat) (g : Ring → Ring) (k e' : Nat) : edgeAt (modRing s r g) k e' = edgeAt s k e' := rfl
@[simp] theorem edgeAt_modCtl (b : Blk) (g : BlockCtl → BlockCtl) (k e' : Nat) : edgeAt (modCtl s b g) k e' = edgeAt s k e' := rfl
@[simp] theorem edgeAt_modMaster (g : Master → Master) (k e' : Nat) : edgeAt (modMaster s g) k e' = edgeAt s k e' := rfl
@[simp] theorem edgeAt_modGlb (g : Glb → Glb) (k e' : Nat) : edgeAt (modGlb s g) k e' = edgeAt s k e' := rfl
@[simp] theorem edgeAt_modPwr (g : Power → Power) (k e' : Nat) : edgeAt (modPwr s g) k e' = edgeAt s k e' := rfl
@[simp] theorem edgeAt_modClk (g : Clock → Clock) (k e' : Nat) : edgeAt (modClk s g) k e' = edgeAt s k e' := rfl
@[simp] theorem edgeAt_modHst (g : Hst → Hst) (k e' : Nat) : edgeAt (modHst s g) k e' = edgeAt s k e' := rfl
@[simp] theorem edgeAt_modNa (g : Adapter → Adapter) (k e' : Nat) : edgeAt (modNa s g) k e' = edgeAt s k e' := rfl
@[simp] theorem edgeAt_modSec (g : Sec → Sec) (k e' : Nat) : edgeAt (modSec s g) k e' = edgeAt s k e' := rfl
@[simp] theorem edgeAt_modSide (g : Side → Side) (k e' : Nat) : edgeAt (modSide s g) k e' = edgeAt s k e' := rfl
@[simp] theorem edgeAt_modBoot (g : Boot → Boot) (k e' : Nat) : edgeAt (modBoot s g) k e' = edgeAt s k e' := rfl
@[simp] theorem edgeAt_modLnk (g : Lnk → Lnk) (k e' : Nat) : edgeAt (modLnk s g) k e' = edgeAt s k e' := rfl
@[simp] theorem edgeAt_modFarrier (g : Farrier → Farrier) (k e' : Nat) : edgeAt (modFarrier s g) k e' = edgeAt s k e' := rfl

/-! ### The unit that was written, and another one -/

theorem fieldAt_modField_same (f : Nat) (g : Field → Field) (h : f < s.fields.length) :
    fieldAt (modField s f g) f = g (fieldAt s f) := getD_modify_same _ _ _ _ h

theorem fieldAt_modField_other {f k : Nat} (g : Field → Field) (h : f ≠ k) : fieldAt (modField s f g) k = fieldAt s k :=
  getD_modify_other _ _ _ h

theorem regionAt_modRegion_same (r : Nat) (g : Region → Region) (h : r < s.regions.length) :
    regionAt (modRegion s r g) r = g (regionAt s r) := getD_modify_same _ _ _ _ h

theorem regionAt_modRegion_other {r k : Nat} (g : Region → Region) (h : r ≠ k) :
    regionAt (modRegion s r g) k = regionAt s k := getD_modify_other _ _ _ h

theorem stackAt_modStack_same (m : Nat) (g : Stack → Stack) (h : m < s.memStacks.length) :
    stackAt (modStack s m g) m = g (stackAt s m) := getD_modify_same _ _ _ _ h

theorem stackAt_modStack_other {m k : Nat} (g : Stack → Stack) (h : m ≠ k) :
    stackAt (modStack s m g) k = stackAt s k := getD_modify_other _ _ _ h

theorem linkAt_modLink_same (l : Nat) (g : Link → Link) (h : l < s.lnk.links.length) :
    linkAt (modLink s l g) l = g (linkAt s l) := getD_modify_same _ _ _ _ h

theorem linkAt_modLink_other {l k : Nat} (g : Link → Link) (h : l ≠ k) : linkAt (modLink s l g) k = linkAt s k :=
  getD_modify_other _ _ _ h

theorem ringAt_modRing_same (r : Nat) (g : Ring → Ring) (h : r < s.hst.rings.length) :
    ringAt (modRing s r g) r = g (ringAt s r) := getD_modify_same _ _ _ _ h

theorem ringAt_modRing_other {r k : Nat} (g : Ring → Ring) (h : r ≠ k) : ringAt (modRing s r g) k = ringAt s k :=
  getD_modify_other _ _ _ h

theorem ctlAt_modCtl_same (b : Blk) (g : BlockCtl → BlockCtl) (h : blkNum b < s.blocks.length) :
    ctlAt (modCtl s b g) b = g (ctlAt s b) := getD_modify_same _ _ _ _ h

theorem ctlAt_modCtl_other {b k : Blk} (g : BlockCtl → BlockCtl) (h : b ≠ k) : ctlAt (modCtl s b g) k = ctlAt s k :=
  getD_modify_other _ _ _ (by cases b <;> cases k <;> simp_all [blkNum])

end Sys2Proof.Machine
end

