-- ==== Sys2Proof/Laws/Keeps.lean ====
section
/-!
SUPPORT. What every operation on the state keeps: the queue of waiting commands, and the invariant of Safety.lean. One
lemma per update, in the form in which updates are chained.
-/
namespace Sys2Proof.Machine

/-- From s to t the queue is untouched and the invariant is kept. -/
def Keeps (s t : State) : Prop := t.pending = s.pending ∧ (Inv s → Inv t)

variable {s t u : State}

theorem Keeps.refl (s : State) : Keeps s s := ⟨rfl, id⟩

theorem Keeps.trans (h : Keeps s t) (k : Keeps t u) : Keeps s u := ⟨k.1.trans h.1, fun i => k.2 (h.2 i)⟩

theorem Keeps.to (h : Keeps s t) (hp : u.pending = t.pending) (hi : Inv t → Inv u) : Keeps s u := h.trans ⟨hp, hi⟩

theorem Keeps.iteTest {c : Prop} [Decidable c] {a b : State} (ha : Keeps s a) (hb : Keeps s b) : Keeps s (if c then a else b) := by
  split <;> assumption

theorem Keeps.bCond {c : Bool} {a b : State} (ha : Keeps s a) (hb : Keeps s b) : Keeps s (bif c then a else b) := by
  cases c <;> assumption

theorem Keeps.foldl {α : Type} {f : State → α → State} (l : List α) (hf : ∀ (v : State) (x : α), Keeps s v → Keeps s (f v x))
    (h : Keeps s t) : Keeps s (l.foldl f t) := by
  induction l generalizing t with
  | nil => exact h
  | cons x l ih => exact ih (hf t x h)

/-! ### Lists of units -/

theorem forall_mem_modify {α : Type} {P : α → Prop} {l : List α} {i : Nat} {g : α → α} (h : ∀ x ∈ l, P x)
    (hg : ∀ x ∈ l, P x → P (g x)) : ∀ x ∈ l.modify i g, P x := by
  induction l generalizing i with
  | nil => cases i <;> simp
  | cons a l ih =>
    cases i with
    | zero =>
      simp only [List.modify_zero_cons, List.mem_cons, forall_eq_or_imp]
      exact ⟨hg a (by simp) (h a (by simp)), fun x hx => h x (by simp [hx])⟩
    | succ n =>
      simp only [List.modify_succ_cons, List.mem_cons, forall_eq_or_imp]
      exact ⟨h a (by simp), ih (fun x hx => h x (by simp [hx])) (fun x hx => hg x (by simp [hx]))⟩

theorem forall_mem_map {α β : Type} {P : α → Prop} {Q : β → Prop} {l : List α} {g : α → β} (h : ∀ x ∈ l, P x)
    (hg : ∀ x, P x → Q (g x)) : ∀ y ∈ l.map g, Q y := by
  intro y hy
  obtain ⟨x, hx, rfl⟩ := List.mem_map.1 hy
  exact hg x (h x hx)

theorem forall_mem_zipIdx_map {α β : Type} {P : α → Prop} {Q : β → Prop} {l : List α} {g : α × Nat → β} (h : ∀ x ∈ l, P x)
    (hg : ∀ x i, P x → Q (g (x, i))) : ∀ y ∈ l.zipIdx.map g, Q y := by
  intro y hy
  obtain ⟨⟨x, i⟩, hx, rfl⟩ := List.mem_map.1 hy
  exact hg x i (h x (List.fst_mem_of_mem_zipIdx hx))

/-! ### One block at a time -/

theorem Keeps.modField {f : Nat} {g : Field → Field} (h : Keeps s t) (hg : Inv t → ∀ x ∈ t.fields, FieldOk x → FieldOk (g x)) :
    Keeps s (modField t f g) :=
  h.to rfl fun i =>
    { i with
      fieldCount := by simpa [Machine.modField] using i.fieldCount
      fields := forall_mem_modify i.fields (hg i) }

theorem Keeps.modRegion {r : Nat} {g : Region → Region} (h : Keeps s t)
    (hg : Inv t → ∀ x ∈ t.regions, RegionOk x → RegionOk (g x)) : Keeps s (modRegion t r g) :=
  h.to rfl fun i =>
    { i with
      regionCount := by simpa [Machine.modRegion] using i.regionCount
      regions := forall_mem_modify i.regions (hg i) }

theorem Keeps.modStack {m : Nat} {g : Stack → Stack} (h : Keeps s t)
    (hg : Inv t → ∀ x ∈ t.memStacks, StackOk x → StackOk (g x)) : Keeps s (modStack t m g) :=
  h.to rfl fun i =>
    { i with
      stackCount := by simpa [Machine.modStack] using i.stackCount
      memStacks := forall_mem_modify i.memStacks (hg i) }

theorem Keeps.modLink {l : Nat} {g : Link → Link} (h : Keeps s t)
    (hg : Inv t → ∀ x ∈ t.lnk.links, LinkOk x → LinkOk (g x)) : Keeps s (modLink t l g) :=
  h.to rfl fun i =>
    { i with
      lnk :=
        { i.lnk with
          linkCount := by simpa [Machine.modLink] using i.lnk.linkCount
          links := forall_mem_modify i.lnk.links (hg i) } }

theorem Keeps.modRing {r : Nat} {g : Ring → Ring} (h : Keeps s t) : Keeps s (modRing t r g) :=
  h.to rfl fun i => { i with hst := { i.hst with ringCount := by simpa [Machine.modRing] using i.hst.ringCount } }

theorem Keeps.modEdge {f e : Nat} {g : Edge → Edge} (h : Keeps s t) (hg : ∀ x, EdgeOk x → EdgeOk (g x)) :
    Keeps s (modEdge t f e g) :=
  h.modField fun _ _ _ k =>
    { k with
      edgeCount := by simpa using k.edgeCount
      edges := forall_mem_modify k.edges fun x _ hx => hg x hx }

theorem Keeps.modCtl {b : Blk} {g : BlockCtl → BlockCtl} (h : Keeps s t)
    (hg : Inv t → ∀ x ∈ t.blocks, BlockOk x → BlockOk (g x)) : Keeps s (modCtl t b g) :=
  h.to rfl fun i =>
    { i with
      blockCount := by simpa [Machine.modCtl] using i.blockCount
      blocks := forall_mem_modify i.blocks (hg i) }

theorem forall_mem_modify_at {α : Type} {P : α → Prop} {l : List α} {i : Nat} {g : α → α} (d : α) (h : ∀ x ∈ l, P x)
    (hg : i < l.length → P (g (l.getD i d))) : ∀ x ∈ l.modify i g, P x := by
  intro x hx
  obtain ⟨j, hj, rfl⟩ := List.getElem_of_mem hx
  have hj' : j < l.length := by simpa using hj
  rw [List.getElem_modify]
  split
  · next e =>
    subst e
    simpa [List.getD_eq_getElem?_getD, hj'] using hg hj'
  · exact h _ (List.getElem_mem hj')

/-- One block's common registers, what they hold being known. -/
theorem Keeps.modCtlAt {b : Blk} {g : BlockCtl → BlockCtl} (h : Keeps s t) (hg : Inv t → BlockOk (g (ctlAt t b))) :
    Keeps s (Machine.modCtl t b g) :=
  h.to rfl fun i =>
    { i with
      blockCount := by simpa [Machine.modCtl] using i.blockCount
      blocks := forall_mem_modify_at _ i.blocks fun _ => hg i }

theorem Keeps.modMaster {g : Master → Master} (h : Keeps s t) (hg : Inv t → MasterOk (g t.master)) : Keeps s (modMaster t g) :=
  h.to rfl fun i => { i with master := hg i }

theorem Keeps.modMasterAny {g : Master → Master} (h : Keeps s t) (hg : ∀ x, MasterOk x → MasterOk (g x)) : Keeps s (Machine.modMaster t g) :=
  h.modMaster fun i => hg _ i.master

theorem Keeps.modGlb {g : Glb → Glb} (h : Keeps s t) (hg : Inv t → GlbOk (g t.glb)) : Keeps s (modGlb t g) :=
  h.to rfl fun i => { i with glb := hg i }

theorem Keeps.modGlbAny {g : Glb → Glb} (h : Keeps s t) (hg : ∀ x, GlbOk x → GlbOk (g x)) : Keeps s (Machine.modGlb t g) :=
  h.modGlb fun i => hg _ i.glb

theorem Keeps.modPwr {g : Power → Power} (h : Keeps s t) (hg : Inv t → PowerOk (g t.pwr)) : Keeps s (modPwr t g) :=
  h.to rfl fun i => { i with pwr := hg i }

theorem Keeps.modPwrAny {g : Power → Power} (h : Keeps s t) (hg : ∀ x, PowerOk x → PowerOk (g x)) : Keeps s (Machine.modPwr t g) :=
  h.modPwr fun i => hg _ i.pwr

theorem Keeps.modClk {g : Clock → Clock} (h : Keeps s t) : Keeps s (modClk t g) := h.to rfl fun i => { i with }

theorem Keeps.modHst {g : Hst → Hst} (h : Keeps s t) (hg : Inv t → HstOk (g t.hst)) : Keeps s (modHst t g) :=
  h.to rfl fun i => { i with hst := hg i }

theorem Keeps.modHstAny {g : Hst → Hst} (h : Keeps s t) (hg : ∀ x, HstOk x → HstOk (g x)) : Keeps s (Machine.modHst t g) :=
  h.modHst fun i => hg _ i.hst

theorem Keeps.modNa {g : Adapter → Adapter} (h : Keeps s t) (hg : Inv t → AdapterOk (g t.na)) : Keeps s (modNa t g) :=
  h.to rfl fun i => { i with na := hg i }

theorem Keeps.modNaAny {g : Adapter → Adapter} (h : Keeps s t) (hg : ∀ x, AdapterOk x → AdapterOk (g x)) : Keeps s (Machine.modNa t g) :=
  h.modNa fun i => hg _ i.na

theorem Keeps.modSec {g : Sec → Sec} (h : Keeps s t) (hg : Inv t → SecOk (g t.sec)) : Keeps s (modSec t g) :=
  h.to rfl fun i => { i with sec := hg i }

theorem Keeps.modSecAny {g : Sec → Sec} (h : Keeps s t) (hg : ∀ x, SecOk x → SecOk (g x)) : Keeps s (Machine.modSec t g) :=
  h.modSec fun i => hg _ i.sec

theorem Keeps.modSide {g : Side → Side} (h : Keeps s t) : Keeps s (modSide t g) := h.to rfl fun i => { i with }

theorem Keeps.modBoot {g : Boot → Boot} (h : Keeps s t) : Keeps s (modBoot t g) := h.to rfl fun i => { i with }

theorem Keeps.modLnk {g : Lnk → Lnk} (h : Keeps s t) (hg : Inv t → LnkOk (g t.lnk)) : Keeps s (modLnk t g) :=
  h.to rfl fun i => { i with lnk := hg i }

theorem Keeps.modLnkAny {g : Lnk → Lnk} (h : Keeps s t) (hg : ∀ x, LnkOk x → LnkOk (g x)) : Keeps s (Machine.modLnk t g) :=
  h.modLnk fun i => hg _ i.lnk

theorem Keeps.modFarrier {g : Farrier → Farrier} (h : Keeps s t) : Keeps s (modFarrier t g) := h.to rfl fun i => { i with }

/-! ### Every unit at once -/

theorem Keeps.mapRegions {f : Region → Region} (h : Keeps s t) (hf : ∀ x, RegionOk x → RegionOk (f x)) :
    Keeps s { t with regions := t.regions.map f } :=
  h.to rfl fun i =>
    { i with
      regionCount := by simpa using i.regionCount
      regions := forall_mem_map i.regions hf }

theorem Keeps.mapFields {f : Field → Field} (h : Keeps s t) (hf : ∀ x, FieldOk x → FieldOk (f x)) :
    Keeps s { t with fields := t.fields.map f } :=
  h.to rfl fun i =>
    { i with
      fieldCount := by simpa using i.fieldCount
      fields := forall_mem_map i.fields hf }

theorem Keeps.mapStacks {f : Stack → Stack} (h : Keeps s t) (hf : ∀ x, StackOk x → StackOk (f x)) :
    Keeps s { t with memStacks := t.memStacks.map f } :=
  h.to rfl fun i =>
    { i with
      stackCount := by simpa using i.stackCount
      memStacks := forall_mem_map i.memStacks hf }

/-! ### Answers -/

/-- Every next state an answer gives keeps. -/
structure ResKeeps (s : State) (r : Res) : Prop where
  keeps : ∀ t, r = .next t → Keeps s t

theorem ResKeeps.next (h : Keeps s t) : ResKeeps s (.next t) := ⟨by rintro _ ⟨⟩; exact h⟩

theorem ResKeeps.fault (e : Fault) : ResKeeps s (.fault e) := ⟨by rintro _ ⟨⟩⟩

theorem ResKeeps.iteTest {c : Prop} [Decidable c] {a b : Res} (ha : ResKeeps s a) (hb : ResKeeps s b) :
    ResKeeps s (if c then a else b) := by
  split <;> assumption

theorem ResKeeps.onUnit {ok : Bool} (h : Keeps s t) : ResKeeps s (onUnit ok t) := .iteTest (.next h) (.fault _)

/-! ### Bounds -/

theorem capAdd_le (top n d : Nat) : capAdd top n d ≤ top := by
  unfold capAdd
  split <;> omega

end Sys2Proof.Machine
end

