-- ==== Sys2Proof/Laws/KeepsOps.lean ====
section
/-!
SUPPORT. One lemma for each operation of memory, records, weave, placement, tiles and collectives: it keeps the waiting queue
and the invariant of Safety.lean (Laws/Keeps.lean).
-/
namespace Sys2Proof.Machine

/-! ### Machine/Ops.lean -/

theorem stale_append {l : List Interval} (h : l.length < 64) (x : Interval) : (l ++ [x]).length ≤ 64 := by
  rw [List.length_append, List.length_singleton]
  omega

theorem studUnit_life (i : Inv t) (k : UnitKind) (n : Nat) : (studUnit t k n).life ≤ top16 := by
  unfold studUnit
  cases hf : t.stud.units.find? (fun u => decide (u.kind = k) && decide (u.index = n)) with
  | none => simp
  | some u => simpa using i.stud.units u (List.mem_of_find?_eq_some hf)

theorem unitPut_keeps {s t : State} (h : Keeps s t) (u : StudUnit) (hu : Inv t → u.life ≤ top16) : Keeps s (unitPut t u) :=
  h.to rfl fun i =>
    { i with
      stud :=
        { i.stud with
          units := by
            intro x hx
            rcases List.mem_cons.1 hx with rfl | hx
            · exact hu i
            · exact i.stud.units x (List.mem_filter.1 hx).1 } }

theorem studPut_keeps {s t : State} (h : Keeps s t) (u : StudUnit) (hu : Inv t → u.life ≤ top16) : Keeps s (studPut t u) :=
  unitPut_keeps h (bothCopies u) hu

theorem SyncOk.tail {p : Nat × Word64} {l : List (Nat × Word64)} (h : SyncOk (p :: l)) : SyncOk l := by
  cases l with
  | nil => trivial
  | cons q l => exact h.2.2

theorem SyncOk.cons {p : Nat × Word64} {l : List (Nat × Word64)} (hp : p.2 ≠ 0) (hl : SyncOk l) (hq : ∀ q ∈ l, p.1 < q.1) :
    SyncOk (p :: l) := by
  cases l with
  | nil => exact hp
  | cons q l => exact ⟨hp, hq q (by simp), hl⟩

theorem SyncOk.head {p : Nat × Word64} {l : List (Nat × Word64)} (h : SyncOk (p :: l)) : p.2 ≠ 0 ∧ ∀ q ∈ l, p.1 < q.1 := by
  induction l generalizing p with
  | nil => exact ⟨h, by simp⟩
  | cons q l ih =>
    refine ⟨h.1, fun x hx => ?_⟩
    rcases List.mem_cons.1 hx with rfl | hx
    · exact h.2.1
    · exact Nat.lt_trans h.2.1 ((ih h.2.2).2 x hx)

theorem syncPut_mem {l : List (Nat × Word64)} {o : Nat} {v : Word64} {x : Nat × Word64} (hx : x ∈ syncPut l o v) :
    x ∈ l ∨ x = (o, v) := by
  induction l with
  | nil =>
    unfold syncPut at hx
    split at hx <;> simp_all
  | cons p l ih =>
    unfold syncPut at hx
    repeat' split at hx
    · rcases List.mem_cons.1 hx with rfl | hx
      · simp
      · rcases ih hx with h | h <;> simp [h]
    · simp [hx]
    · rcases List.mem_cons.1 hx with h | h <;> simp [h]
    · exact .inl hx
    · rcases List.mem_cons.1 hx with h | h
      · simp [h]
      · exact .inl h

theorem syncPut_ok {l : List (Nat × Word64)} (o : Nat) (v : Word64) (h : SyncOk l) : SyncOk (syncPut l o v) := by
  induction l with
  | nil =>
    unfold syncPut
    split
    · trivial
    · assumption
  | cons p l ih =>
    have hh := h.head
    unfold syncPut
    split
    · next hlt =>
      refine SyncOk.cons hh.1 (ih h.tail) fun q hq => ?_
      rcases syncPut_mem hq with hq | rfl
      · exact hh.2 q hq
      · exact hlt
    · next hge =>
      split
      · next he =>
        split
        · exact h.tail
        · next hv => exact SyncOk.cons hv h.tail fun q hq => he ▸ hh.2 q hq
      · split
        · exact h
        · next hne hv =>
          refine SyncOk.cons hv h fun q hq => ?_
          rcases List.mem_cons.1 hq with rfl | hq
          · show o < q.1
            omega
          · have := hh.2 q hq
            show o < q.1
            omega

theorem writeByte_keeps {s t : State} (h : Keeps s t) (a : Nat) (b : Byte) :
    Keeps s (writeByte t a b) := by
  unfold writeByte
  split
  · exact h.to rfl fun i => { i with host := memSet_wf _ _ i.host }
  · split
    · split
      · split
        · exact h.to rfl fun i => { i with spad := memSet_wf _ _ i.spad }
        · exact h
      · exact h
    · split
      · exact h.to rfl fun i => { i with dram := memSet_wf _ _ i.dram }
      · exact h

theorem writeCells_keeps {s t : State} (h : Keeps s t) (cells : List Host.Cell) :
    Keeps s (writeCells t cells) := by
  unfold writeCells
  repeat' (first
    | with_reducible assumption
    | intro _
    | with_reducible apply writeByte_keeps
    | with_reducible apply Keeps.foldl)

theorem hostMerge_keeps {s t : State} (h : Keeps s t) (cells : List Host.Cell) :
    Keeps s (hostMerge t cells) := by
  exact h.to rfl fun i => { i with host := memWrite_wf _ i.host }

theorem hostWrite_keeps {s t : State} (h : Keeps s t) (a : Nat) (bs : List Byte) :
    Keeps s (hostWrite t a bs) := by
  exact h.to rfl fun i => { i with host := memWrite_wf _ i.host }

theorem raiseMsix_keeps {s t : State} (h : Keeps s t) (v : Nat) :
    Keeps s (raiseMsix t v) := by
  unfold raiseMsix
  repeat' (first
    | with_reducible assumption
    | ((with_reducible change ∀ x, AdapterOk x → AdapterOk _); exact fun _ k => { k with })
    | intro _
    | with_reducible apply Keeps.modNaAny)

theorem postRecord64_keeps {s t : State} (h : Keeps s t) (ring : Nat) (body : List Byte) :
    Keeps s (postRecord64 t ring body) := by
  unfold postRecord64
  repeat' (first
    | with_reducible assumption
    | intro _
    | with_reducible apply hostWrite_keeps
    | with_reducible apply raiseMsix_keeps
    | with_reducible apply Keeps.modRing
    | dsimp only)

theorem postError_keeps {s t : State} (h : Keeps s t) (e : ErrRec) :
    Keeps s (postError t e) := by
  unfold postError
  dsimp only
  split
  · exact h.modGlb fun i => { i.glb with errDropped := capAdd_le _ _ _ }
  · exact postRecord64_keeps h _ _

theorem postEventAt_keeps {s t : State} (h : Keeps s t) (time : Word64) (code : Nat) (kind : UnitKind) (unit : Nat) (detail : Nat) :
    Keeps s (postEventAt t time code kind unit detail) := by
  unfold postEventAt
  dsimp only
  split
  · exact h.modHst fun i => { i.hst with evtDropped := capAdd_le _ _ _ }
  · exact postRecord64_keeps h _ _

theorem postEvent_keeps {s t : State} (h : Keeps s t) (code : Nat) (kind : UnitKind) (unit : Nat) (detail : Nat) :
    Keeps s (postEvent t code kind unit detail) := by
  unfold postEvent
  repeat' (first
    | with_reducible assumption
    | with_reducible apply postEventAt_keeps)

theorem repairs_keeps {s t : State} (h : Keeps s t) (l : List (UnitKind × Nat × Nat × Nat)) :
    Keeps s { t with stud := { t.stud with repairs := l } } :=
  h.to rfl fun i => { i with stud := { i.stud with } }

theorem noteRepairs_keeps {s t : State} (h : Keeps s t) (k : UnitKind) (i : Nat) (n : Nat) :
    Keeps s (noteRepairs t k i n) := by
  exact repairs_keeps h _

theorem noteOpening_keeps {s t : State} (h : Keeps s t) (r : Nat) :
    Keeps s (noteOpening t r) := by
  exact h.to rfl fun i => { i with stud := { i.stud with } }

theorem retireUnit_keeps {s t : State} (h : Keeps s t) (k : UnitKind) (i : Nat) (reason : Byte) :
    Keeps s (retireUnit t k i reason) := by
  unfold retireUnit
  split
  · exact h
  · exact postEvent_keeps (studPut_keeps h _ fun y => by exact studUnit_life y k i) _ _ _ _

theorem recordFault_keeps {s t : State} (h : Keeps s t) (k : UnitKind) (i : Nat) (reason : Byte) :
    Keeps s (recordFault t k i reason) := by
  unfold recordFault
  dsimp only
  have ht := studPut_keeps h { studUnit t k i with faults := lifeTime t :: recentFaults t (studUnit t k i), life := capAdd top16 (studUnit t k i).life 1 } fun _ => capAdd_le _ _ _
  split
  · exact retireUnit_keeps ht _ _ _
  · exact ht

theorem recordFaultOnly_keeps {s t : State} (h : Keeps s t) (k : UnitKind) (i : Nat) :
    Keeps s (recordFaultOnly t k i) := by
  exact studPut_keeps h _ fun _ => capAdd_le _ _ _

theorem modTiles_keeps {s t : State} (h : Keeps s t) (f : Tile → Tile) :
    Keeps s (modTiles t f) := by
  unfold modTiles
  repeat' (first
    | with_reducible assumption
    | ((with_reducible change ∀ x, MasterOk x → MasterOk _); exact fun _ k => k)
    | intro _
    | with_reducible apply Keeps.modMasterAny)

theorem modTile_keeps {s t : State} (h : Keeps s t) (id : Nat) (f : Tile → Tile) :
    Keeps s (modTile t id f) := by
  unfold modTile
  repeat' (first
    | with_reducible assumption
    | with_reducible apply modTiles_keeps
    | with_reducible apply Keeps.iteTest
    | split)

theorem releaseStat_keeps {s t : State} (h : Keeps s t) (t' : Tile) :
    Keeps s (releaseStat t t') := by
  unfold releaseStat
  repeat' (first
    | with_reducible assumption
    | ((with_reducible change Inv _ → ∀ x, x ∈ _ → RegionOk x → RegionOk _); exact fun _ _ _ k => { k with })
    | intro _
    | with_reducible apply Keeps.modRegion)

theorem releaseStrm_keeps {s t : State} (h : Keeps s t) (t' : Tile) :
    Keeps s (releaseStrm t t') := by
  unfold releaseStrm
  repeat' (first
    | with_reducible assumption
    | ((with_reducible change Inv _ → ∀ x, x ∈ _ → RegionOk x → RegionOk _); exact fun _ _ _ k => { k with })
    | intro _
    | with_reducible apply Keeps.modRegion)

theorem releaseTile_keeps {s t : State} (h : Keeps s t) (t' : Tile) :
    Keeps s (releaseTile t t') := by
  unfold releaseTile
  repeat' (first
    | with_reducible assumption
    | with_reducible apply releaseStat_keeps
    | with_reducible apply releaseStrm_keeps
    | with_reducible apply Keeps.iteTest
    | split
    | dsimp only)

theorem refillOne_keeps {s t : State} (h : Keeps s t) (r : Nat) :
    Keeps s (refillOne t r) := by
  unfold refillOne
  repeat' (first
    | with_reducible assumption
    | ((with_reducible change Inv _ → ∀ x, x ∈ _ → FieldOk x → FieldOk _); exact fun _ _ _ k => { k with })
    | ((with_reducible change Inv _ → ∀ x, x ∈ _ → FieldOk x → FieldOk _); intro _ _ _ k; split <;> exact { k with })
    | ((with_reducible change Inv _ → ∀ x, x ∈ _ → RegionOk x → RegionOk _); exact fun _ _ _ k => { k with })
    | ((with_reducible change Inv _ → ∀ x, x ∈ _ → RegionOk x → RegionOk _); intro _ _ _ k; split <;> exact { k with })
    | intro _
    | with_reducible apply modTile_keeps
    | with_reducible apply Keeps.modField
    | with_reducible apply Keeps.modRegion
    | with_reducible apply Keeps.iteTest
    | ((with_reducible change FieldOk _); exact ‹FieldOk _›)
    | ((with_reducible change RegionOk _); exact ‹RegionOk _›)
    | exact Keeps.to h rfl fun i => { i with }
    | split
    | dsimp only)

theorem yieldPre_keeps {s t : State} (h : Keeps s t) (r : Nat) :
    Keeps s (yieldPre t r) := by
  unfold yieldPre
  repeat' (first
    | with_reducible assumption
    | ((with_reducible change Inv _ → ∀ x, x ∈ _ → RegionOk x → RegionOk _); exact fun _ _ _ k => { k with })
    | ((with_reducible change Inv _ → ∀ x, x ∈ _ → RegionOk x → RegionOk _); intro _ _ _ k; split <;> exact { k with })
    | ((with_reducible change ∀ x, MasterOk x → MasterOk _); exact fun _ k => k)
    | intro _
    | with_reducible apply releaseTile_keeps
    | with_reducible apply Keeps.modRegion
    | with_reducible apply Keeps.modMasterAny
    | with_reducible apply Keeps.foldl
    | with_reducible apply Keeps.iteTest
    | ((with_reducible change MasterOk _); exact ‹MasterOk _›)
    | ((with_reducible change RegionOk _); exact ‹RegionOk _›)
    | split
    | dsimp only)

theorem refillRegion_keeps {s t : State} (h : Keeps s t) (r : Nat) :
    Keeps s (refillRegion t r) := by
  unfold refillRegion
  repeat' (first
    | with_reducible assumption
    | with_reducible apply refillOne_keeps
    | with_reducible apply yieldPre_keeps
    | with_reducible apply Keeps.iteTest
    | split
    | dsimp only)

theorem refillAll_keeps {s t : State} (h : Keeps s t) :
    Keeps s (refillAll t) := by
  unfold refillAll
  repeat' (first
    | with_reducible assumption
    | intro _
    | with_reducible apply refillRegion_keeps
    | with_reducible apply Keeps.foldl
    | dsimp only)

theorem sweepQueues_keeps {s t : State} (h : Keeps s t) :
    Keeps s (sweepQueues t) := by
  exact h.mapRegions fun _ k => { k with }

theorem keepTiles_keeps {s t : State} (h : Keeps s t) (keep : Tile → Bool) (keepPre : Tile → Bool) :
    Keeps s (keepTiles t keep keepPre) := by
  unfold keepTiles
  repeat' (first
    | with_reducible assumption
    | ((with_reducible change ∀ x, MasterOk x → MasterOk _); exact fun _ k => k)
    | intro _
    | with_reducible apply refillAll_keeps
    | with_reducible apply releaseTile_keeps
    | with_reducible apply sweepQueues_keeps
    | with_reducible apply Keeps.modMasterAny
    | with_reducible apply Keeps.foldl
    | dsimp only)

theorem dropPre_keeps {s t : State} (h : Keeps s t) :
    Keeps s (dropPre t) := by
  unfold dropPre
  repeat' (first
    | with_reducible assumption
    | ((with_reducible change ∀ x, MasterOk x → MasterOk _); exact fun _ k => k)
    | intro _
    | with_reducible apply keepTiles_keeps
    | with_reducible apply Keeps.modMasterAny)

theorem dropPreSel_keeps {s t : State} (h : Keeps s t) :
    Keeps s (dropPreSel t) := by
  unfold dropPreSel
  repeat' (first
    | with_reducible assumption
    | ((with_reducible change ∀ x, MasterOk x → MasterOk _); exact fun _ k => k)
    | intro _
    | with_reducible apply dropPre_keeps
    | with_reducible apply Keeps.modMasterAny)

theorem setColl_keeps {s t : State} (h : Keeps s t) (k : Nat × Nat × Nat) (n : Nat) :
    Keeps s (setColl t k n) := by
  unfold setColl
  repeat' (first
    | with_reducible assumption
    | ((with_reducible change ∀ x, LnkOk x → LnkOk _); exact fun _ k => { k with })
    | intro _
    | with_reducible apply Keeps.modLnkAny)

theorem uncount_keeps {s t : State} (h : Keeps s t) (o : Op) :
    Keeps s (uncount t o) := by
  unfold uncount
  repeat' (first
    | with_reducible assumption
    | with_reducible apply setColl_keeps
    | split)

theorem dropRing_keeps {s t : State} (h : Keeps s t) (ring : Nat) :
    Keeps s (dropRing t ring) := by
  unfold dropRing
  repeat' (first
    | with_reducible assumption
    | ((with_reducible change ∀ x, MasterOk x → MasterOk _); exact fun _ k => k)
    | intro _
    | with_reducible apply dropPreSel_keeps
    | with_reducible apply uncount_keeps
    | with_reducible apply Keeps.modMasterAny
    | with_reducible apply Keeps.foldl
    | with_reducible apply Keeps.iteTest
    | ((with_reducible change MasterOk _); exact ‹MasterOk _›)
    | split
    | dsimp only)

theorem ringStops_keeps {s t : State} (h : Keeps s t) (ring : Nat) (status : Byte) (db : Bool) :
    Keeps s (ringStops t ring status db) := by
  unfold ringStops
  repeat' (first
    | with_reducible assumption
    | intro _
    | with_reducible apply dropRing_keeps
    | with_reducible apply Keeps.modRing)

theorem stopAllRings_keeps {s t : State} (h : Keeps s t) (status : Byte) :
    Keeps s (stopAllRings t status) := by
  unfold stopAllRings
  repeat' (first
    | with_reducible assumption
    | intro _
    | with_reducible apply ringStops_keeps
    | with_reducible apply Keeps.foldl
    | with_reducible apply Keeps.iteTest
    | split)

theorem enterStale_keeps {s t : State} (h : Keeps s t) (iv : Interval) :
    Keeps s (enterStale t iv) := by
  unfold enterStale
  dsimp only
  split
  · exact h
  · split
    · next hl => exact h.modMaster fun _ => stale_append hl _
    · exact postError_keeps (stopAllRings_keeps (h.modMaster fun i => i.master) _) _

theorem enterStales_keeps {s t : State} (h : Keeps s t) (ivs : List Interval) :
    Keeps s (enterStales t ivs) := by
  unfold enterStales
  repeat' (first
    | with_reducible assumption
    | intro _
    | with_reducible apply enterStale_keeps
    | with_reducible apply Keeps.foldl)

theorem clearStale_keeps {s t : State} (h : Keeps s t) (outs : List Interval) :
    Keeps s (clearStale t outs) := by
  exact h.modMaster fun i => Nat.le_trans (List.length_filter_le _ _) i.master

theorem markWaits_keeps {s t : State} (h : Keeps s t) (o : Nat) :
    Keeps s (markWaits t o) := by
  exact h.modHst fun i => { i.hst with ringCount := by simpa using i.hst.ringCount }

theorem syncRaw_keeps {s t : State} (h : Keeps s t) (o : Nat) (set : Bool) (v : Word64) :
    Keeps s (syncRaw t o set v) := by
  exact h.to rfl fun i => { i with sync := syncPut_ok _ _ i.sync }

theorem syncApply_keeps {s t : State} (h : Keeps s t) (o : Nat) (set : Bool) (v : Word64) :
    Keeps s (syncApply t o set v) := by
  unfold syncApply
  repeat' (first
    | with_reducible assumption
    | with_reducible apply markWaits_keeps
    | with_reducible apply syncRaw_keeps)

theorem applySignals_keeps {s t : State} (h : Keeps s t) (sigs : List Signal) :
    Keeps s (applySignals t sigs) := by
  unfold applySignals
  repeat' (first
    | with_reducible assumption
    | intro _
    | with_reducible apply markWaits_keeps
    | with_reducible apply syncRaw_keeps
    | with_reducible apply Keeps.foldl
    | dsimp only)

theorem postCompletion_keeps {s t : State} (h : Keeps s t) (ring : Nat) (c : Completion) :
    Keeps s (postCompletion t ring c) := by
  unfold postCompletion
  repeat' (first
    | with_reducible assumption
    | intro _
    | with_reducible apply hostWrite_keeps
    | with_reducible apply raiseMsix_keeps
    | with_reducible apply Keeps.modRing
    | dsimp only)

theorem postCompletions_keeps {s t : State} (h : Keeps s t) (ring : Nat) (cs : List Completion) :
    Keeps s (postCompletions t ring cs) := by
  unfold postCompletions
  repeat' (first
    | with_reducible assumption
    | intro _
    | with_reducible apply postCompletion_keeps
    | with_reducible apply Keeps.foldl)

theorem bumpFree_keeps {s t : State} (h : Keeps s t) :
    Keeps s (bumpFree t) := by
  exact h.to rfl fun i => { i with }

/-! ### Machine/Gaits.lean -/

theorem sampleRail_ok {x : Region} (time : Word64) (mv : Nat) (h : RegionOk x) : RegionOk (sampleRail time mv x) := by
  unfold sampleRail
  split
  · exact h
  · exact { h with }

theorem noneQueued (n : Nat) : ∀ q ∈ List.replicate n ([] : List (BitVec 256)), q.length ≤ 8 := by
  intro q hq
  rw [List.eq_of_mem_replicate hq]
  exact Nat.zero_le _

theorem fifoOf_len (s : State) (f d k n : Nat) : (fifoOf s f d k n).length ≤ 8 := by
  unfold fifoOf
  rw [List.length_map, List.length_range]
  exact Nat.min_le_left _ _

theorem queued {α : Type} (l : List α) (g : α → List (BitVec 256)) (hg : ∀ x, (g x).length ≤ 8) : ∀ q ∈ l.map g, q.length ≤ 8 := by
  intro q hq
  obtain ⟨x, -, rfl⟩ := List.mem_map.1 hq
  exact hg x

theorem EdgeOk.noFlits {e : Edge} (h : EdgeOk e) (f : Edge → Edge) (hr : (f e).replays = e.replays) (hs : (f e).slips = e.slips)
    (hf : (f e).fifo = List.replicate 32 []) : EdgeOk (f e) :=
  ⟨hr ▸ h.replays, hs ▸ h.slips, by rw [hf]; exact noneQueued 32⟩

theorem changeCrossing_keeps {s t : State} (h : Keeps s t) (f : Nat) (d : Nat) :
    Keeps s (changeCrossing t f d) := by
  unfold changeCrossing
  repeat' (first
    | with_reducible assumption
    | ((with_reducible change ∀ x, EdgeOk x → EdgeOk _); exact fun _ k => { k with })
    | ((with_reducible change ∀ x, EdgeOk x → EdgeOk _); intro _ k; split <;> exact { k with })
    | intro _
    | with_reducible apply Keeps.modEdge
    | with_reducible apply Keeps.iteTest
    | ((with_reducible change EdgeOk _); exact ‹EdgeOk _›)
    | exact Keeps.to h rfl fun i => { i with }
    | split
    | dsimp only)

theorem changeCrossings_keeps {s t : State} (h : Keeps s t) (f : Nat) :
    Keeps s (changeCrossings t f) := by
  unfold changeCrossings
  repeat' (first
    | with_reducible assumption
    | intro _
    | with_reducible apply changeCrossing_keeps
    | with_reducible apply Keeps.foldl)

theorem setGait_keeps {s t : State} (h : Keeps s t) (f : Nat) (g : Gait) :
    Keeps s (setGait t f g) := by
  unfold setGait
  repeat' (first
    | with_reducible assumption
    | ((with_reducible change Inv _ → ∀ x, x ∈ _ → FieldOk x → FieldOk _); exact fun _ _ _ k => { k with })
    | intro _
    | with_reducible apply changeCrossings_keeps
    | with_reducible apply Keeps.modField
    | with_reducible apply Keeps.iteTest
    | ((with_reducible change FieldOk _); exact ‹FieldOk _›)
    | split)

theorem dropGait_keeps {s t : State} (h : Keeps s t) (f : Nat) :
    Keeps s (dropGait t f) := by
  unfold dropGait
  repeat' (first
    | with_reducible assumption
    | ((with_reducible change Inv _ → ∀ x, x ∈ _ → FieldOk x → FieldOk _); exact fun _ _ _ k => { k with })
    | ((with_reducible change Inv _ → ∀ x, x ∈ _ → FieldOk x → FieldOk _); intro _ _ _ k; split <;> exact { k with })
    | intro _
    | with_reducible apply setGait_keeps
    | with_reducible apply Keeps.modField
    | with_reducible apply Keeps.iteTest
    | ((with_reducible change FieldOk _); exact ‹FieldOk _›)
    | split
    | dsimp only)

theorem dropAll_keeps {s t : State} (h : Keeps s t) :
    Keeps s (dropAll t) := by
  unfold dropAll
  repeat' (first
    | with_reducible assumption
    | intro _
    | with_reducible apply dropGait_keeps
    | with_reducible apply Keeps.foldl)

theorem startRise_keeps {s t : State} (h : Keeps s t) (f : Nat) :
    Keeps s (startRise t f) := by
  unfold startRise
  repeat' (first
    | with_reducible assumption
    | ((with_reducible change Inv _ → ∀ x, x ∈ _ → FieldOk x → FieldOk _); exact fun _ _ _ k => { k with })
    | intro _
    | with_reducible apply Keeps.modField
    | with_reducible apply Keeps.iteTest
    | ((with_reducible change FieldOk _); exact ‹FieldOk _›)
    | split
    | dsimp only)

theorem copyGtc_keeps {s t : State} (h : Keeps s t) :
    Keeps s (copyGtc t) := by
  unfold copyGtc
  dsimp only
  with_reducible apply Keeps.modClk
  exact Keeps.mapFields h fun _ k => by split <;> exact { k with }

theorem passBeats_keeps {s t : State} (h : Keeps s t) (f : Nat) :
    Keeps s (passBeats t f) := by
  unfold passBeats
  repeat' (first
    | with_reducible assumption
    | ((with_reducible change Inv _ → ∀ x, x ∈ _ → FieldOk x → FieldOk _); exact fun _ _ _ k => { k with })
    | intro _
    | with_reducible apply bumpFree_keeps
    | with_reducible apply Keeps.modField
    | with_reducible apply Keeps.iteTest
    | ((with_reducible change FieldOk _); exact ‹FieldOk _›)
    | split)

theorem noteRail_keeps {s t : State} (h : Keeps s t) (r : Nat) (mv : Nat) (age : Nat := 0) :
    Keeps s (noteRail t r mv age) := by
  unfold noteRail
  repeat' (first
    | with_reducible assumption
    | ((with_reducible change Inv _ → ∀ x, x ∈ _ → RegionOk x → RegionOk _); exact fun _ _ _ k => { k with })
    | exact fun _ _ _ k => sampleRail_ok _ _ k
    | intro _
    | with_reducible apply passBeats_keeps
    | with_reducible apply Keeps.modRegion
    | with_reducible apply Keeps.iteTest
    | ((with_reducible change RegionOk _); exact ‹RegionOk _›)
    | split
    | dsimp only)

theorem postFieldEvent_keeps {s t : State} (h : Keeps s t) (f : Nat) (code : Nat) (kind : UnitKind) (unit : Nat) (detail : Nat) :
    Keeps s (postFieldEvent t f code kind unit detail) := by
  unfold postFieldEvent
  repeat' (first
    | with_reducible assumption
    | with_reducible apply passBeats_keeps
    | with_reducible apply postEventAt_keeps
    | dsimp only)

/-! ### Machine/Accept.lean -/

theorem startGroup_keeps {s t : State} (h : Keeps s t) :
    Keeps s (startGroup t) := by
  unfold startGroup
  repeat' (first
    | with_reducible assumption
    | ((with_reducible change ∀ x, MasterOk x → MasterOk _); exact fun _ k => k)
    | intro _
    | with_reducible apply Keeps.modMasterAny)

/-! ### Machine/Banks.lean -/

theorem bits_within (a b : BitVec 32) : a &&& b &&& b = a &&& b := by rw [BitVec.and_assoc, BitVec.and_self]

theorem dropBanks_keeps {s t : State} (h : Keeps s t) (r : Nat) (keep : BitVec 32) :
    Keeps s (dropBanks t r keep) := by
  unfold dropBanks
  exact h.to rfl fun i => { i with spad := by dsimp only; exact memKeep_wf _ i.spad }

theorem updBanks_keeps {s t : State} (h : Keeps s t) (r : Nat) :
    Keeps s (updBanks t r) := by
  unfold updBanks
  repeat' (first
    | with_reducible assumption
    | ((with_reducible change Inv _ → ∀ x, x ∈ _ → RegionOk x → RegionOk _); exact fun _ _ _ k => { k with })
    | exact fun _ _ _ k => { k with bankReady := bits_within _ _ }
    | intro _
    | with_reducible apply dropBanks_keeps
    | with_reducible apply Keeps.modRegion
    | dsimp only)

theorem updAllBanks_keeps {s t : State} (h : Keeps s t) :
    Keeps s (updAllBanks t) := by
  unfold updAllBanks
  repeat' (first
    | with_reducible assumption
    | intro _
    | with_reducible apply updBanks_keeps
    | with_reducible apply Keeps.foldl)

theorem regionOff_keeps {s t : State} (h : Keeps s t) (r : Nat) :
    Keeps s (regionOff t r) := by
  unfold regionOff
  repeat' (first
    | with_reducible assumption
    | ((with_reducible change Inv _ → ∀ x, x ∈ _ → RegionOk x → RegionOk _); exact fun _ _ _ k => { k with })
    | exact fun _ _ _ k => { k with bankReady := by simp }
    | intro _
    | with_reducible apply dropBanks_keeps
    | with_reducible apply Keeps.modRegion)

theorem setSlot_keeps {s t : State} (h : Keeps s t) (k : Nat) (x : Slot) :
    Keeps s (setSlot t k x) := by
  exact h.to rfl fun i => { i with slots := by simpa [setSlot] using i.slots }

theorem leaveSlot_keeps {s t : State} (h : Keeps s t) (r : Nat) :
    Keeps s (leaveSlot t r) := by
  unfold leaveSlot
  repeat' (first
    | with_reducible assumption
    | with_reducible apply enterStale_keeps
    | with_reducible apply enterStales_keeps
    | with_reducible apply setSlot_keeps
    | split
    | dsimp only)

theorem markBad_keeps {s t : State} (h : Keeps s t) (a : Nat) :
    Keeps s (markBad t a) := by
  unfold markBad
  repeat' (first
    | with_reducible assumption
    | with_reducible apply Keeps.iteTest
    | exact Keeps.to h rfl fun i => { i with }
    | split)

theorem queueRetrain_keeps {s t : State} (h : Keeps s t) (m : Nat) :
    Keeps s (queueRetrain t m) := by
  unfold queueRetrain
  repeat' (first
    | with_reducible assumption
    | ((with_reducible change ∀ x, GlbOk x → GlbOk _); exact fun _ k => { k with })
    | intro _
    | with_reducible apply Keeps.modGlbAny
    | with_reducible apply Keeps.iteTest
    | ((with_reducible change GlbOk _); exact ‹GlbOk _›)
    | split)

theorem stackUncorr_keeps {s t : State} (h : Keeps s t) (m : Nat) :
    Keeps s (stackUncorr t m) := by
  unfold stackUncorr
  repeat' (first
    | with_reducible assumption
    | ((with_reducible change Inv _ → ∀ x, x ∈ _ → StackOk x → StackOk _); exact fun _ _ _ k => { k with })
    | exact fun _ _ _ k => { k with eccUncorr := capAdd_le _ _ _ }
    | intro _
    | with_reducible apply recordFault_keeps
    | with_reducible apply Keeps.modStack
    | with_reducible apply Keeps.iteTest
    | ((with_reducible change StackOk _); exact ‹StackOk _›)
    | split
    | dsimp only)

theorem bankFault_keeps {s t : State} (h : Keeps s t) (r : Nat) (bank : Nat) :
    Keeps s (bankFault t r bank) := by
  unfold bankFault
  repeat' (first
    | with_reducible assumption
    | ((with_reducible change Inv _ → ∀ x, x ∈ _ → RegionOk x → RegionOk _); exact fun _ _ _ k => { k with })
    | intro _
    | with_reducible apply recordFault_keeps
    | with_reducible apply Keeps.modRegion
    | with_reducible apply Keeps.iteTest
    | ((with_reducible change RegionOk _); exact ‹RegionOk _›)
    | split
    | dsimp only)

theorem countBad_keeps {s t : State} (h : Keeps s t) (a : Nat) :
    Keeps s (countBad t a) := by
  unfold countBad
  repeat' (first
    | with_reducible assumption
    | with_reducible apply bankFault_keeps
    | with_reducible apply stackUncorr_keeps
    | with_reducible apply Keeps.iteTest
    | split)

theorem stackCorr_keeps {s t : State} (h : Keeps s t) (m : Nat) (pc : Nat) :
    Keeps s (stackCorr t m pc) := by
  unfold stackCorr
  repeat' (first
    | with_reducible assumption
    | ((with_reducible change Inv _ → ∀ x, x ∈ _ → StackOk x → StackOk _); exact fun _ _ _ k => { k with })
    | exact fun _ _ _ k => { k with eccCorr := capAdd_le _ _ _ }
    | intro _
    | with_reducible apply queueRetrain_keeps
    | with_reducible apply Keeps.modStack
    | with_reducible apply Keeps.iteTest
    | ((with_reducible change StackOk _); exact ‹StackOk _›)
    | split
    | dsimp only)

theorem bankCorrected_keeps {s t : State} (h : Keeps s t) (r : Nat) (bank : Nat) :
    Keeps s (bankCorrected t r bank) := by
  unfold bankCorrected
  repeat' (first
    | with_reducible assumption
    | ((with_reducible change Inv _ → ∀ x, x ∈ _ → RegionOk x → RegionOk _); exact fun _ _ _ k => { k with })
    | intro _
    | with_reducible apply bankFault_keeps
    | with_reducible apply Keeps.modRegion
    | with_reducible apply Keeps.iteTest
    | ((with_reducible change RegionOk _); exact ‹RegionOk _›)
    | split
    | dsimp only)

theorem noteCorrected_keeps {s t : State} (h : Keeps s t) (a : Nat) :
    Keeps s (noteCorrected t a) := by
  unfold noteCorrected
  repeat' (first
    | with_reducible assumption
    | with_reducible apply bankCorrected_keeps
    | with_reducible apply stackCorr_keeps
    | with_reducible apply Keeps.iteTest
    | split)

theorem healUnits_keeps {s t : State} (h : Keeps s t) (addrs : List Nat) :
    Keeps s (healUnits t addrs) := by
  unfold healUnits
  repeat' (first
    | with_reducible assumption
    | exact Keeps.to h rfl fun i => { i with }
    | split)

theorem postReadErrs_keeps {s t : State} (h : Keeps s t) (addrs : List Nat) (op : Option (Word × Nat × Nat)) (merge : Bool) :
    Keeps s (postReadErrs t addrs op merge).1 := by
  unfold postReadErrs
  repeat' (first
    | with_reducible assumption
    | intro _
    | with_reducible apply postError_keeps
    | with_reducible apply Keeps.foldl
    | with_reducible apply Keeps.iteTest
    | split
    | dsimp only)

theorem keepBefore_keeps {s t : State} (h : Keeps s t) (addrs : List Nat) :
    Keeps s (keepBefore t addrs) := by
  unfold keepBefore
  repeat' (first
    | with_reducible assumption
    | with_reducible apply Keeps.iteTest
    | exact Keeps.to h rfl fun i => { i with }
    | split
    | dsimp only)

theorem noteReads_keeps {s t : State} (h : Keeps s t) (out : ReadOutcome) :
    Keeps s (noteReads t out) := by
  unfold noteReads
  repeat' (first
    | with_reducible assumption
    | intro _
    | with_reducible apply noteCorrected_keeps
    | with_reducible apply Keeps.foldl)

/-! ### Machine/Sched.lean -/

theorem Keeps.setDram {m : Mem} {s t : State} (h : Keeps s t) (hm : Inv t → Memory.wf m = true) : Keeps s { t with dram := m } :=
  h.to rfl fun i => { i with dram := hm i }

theorem modEntry_keeps {s t : State} (h : Keeps s t) (ring : Nat) (count : Word) (f : Entry → Entry) :
    Keeps s (modEntry t ring count f) := by
  unfold modEntry
  repeat' (first
    | with_reducible assumption
    | intro _
    | with_reducible apply Keeps.modRing
    | with_reducible apply Keeps.iteTest
    | split)

theorem endHead_keeps {s t : State} (h : Keeps s t) (ring : Nat) (members : List Entry) (status : Byte) (detail : Word) (gtc : Word64) :
    Keeps s (endHead t ring members status detail gtc) := by
  unfold endHead
  repeat' (first
    | with_reducible assumption
    | with_reducible apply postCompletions_keeps
    | with_reducible apply ringStops_keeps
    | with_reducible apply updAllBanks_keeps)

theorem passColls_keeps {s t : State} (h : Keeps s t) (es : List Entry) :
    Keeps s (passColls t es) := by
  unfold passColls
  repeat' (first
    | with_reducible assumption
    | intro _
    | with_reducible apply setColl_keeps
    | with_reducible apply Keeps.foldl
    | split)

theorem closeHead_keeps {s t : State} (h : Keeps s t) (ring : Nat) (members : List Entry) (status : Byte) (detail : Word) :
    Keeps s (closeHead t ring members status detail) := by
  unfold closeHead
  repeat' (first
    | with_reducible assumption
    | with_reducible apply endHead_keeps
    | with_reducible apply modEntry_keeps
    | with_reducible apply Keeps.iteTest
    | split)

theorem failHead_keeps {s t : State} (h : Keeps s t) (ring : Nat) (members : List Entry) (status : Byte) (detail : Word) :
    Keeps s (failHead t ring members status detail) := by
  unfold failHead
  repeat' (first
    | with_reducible assumption
    | exact fun _ i => dropPre_ok _ i
    | with_reducible apply closeHead_keeps
    | with_reducible apply passColls_keeps)

theorem settleHead_keeps {s t : State} (h : Keeps s t) (ring : Nat) :
    Keeps s (settleHead t ring) := by
  unfold settleHead
  repeat' (first
    | with_reducible assumption
    | with_reducible apply endHead_keeps
    | split)

theorem clearQueues_keeps {s t : State} (h : Keeps s t) :
    Keeps s (clearQueues t) := by
  exact h.mapRegions fun _ k => { k with }

theorem endAside_keeps {s t : State} (h : Keeps s t) (o : Op) (status : Byte) (detail : Word) :
    Keeps s (endAside t o status detail) := by
  unfold endAside
  repeat' (first
    | with_reducible assumption
    | ((with_reducible change ∀ x, MasterOk x → MasterOk _); exact fun _ k => k)
    | intro _
    | with_reducible apply closeHead_keeps
    | with_reducible apply enterStales_keeps
    | with_reducible apply Keeps.modMasterAny
    | with_reducible apply Keeps.iteTest
    | ((with_reducible change MasterOk _); exact ‹MasterOk _›)
    | split
    | dsimp only)

theorem endGroup_keeps {s t : State} (h : Keeps s t) (idx : Nat) (status : Byte) (detail : Word) :
    Keeps s (endGroup t idx status detail) := by
  unfold endGroup
  repeat' (first
    | with_reducible assumption
    | ((with_reducible change ∀ x, MasterOk x → MasterOk _); exact fun _ k => k)
    | intro _
    | with_reducible apply enterStales_keeps
    | with_reducible apply keepTiles_keeps
    | with_reducible apply passColls_keeps
    | with_reducible apply postCompletions_keeps
    | with_reducible apply ringStops_keeps
    | with_reducible apply updAllBanks_keeps
    | with_reducible apply Keeps.modMasterAny
    | with_reducible apply Keeps.iteTest
    | ((with_reducible change MasterOk _); exact ‹MasterOk _›)
    | split
    | dsimp only)

theorem abandon_keeps {s t : State} (h : Keeps s t) (status : Byte) (detail : Word) :
    Keeps s (abandon t status detail) := by
  unfold abandon
  repeat' (first
    | with_reducible assumption
    | with_reducible apply endGroup_keeps)

theorem abandonBad_keeps {s t : State} (h : Keeps s t) (addrs : List Nat) (merge : Bool) :
    Keeps s (abandonBad t addrs merge) := by
  unfold abandonBad
  repeat' (first
    | with_reducible assumption
    | intro _
    | with_reducible apply abandon_keeps
    | with_reducible apply countBad_keeps
    | with_reducible apply markBad_keeps
    | with_reducible apply postReadErrs_keeps
    | with_reducible apply Keeps.foldl
    | dsimp only)

theorem abandonUnitAt_keeps {s t : State} (h : Keeps s t) (idx : Nat) (kind : UnitKind) (unit : Nat) :
    Keeps s (abandonUnitAt t idx kind unit) := by
  unfold abandonUnitAt
  repeat' (first
    | with_reducible assumption
    | with_reducible apply endGroup_keeps
    | with_reducible apply postError_keeps
    | with_reducible apply Keeps.iteTest
    | split
    | dsimp only)

theorem abandonUnit_keeps {s t : State} (h : Keeps s t) (kind : UnitKind) (unit : Nat) :
    Keeps s (abandonUnit t kind unit) := by
  unfold abandonUnit
  repeat' (first
    | with_reducible assumption
    | with_reducible apply abandonUnitAt_keeps)

theorem abandonAside_keeps {s t : State} (h : Keeps s t) (o : Op) (kind : UnitKind) (unit : Nat) :
    Keeps s (abandonAside t o kind unit) := by
  unfold abandonAside
  repeat' (first
    | with_reducible assumption
    | with_reducible apply endAside_keeps
    | with_reducible apply postError_keeps
    | dsimp only)

theorem setOp_keeps {s t : State} (h : Keeps s t) (f : Op → Op) :
    Keeps s (setOp t f) := by
  unfold setOp
  repeat' (first
    | with_reducible assumption
    | ((with_reducible change ∀ x, MasterOk x → MasterOk _); exact fun _ k => k)
    | intro _
    | with_reducible apply Keeps.modMasterAny)

theorem accessMeets_keeps {s t : State} (h : Keeps s t) (access : AccessEnd) (merge : Bool) {out inside : State → State}
    (ho : ∀ u, Keeps s u → Keeps s (out u)) (hi : ∀ u, Keeps s u → Keeps s (inside u)) :
    Keeps s (accessMeets t access merge out inside) := by
  cases access with
  | ok => exact ho t h
  | waits => exact h
  | failed m => exact abandonUnit_keeps h _ _
  | bad addrs => exact abandonBad_keeps h _ _
  | bound => exact abandon_keeps (hi t h) _ _

theorem readNow_keeps {s t : State} (h : Keeps s t) (spans : List Interval) (reads : ReadOutcome) {after : State → State}
    (ha : ∀ u, Keeps s u → Keeps s (after u)) : Keeps s (readNow t spans reads after) :=
  accessMeets_keeps h _ _ (fun u k => ha _ (noteReads_keeps k reads)) fun _ k => k

theorem putCells_keeps {s t : State} (h : Keeps s t) (cells : List Host.Cell) (merge : ReadOutcome) :
    Keeps s (putCells t cells merge) := by
  unfold putCells
  repeat' (first
    | with_reducible assumption
    | with_reducible apply healUnits_keeps
    | with_reducible apply keepBefore_keeps
    | with_reducible apply noteReads_keeps
    | with_reducible apply writeCells_keeps
    | dsimp only)

theorem writeNow_keeps {s t : State} (h : Keeps s t) (cells : List Host.Cell) (merge : ReadOutcome) {after : State → State}
    (ha : ∀ u, Keeps s u → Keeps s (after u)) : Keeps s (writeNow t cells merge after) :=
  accessMeets_keeps h _ _ (fun _ k => ha _ (putCells_keeps k _ _)) fun _ k => putCells_keeps k _ _

theorem headUpdate_keeps {s t : State} (h : Keeps s t) (ring : Nat) :
    Keeps s (headUpdate t ring) := by
  unfold headUpdate
  repeat' (first
    | with_reducible assumption
    | with_reducible apply failHead_keeps
    | with_reducible apply modEntry_keeps
    | with_reducible apply Keeps.iteTest
    | split
    | dsimp only)

theorem updateHeads_keeps {s t : State} (h : Keeps s t) :
    Keeps s (updateHeads t) := by
  unfold updateHeads
  repeat' (first
    | with_reducible assumption
    | intro _
    | with_reducible apply headUpdate_keeps
    | with_reducible apply Keeps.foldl)

theorem selectNext_keeps {s t : State} (h : Keeps s t) :
    Keeps s (selectNext t) := by
  unfold selectNext
  repeat' (first
    | with_reducible assumption
    | ((with_reducible change ∀ x, MasterOk x → MasterOk _); exact fun _ k => k)
    | intro _
    | with_reducible apply Keeps.modMasterAny
    | ((with_reducible change MasterOk _); exact ‹MasterOk _›)
    | exact Keeps.to h rfl fun i => { i with }
    | split)

theorem jobBegins_keeps {s t : State} (h : Keeps s t) :
    Keeps s (jobBegins t) := by
  unfold jobBegins
  repeat' (first
    | with_reducible assumption
    | ((with_reducible change ∀ x, MasterOk x → MasterOk _); exact fun _ k => k)
    | ((with_reducible change ∀ x, GlbOk x → GlbOk _); exact fun _ k => { k with })
    | ((with_reducible change ∀ x, HstOk x → HstOk _); exact fun _ k => { k with })
    | exact fun _ i => { i with nanSquash := Nat.zero_le _ }
    | intro _
    | with_reducible apply Keeps.modMasterAny
    | with_reducible apply Keeps.modGlbAny
    | with_reducible apply Keeps.modHstAny
    | with_reducible apply Keeps.iteTest
    | ((with_reducible change GlbOk _); exact ‹GlbOk _›)
    | ((with_reducible change HstOk _); exact ‹HstOk _›)
    | ((with_reducible change MasterOk _); exact ‹MasterOk _›)
    | split
    | dsimp only)

theorem acceptance_keeps {s t : State} (h : Keeps s t) :
    Keeps s (acceptance t) := by
  unfold acceptance
  repeat' (first
    | with_reducible assumption
    | ((with_reducible change ∀ x, MasterOk x → MasterOk _); exact fun _ k => k)
    | intro _
    | with_reducible apply jobBegins_keeps
    | with_reducible apply Keeps.modMasterAny)

theorem openMember_keeps {s t : State} (h : Keeps s t) (idx : Nat) :
    Keeps s (openMember t idx) := by
  unfold openMember
  repeat' (first
    | with_reducible assumption
    | with_reducible apply startGroup_keeps
    | with_reducible apply Keeps.iteTest
    | split)

theorem takeMember_keeps {s t : State} (h : Keeps s t) (sel : Selection) (e : Entry) (o : Op) :
    Keeps s (takeMember t sel e o) := by
  unfold takeMember
  repeat' (first
    | with_reducible assumption
    | ((with_reducible change ∀ x, MasterOk x → MasterOk _); exact fun _ k => k)
    | intro _
    | with_reducible apply acceptance_keeps
    | with_reducible apply dropPre_keeps
    | with_reducible apply headUpdate_keeps
    | with_reducible apply modEntry_keeps
    | with_reducible apply updAllBanks_keeps
    | with_reducible apply Keeps.modMasterAny
    | ((with_reducible change MasterOk _); exact ‹MasterOk _›)
    | split
    | dsimp only)

theorem runRecord_keeps {s t : State} (h : Keeps s t) :
    Keeps s (runRecord t) := by
  unfold runRecord
  repeat' (first
    | with_reducible assumption
    | intro _
    | with_reducible apply setOp_keeps
    | with_reducible apply writeNow_keeps
    | with_reducible apply Keeps.iteTest
    | split)

theorem closeMember_keeps {s t : State} (h : Keeps s t) :
    Keeps s (closeMember t) := by
  unfold closeMember
  repeat' (first
    | with_reducible assumption
    | ((with_reducible change ∀ x, MasterOk x → MasterOk _); exact fun _ k => k)
    | intro _
    | with_reducible apply keepTiles_keeps
    | with_reducible apply runRecord_keeps
    | with_reducible apply updAllBanks_keeps
    | with_reducible apply Keeps.modMasterAny
    | with_reducible apply Keeps.iteTest
    | ((with_reducible change MasterOk _); exact ‹MasterOk _›)
    | split
    | dsimp only)

theorem advCommit_keeps {s t : State} (h : Keeps s t) (st : AdvStat) :
    Keeps s (advCommit t st) := by
  unfold advCommit
  refine Keeps.setDram h fun i => ?_
  exact memWrite_wf _ i.dram

theorem lastFlits (l : List Flit) (n : Nat) : (l.drop (l.length - n)).length ≤ n := by
  rw [List.length_drop]
  omega

theorem linkSends_ok {x : Link} (fs : List Flit) (k : LinkOk x) : LinkOk (linkSends fs x) :=
  { k with
    retry := by simp only [linkSends]; exact lastFlits (x.retry ++ fs) 256 }

theorem putFlits_keeps {s t : State} (h : Keeps s t) (fs : List (Nat × Flit)) :
    Keeps s (putFlits t fs) := by
  unfold putFlits
  refine Keeps.modSide (Keeps.modLnkAny h fun _ k => ?_)
  exact
    { k with
      linkCount := by simpa using k.linkCount
      links := forall_mem_zipIdx_map k.links fun _ _ y => linkSends_ok _ y }

theorem sendFlits_keeps {s t : State} (h : Keeps s t) (fs : List Flit) :
    Keeps s (sendFlits t fs) := by
  unfold sendFlits
  repeat' (first
    | with_reducible assumption
    | with_reducible apply putFlits_keeps)

theorem sendAdd_keeps {s t : State} (h : Keeps s t) (o : Op) :
    Keeps s (sendAdd t o) := by
  unfold sendAdd
  repeat' (first
    | with_reducible assumption
    | with_reducible apply sendFlits_keeps
    | with_reducible apply Keeps.iteTest
    | split)

theorem commitNow_keeps {s t : State} (h : Keeps s t) :
    Keeps s (commitNow t) := by
  unfold commitNow
  repeat' (first
    | with_reducible assumption
    | ((with_reducible change ∀ x, MasterOk x → MasterOk _); exact fun _ k => k)
    | intro _
    | with_reducible apply advCommit_keeps
    | with_reducible apply applySignals_keeps
    | with_reducible apply clearStale_keeps
    | with_reducible apply keepTiles_keeps
    | with_reducible apply postCompletions_keeps
    | with_reducible apply sendAdd_keeps
    | with_reducible apply settleHead_keeps
    | with_reducible apply updAllBanks_keeps
    | with_reducible apply Keeps.modMasterAny
    | with_reducible apply Keeps.foldl
    | ((with_reducible change MasterOk _); exact ‹MasterOk _›)
    | split
    | dsimp only)

/-! ### Machine/Tiles.lean -/

theorem drawTile_keeps {s t : State} (h : Keeps s t) (o : Op) (t' : Tile) (pre : Bool) :
    Keeps s (drawTile t o t' pre) := by
  unfold drawTile
  repeat' (first
    | with_reducible assumption
    | ((with_reducible change ∀ x, MasterOk x → MasterOk _); exact fun _ k => k)
    | ((with_reducible change ∀ x, GlbOk x → GlbOk _); exact fun _ k => { k with })
    | ((with_reducible change ∀ x, GlbOk x → GlbOk _); intro _ k; split <;> exact { k with })
    | exact fun _ i => { i with skipped := capAdd_le _ _ _ }
    | intro _
    | with_reducible apply Keeps.modMasterAny
    | with_reducible apply Keeps.modGlbAny
    | with_reducible apply Keeps.iteTest
    | ((with_reducible change GlbOk _); exact ‹GlbOk _›)
    | ((with_reducible change MasterOk _); exact ‹MasterOk _›)
    | exact Keeps.to h rfl fun i => { i with }
    | split
    | dsimp only)

theorem dealShares_keeps {s t : State} (h : Keeps s t) (o : Op) (shares : List Share) (pre : Bool) :
    Keeps s (dealShares t o shares pre) := by
  unfold dealShares
  repeat' (first
    | with_reducible assumption
    | ((with_reducible change ∀ x, MasterOk x → MasterOk _); exact fun _ k => k)
    | intro _
    | with_reducible apply drawTile_keeps
    | with_reducible apply Keeps.modMasterAny
    | with_reducible apply Keeps.foldl
    | dsimp only)

theorem leaveQueue_keeps {s t : State} (h : Keeps s t) (t' : Tile) :
    Keeps s (leaveQueue t t') := by
  unfold leaveQueue
  repeat' (first
    | with_reducible assumption
    | ((with_reducible change Inv _ → ∀ x, x ∈ _ → RegionOk x → RegionOk _); exact fun _ _ _ k => { k with })
    | intro _
    | with_reducible apply refillRegion_keeps
    | with_reducible apply Keeps.modRegion)

theorem yieldShadow_keeps {s t : State} (h : Keeps s t) (t' : Tile) :
    Keeps s (yieldShadow t t') := by
  unfold yieldShadow
  repeat' (first
    | with_reducible assumption
    | ((with_reducible change ∀ x, MasterOk x → MasterOk _); exact fun _ k => k)
    | intro _
    | with_reducible apply Keeps.modMasterAny
    | with_reducible apply Keeps.iteTest
    | ((with_reducible change MasterOk _); exact ‹MasterOk _›)
    | exact Keeps.to h rfl fun i => { i with }
    | split)

theorem loadShadow_keeps {s t : State} (h : Keeps s t) (o : Op) (t' : Tile) :
    Keeps s (loadShadow t o t') := by
  unfold loadShadow
  repeat' (first
    | with_reducible assumption
    | ((with_reducible change Inv _ → ∀ x, x ∈ _ → RegionOk x → RegionOk _); exact fun _ _ _ k => { k with })
    | intro _
    | with_reducible apply modTile_keeps
    | with_reducible apply yieldShadow_keeps
    | with_reducible apply Keeps.modRegion)

theorem advanceArray_keeps {s t : State} (h : Keeps s t) (r : Nat) :
    Keeps s (advanceArray t r) := by
  unfold advanceArray
  repeat' (first
    | with_reducible assumption
    | ((with_reducible change Inv _ → ∀ x, x ∈ _ → RegionOk x → RegionOk _); exact fun _ _ _ k => { k with })
    | intro _
    | with_reducible apply modTile_keeps
    | with_reducible apply releaseStat_keeps
    | with_reducible apply releaseStrm_keeps
    | with_reducible apply Keeps.modRegion
    | with_reducible apply Keeps.foldl
    | dsimp only)

theorem enterArray_keeps {s t : State} (h : Keeps s t) (o : Op) (t' : Tile) :
    Keeps s (enterArray t o t') := by
  unfold enterArray
  repeat' (first
    | with_reducible assumption
    | with_reducible apply advanceArray_keeps
    | with_reducible apply loadShadow_keeps
    | with_reducible apply Keeps.iteTest
    | split
    | dsimp only)

/-! ### Machine/Replace.lean -/

theorem publishWeave_keeps {s t : State} (h : Keeps s t) :
    Keeps s (publishWeave t) := by
  unfold publishWeave
  repeat' (first
    | with_reducible assumption
    | ((with_reducible change ∀ x, RegionOk x → RegionOk _); exact fun _ k => by first | exact { k with } | (split <;> exact { k with }))
    | ((with_reducible change ∀ x, GlbOk x → GlbOk _); exact fun _ k => { k with })
    | intro _
    | with_reducible apply Keeps.modGlbAny
    | with_reducible apply Keeps.mapRegions
    | exact Keeps.to h rfl fun i => { i with }
    | dsimp only)

theorem publishEvent_keeps {s t : State} (h : Keeps s t) :
    Keeps s (publishEvent t) := by
  unfold publishEvent
  repeat' (first
    | with_reducible assumption
    | with_reducible apply postEvent_keeps
    | with_reducible apply publishWeave_keeps
    | dsimp only)

theorem startRebuild_keeps {s t : State} (h : Keeps s t) (failed : List Nat) (runs : List Nat) (copies : List TileRole) :
    Keeps s (startRebuild t failed runs copies) := by
  unfold startRebuild
  repeat' (first
    | with_reducible assumption
    | ((with_reducible change ∀ x, MasterOk x → MasterOk _); exact fun _ k => k)
    | intro _
    | with_reducible apply Keeps.modMasterAny
    | ((with_reducible change MasterOk _); exact ‹MasterOk _›)
    | exact Keeps.to h rfl fun i => { i with }
    | split)

theorem leaveWeave_keeps {s t : State} (h : Keeps s t) (r : Nat) :
    Keeps s (leaveWeave t r) := by
  unfold leaveWeave
  repeat' (first
    | with_reducible assumption
    | ((with_reducible change Inv _ → ∀ x, x ∈ _ → RegionOk x → RegionOk _); exact fun _ _ _ k => { k with })
    | intro _
    | with_reducible apply leaveSlot_keeps
    | with_reducible apply regionOff_keeps
    | with_reducible apply Keeps.modRegion)

theorem stopTiles_keeps {s t : State} (h : Keeps s t) (r : Nat) :
    Keeps s (stopTiles t r) := by
  unfold stopTiles
  repeat' (first
    | with_reducible assumption
    | ((with_reducible change ∀ x, MasterOk x → MasterOk _); exact fun _ k => k)
    | intro _
    | with_reducible apply keepTiles_keeps
    | with_reducible apply Keeps.modMasterAny)

theorem failRegion_keeps {s t : State} (h : Keeps s t) (r : Nat) :
    Keeps s (failRegion t r) := by
  unfold failRegion
  repeat' (first
    | with_reducible assumption
    | ((with_reducible change Inv _ → ∀ x, x ∈ _ → RegionOk x → RegionOk _); exact fun _ _ _ k => { k with })
    | ((with_reducible change Inv _ → ∀ x, x ∈ _ → RegionOk x → RegionOk _); intro _ _ _ k; split <;> exact { k with })
    | intro _
    | with_reducible apply abandon_keeps
    | with_reducible apply endAside_keeps
    | with_reducible apply leaveWeave_keeps
    | with_reducible apply startRebuild_keeps
    | with_reducible apply stopTiles_keeps
    | with_reducible apply Keeps.modRegion
    | with_reducible apply Keeps.foldl
    | with_reducible apply Keeps.iteTest
    | ((with_reducible change RegionOk _); exact ‹RegionOk _›)
    | split
    | dsimp only)

theorem replayDeal_keeps {s t : State} (h : Keeps s t) (o : Op) (xs : List Share) :
    Keeps s (replayDeal t o xs) := by
  unfold replayDeal
  repeat' (first
    | with_reducible assumption
    | intro _
    | with_reducible apply abandon_keeps
    | with_reducible apply dealShares_keeps
    | with_reducible apply keepTiles_keeps
    | with_reducible apply refillAll_keeps
    | with_reducible apply setOp_keeps
    | with_reducible apply updAllBanks_keeps
    | with_reducible apply Keeps.foldl
    | with_reducible apply Keeps.iteTest
    | split
    | dsimp only)

theorem placeAnew_keeps {s t : State} (h : Keeps s t) (o : Op) :
    Keeps s (placeAnew t o) := by
  unfold placeAnew
  repeat' (first
    | with_reducible assumption
    | with_reducible apply abandon_keeps
    | with_reducible apply setOp_keeps
    | with_reducible apply Keeps.iteTest
    | split
    | dsimp only)

theorem replace_keeps {s t : State} (h : Keeps s t) (rec : Recovery) :
    Keeps s (replace t rec) := by
  unfold replace
  repeat' (first
    | with_reducible assumption
    | with_reducible apply placeAnew_keeps
    | with_reducible apply replayDeal_keeps
    | with_reducible apply Keeps.iteTest
    | split
    | dsimp only)

theorem dupRecord_keeps {s t : State} (h : Keeps s t) (orig : Nat) (dup : Nat) (vote : Option Nat) (verdict : Nat) (repeatMode : Bool) (cls : Nat) (fails : Bool) :
    Keeps s (dupRecord t orig dup vote verdict repeatMode cls fails) := by
  unfold dupRecord
  repeat' (first
    | with_reducible assumption
    | with_reducible apply postError_keeps
    | with_reducible apply Keeps.iteTest
    | split)

theorem dropCopies_keeps {s t : State} (h : Keeps s t) (id : Nat) :
    Keeps s (dropCopies t id) := by
  unfold dropCopies
  repeat' (first
    | with_reducible assumption
    | with_reducible apply keepTiles_keeps
    | split)

theorem verifyTile_keeps {s t : State} (h : Keeps s t) (id : Nat) :
    Keeps s (verifyTile t id) := by
  unfold verifyTile
  repeat' (first
    | with_reducible assumption
    | with_reducible apply modTile_keeps)

theorem noVerdict_keeps {s t : State} (h : Keeps s t) (t' : Tile) (d : Tile) :
    Keeps s (noVerdict t t' d) := by
  unfold noVerdict
  repeat' (first
    | with_reducible assumption
    | with_reducible apply abandon_keeps
    | with_reducible apply dupRecord_keeps
    | dsimp only)

theorem dealCopy_keeps {s t u : State} {o : Op} {x : Tile} {fields : List Nat} {role : TileRole} (h : Keeps s t)
    (hu : dealCopy t o x fields role = some u) : Keeps s u := by
  unfold dealCopy at hu
  obtain ⟨r, -, rfl⟩ := Option.map_eq_some_iff.1 hu
  dsimp only
  with_reducible apply refillRegion_keeps
  with_reducible apply updBanks_keeps
  with_reducible apply Keeps.modMasterAny h
  exact fun _ k => k

theorem dealCopy_getD_keeps {s t : State} (o : Op) (x : Tile) (fields : List Nat) (role : TileRole) {v : State} (h : Keeps s t)
    (hv : Keeps s v) : Keeps s ((dealCopy t o x fields role).getD v) := by
  cases hu : dealCopy t o x fields role with
  | none => exact hv
  | some u => exact dealCopy_keeps h hu

theorem dealAgain_keeps {s t : State} (h : Keeps s t) (role : TileRole) :
    Keeps s (dealAgain t role) := by
  unfold dealAgain
  repeat' (first
    | with_reducible assumption
    | ((with_reducible change ∀ x, GlbOk x → GlbOk _); exact fun _ k => { k with })
    | ((with_reducible change ∀ x, GlbOk x → GlbOk _); intro _ k; split <;> exact { k with })
    | with_reducible apply dealCopy_getD_keeps
    | exact fun _ k => { k with skipped := capAdd_le _ _ _ }
    | intro _
    | with_reducible apply noVerdict_keeps
    | with_reducible apply verifyTile_keeps
    | with_reducible apply Keeps.modGlbAny
    | with_reducible apply Keeps.iteTest
    | ((with_reducible change GlbOk _); exact ‹GlbOk _›)
    | split)

theorem rebuildDone_keeps {s t : State} (h : Keeps s t) :
    Keeps s (rebuildDone t) := by
  unfold rebuildDone
  repeat' (first
    | with_reducible assumption
    | ((with_reducible change ∀ x, MasterOk x → MasterOk _); exact fun _ k => k)
    | intro _
    | with_reducible apply dealAgain_keeps
    | with_reducible apply publishEvent_keeps
    | with_reducible apply replace_keeps
    | with_reducible apply updAllBanks_keeps
    | with_reducible apply Keeps.modMasterAny
    | with_reducible apply Keeps.foldl
    | ((with_reducible change MasterOk _); exact ‹MasterOk _›)
    | exact Keeps.to h rfl fun i => { i with }
    | split
    | dsimp only)

/-! ### Machine/CollOps.lean -/

theorem flitGate_keeps {s t : State} (h : Keeps s t) (f : Flit) :
    Keeps s (flitGate t f).1 := by
  unfold flitGate
  repeat' (first
    | with_reducible assumption
    | ((with_reducible change ∀ x, LnkOk x → LnkOk _); exact fun _ k => { k with })
    | exact fun _ i => { i with dropType := capAdd_le _ _ _ }
    | exact fun _ i => { i with dropTag := capAdd_le _ _ _ }
    | intro _
    | with_reducible apply Keeps.modLnkAny
    | with_reducible apply Keeps.iteTest
    | ((with_reducible change LnkOk _); exact ‹LnkOk _›)
    | split)

theorem setOpOf_keeps {s t : State} (h : Keeps s t) (o : Op) :
    Keeps s (setOpOf t o) := by
  unfold setOpOf
  repeat' (first
    | with_reducible assumption
    | ((with_reducible change ∀ x, MasterOk x → MasterOk _); exact fun _ k => k)
    | intro _
    | with_reducible apply Keeps.modMasterAny
    | with_reducible apply Keeps.iteTest
    | ((with_reducible change MasterOk _); exact ‹MasterOk _›)
    | split)

theorem endColl_keeps {s t : State} (h : Keeps s t) (o : Op) (status : Byte) (detail : Word) :
    Keeps s (endColl t o status detail) := by
  unfold endColl
  repeat' (first
    | with_reducible assumption
    | with_reducible apply abandon_keeps
    | with_reducible apply endAside_keeps
    | with_reducible apply Keeps.iteTest
    | split)

theorem sendAbort_keeps {s t : State} (h : Keeps s t) (c : Coll) (peer : Nat) (status : Byte) :
    Keeps s (sendAbort t c peer status) := by
  unfold sendAbort
  repeat' (first
    | with_reducible assumption
    | with_reducible apply sendFlits_keeps)

theorem dropMail_keeps {s t : State} (h : Keeps s t) (f : Flit) :
    Keeps s (dropMail t f) := by
  unfold dropMail
  repeat' (first
    | with_reducible assumption
    | ((with_reducible change ∀ x, LnkOk x → LnkOk _); exact fun _ k => { k with })
    | intro _
    | with_reducible apply Keeps.modLnkAny)

theorem collWrite_keeps {s t : State} (h : Keeps s t) (ws : List BitWrite) (merge : ReadOutcome) {after : State → State}
    (ha : ∀ u, Keeps s u → Keeps s (after u)) : Keeps s (collWrite t ws merge after) := writeNow_keeps h _ _ ha

theorem tryReduce_keeps {s t : State} (h : Keeps s t) (merge : ReadOutcome) :
    Keeps s (tryReduce t merge) := by
  unfold tryReduce
  repeat' (first
    | with_reducible assumption
    | intro _
    | with_reducible apply collWrite_keeps
    | with_reducible apply setOpOf_keeps
    | with_reducible apply Keeps.iteTest
    | exact Keeps.to h rfl fun i => { i with }
    | split
    | dsimp only)

theorem checkDone_keeps {s t : State} (h : Keeps s t) :
    Keeps s (checkDone t) := by
  unfold checkDone
  repeat' (first
    | with_reducible assumption
    | with_reducible apply setOpOf_keeps
    | with_reducible apply Keeps.iteTest
    | exact Keeps.to h rfl fun i => { i with }
    | split)

theorem nowBegun_keeps {s t : State} (h : Keeps s t) (o : Op) (c : Coll) :
    Keeps s (nowBegun t o c) := by
  unfold nowBegun
  repeat' (first
    | with_reducible assumption
    | with_reducible apply modEntry_keeps
    | with_reducible apply setOpOf_keeps
    | exact Keeps.to h rfl fun i => { i with })

theorem moveOwn_keeps {s t : State} (h : Keeps s t) (o : Op) (c : Coll) (rd : Nat → Byte) (z0 : Nat) (p0 : Nat) (n : Nat) (merge : ReadOutcome) :
    Keeps s (moveOwn t o c rd z0 p0 n merge) := by
  unfold moveOwn
  repeat' (first
    | with_reducible assumption
    | intro _
    | with_reducible apply collWrite_keeps
    | with_reducible apply nowBegun_keeps)

theorem collBegin_keeps {s t : State} (h : Keeps s t) (o : Op) (c : Coll) (own : ReadOutcome) (merge : ReadOutcome) :
    Keeps s (collBegin t o c own merge) := by
  unfold collBegin
  repeat' (first
    | with_reducible assumption
    | intro _
    | with_reducible apply moveOwn_keeps
    | with_reducible apply nowBegun_keeps
    | with_reducible apply readNow_keeps
    | with_reducible apply sendFlits_keeps
    | exact Keeps.to h rfl fun i => { i with }
    | split
    | dsimp only)

theorem adjustColl_keeps {s t : State} (h : Keeps s t) (o : Op) (c : Coll) :
    Keeps s (adjustColl t o c) := by
  unfold adjustColl
  repeat' (first
    | with_reducible assumption
    | with_reducible apply sendFlits_keeps
    | with_reducible apply setOpOf_keeps
    | dsimp only)

theorem sendSlot_keeps {s t : State} (h : Keeps s t) (o : Op) (c : Coll) (reads : ReadOutcome) :
    Keeps s (sendSlot t o c reads) := by
  unfold sendSlot
  repeat' (first
    | with_reducible assumption
    | intro _
    | with_reducible apply readNow_keeps
    | with_reducible apply sendFlits_keeps
    | with_reducible apply setOpOf_keeps
    | exact Keeps.to h rfl fun i => { i with }
    | dsimp only)

theorem tailSent_keeps {s t : State} (h : Keeps s t) (x : Tail) (c : Coll) (own : ReadOutcome) (ts : List Tail) :
    Keeps s (tailSent t x c own ts) := by
  unfold tailSent
  repeat' (first
    | with_reducible assumption
    | ((with_reducible change ∀ x, MasterOk x → MasterOk _); exact fun _ k => k)
    | intro _
    | with_reducible apply noteReads_keeps
    | with_reducible apply sendFlits_keeps
    | with_reducible apply Keeps.modMasterAny
    | with_reducible apply Keeps.iteTest
    | ((with_reducible change MasterOk _); exact ‹MasterOk _›)
    | exact Keeps.to h rfl fun i => { i with }
    | split
    | dsimp only)

theorem sendTail_keeps {s t : State} (h : Keeps s t) (x : Tail) (c : Coll) (reads : ReadOutcome) (ts : List Tail) :
    Keeps s (sendTail t x c reads ts) := by
  unfold sendTail
  repeat' (first
    | with_reducible assumption
    | ((with_reducible change ∀ x, MasterOk x → MasterOk _); exact fun _ k => k)
    | intro _
    | with_reducible apply countBad_keeps
    | with_reducible apply markBad_keeps
    | with_reducible apply postError_keeps
    | with_reducible apply postReadErrs_keeps
    | with_reducible apply tailSent_keeps
    | with_reducible apply Keeps.modMasterAny
    | with_reducible apply Keeps.foldl
    | ((with_reducible change MasterOk _); exact ‹MasterOk _›)
    | split
    | dsimp only)

theorem slotArrived_keeps {s t : State} (h : Keeps s t) (o : Op) (c : Coll) (k : Nat) (bs : List Byte) (merge : ReadOutcome) :
    Keeps s (slotArrived t o c k bs merge) := by
  unfold slotArrived
  repeat' (first
    | with_reducible assumption
    | intro _
    | with_reducible apply collWrite_keeps
    | with_reducible apply setOpOf_keeps
    | with_reducible apply tryReduce_keeps
    | with_reducible apply Keeps.iteTest
    | exact Keeps.to h rfl fun i => { i with }
    | split
    | dsimp only)

theorem replayGot_keeps {s t : State} (h : Keeps s t) (k : Nat) (merge : ReadOutcome) :
    Keeps s (replayGot t k merge) := by
  unfold replayGot
  repeat' (first
    | with_reducible assumption
    | with_reducible apply slotArrived_keeps
    | with_reducible apply Keeps.iteTest
    | split
    | dsimp only)

theorem acknowledge_keeps {s t : State} (h : Keeps s t) (o : Op) (c : Coll) :
    Keeps s (acknowledge t o c) := by
  unfold acknowledge
  repeat' (first
    | with_reducible assumption
    | intro _
    | with_reducible apply Keeps.modSide)

theorem recvWhole_keeps {s t : State} (h : Keeps s t) (merge : ReadOutcome) :
    Keeps s (recvWhole t merge) := by
  unfold recvWhole
  repeat' (first
    | with_reducible assumption
    | intro _
    | with_reducible apply acknowledge_keeps
    | with_reducible apply collWrite_keeps
    | with_reducible apply setOpOf_keeps
    | with_reducible apply Keeps.iteTest
    | exact Keeps.to h rfl fun i => { i with }
    | split
    | dsimp only)

theorem collKick_keeps {s t : State} (h : Keeps s t) (reads : ReadOutcome) :
    Keeps s (collKick t reads) := by
  unfold collKick
  repeat' (first
    | with_reducible assumption
    | intro _
    | with_reducible apply checkDone_keeps
    | with_reducible apply collBegin_keeps
    | with_reducible apply recvWhole_keeps
    | with_reducible apply replayGot_keeps
    | with_reducible apply tryReduce_keeps
    | with_reducible apply Keeps.foldl
    | with_reducible apply Keeps.iteTest
    | split
    | dsimp only)

theorem dataArrived_keeps {s t : State} (h : Keeps s t) (o : Op) (c : Coll) (f : Flit) (merge : ReadOutcome) :
    Keeps s (dataArrived t o c f merge) := by
  unfold dataArrived
  repeat' (first
    | with_reducible assumption
    | with_reducible apply checkDone_keeps
    | with_reducible apply replayGot_keeps
    | with_reducible apply setOpOf_keeps
    | with_reducible apply Keeps.iteTest
    | exact Keeps.to h rfl fun i => { i with }
    | split
    | dsimp only)

theorem sendDataArrived_keeps {s t : State} (h : Keeps s t) (o : Op) (c : Coll) (f : Flit) (merge : ReadOutcome) :
    Keeps s (sendDataArrived t o c f merge) := by
  unfold sendDataArrived
  repeat' (first
    | with_reducible assumption
    | with_reducible apply recvWhole_keeps
    | with_reducible apply setOpOf_keeps
    | with_reducible apply Keeps.iteTest
    | exact Keeps.to h rfl fun i => { i with }
    | split
    | dsimp only)

theorem takeColl_keeps {s t : State} (h : Keeps s t) (reads : ReadOutcome) :
    Keeps s (takeColl t reads) := by
  unfold takeColl
  repeat' (first
    | with_reducible assumption
    | ((with_reducible change ∀ x, MasterOk x → MasterOk _); exact fun _ k => k)
    | intro _
    | with_reducible apply collKick_keeps
    | with_reducible apply Keeps.modMasterAny
    | ((with_reducible change MasterOk _); exact ‹MasterOk _›)
    | split
    | dsimp only)

theorem matchWidths_keeps {s t : State} (h : Keeps s t) (o : Op) (c : Coll) :
    Keeps s (matchWidths t o c) := by
  unfold matchWidths
  repeat' (first
    | with_reducible assumption
    | with_reducible apply adjustColl_keeps
    | with_reducible apply Keeps.iteTest
    | split)

theorem collAccepted_keeps {s t : State} (h : Keeps s t) (o : Op) (c : Coll) (reads : ReadOutcome) :
    Keeps s (collAccepted t o c reads) := by
  unfold collAccepted
  repeat' (first
    | with_reducible assumption
    | with_reducible apply acceptance_keeps
    | with_reducible apply collKick_keeps
    | with_reducible apply headUpdate_keeps
    | with_reducible apply matchWidths_keeps
    | with_reducible apply modEntry_keeps
    | with_reducible apply sendFlits_keeps
    | with_reducible apply setOpOf_keeps
    | with_reducible apply takeColl_keeps
    | with_reducible apply Keeps.iteTest
    | exact Keeps.to h rfl fun i => { i with }
    | split
    | dsimp only)

theorem collAgreed_keeps {s t : State} (h : Keeps s t) (o : Op) (c : Coll) (reads : ReadOutcome) :
    Keeps s (collAgreed t o c reads) := by
  unfold collAgreed
  repeat' (first
    | with_reducible assumption
    | with_reducible apply collAccepted_keeps
    | with_reducible apply endColl_keeps
    | with_reducible apply sendAbort_keeps
    | with_reducible apply setOpOf_keeps
    | with_reducible apply Keeps.iteTest
    | exact Keeps.to h rfl fun i => { i with }
    | split)

theorem acceptAgreed_keeps {s t : State} (h : Keeps s t) (reads : ReadOutcome) :
    Keeps s (acceptAgreed t reads) := by
  unfold acceptAgreed
  repeat' (first
    | with_reducible assumption
    | with_reducible apply collAgreed_keeps
    | split)

theorem collStart_keeps {s t : State} (h : Keeps s t) (o : Op) (c : Coll) (t0 : Nat) (len : Nat) (widths : List Nat) (reads : ReadOutcome) :
    Keeps s (collStart t o c t0 len widths reads) := by
  unfold collStart
  repeat' (first
    | with_reducible assumption
    | intro _
    | with_reducible apply collAgreed_keeps
    | with_reducible apply Keeps.foldl
    | exact Keeps.to h rfl fun i => { i with }
    | dsimp only)

theorem collCheck_keeps {s t : State} (h : Keeps s t) (o : Op) (c : Coll) (reads : ReadOutcome) :
    Keeps s (collCheck t o c reads) := by
  unfold collCheck
  repeat' (first
    | with_reducible assumption
    | with_reducible apply collStart_keeps
    | with_reducible apply endColl_keeps
    | with_reducible apply sendFlits_keeps
    | with_reducible apply Keeps.iteTest
    | exact Keeps.to h rfl fun i => { i with }
    | split
    | dsimp only)

theorem collAborted_keeps {s t : State} (h : Keeps s t) (o : Op) (c : Coll) (src : Nat) (status : Byte) :
    Keeps s (collAborted t o c src status) := by
  unfold collAborted
  repeat' (first
    | with_reducible assumption
    | with_reducible apply endColl_keeps
    | with_reducible apply sendFlits_keeps
    | with_reducible apply Keeps.iteTest
    | split
    | dsimp only)

theorem collReady_keeps {s t : State} (h : Keeps s t) (o : Op) (c : Coll) (src : Nat) (body : List Byte) (reads : ReadOutcome) :
    Keeps s (collReady t o c src body reads) := by
  unfold collReady
  repeat' (first
    | with_reducible assumption
    | with_reducible apply collAgreed_keeps
    | with_reducible apply collCheck_keeps
    | with_reducible apply endColl_keeps
    | with_reducible apply sendAbort_keeps
    | with_reducible apply setOpOf_keeps
    | with_reducible apply Keeps.iteTest
    | exact Keeps.to h rfl fun i => { i with }
    | split
    | dsimp only)

theorem collExchange_keeps {s t : State} (h : Keeps s t) (o : Op) (c : Coll) (reads : ReadOutcome) :
    Keeps s (collExchange t o c reads) := by
  unfold collExchange
  repeat' (first
    | with_reducible assumption
    | intro _
    | with_reducible apply collAborted_keeps
    | with_reducible apply collAgreed_keeps
    | with_reducible apply collCheck_keeps
    | with_reducible apply collReady_keeps
    | with_reducible apply dropMail_keeps
    | with_reducible apply sendFlits_keeps
    | with_reducible apply setOpOf_keeps
    | with_reducible apply Keeps.foldl
    | with_reducible apply Keeps.iteTest
    | exact Keeps.to h rfl fun i => { i with }
    | split
    | dsimp only)

theorem collReached_keeps {s t : State} (h : Keeps s t) (sel : Selection) (e : Entry) (o : Op) (reads : ReadOutcome) :
    Keeps s (collReached t sel e o reads) := by
  unfold collReached
  repeat' (first
    | with_reducible assumption
    | ((with_reducible change ∀ x, MasterOk x → MasterOk _); exact fun _ k => k)
    | intro _
    | with_reducible apply collExchange_keeps
    | with_reducible apply dropPre_keeps
    | with_reducible apply modEntry_keeps
    | with_reducible apply passColls_keeps
    | with_reducible apply updAllBanks_keeps
    | with_reducible apply Keeps.modMasterAny
    | with_reducible apply Keeps.iteTest
    | ((with_reducible change MasterOk _); exact ‹MasterOk _›)
    | split
    | dsimp only)

end Sys2Proof.Machine
end

