-- ==== Sys2Proof/Laws/KeepsWork.lean ====
section
/-!
SUPPORT. One lemma for each operation of the scheduler, power, clocks, thermal and halter commands and the register writes of their blocks: it keeps the waiting queue
and the invariant of Safety.lean (Laws/Keeps.lean).
-/
namespace Sys2Proof.Machine

/-! ### Machine/SchedCmds.lean -/

theorem execSelectOperation_keeps {s t : State} (h : Keeps s t) (reads : ReadOutcome := ReadOutcome.clean) :
    ResKeeps s (execSelectOperation t reads) := by
  unfold execSelectOperation
  repeat' (first
    | with_reducible assumption
    | with_reducible apply acceptAgreed_keeps
    | with_reducible apply selectNext_keeps
    | with_reducible apply takeColl_keeps
    | with_reducible apply updateHeads_keeps
    | with_reducible apply Keeps.iteTest
    | with_reducible apply ResKeeps.next
    | with_reducible apply ResKeeps.iteTest
    | split
    | dsimp only)

theorem execDescriptorFetch_keeps {s t : State} (h : Keeps s t) (ring : Nat) (host : List Host.Cell) :
    ResKeeps s (execDescriptorFetch ring host t) := by
  unfold execDescriptorFetch
  repeat' (first
    | with_reducible assumption
    | intro _
    | with_reducible apply headUpdate_keeps
    | with_reducible apply hostMerge_keeps
    | with_reducible apply Keeps.modRing
    | with_reducible apply Keeps.iteTest
    | with_reducible apply ResKeeps.next
    | with_reducible apply ResKeeps.iteTest
    | split
    | dsimp only)

theorem execWaitSatisfied_keeps {s t : State} (h : Keeps s t) (ring : Nat) :
    ResKeeps s (execWaitSatisfied ring t) := by
  unfold execWaitSatisfied
  repeat' (first
    | with_reducible assumption
    | with_reducible apply modEntry_keeps
    | with_reducible apply Keeps.iteTest
    | with_reducible apply ResKeeps.next
    | with_reducible apply ResKeeps.iteTest
    | split)

theorem expireWait_keeps {s t : State} (h : Keeps s t) (ring : Nat) :
    Keeps s (expireWait t ring) := by
  unfold expireWait
  repeat' (first
    | with_reducible assumption
    | with_reducible apply endColl_keeps
    | with_reducible apply failHead_keeps
    | with_reducible apply Keeps.iteTest
    | split)

theorem execWaitTimeoutExpiry_keeps {s t : State} (h : Keeps s t) (ring : Nat) :
    ResKeeps s (execWaitTimeoutExpiry ring t) := by
  unfold execWaitTimeoutExpiry
  repeat' (first
    | with_reducible assumption
    | with_reducible apply expireWait_keeps
    | with_reducible apply Keeps.iteTest
    | with_reducible apply ResKeeps.next
    | with_reducible apply ResKeeps.iteTest
    | split)

theorem abandonSignal_keeps {s t : State} (h : Keeps s t) (sel : Selection) (idx : Nat) :
    Keeps s (abandonSignal t sel idx) := by
  unfold abandonSignal
  repeat' (first
    | with_reducible assumption
    | with_reducible apply abandonUnitAt_keeps
    | dsimp only)

theorem endLostSignals_keeps {s t : State} (h : Keeps s t) :
    Keeps s (endLostSignals t) := by
  unfold endLostSignals
  repeat' (first
    | with_reducible assumption
    | with_reducible apply abandonSignal_keeps
    | split)

theorem endLostAside_keeps {s t : State} (h : Keeps s t) (o : Op) :
    Keeps s (endLostAside t o) := by
  unfold endLostAside
  repeat' (first
    | with_reducible assumption
    | with_reducible apply abandonAside_keeps
    | split)

theorem failLostWait_keeps {s t : State} (h : Keeps s t) (ring : Nat) :
    Keeps s (failLostWait t ring) := by
  unfold failLostWait
  repeat' (first
    | with_reducible assumption
    | with_reducible apply failHead_keeps
    | with_reducible apply Keeps.iteTest
    | split)

theorem execSpineOffLearnt_keeps {s t : State} (h : Keeps s t) (field : Nat) :
    ResKeeps s (execSpineOffLearnt field t) := by
  unfold execSpineOffLearnt
  repeat' (first
    | with_reducible assumption
    | intro _
    | with_reducible apply endLostAside_keeps
    | with_reducible apply endLostSignals_keeps
    | with_reducible apply failLostWait_keeps
    | with_reducible apply onUnit_keeps
    | with_reducible apply Keeps.foldl
    | with_reducible apply Keeps.iteTest
    | with_reducible apply ResKeeps.next
    | with_reducible apply ResKeeps.onUnit
    | with_reducible apply ResKeeps.iteTest
    | split
    | dsimp only)

theorem rejectMember_keeps {s t : State} (h : Keeps s t) (sel : Selection) (idx : Nat) (status : Byte) (detail : Word) :
    Keeps s (rejectMember t sel idx status detail) := by
  unfold rejectMember
  repeat' (first
    | with_reducible assumption
    | ((with_reducible change ∀ x, MasterOk x → MasterOk _); exact fun _ k => k)
    | intro _
    | with_reducible apply endGroup_keeps
    | with_reducible apply failHead_keeps
    | with_reducible apply Keeps.modMasterAny
    | with_reducible apply Keeps.iteTest
    | ((with_reducible change MasterOk _); exact ‹MasterOk _›)
    | split)

theorem rejectBad_keeps {s t : State} (h : Keeps s t) (sel : Selection) (idx : Nat) (e : Entry) (addr : Nat) :
    Keeps s (rejectBad t sel idx e addr) := by
  unfold rejectBad
  repeat' (first
    | with_reducible assumption
    | with_reducible apply countBad_keeps
    | with_reducible apply markBad_keeps
    | with_reducible apply postReadErrs_keeps
    | with_reducible apply rejectMember_keeps
    | dsimp only)

theorem rejectUnit_keeps {s t : State} (h : Keeps s t) (sel : Selection) (idx : Nat) (e : Entry) (stack : Nat) :
    Keeps s (rejectUnit t sel idx e stack) := by
  unfold rejectUnit
  repeat' (first
    | with_reducible assumption
    | with_reducible apply postError_keeps
    | with_reducible apply rejectMember_keeps
    | dsimp only)

theorem rejectAbort_keeps {s t : State} (h : Keeps s t) (e : Entry) (badReads : List Nat) (first : Bool) (status : Byte) :
    Keeps s (rejectAbort t e badReads first status) := by
  unfold rejectAbort
  repeat' (first
    | with_reducible assumption
    | with_reducible apply sendAbort_keeps
    | with_reducible apply Keeps.iteTest
    | split)

theorem seenState_keeps {s t : State} (h : Keeps s t) (reads : ReadOutcome) :
    Keeps s (seenState t reads) := by
  unfold seenState
  repeat' (first
    | with_reducible assumption
    | intro _
    | with_reducible apply writeByte_keeps
    | with_reducible apply writeCells_keeps
    | with_reducible apply Keeps.foldl)

theorem acceptMember_keeps {s t : State} (h : Keeps s t) (sel : Selection) (e : Entry) (o : Op) (reads : ReadOutcome) :
    Keeps s (acceptMember t sel e o reads) := by
  unfold acceptMember
  repeat' (first
    | with_reducible assumption
    | with_reducible apply collReached_keeps
    | with_reducible apply runRecord_keeps
    | with_reducible apply takeMember_keeps
    | with_reducible apply Keeps.iteTest
    | split)

theorem acceptNext_keeps {s t : State} (h : Keeps s t) (sel : Selection) (reads : ReadOutcome) :
    Keeps s (acceptNext t sel reads) := by
  unfold acceptNext
  repeat' (first
    | with_reducible assumption
    | with_reducible apply acceptMember_keeps
    | with_reducible apply noteReads_keeps
    | with_reducible apply openMember_keeps
    | with_reducible apply rejectAbort_keeps
    | with_reducible apply rejectBad_keeps
    | with_reducible apply rejectMember_keeps
    | with_reducible apply rejectUnit_keeps
    | with_reducible apply seenState_keeps
    | with_reducible apply Keeps.iteTest
    | split
    | dsimp only)

theorem execAcceptOperation_keeps {s t : State} (h : Keeps s t) (host : List Host.Cell) (reads : ReadOutcome) :
    ResKeeps s (execAcceptOperation host reads t) := by
  unfold execAcceptOperation
  repeat' (first
    | with_reducible assumption
    | with_reducible apply acceptNext_keeps
    | with_reducible apply closeMember_keeps
    | with_reducible apply hostMerge_keeps
    | with_reducible apply Keeps.iteTest
    | with_reducible apply ResKeeps.next
    | with_reducible apply ResKeeps.iteTest
    | split
    | dsimp only)

theorem openPre_keeps {s t : State} (h : Keeps s t) :
    Keeps s (openPre t) := by
  unfold openPre
  repeat' (first
    | with_reducible assumption
    | exact Keeps.to h rfl fun i => { i with })

theorem preAccept_keeps {s t : State} (h : Keeps s t) (ring : Nat) (e : Entry) (members : List Entry) (reads : ReadOutcome) :
    Keeps s (preAccept t ring e members reads) := by
  unfold preAccept
  repeat' (first
    | with_reducible assumption
    | ((with_reducible change ∀ x, MasterOk x → MasterOk _); exact fun _ k => k)
    | intro _
    | with_reducible apply noteReads_keeps
    | with_reducible apply openPre_keeps
    | with_reducible apply seenState_keeps
    | with_reducible apply updAllBanks_keeps
    | with_reducible apply Keeps.modMasterAny
    | with_reducible apply Keeps.iteTest
    | ((with_reducible change MasterOk _); exact ‹MasterOk _›)
    | split
    | dsimp only)

theorem execPreselectNext_keeps {s t : State} (h : Keeps s t) (host : List Host.Cell) (reads : ReadOutcome) :
    ResKeeps s (execPreselectNext host reads t) := by
  unfold execPreselectNext
  repeat' (first
    | with_reducible assumption
    | ((with_reducible change ∀ x, MasterOk x → MasterOk _); exact fun _ k => k)
    | intro _
    | with_reducible apply hostMerge_keeps
    | with_reducible apply openPre_keeps
    | with_reducible apply preAccept_keeps
    | with_reducible apply seenState_keeps
    | with_reducible apply updateHeads_keeps
    | with_reducible apply Keeps.modMasterAny
    | with_reducible apply Keeps.iteTest
    | with_reducible apply ResKeeps.next
    | with_reducible apply ResKeeps.iteTest
    | ((with_reducible change MasterOk _); exact ‹MasterOk _›)
    | split
    | dsimp only)

theorem writeFrozen_keeps {s t : State} (h : Keeps s t) (merge : ReadOutcome) :
    Keeps s (writeFrozen t merge) := by
  unfold writeFrozen
  repeat' (first
    | with_reducible assumption
    | intro _
    | with_reducible apply setOp_keeps
    | with_reducible apply writeNow_keeps
    | with_reducible apply Keeps.iteTest
    | split)

theorem dealOp_keeps {s t : State} (h : Keeps s t) (o : Op) (pre : Bool) :
    Keeps s (dealOp t o pre) := by
  unfold dealOp
  repeat' (first
    | with_reducible assumption
    | ((with_reducible change ∀ x, MasterOk x → MasterOk _); exact fun _ k => k)
    | intro _
    | with_reducible apply dealShares_keeps
    | with_reducible apply refillAll_keeps
    | with_reducible apply updAllBanks_keeps
    | with_reducible apply Keeps.modMasterAny
    | with_reducible apply Keeps.iteTest
    | ((with_reducible change MasterOk _); exact ‹MasterOk _›)
    | exact Keeps.to h rfl fun i => { i with }
    | split
    | dsimp only)

theorem execPlacementDealt_keeps {s t : State} (h : Keeps s t) (merge : ReadOutcome := ReadOutcome.clean) :
    ResKeeps s (execPlacementDealt t merge) := by
  unfold execPlacementDealt
  repeat' (first
    | with_reducible assumption
    | with_reducible apply abandon_keeps
    | with_reducible apply dealOp_keeps
    | with_reducible apply writeFrozen_keeps
    | with_reducible apply Keeps.iteTest
    | with_reducible apply ResKeeps.next
    | with_reducible apply ResKeeps.iteTest
    | split
    | dsimp only)

theorem execTileBuffersTaken_keeps {s t : State} (h : Keeps s t) (tile : Nat) :
    ResKeeps s (execTileBuffersTaken tile t) := by
  unfold execTileBuffersTaken
  repeat' (first
    | with_reducible assumption
    | with_reducible apply advanceArray_keeps
    | with_reducible apply modTile_keeps
    | with_reducible apply Keeps.iteTest
    | with_reducible apply ResKeeps.next
    | with_reducible apply ResKeeps.iteTest
    | split
    | dsimp only)

theorem countMeets_keeps {s t : State} (h : Keeps s t) (o : Op) (met : List Nat) :
    Keeps s (countMeets t o met) := by
  unfold countMeets
  repeat' (first
    | with_reducible assumption
    | ((with_reducible change Inv _ → ∀ x, x ∈ _ → RegionOk x → RegionOk _); exact fun _ _ _ k => { k with })
    | ((with_reducible change Inv _ → ∀ x, x ∈ _ → RegionOk x → RegionOk _); intro _ _ _ k; split <;> exact { k with })
    | exact fun _ _ _ k => { k with hits := capAdd_le _ _ _ }
    | intro _
    | with_reducible apply Keeps.modRegion
    | with_reducible apply Keeps.foldl
    | with_reducible apply Keeps.iteTest
    | ((with_reducible change RegionOk _); exact ‹RegionOk _›)
    | split
    | dsimp only)

theorem nowResident_keeps {s t : State} (h : Keeps s t) (tile : Nat) (o : Op) (t' : Tile) (reads : ReadOutcome) :
    Keeps s (nowResident t tile o t' reads) := by
  unfold nowResident
  repeat' (first
    | with_reducible assumption
    | with_reducible apply modTile_keeps
    | dsimp only)

theorem loadReturn_keeps {s t : State} (h : Keeps s t) (tile : Nat) (o : Op) (t' : Tile) (reads : ReadOutcome) :
    Keeps s (loadReturn t tile o t' reads) := by
  unfold loadReturn
  repeat' (first
    | with_reducible assumption
    | intro _
    | with_reducible apply accessMeets_keeps
    | with_reducible apply markBad_keeps
    | with_reducible apply noteReads_keeps
    | with_reducible apply nowResident_keeps
    | with_reducible apply Keeps.foldl
    | with_reducible apply Keeps.iteTest
    | split
    | dsimp only)

theorem execLoaderReadReturn_keeps {s t : State} (h : Keeps s t) (tile : Nat) (outcome : ReadOutcome) (meets : List Nat) (host : List Host.Cell) :
    ResKeeps s (execLoaderReadReturn tile outcome meets host t) := by
  unfold execLoaderReadReturn
  repeat' (first
    | with_reducible assumption
    | exact fun _ _ _ k => { k with hits := capAdd_le _ _ _ }
    | with_reducible apply countMeets_keeps
    | with_reducible apply hostMerge_keeps
    | with_reducible apply loadReturn_keeps
    | with_reducible apply modTile_keeps
    | with_reducible apply Keeps.iteTest
    | with_reducible apply ResKeeps.next
    | with_reducible apply ResKeeps.iteTest
    | split
    | dsimp only)

theorem issueBypass_keeps {s t : State} (h : Keeps s t) (o : Op) (t' : Tile) (reads : ReadOutcome) :
    Keeps s (issueBypass t o t' reads) := by
  unfold issueBypass
  repeat' (first
    | with_reducible assumption
    | with_reducible apply leaveQueue_keeps
    | with_reducible apply modTile_keeps
    | with_reducible apply releaseTile_keeps
    | with_reducible apply setOp_keeps
    | with_reducible apply Keeps.iteTest
    | exact Keeps.to h rfl fun i => { i with }
    | split
    | dsimp only)

theorem execTileIssue_keeps {s t : State} (h : Keeps s t) (tile : Nat) (reads : ReadOutcome := ReadOutcome.clean) :
    ResKeeps s (execTileIssue tile t reads) := by
  unfold execTileIssue
  repeat' (first
    | with_reducible assumption
    | intro _
    | with_reducible apply accessMeets_keeps
    | with_reducible apply countMeets_keeps
    | with_reducible apply enterArray_keeps
    | with_reducible apply issueBypass_keeps
    | with_reducible apply loadShadow_keeps
    | with_reducible apply modEntry_keeps
    | with_reducible apply modTile_keeps
    | with_reducible apply noteReads_keeps
    | with_reducible apply Keeps.iteTest
    | with_reducible apply ResKeeps.next
    | with_reducible apply ResKeeps.iteTest
    | split
    | dsimp only)

theorem leaveArray_keeps {s t : State} (h : Keeps s t) (o : Op) (t' : Tile) (upset : List (Nat × Word)) (early : List (Nat × Bool)) (reads : ReadOutcome) :
    Keeps s (leaveArray t o t' upset early reads) := by
  unfold leaveArray
  repeat' (first
    | with_reducible assumption
    | ((with_reducible change ∀ x, MasterOk x → MasterOk _); exact fun _ k => k)
    | intro _
    | with_reducible apply advanceArray_keeps
    | with_reducible apply countMeets_keeps
    | with_reducible apply leaveQueue_keeps
    | with_reducible apply modTile_keeps
    | with_reducible apply Keeps.modMasterAny
    | with_reducible apply Keeps.iteTest
    | ((with_reducible change MasterOk _); exact ‹MasterOk _›)
    | exact Keeps.to h rfl fun i => { i with }
    | split
    | dsimp only)

theorem execTileLeavesArray_keeps {s t : State} (h : Keeps s t) (tile : Nat) (upset : List (Nat × Word)) (early : List (Nat × Bool) := []) (reads : ReadOutcome := ReadOutcome.clean) :
    ResKeeps s (execTileLeavesArray tile upset t early reads) := by
  unfold execTileLeavesArray
  repeat' (first
    | with_reducible assumption
    | intro _
    | with_reducible apply accessMeets_keeps
    | with_reducible apply leaveArray_keeps
    | with_reducible apply noteReads_keeps
    | with_reducible apply Keeps.iteTest
    | with_reducible apply ResKeeps.next
    | with_reducible apply ResKeeps.iteTest
    | split)

theorem execChunkResultArrival_keeps {s t : State} (h : Keeps s t) (tile : Nat) :
    ResKeeps s (execChunkResultArrival tile t) := by
  unfold execChunkResultArrival
  repeat' (first
    | with_reducible assumption
    | ((with_reducible change ∀ x, MasterOk x → MasterOk _); exact fun _ k => k)
    | intro _
    | with_reducible apply modTile_keeps
    | with_reducible apply Keeps.modMasterAny
    | with_reducible apply Keeps.iteTest
    | with_reducible apply ResKeeps.next
    | with_reducible apply ResKeeps.iteTest
    | ((with_reducible change MasterOk _); exact ‹MasterOk _›)
    | split)

theorem execStatisticsBlockArrival_keeps {s t : State} (h : Keeps s t) (tile : Nat) (upset : List (Nat × Word) := []) :
    ResKeeps s (execStatisticsBlockArrival tile t upset) := by
  unfold execStatisticsBlockArrival
  repeat' (first
    | with_reducible assumption
    | ((with_reducible change ∀ x, MasterOk x → MasterOk _); exact fun _ k => k)
    | intro _
    | with_reducible apply modTile_keeps
    | with_reducible apply Keeps.modMasterAny
    | with_reducible apply Keeps.iteTest
    | with_reducible apply ResKeeps.next
    | with_reducible apply ResKeeps.iteTest
    | ((with_reducible change MasterOk _); exact ‹MasterOk _›)
    | exact Keeps.to h rfl fun i => { i with }
    | split)

theorem dropMulticast_keeps {s t : State} (h : Keeps s t) (rows : Nat) (r : Nat) :
    Keeps s (dropMulticast t rows r) := by
  unfold dropMulticast
  repeat' (first
    | with_reducible assumption
    | ((with_reducible change Inv _ → ∀ x, x ∈ _ → FieldOk x → FieldOk _); exact fun _ _ _ k => { k with })
    | exact fun _ _ _ k => { k with mcDrop := capAdd_le _ _ _ }
    | intro _
    | with_reducible apply Keeps.modField)

theorem execRowMaxMulticast_keeps {s t : State} (h : Keeps s t) (tile : Nat) :
    ResKeeps s (execRowMaxMulticast tile t) := by
  unfold execRowMaxMulticast
  repeat' (first
    | with_reducible assumption
    | ((with_reducible change ∀ x, MasterOk x → MasterOk _); exact fun _ k => k)
    | intro _
    | with_reducible apply dropMulticast_keeps
    | with_reducible apply modTile_keeps
    | with_reducible apply Keeps.modMasterAny
    | with_reducible apply Keeps.foldl
    | with_reducible apply Keeps.iteTest
    | with_reducible apply ResKeeps.next
    | with_reducible apply ResKeeps.iteTest
    | ((with_reducible change MasterOk _); exact ‹MasterOk _›)
    | split
    | dsimp only)

theorem sweepBytes_keeps {s t : State} (h : Keeps s t) (f : Interval) :
    Keeps s (sweepBytes t f) := by
  unfold sweepBytes
  exact h.to rfl fun i =>
    { i with
      dram := by dsimp only; exact memKeep_wf _ i.dram
      host := by dsimp only; exact memKeep_wf _ i.host
      spad := by dsimp only; exact memKeep_wf _ i.spad }

theorem drainSweep_keeps {s t : State} (h : Keeps s t) (f : Interval) (merge : ReadOutcome) {after : State → State}
    (ha : ∀ u, Keeps s u → Keeps s (after u)) : Keeps s (drainSweep t f merge after) :=
  accessMeets_keeps h _ _ (fun _ k => ha _ (writeCells_keeps (sweepBytes_keeps (noteReads_keeps k merge) f) _))
    fun _ k => sweepBytes_keeps k f

theorem drainBook_keeps {s t : State} (h : Keeps s t) (o : Op) (t' : Tile) (squash : Nat) (adv : List AdvStat) (sum : Word64) :
    Keeps s (drainBook t o t' squash adv sum) := by
  unfold drainBook
  repeat' (first
    | with_reducible assumption
    | ((with_reducible change ∀ x, GlbOk x → GlbOk _); exact fun _ k => { k with })
    | exact fun _ k => { k with nanSquash := capAdd_le _ _ _ }
    | intro _
    | with_reducible apply modTile_keeps
    | with_reducible apply setOp_keeps
    | with_reducible apply Keeps.modGlbAny
    | with_reducible apply Keeps.iteTest
    | ((with_reducible change GlbOk _); exact ‹GlbOk _›)
    | split
    | dsimp only)

theorem execDrainComplete_keeps {s t : State} (h : Keeps s t) (tile : Nat) (upset : List (Nat × Nat)) (merge : ReadOutcome) :
    ResKeeps s (execDrainComplete tile upset merge t) := by
  unfold execDrainComplete
  repeat' (first
    | with_reducible assumption
    | intro _
    | with_reducible apply drainBook_keeps
    | with_reducible apply drainSweep_keeps
    | with_reducible apply modTile_keeps
    | with_reducible apply writeNow_keeps
    | with_reducible apply Keeps.iteTest
    | with_reducible apply ResKeeps.next
    | with_reducible apply ResKeeps.iteTest
    | split
    | dsimp only)

theorem dealRepeats_keeps {s t : State} (h : Keeps s t) (t' : Tile) (d : Tile) :
    Keeps s (dealRepeats t t' d) := by
  unfold dealRepeats
  repeat' (first
    | with_reducible assumption
    | ((with_reducible change ∀ x, MasterOk x → MasterOk _); exact fun _ k => k)
    | intro _
    | with_reducible apply refillRegion_keeps
    | with_reducible apply updBanks_keeps
    | with_reducible apply Keeps.modMasterAny
    | dsimp only)

theorem execDuplicateCompare_keeps {s t : State} (h : Keeps s t) (tile : Nat) :
    ResKeeps s (execDuplicateCompare tile t) := by
  unfold execDuplicateCompare
  repeat' (first
    | with_reducible assumption
    | ((with_reducible change ∀ x, GlbOk x → GlbOk _); exact fun _ k => { k with })
    | ((with_reducible change ∀ x, GlbOk x → GlbOk _); intro _ k; split <;> exact { k with })
    | exact fun _ k => { k with mismatches := capAdd_le _ _ _ }
    | with_reducible refine dealCopy_keeps ?_ ‹_›
    | intro _
    | with_reducible apply dealRepeats_keeps
    | with_reducible apply dropCopies_keeps
    | with_reducible apply modTile_keeps
    | with_reducible apply noVerdict_keeps
    | with_reducible apply setOp_keeps
    | with_reducible apply verifyTile_keeps
    | with_reducible apply Keeps.modGlbAny
    | with_reducible apply Keeps.iteTest
    | with_reducible apply ResKeeps.next
    | with_reducible apply ResKeeps.iteTest
    | ((with_reducible change GlbOk _); exact ‹GlbOk _›)
    | split
    | dsimp only)

theorem nameRegion_keeps {s t : State} (h : Keeps s t) (r : Nat) :
    Keeps s (nameRegion t r) := by
  unfold nameRegion
  repeat' (first
    | with_reducible assumption
    | with_reducible apply failRegion_keeps
    | with_reducible apply recordFault_keeps)

theorem verdictRecord_keeps {s t : State} (h : Keeps s t) (t' : Tile) (d : Tile) (v : Tile) (verdict : Nat) (named : List Nat) :
    Keeps s (verdictRecord t t' d v verdict named) := by
  unfold verdictRecord
  repeat' (first
    | with_reducible assumption
    | with_reducible apply dropCopies_keeps
    | with_reducible apply dupRecord_keeps)

theorem execVoteVerdict_keeps {s t : State} (h : Keeps s t) (tile : Nat) :
    ResKeeps s (execVoteVerdict tile t) := by
  unfold execVoteVerdict
  repeat' (first
    | with_reducible assumption
    | with_reducible apply nameRegion_keeps
    | with_reducible apply verdictRecord_keeps
    | with_reducible apply Keeps.iteTest
    | with_reducible apply ResKeeps.next
    | with_reducible apply ResKeeps.iteTest
    | split)

theorem permanent_keeps {s t : State} (h : Keeps s t) (r : Nat) :
    Keeps s (permanent t r) := by
  unfold permanent
  repeat' (first
    | with_reducible assumption
    | with_reducible apply failRegion_keeps
    | with_reducible apply recordFaultOnly_keeps
    | with_reducible apply retireUnit_keeps)

theorem transientReplay_keeps {s t : State} (h : Keeps s t) (t' : Tile) :
    Keeps s (transientReplay t t') := by
  unfold transientReplay
  repeat' (first
    | with_reducible assumption
    | with_reducible apply abandon_keeps
    | with_reducible apply replayDeal_keeps
    | with_reducible apply Keeps.iteTest
    | split)

theorem repeatRecord_keeps {s t : State} (h : Keeps s t) (t' : Tile) (d : Tile) (v : Tile) (verdict : Nat) (cls : Nat) (fails : Bool) :
    Keeps s (repeatRecord t t' d v verdict cls fails) := by
  unfold repeatRecord
  repeat' (first
    | with_reducible assumption
    | with_reducible apply dropCopies_keeps
    | with_reducible apply dupRecord_keeps)

theorem permanents_keeps {s t : State} (h : Keeps s t) (t' : Tile) (d : Tile) (v : Tile) (verdict : Nat) (rs : List Nat) :
    Keeps s (permanents t t' d v verdict rs) := by
  unfold permanents
  repeat' (first
    | with_reducible assumption
    | intro _
    | with_reducible apply permanent_keeps
    | with_reducible apply repeatRecord_keeps
    | with_reducible apply Keeps.foldl)

theorem transients_keeps {s t : State} (h : Keeps s t) (o : Op) (t' : Tile) (d : Tile) (v : Tile) :
    Keeps s (transients t o t' d v) := by
  unfold transients
  repeat' (first
    | with_reducible assumption
    | with_reducible apply repeatRecord_keeps
    | with_reducible apply transientReplay_keeps
    | with_reducible apply verifyTile_keeps
    | with_reducible apply Keeps.iteTest
    | split)

theorem execRepeatVerdict_keeps {s t : State} (h : Keeps s t) (tile : Nat) :
    ResKeeps s (execRepeatVerdict tile t) := by
  unfold execRepeatVerdict
  repeat' (first
    | with_reducible assumption
    | with_reducible apply permanents_keeps
    | with_reducible apply transients_keeps
    | with_reducible apply Keeps.iteTest
    | with_reducible apply ResKeeps.next
    | with_reducible apply ResKeeps.iteTest
    | split)

theorem commitOrEnd_keeps {s t : State} (h : Keeps s t) (reads : ReadOutcome) :
    Keeps s (commitOrEnd t reads) := by
  unfold commitOrEnd
  repeat' (first
    | with_reducible assumption
    | intro _
    | with_reducible apply abandonSignal_keeps
    | with_reducible apply commitNow_keeps
    | with_reducible apply readNow_keeps
    | with_reducible apply runRecord_keeps
    | with_reducible apply seenState_keeps
    | with_reducible apply Keeps.iteTest
    | split
    | dsimp only)

theorem execCommit_keeps {s t : State} (h : Keeps s t) (reads : ReadOutcome := ReadOutcome.clean) :
    ResKeeps s (execCommit t reads) := by
  unfold execCommit
  repeat' (first
    | with_reducible assumption
    | with_reducible apply commitOrEnd_keeps
    | with_reducible apply ResKeeps.next)

theorem execRegionHeartbeat_keeps {s t : State} (h : Keeps s t) (region : Nat) (vcore : Nat := 1024) (age : Nat := 0) :
    ResKeeps s (execRegionHeartbeat region t vcore age) := by
  unfold execRegionHeartbeat
  repeat' (first
    | with_reducible assumption
    | ((with_reducible change Inv _ → ∀ x, x ∈ _ → RegionOk x → RegionOk _); exact fun _ _ _ k => { k with })
    | ((with_reducible change Inv _ → ∀ x, x ∈ _ → RegionOk x → RegionOk _); intro _ _ _ k; split <;> exact { k with })
    | intro _
    | with_reducible apply noteRail_keeps
    | with_reducible apply onUnit_keeps
    | with_reducible apply Keeps.modRegion
    | with_reducible apply Keeps.iteTest
    | with_reducible apply ResKeeps.next
    | with_reducible apply ResKeeps.onUnit
    | with_reducible apply ResKeeps.iteTest
    | ((with_reducible change RegionOk _); exact ‹RegionOk _›)
    | split
    | dsimp only)

theorem execHeartbeatCheck_keeps {s t : State} (h : Keeps s t) (field : Nat) :
    ResKeeps s (execHeartbeatCheck field t) := by
  unfold execHeartbeatCheck
  repeat' (first
    | with_reducible assumption
    | intro _
    | with_reducible apply failRegion_keeps
    | with_reducible apply onUnit_keeps
    | with_reducible apply Keeps.foldl
    | with_reducible apply Keeps.iteTest
    | with_reducible apply ResKeeps.next
    | with_reducible apply ResKeeps.onUnit
    | with_reducible apply ResKeeps.iteTest
    | split)

theorem execRegionFlitParityError_keeps {s t : State} (h : Keeps s t) (region : Nat) :
    ResKeeps s (execRegionFlitParityError region t) := by
  unfold execRegionFlitParityError
  repeat' (first
    | with_reducible assumption
    | with_reducible apply failRegion_keeps
    | with_reducible apply onUnit_keeps
    | with_reducible apply postError_keeps
    | with_reducible apply Keeps.iteTest
    | with_reducible apply ResKeeps.next
    | with_reducible apply ResKeeps.onUnit
    | with_reducible apply ResKeeps.iteTest
    | split)

theorem execRegionFailed_keeps {s t : State} (h : Keeps s t) (region : Nat) (cause : FailCause) :
    ResKeeps s (execRegionFailed region cause t) := by
  unfold execRegionFailed
  repeat' (first
    | with_reducible assumption
    | with_reducible apply failRegion_keeps
    | with_reducible apply nameRegion_keeps
    | with_reducible apply onUnit_keeps
    | with_reducible apply ResKeeps.next
    | with_reducible apply ResKeeps.onUnit
    | split)

theorem execWeaveRebuildComplete_keeps {s t : State} (h : Keeps s t) :
    ResKeeps s (execWeaveRebuildComplete t) := by
  unfold execWeaveRebuildComplete
  repeat' (first
    | with_reducible assumption
    | with_reducible apply rebuildDone_keeps
    | with_reducible apply ResKeeps.next)

/-! ### Machine/PowerOps.lean -/

theorem failUnit_keeps {s t : State} (h : Keeps s t) (k : UnitKind) (i : Nat) :
    Keeps s (failUnit t k i) := by
  unfold failUnit
  repeat' (first
    | with_reducible assumption
    | with_reducible apply recordFault_keeps
    | with_reducible apply retireUnit_keeps)

theorem stopEverything_keeps {s t : State} (h : Keeps s t) (k : UnitKind) (i : Nat) :
    Keeps s (stopEverything t k i) := by
  unfold stopEverything
  repeat' (first
    | with_reducible assumption
    | intro _
    | with_reducible apply abandonAside_keeps
    | with_reducible apply stopAllRings_keeps
    | with_reducible apply updAllBanks_keeps
    | with_reducible apply Keeps.foldl)

theorem farrierAbandon_keeps {s t : State} (h : Keeps s t) :
    Keeps s (farrierAbandon t) := by
  unfold farrierAbandon
  repeat' (first
    | with_reducible assumption
    | intro _
    | with_reducible apply postEvent_keeps
    | with_reducible apply regionOff_keeps
    | with_reducible apply updBanks_keeps
    | with_reducible apply Keeps.modFarrier
    | with_reducible apply Keeps.iteTest
    | split
    | dsimp only)

theorem noteStress_keeps {s t : State} (h : Keeps s t) :
    Keeps s (noteStress t) := by
  unfold noteStress
  repeat' (first
    | with_reducible assumption
    | intro _
    | with_reducible apply Keeps.modFarrier
    | with_reducible apply Keeps.iteTest
    | exact Keeps.to h rfl fun i => { i with }
    | split)

theorem farrierAbandonAt_keeps {s t : State} (h : Keeps s t) (r : Nat) :
    Keeps s (farrierAbandonAt t r) := by
  unfold farrierAbandonAt
  repeat' (first
    | with_reducible assumption
    | with_reducible apply farrierAbandon_keeps
    | with_reducible apply Keeps.iteTest
    | split)

theorem recordUnitFailed_keeps {s t : State} (h : Keeps s t) (k : UnitKind) (i : Nat) :
    Keeps s (recordUnitFailed t k i) := by
  unfold recordUnitFailed
  repeat' (first
    | with_reducible assumption
    | with_reducible apply postError_keeps)

theorem unitNeeded_keeps {s t : State} (h : Keeps s t) (k : UnitKind) (i : Nat) (needs : Op → Bool) :
    Keeps s (unitNeeded t k i needs) := by
  unfold unitNeeded
  repeat' (first
    | with_reducible assumption
    | intro _
    | with_reducible apply abandonAside_keeps
    | with_reducible apply abandonUnitAt_keeps
    | with_reducible apply recordUnitFailed_keeps
    | with_reducible apply Keeps.foldl
    | with_reducible apply Keeps.iteTest
    | split
    | dsimp only)

theorem stackNeeded_keeps {s t : State} (h : Keeps s t) (m : Nat) :
    Keeps s (stackNeeded t m) := by
  unfold stackNeeded
  repeat' (first
    | with_reducible assumption
    | with_reducible apply unitNeeded_keeps)

theorem stackFail_keeps {s t : State} (h : Keeps s t) (m : Nat) :
    Keeps s (stackFail t m) := by
  unfold stackFail
  repeat' (first
    | with_reducible assumption
    | ((with_reducible change Inv _ → ∀ x, x ∈ _ → StackOk x → StackOk _); exact fun _ _ _ k => { k with })
    | ((with_reducible change ∀ x, GlbOk x → GlbOk _); exact fun _ k => { k with })
    | intro _
    | with_reducible apply failUnit_keeps
    | with_reducible apply postEvent_keeps
    | with_reducible apply stackNeeded_keeps
    | with_reducible apply Keeps.modStack
    | with_reducible apply Keeps.modGlbAny
    | with_reducible apply Keeps.iteTest
    | ((with_reducible change GlbOk _); exact ‹GlbOk _›)
    | ((with_reducible change StackOk _); exact ‹StackOk _›)
    | split
    | dsimp only)

theorem trainedStack_keeps {s t : State} (h : Keeps s t) (m : Nat) (temp : Nat) (lanes : List (Nat × Nat)) :
    Keeps s (trainedStack t m temp lanes) := by
  unfold trainedStack
  repeat' (first
    | with_reducible assumption
    | ((with_reducible change Inv _ → ∀ x, x ∈ _ → StackOk x → StackOk _); exact fun _ _ _ k => { k with })
    | intro _
    | with_reducible apply Keeps.modStack)

theorem noteLanes_keeps {s t : State} (h : Keeps s t) (m : Nat) (lanes : List (Nat × Nat)) :
    Keeps s (noteLanes t m lanes) := by
  unfold noteLanes
  repeat' (first
    | with_reducible assumption
    | intro _
    | with_reducible apply noteRepairs_keeps
    | with_reducible apply Keeps.foldl
    | with_reducible apply Keeps.iteTest
    | split
    | dsimp only)

theorem edgeDown_keeps {s t : State} (h : Keeps s t) (f : Nat) (d : Nat) :
    Keeps s (edgeDown t f d) := by
  unfold edgeDown
  dsimp only
  split
  · exact Keeps.modEdge (Keeps.modEdge h fun _ k => { k with fifo := noneQueued 32 }) fun _ k => { k with fifo := noneQueued 32 }
  · exact h

theorem joinDown_keeps {s t : State} (h : Keeps s t) (f : Nat) (d : Nat) :
    Keeps s (joinDown t f d) := by
  unfold joinDown
  repeat' (first
    | with_reducible assumption
    | with_reducible apply edgeDown_keeps
    | with_reducible apply postEvent_keeps
    | with_reducible apply Keeps.iteTest
    | split)

theorem retireJoin_keeps {s t : State} (h : Keeps s t) (f : Nat) (d : Nat) :
    Keeps s (retireJoin t f d) := by
  unfold retireJoin
  repeat' (first
    | with_reducible assumption
    | intro _
    | with_reducible apply failUnit_keeps
    | with_reducible apply Keeps.foldl
    | split)

theorem joinLost_keeps {s t : State} (h : Keeps s t) (f : Nat) (d : Nat) :
    Keeps s (joinLost t f d) := by
  unfold joinLost
  repeat' (first
    | with_reducible assumption
    | with_reducible apply joinDown_keeps
    | with_reducible apply retireJoin_keeps
    | with_reducible apply Keeps.iteTest
    | split)

theorem joinFails_keeps {s t : State} (h : Keeps s t) (f : Nat) (d : Nat) :
    Keeps s (joinFails t f d) := by
  unfold joinFails
  repeat' (first
    | with_reducible assumption
    | with_reducible apply abandonUnit_keeps
    | with_reducible apply joinLost_keeps
    | with_reducible apply stopEverything_keeps
    | dsimp only)

theorem disableSubLink_keeps {s t : State} (h : Keeps s t) (f : Nat) (d : Nat) (k : Nat) :
    Keeps s (disableSubLink t f d k) := by
  unfold disableSubLink
  repeat' (first
    | with_reducible assumption
    | ((with_reducible change ∀ x, EdgeOk x → EdgeOk _); exact fun _ k => { k with })
    | intro _
    | with_reducible apply recordFault_keeps
    | with_reducible apply Keeps.modEdge
    | ((with_reducible change EdgeOk _); exact ‹EdgeOk _›)
    | exact Keeps.to h rfl fun i => { i with }
    | split
    | dsimp only)

theorem joinCheck_keeps {s t : State} (h : Keeps s t) (f : Nat) (d : Nat) :
    Keeps s (joinCheck t f d) := by
  unfold joinCheck
  repeat' (first
    | with_reducible assumption
    | with_reducible apply joinFails_keeps
    | with_reducible apply Keeps.iteTest
    | split)

theorem setLanding_keeps {s t : State} (h : Keeps s t) (c : Nat) (h' : Nat) (mask : BitVec 12) :
    Keeps s (setLanding t c h' mask) := by
  unfold setLanding
  repeat' (first
    | with_reducible assumption
    | ((with_reducible change ∀ x, PowerOk x → PowerOk _); exact fun _ k => { k with })
    | intro _
    | with_reducible apply Keeps.modPwrAny)

theorem dieLinksOff_keeps {s t : State} (h : Keeps s t) (c : Nat) :
    Keeps s (dieLinksOff t c) := by
  unfold dieLinksOff
  refine Keeps.foldl _ (fun v x k => Keeps.modLink k fun _ _ _ y => ?_) h
  exact { y with retry := Nat.zero_le _ }

theorem dieCut_keeps {s t : State} (h : Keeps s t) (c : Nat) :
    Keeps s (dieCut t c) := by
  unfold dieCut
  repeat' (first
    | with_reducible assumption
    | with_reducible apply dieLinksOff_keeps
    | with_reducible apply unitNeeded_keeps
    | with_reducible apply Keeps.iteTest
    | split
    | dsimp only)

theorem disableLanding_keeps {s t : State} (h : Keeps s t) (f : Nat) (c : Nat) (h' : Nat) (k : Nat) :
    Keeps s (disableLanding t f c h' k) := by
  unfold disableLanding
  repeat' (first
    | with_reducible assumption
    | with_reducible apply recordFault_keeps
    | with_reducible apply setLanding_keeps)

theorem landingCheck_keeps {s t : State} (h : Keeps s t) (f : Nat) (c : Nat) (h' : Nat) :
    Keeps s (landingCheck t f c h') := by
  unfold landingCheck
  repeat' (first
    | with_reducible assumption
    | intro _
    | with_reducible apply dieCut_keeps
    | with_reducible apply failUnit_keeps
    | with_reducible apply Keeps.foldl
    | with_reducible apply Keeps.iteTest
    | split)

theorem loseLandings_keeps {s t : State} (h : Keeps s t) (f : Nat) :
    Keeps s (loseLandings t f) := by
  unfold loseLandings
  repeat' (first
    | with_reducible assumption
    | ((with_reducible change ∀ x, PowerOk x → PowerOk _); exact fun _ k => { k with })
    | ((with_reducible change ∀ x, PowerOk x → PowerOk _); intro _ k; split <;> exact { k with })
    | intro _
    | with_reducible apply abandonUnit_keeps
    | with_reducible apply dieCut_keeps
    | with_reducible apply failUnit_keeps
    | with_reducible apply setLanding_keeps
    | with_reducible apply stopEverything_keeps
    | with_reducible apply Keeps.modPwrAny
    | with_reducible apply Keeps.iteTest
    | ((with_reducible change PowerOk _); exact ‹PowerOk _›)
    | split
    | dsimp only)

theorem fieldRegionsOff_keeps {s t : State} (h : Keeps s t) (f : Nat) :
    Keeps s (fieldRegionsOff t f) := by
  unfold fieldRegionsOff
  repeat' (first
    | with_reducible assumption
    | intro _
    | with_reducible apply leaveWeave_keeps
    | with_reducible apply regionOff_keeps
    | with_reducible apply Keeps.foldl
    | with_reducible apply Keeps.iteTest
    | split)

theorem keepVplane_keeps {s t : State} (h : Keeps s t) (f : Nat) :
    Keeps s (keepVplane t f) := by
  unfold keepVplane
  repeat' (first
    | with_reducible assumption
    | ((with_reducible change Inv _ → ∀ x, x ∈ _ → FieldOk x → FieldOk _); exact fun _ _ _ k => { k with })
    | intro _
    | with_reducible apply bumpFree_keeps
    | with_reducible apply Keeps.modField
    | with_reducible apply Keeps.iteTest
    | ((with_reducible change FieldOk _); exact ‹FieldOk _›)
    | split)

theorem spineOff_keeps {s t : State} (h : Keeps s t) (f : Nat) :
    Keeps s (spineOff t f) := by
  unfold spineOff
  repeat' (first
    | with_reducible assumption
    | ((with_reducible change Inv _ → ∀ x, x ∈ _ → FieldOk x → FieldOk _); exact fun _ _ _ k => { k with })
    | intro _
    | with_reducible apply keepVplane_keeps
    | with_reducible apply Keeps.modField)

theorem dropPlacement_keeps {s t : State} (h : Keeps s t) :
    Keeps s (dropPlacement t) := by
  unfold dropPlacement
  repeat' (first
    | with_reducible assumption
    | ((with_reducible change ∀ x, MasterOk x → MasterOk _); exact fun _ k => k)
    | intro _
    | with_reducible apply keepTiles_keeps
    | with_reducible apply Keeps.modMasterAny)

theorem endWithSpine_keeps {s t : State} (h : Keeps s t) (f : Nat) :
    Keeps s (endWithSpine t f) := by
  unfold endWithSpine
  repeat' (first
    | with_reducible assumption
    | with_reducible apply abandonUnitAt_keeps
    | split)

theorem fieldLost_keeps {s t : State} (h : Keeps s t) (f : Nat) :
    Keeps s (fieldLost t f) := by
  unfold fieldLost
  repeat' (first
    | with_reducible assumption
    | intro _
    | with_reducible apply dropPlacement_keeps
    | with_reducible apply endWithSpine_keeps
    | with_reducible apply failUnit_keeps
    | with_reducible apply farrierAbandonAt_keeps
    | with_reducible apply fieldRegionsOff_keeps
    | with_reducible apply joinLost_keeps
    | with_reducible apply loseLandings_keeps
    | with_reducible apply publishEvent_keeps
    | with_reducible apply spineOff_keeps
    | with_reducible apply stackFail_keeps
    | with_reducible apply stopEverything_keeps
    | with_reducible apply Keeps.foldl
    | with_reducible apply Keeps.iteTest
    | split
    | dsimp only)

theorem d28Off_keeps {s t : State} (h : Keeps s t) (c : Nat) :
    Keeps s (d28Off t c) := by
  unfold d28Off
  repeat' (first
    | with_reducible assumption
    | intro _
    | with_reducible apply abandonUnit_keeps
    | with_reducible apply joinLost_keeps
    | with_reducible apply loseLandings_keeps
    | with_reducible apply stopEverything_keeps
    | with_reducible apply Keeps.foldl
    | dsimp only)

theorem driveCurb_keeps {s t : State} (h : Keeps s t) :
    Keeps s (driveCurb t) := by
  unfold driveCurb
  repeat' (first
    | with_reducible assumption
    | ((with_reducible change ∀ x, PowerOk x → PowerOk _); exact fun _ k => { k with })
    | intro _
    | with_reducible apply Keeps.modPwrAny)

theorem curbWalk_keeps {s t : State} (h : Keeps s t) :
    Keeps s (curbWalk t) := by
  unfold curbWalk
  repeat' (first
    | with_reducible assumption
    | intro _
    | with_reducible apply setGait_keeps
    | with_reducible apply Keeps.foldl
    | with_reducible apply Keeps.iteTest
    | split)

theorem requestPower_keeps {s t : State} (h : Keeps s t) (r : Nat) :
    Keeps s (requestPower t r) := by
  unfold requestPower
  repeat' (first
    | with_reducible assumption
    | ((with_reducible change Inv _ → ∀ x, x ∈ _ → FieldOk x → FieldOk _); exact fun _ _ _ k => { k with })
    | intro _
    | with_reducible apply Keeps.modField
    | with_reducible apply Keeps.iteTest
    | ((with_reducible change FieldOk _); exact ‹FieldOk _›)
    | split
    | dsimp only)

theorem endSoftStart_keeps {s t : State} (h : Keeps s t) (r : Nat) :
    Keeps s (endSoftStart t r) := by
  unfold endSoftStart
  repeat' (first
    | with_reducible assumption
    | ((with_reducible change Inv _ → ∀ x, x ∈ _ → FieldOk x → FieldOk _); exact fun _ _ _ k => { k with })
    | ((with_reducible change Inv _ → ∀ x, x ∈ _ → FieldOk x → FieldOk _); intro _ _ _ k; split <;> exact { k with })
    | intro _
    | with_reducible apply Keeps.modField
    | with_reducible apply Keeps.iteTest
    | ((with_reducible change FieldOk _); exact ‹FieldOk _›)
    | split)

/-! ### Machine/Power.lean -/

theorem planeUpdate_ok {x : Field} (i : Nat) (h : FieldOk x) : FieldOk (planeUpdate i x) := { h with }

theorem wearUpdate_ok {x : Field} (h : FieldOk x) : FieldOk (wearUpdate x) := by
  refine { h with credit := ?_ }
  have hc := h.credit
  unfold wearUpdate
  dsimp only
  split
  · omega
  · exact Nat.min_le_left _ _

theorem darkUntil_ok {x : Region} (w : Word64) (h : RegionOk x) : RegionOk { x with darkUntil := w } := { h with }

theorem execInputOvercurrent_keeps {s t : State} (h : Keeps s t) :
    ResKeeps s (execInputOvercurrent t) := by
  unfold execInputOvercurrent
  repeat' (first
    | with_reducible assumption
    | with_reducible apply driveCurb_keeps
    | with_reducible apply ResKeeps.next)

theorem execPlaneLow_keeps {s t : State} (h : Keeps s t) (field : Nat) :
    ResKeeps s (execPlaneLow field t) := by
  unfold execPlaneLow
  repeat' (first
    | with_reducible assumption
    | with_reducible apply driveCurb_keeps
    | with_reducible apply onUnit_keeps
    | with_reducible apply ResKeeps.next
    | with_reducible apply ResKeeps.onUnit)

theorem execPlaneAbove30sRating_keeps {s t : State} (h : Keeps s t) (field : Nat) :
    ResKeeps s (execPlaneAbove30sRating field t) := by
  unfold execPlaneAbove30sRating
  repeat' (first
    | with_reducible assumption
    | with_reducible apply driveCurb_keeps
    | with_reducible apply onUnit_keeps
    | with_reducible apply ResKeeps.next
    | with_reducible apply ResKeeps.onUnit)

theorem execStageAbove125c_keeps {s t : State} (h : Keeps s t) (field : Nat) :
    ResKeeps s (execStageAbove125c field t) := by
  unfold execStageAbove125c
  repeat' (first
    | with_reducible assumption
    | with_reducible apply driveCurb_keeps
    | with_reducible apply onUnit_keeps
    | with_reducible apply ResKeeps.next
    | with_reducible apply ResKeeps.onUnit)

theorem slowSoftStarts_keeps {s t : State} (h : Keeps s t) :
    Keeps s (slowSoftStarts t) := by
  unfold slowSoftStarts
  repeat' (first
    | with_reducible assumption
    | ((with_reducible change ∀ x, FieldOk x → FieldOk _); exact fun _ k => by first | exact { k with } | (split <;> exact { k with }))
    | with_reducible apply Keeps.mapFields
    | exact Keeps.to h rfl fun i => { i with })

theorem execCurbNAssert_keeps {s t : State} (h : Keeps s t) (own : Bool) :
    ResKeeps s (execCurbNAssert own t) := by
  unfold execCurbNAssert
  repeat' (first
    | with_reducible assumption
    | ((with_reducible change ∀ x, PowerOk x → PowerOk _); exact fun _ k => { k with })
    | ((with_reducible change ∀ x, PowerOk x → PowerOk _); intro _ k; split <;> exact { k with })
    | exact fun _ k => { k with curbOwnCount := by dsimp only; split <;> first | exact k.curbOwnCount | exact capAdd_le _ _ _, curbExtCount := by dsimp only; split <;> first | exact k.curbExtCount | exact capAdd_le _ _ _ }
    | intro _
    | with_reducible apply curbWalk_keeps
    | with_reducible apply farrierAbandon_keeps
    | with_reducible apply postEvent_keeps
    | with_reducible apply slowSoftStarts_keeps
    | with_reducible apply Keeps.modPwrAny
    | with_reducible apply Keeps.iteTest
    | with_reducible apply ResKeeps.next
    | with_reducible apply ResKeeps.iteTest
    | ((with_reducible change PowerOk _); exact ‹PowerOk _›)
    | split
    | dsimp only)

theorem execCurbNModuleRelease_keeps {s t : State} (h : Keeps s t) :
    ResKeeps s (execCurbNModuleRelease t) := by
  unfold execCurbNModuleRelease
  repeat' (first
    | with_reducible assumption
    | ((with_reducible change ∀ x, PowerOk x → PowerOk _); exact fun _ k => { k with })
    | intro _
    | with_reducible apply Keeps.modPwrAny
    | with_reducible apply ResKeeps.next)

theorem execCurbNExternalRelease_keeps {s t : State} (h : Keeps s t) :
    ResKeeps s (execCurbNExternalRelease t) := by
  unfold execCurbNExternalRelease
  repeat' (first
    | with_reducible assumption
    | ((with_reducible change ∀ x, PowerOk x → PowerOk _); exact fun _ k => { k with })
    | intro _
    | with_reducible apply Keeps.modPwrAny
    | with_reducible apply ResKeeps.next)

theorem execCurbRestore_keeps {s t : State} (h : Keeps s t) :
    ResKeeps s (execCurbRestore t) := by
  unfold execCurbRestore
  repeat' (first
    | with_reducible assumption
    | ((with_reducible change ∀ x, PowerOk x → PowerOk _); exact fun _ k => { k with })
    | ((with_reducible change ∀ x, PowerOk x → PowerOk _); intro _ k; split <;> exact { k with })
    | intro _
    | with_reducible apply startRise_keeps
    | with_reducible apply Keeps.modPwrAny
    | with_reducible apply Keeps.foldl
    | with_reducible apply Keeps.iteTest
    | with_reducible apply ResKeeps.next
    | with_reducible apply ResKeeps.iteTest
    | ((with_reducible change PowerOk _); exact ‹PowerOk _›)
    | split)

theorem planeSwitchOff_keeps {s t : State} (h : Keeps s t) (f : Nat) :
    Keeps s (planeSwitchOff t f) := by
  unfold planeSwitchOff
  repeat' (first
    | with_reducible assumption
    | ((with_reducible change Inv _ → ∀ x, x ∈ _ → FieldOk x → FieldOk _); exact fun _ _ _ k => { k with })
    | intro _
    | with_reducible apply failUnit_keeps
    | with_reducible apply fieldLost_keeps
    | with_reducible apply keepVplane_keeps
    | with_reducible apply Keeps.modField)

theorem execStagePhaseFailure_keeps {s t : State} (h : Keeps s t) (field : Nat) :
    ResKeeps s (execStagePhaseFailure field t) := by
  unfold execStagePhaseFailure
  repeat' (first
    | with_reducible assumption
    | ((with_reducible change Inv _ → ∀ x, x ∈ _ → FieldOk x → FieldOk _); exact fun _ _ _ k => { k with })
    | exact fun _ _ _ k => { k with stageFailed := Nat.min_le_left _ _ }
    | intro _
    | with_reducible apply dropGait_keeps
    | with_reducible apply onUnit_keeps
    | with_reducible apply planeSwitchOff_keeps
    | with_reducible apply Keeps.modField
    | with_reducible apply Keeps.iteTest
    | with_reducible apply ResKeeps.next
    | with_reducible apply ResKeeps.onUnit
    | with_reducible apply ResKeeps.iteTest
    | ((with_reducible change FieldOk _); exact ‹FieldOk _›)
    | split
    | dsimp only)

theorem execPlaneSenseLost_keeps {s t : State} (h : Keeps s t) (field : Nat) :
    ResKeeps s (execPlaneSenseLost field t) := by
  unfold execPlaneSenseLost
  repeat' (first
    | with_reducible assumption
    | ((with_reducible change Inv _ → ∀ x, x ∈ _ → FieldOk x → FieldOk _); exact fun _ _ _ k => { k with })
    | ((with_reducible change Inv _ → ∀ x, x ∈ _ → FieldOk x → FieldOk _); intro _ _ _ k; split <;> exact { k with })
    | intro _
    | with_reducible apply dropGait_keeps
    | with_reducible apply onUnit_keeps
    | with_reducible apply postEvent_keeps
    | with_reducible apply recordFaultOnly_keeps
    | with_reducible apply Keeps.modField
    | with_reducible apply Keeps.iteTest
    | with_reducible apply ResKeeps.next
    | with_reducible apply ResKeeps.onUnit
    | with_reducible apply ResKeeps.iteTest
    | ((with_reducible change FieldOk _); exact ‹FieldOk _›)
    | split
    | dsimp only)

theorem execPlaneCollapse_keeps {s t : State} (h : Keeps s t) (field : Nat) :
    ResKeeps s (execPlaneCollapse field t) := by
  unfold execPlaneCollapse
  repeat' (first
    | with_reducible assumption
    | with_reducible apply onUnit_keeps
    | with_reducible apply planeSwitchOff_keeps
    | with_reducible apply Keeps.iteTest
    | with_reducible apply ResKeeps.next
    | with_reducible apply ResKeeps.onUnit
    | with_reducible apply ResKeeps.iteTest
    | split)

theorem execIvrPhaseLost_keeps {s t : State} (h : Keeps s t) (region : Nat) (phase : Nat) :
    ResKeeps s (execIvrPhaseLost region phase t) := by
  unfold execIvrPhaseLost
  repeat' (first
    | with_reducible assumption
    | ((with_reducible change Inv _ → ∀ x, x ∈ _ → RegionOk x → RegionOk _); exact fun _ _ _ k => { k with })
    | ((with_reducible change Inv _ → ∀ x, x ∈ _ → RegionOk x → RegionOk _); intro _ _ _ k; split <;> exact { k with })
    | intro _
    | with_reducible apply dropGait_keeps
    | with_reducible apply endSoftStart_keeps
    | with_reducible apply failRegion_keeps
    | with_reducible apply farrierAbandonAt_keeps
    | with_reducible apply onUnit_keeps
    | with_reducible apply postFieldEvent_keeps
    | with_reducible apply recordFault_keeps
    | with_reducible apply regionOff_keeps
    | with_reducible apply Keeps.modRegion
    | with_reducible apply Keeps.iteTest
    | with_reducible apply ResKeeps.next
    | with_reducible apply ResKeeps.onUnit
    | with_reducible apply ResKeeps.iteTest
    | ((with_reducible change RegionOk _); exact ‹RegionOk _›)
    | split
    | dsimp only)

theorem execSpineIvrLoss_keeps {s t : State} (h : Keeps s t) (spine : Bool) (unit : Nat) (lost : Nat) :
    ResKeeps s (execSpineIvrLoss spine unit lost t) := by
  unfold execSpineIvrLoss
  repeat' (first
    | with_reducible assumption
    | ((with_reducible change Inv _ → ∀ x, x ∈ _ → FieldOk x → FieldOk _); exact fun _ _ _ k => { k with })
    | ((with_reducible change ∀ x, PowerOk x → PowerOk _); exact fun _ k => { k with })
    | intro _
    | with_reducible apply d28Off_keeps
    | with_reducible apply fieldLost_keeps
    | with_reducible apply onUnit_keeps
    | with_reducible apply Keeps.modField
    | with_reducible apply Keeps.modPwrAny
    | with_reducible apply Keeps.iteTest
    | with_reducible apply ResKeeps.next
    | with_reducible apply ResKeeps.onUnit
    | with_reducible apply ResKeeps.iteTest
    | ((with_reducible change FieldOk _); exact ‹FieldOk _›)
    | ((with_reducible change PowerOk _); exact ‹PowerOk _›)
    | split
    | dsimp only)

theorem blowFuse_keeps {s t : State} (h : Keeps s t) (r : Nat) :
    Keeps s (blowFuse t r) := by
  unfold blowFuse
  repeat' (first
    | with_reducible assumption
    | ((with_reducible change Inv _ → ∀ x, x ∈ _ → RegionOk x → RegionOk _); exact fun _ _ _ k => { k with })
    | intro _
    | with_reducible apply retireUnit_keeps
    | with_reducible apply Keeps.modRegion
    | with_reducible apply Keeps.iteTest
    | ((with_reducible change RegionOk _); exact ‹RegionOk _›)
    | split)

theorem execEfuseOpening_keeps {s t : State} (h : Keeps s t) (region : Nat) :
    ResKeeps s (execEfuseOpening region t) := by
  unfold execEfuseOpening
  repeat' (first
    | with_reducible assumption
    | ((with_reducible change Inv _ → ∀ x, x ∈ _ → RegionOk x → RegionOk _); exact fun _ _ _ k => { k with })
    | exact fun _ _ _ k => { k with efuseOpenings := Nat.min_le_left _ _ }
    | intro _
    | with_reducible apply blowFuse_keeps
    | with_reducible apply endSoftStart_keeps
    | with_reducible apply failRegion_keeps
    | with_reducible apply farrierAbandonAt_keeps
    | with_reducible apply noteOpening_keeps
    | with_reducible apply onUnit_keeps
    | with_reducible apply postEvent_keeps
    | with_reducible apply regionOff_keeps
    | with_reducible apply Keeps.modRegion
    | with_reducible apply Keeps.iteTest
    | with_reducible apply ResKeeps.next
    | with_reducible apply ResKeeps.onUnit
    | with_reducible apply ResKeeps.iteTest
    | ((with_reducible change RegionOk _); exact ‹RegionOk _›)
    | split
    | dsimp only)

theorem execRegionPowerUpRequest_keeps {s t : State} (h : Keeps s t) (region : Nat) :
    ResKeeps s (execRegionPowerUpRequest region t) := by
  unfold execRegionPowerUpRequest
  repeat' (first
    | with_reducible assumption
    | with_reducible apply onUnit_keeps
    | with_reducible apply requestPower_keeps
    | with_reducible apply ResKeeps.next
    | with_reducible apply ResKeeps.onUnit)

theorem beginSoftStart_keeps {s t : State} (h : Keeps s t) (f : Nat) (slow : Bool) (headroom : Bool) :
    Keeps s (beginSoftStart t f slow headroom) := by
  unfold beginSoftStart
  repeat' (first
    | with_reducible assumption
    | ((with_reducible change Inv _ → ∀ x, x ∈ _ → FieldOk x → FieldOk _); exact fun _ _ _ k => { k with })
    | intro _
    | with_reducible apply Keeps.modField
    | ((with_reducible change FieldOk _); exact ‹FieldOk _›)
    | split)

theorem execSoftStartBegin_keeps {s t : State} (h : Keeps s t) (field : Nat) :
    ResKeeps s (execSoftStartBegin field t) := by
  unfold execSoftStartBegin
  repeat' (first
    | with_reducible assumption
    | with_reducible apply beginSoftStart_keeps
    | with_reducible apply onUnit_keeps
    | with_reducible apply ResKeeps.next
    | with_reducible apply ResKeeps.onUnit)

theorem execSoftStartSlow_keeps {s t : State} (h : Keeps s t) (field : Nat) :
    ResKeeps s (execSoftStartSlow field t) := by
  unfold execSoftStartSlow
  repeat' (first
    | with_reducible assumption
    | with_reducible apply beginSoftStart_keeps
    | with_reducible apply onUnit_keeps
    | with_reducible apply ResKeeps.next
    | with_reducible apply ResKeeps.onUnit)

theorem powerOnRegion_keeps {s t : State} (h : Keeps s t) (r : Nat) (vcore : Nat) (temp : Nat) :
    Keeps s (powerOnRegion t r vcore temp) := by
  unfold powerOnRegion
  repeat' (first
    | with_reducible assumption
    | ((with_reducible change Inv _ → ∀ x, x ∈ _ → RegionOk x → RegionOk _); exact fun _ _ _ k => { k with })
    | exact fun _ _ _ k => sampleRail_ok _ _ k
    | intro _
    | with_reducible apply noteRail_keeps
    | with_reducible apply updBanks_keeps
    | with_reducible apply Keeps.modRegion)

theorem heatReturn_keeps {s t : State} (h : Keeps s t) (r : Nat) (temp : Nat) :
    Keeps s (heatReturn t r temp) := by
  unfold heatReturn
  repeat' (first
    | with_reducible assumption
    | exact fun _ _ _ k => darkUntil_ok _ k
    | ((with_reducible change Inv _ → ∀ x, x ∈ _ → RegionOk x → RegionOk _); exact fun _ _ _ k => { k with })
    | intro _
    | with_reducible apply dropGait_keeps
    | with_reducible apply publishEvent_keeps
    | with_reducible apply regionOff_keeps
    | with_reducible apply updBanks_keeps
    | with_reducible apply Keeps.modRegion
    | with_reducible apply Keeps.iteTest
    | ((with_reducible change RegionOk _); exact ‹RegionOk _›)
    | split)

theorem hardReturn_keeps {s t : State} (h : Keeps s t) (r : Nat) (temp : Nat) :
    Keeps s (hardReturn t r temp) := by
  unfold hardReturn
  repeat' (first
    | with_reducible assumption
    | exact fun _ _ _ k => darkUntil_ok _ k
    | ((with_reducible change Inv _ → ∀ x, x ∈ _ → RegionOk x → RegionOk _); exact fun _ _ _ k => { k with })
    | intro _
    | with_reducible apply regionOff_keeps
    | with_reducible apply Keeps.modRegion
    | with_reducible apply Keeps.modFarrier
    | with_reducible apply Keeps.iteTest
    | ((with_reducible change RegionOk _); exact ‹RegionOk _›)
    | split
    | dsimp only)

theorem execSoftStartEnd_keeps {s t : State} (h : Keeps s t) (field : Nat) (vcore : Nat) (temp : Nat) :
    ResKeeps s (execSoftStartEnd field vcore temp t) := by
  unfold execSoftStartEnd
  repeat' (first
    | with_reducible assumption
    | ((with_reducible change Inv _ → ∀ x, x ∈ _ → FieldOk x → FieldOk _); exact fun _ _ _ k => { k with })
    | ((with_reducible change Inv _ → ∀ x, x ∈ _ → FieldOk x → FieldOk _); intro _ _ _ k; split <;> exact { k with })
    | intro _
    | with_reducible apply hardReturn_keeps
    | with_reducible apply heatReturn_keeps
    | with_reducible apply onUnit_keeps
    | with_reducible apply powerOnRegion_keeps
    | with_reducible apply Keeps.modField
    | with_reducible apply Keeps.iteTest
    | with_reducible apply ResKeeps.next
    | with_reducible apply ResKeeps.onUnit
    | with_reducible apply ResKeeps.iteTest
    | ((with_reducible change FieldOk _); exact ‹FieldOk _›)
    | split
    | dsimp only)

theorem execGallopLimitUpdate_keeps {s t : State} (h : Keeps s t) (powerIn : Nat) (iPlane : List Nat) :
    ResKeeps s (execGallopLimitUpdate powerIn iPlane t) := by
  refine .next (dropAll_keeps (Keeps.modPwrAny (h.to rfl fun i => ?_) fun _ k => { k with }))
  exact
    { i with
      fieldCount := by simpa using i.fieldCount
      fields := forall_mem_zipIdx_map i.fields fun _ _ k => wearUpdate_ok (planeUpdate_ok _ k) }

theorem execWearCreditCheckpoint_keeps {s t : State} (h : Keeps s t) :
    ResKeeps s (execWearCreditCheckpoint t) := by
  unfold execWearCreditCheckpoint
  refine .next (.iteTest (h.to rfl fun i => { i with stud := { i.stud with creditCkpt := forall_mem_map i.fields fun x k => ?_ } }) h)
  have := k.credit
  unfold fullCredit at this
  omega

theorem execPowerCapCompare_keeps {s t : State} (h : Keeps s t) (powerIn : Nat) :
    ResKeeps s (execPowerCapCompare powerIn t) := by
  unfold execPowerCapCompare
  repeat' (first
    | with_reducible assumption
    | ((with_reducible change Inv _ → ∀ x, x ∈ _ → FieldOk x → FieldOk _); exact fun _ _ _ k => { k with })
    | ((with_reducible change Inv _ → ∀ x, x ∈ _ → FieldOk x → FieldOk _); intro _ _ _ k; split <;> exact { k with })
    | ((with_reducible change ∀ x, PowerOk x → PowerOk _); exact fun _ k => { k with })
    | ((with_reducible change ∀ x, PowerOk x → PowerOk _); intro _ k; split <;> exact { k with })
    | intro _
    | with_reducible apply dropGait_keeps
    | with_reducible apply postEvent_keeps
    | with_reducible apply Keeps.modField
    | with_reducible apply Keeps.modPwrAny
    | with_reducible apply Keeps.iteTest
    | with_reducible apply ResKeeps.next
    | with_reducible apply ResKeeps.iteTest
    | ((with_reducible change FieldOk _); exact ‹FieldOk _›)
    | ((with_reducible change PowerOk _); exact ‹PowerOk _›)
    | split
    | dsimp only)

theorem execPowerCapRaise_keeps {s t : State} (h : Keeps s t) (powerIn : Nat) :
    ResKeeps s (execPowerCapRaise powerIn t) := by
  unfold execPowerCapRaise
  repeat' (first
    | with_reducible assumption
    | ((with_reducible change Inv _ → ∀ x, x ∈ _ → FieldOk x → FieldOk _); exact fun _ _ _ k => { k with })
    | ((with_reducible change Inv _ → ∀ x, x ∈ _ → FieldOk x → FieldOk _); intro _ _ _ k; split <;> exact { k with })
    | ((with_reducible change ∀ x, PowerOk x → PowerOk _); exact fun _ k => { k with })
    | ((with_reducible change ∀ x, PowerOk x → PowerOk _); intro _ k; split <;> exact { k with })
    | intro _
    | with_reducible apply startRise_keeps
    | with_reducible apply Keeps.modField
    | with_reducible apply Keeps.modPwrAny
    | with_reducible apply Keeps.iteTest
    | with_reducible apply ResKeeps.next
    | with_reducible apply ResKeeps.iteTest
    | ((with_reducible change FieldOk _); exact ‹FieldOk _›)
    | ((with_reducible change PowerOk _); exact ‹PowerOk _›)
    | split
    | dsimp only)

/-! ### Machine/Thermal.lean -/

theorem heatSwitchOff_keeps {s t : State} (h : Keeps s t) (r : Nat) :
    Keeps s (heatSwitchOff t r) := by
  unfold heatSwitchOff
  repeat' (first
    | with_reducible assumption
    | ((with_reducible change Inv _ → ∀ x, x ∈ _ → RegionOk x → RegionOk _); exact fun _ _ _ k => { k with })
    | intro _
    | with_reducible apply leaveWeave_keeps
    | with_reducible apply publishEvent_keeps
    | with_reducible apply Keeps.modRegion)

theorem markHeat_keeps {s t : State} (h : Keeps s t) (r : Nat) :
    Keeps s (markHeat t r) := by
  unfold markHeat
  repeat' (first
    | with_reducible assumption
    | ((with_reducible change Inv _ → ∀ x, x ∈ _ → FieldOk x → FieldOk _); exact fun _ _ _ k => { k with })
    | ((with_reducible change Inv _ → ∀ x, x ∈ _ → RegionOk x → RegionOk _); exact fun _ _ _ k => { k with })
    | intro _
    | with_reducible apply heatSwitchOff_keeps
    | with_reducible apply Keeps.modField
    | with_reducible apply Keeps.modRegion
    | with_reducible apply Keeps.iteTest
    | ((with_reducible change FieldOk _); exact ‹FieldOk _›)
    | ((with_reducible change RegionOk _); exact ‹RegionOk _›)
    | split
    | dsimp only)

theorem hardLimit_keeps {s t : State} (h : Keeps s t) (r : Nat) :
    Keeps s (hardLimit t r) := by
  unfold hardLimit
  repeat' (first
    | with_reducible assumption
    | ((with_reducible change Inv _ → ∀ x, x ∈ _ → RegionOk x → RegionOk _); exact fun _ _ _ k => { k with })
    | intro _
    | with_reducible apply failRegion_keeps
    | with_reducible apply farrierAbandonAt_keeps
    | with_reducible apply Keeps.modRegion)

theorem tempDrop_keeps {s t : State} (h : Keeps s t) (f : Nat) :
    Keeps s (tempDrop t f) := by
  unfold tempDrop
  repeat' (first
    | with_reducible assumption
    | ((with_reducible change Inv _ → ∀ x, x ∈ _ → FieldOk x → FieldOk _); exact fun _ _ _ k => { k with })
    | ((with_reducible change Inv _ → ∀ x, x ∈ _ → FieldOk x → FieldOk _); intro _ _ _ k; split <;> exact { k with })
    | intro _
    | with_reducible apply dropGait_keeps
    | with_reducible apply Keeps.modField
    | with_reducible apply Keeps.iteTest
    | ((with_reducible change FieldOk _); exact ‹FieldOk _›)
    | exact Keeps.to h rfl fun i => { i with }
    | split)

theorem tempRelease_keeps {s t : State} (h : Keeps s t) (f : Nat) :
    Keeps s (tempRelease t f) := by
  unfold tempRelease
  repeat' (first
    | with_reducible assumption
    | ((with_reducible change Inv _ → ∀ x, x ∈ _ → FieldOk x → FieldOk _); exact fun _ _ _ k => { k with })
    | intro _
    | with_reducible apply Keeps.modField
    | with_reducible apply Keeps.iteTest
    | ((with_reducible change FieldOk _); exact ‹FieldOk _›)
    | split)

theorem heatWatch_keeps {s t : State} (h : Keeps s t) (r : Nat) :
    Keeps s (heatWatch t r) := by
  unfold heatWatch
  repeat' (first
    | with_reducible assumption
    | ((with_reducible change Inv _ → ∀ x, x ∈ _ → RegionOk x → RegionOk _); exact fun _ _ _ k => { k with })
    | ((with_reducible change Inv _ → ∀ x, x ∈ _ → RegionOk x → RegionOk _); intro _ _ _ k; split <;> exact { k with })
    | intro _
    | with_reducible apply markHeat_keeps
    | with_reducible apply Keeps.modRegion
    | with_reducible apply Keeps.iteTest
    | ((with_reducible change RegionOk _); exact ‹RegionOk _›)
    | split
    | dsimp only)

theorem execRegionTempSample_keeps {s t : State} (h : Keeps s t) (region : Nat) (temp : Nat) (sensorOk : Bool) :
    ResKeeps s (execRegionTempSample region temp sensorOk t) := by
  unfold execRegionTempSample
  repeat' (first
    | with_reducible assumption
    | ((with_reducible change Inv _ → ∀ x, x ∈ _ → RegionOk x → RegionOk _); exact fun _ _ _ k => { k with })
    | intro _
    | with_reducible apply farrierAbandonAt_keeps
    | with_reducible apply hardLimit_keeps
    | with_reducible apply heatWatch_keeps
    | with_reducible apply noteStress_keeps
    | with_reducible apply onUnit_keeps
    | with_reducible apply tempDrop_keeps
    | with_reducible apply tempRelease_keeps
    | with_reducible apply Keeps.modRegion
    | with_reducible apply Keeps.iteTest
    | with_reducible apply ResKeeps.next
    | with_reducible apply ResKeeps.onUnit
    | with_reducible apply ResKeeps.iteTest
    | ((with_reducible change RegionOk _); exact ‹RegionOk _›)
    | split
    | dsimp only)

theorem execHeatDarkEnd_keeps {s t : State} (h : Keeps s t) (region : Nat) :
    ResKeeps s (execHeatDarkEnd region t) := by
  unfold execHeatDarkEnd
  repeat' (first
    | with_reducible assumption
    | with_reducible apply onUnit_keeps
    | with_reducible apply requestPower_keeps
    | with_reducible apply Keeps.iteTest
    | with_reducible apply ResKeeps.next
    | with_reducible apply ResKeeps.onUnit
    | with_reducible apply ResKeeps.iteTest
    | split)

theorem sessionSwitchOff_keeps {s t : State} (h : Keeps s t) (r : Nat) :
    Keeps s (sessionSwitchOff t r) := by
  unfold sessionSwitchOff
  repeat' (first
    | with_reducible assumption
    | ((with_reducible change Inv _ → ∀ x, x ∈ _ → RegionOk x → RegionOk _); exact fun _ _ _ k => { k with })
    | intro _
    | with_reducible apply leaveWeave_keeps
    | with_reducible apply publishEvent_keeps
    | with_reducible apply Keeps.modRegion)

theorem execOperationBoundarySwitchOff_keeps {s t : State} (h : Keeps s t) (region : Nat) :
    ResKeeps s (execOperationBoundarySwitchOff region t) := by
  unfold execOperationBoundarySwitchOff
  repeat' (first
    | with_reducible assumption
    | with_reducible apply heatSwitchOff_keeps
    | with_reducible apply onUnit_keeps
    | with_reducible apply sessionSwitchOff_keeps
    | with_reducible apply Keeps.iteTest
    | with_reducible apply ResKeeps.next
    | with_reducible apply ResKeeps.onUnit
    | with_reducible apply ResKeeps.iteTest
    | split)

theorem replacePre_keeps {s t : State} (h : Keeps s t) :
    Keeps s (replacePre t) := by
  unfold replacePre
  repeat' (first
    | with_reducible assumption
    | ((with_reducible change ∀ x, MasterOk x → MasterOk _); exact fun _ k => k)
    | intro _
    | with_reducible apply keepTiles_keeps
    | with_reducible apply Keeps.modMasterAny
    | exact Keeps.to h rfl fun i => { i with })

theorem execCapPolicySwitchOff_keeps {s t : State} (h : Keeps s t) (region : Nat) :
    ResKeeps s (execCapPolicySwitchOff region t) := by
  unfold execCapPolicySwitchOff
  repeat' (first
    | with_reducible assumption
    | with_reducible apply farrierAbandonAt_keeps
    | with_reducible apply leaveWeave_keeps
    | with_reducible apply onUnit_keeps
    | with_reducible apply publishEvent_keeps
    | with_reducible apply replacePre_keeps
    | with_reducible apply updAllBanks_keeps
    | with_reducible apply Keeps.iteTest
    | with_reducible apply ResKeeps.next
    | with_reducible apply ResKeeps.onUnit
    | with_reducible apply ResKeeps.iteTest
    | split)

theorem execDieThermalTrip_keeps {s t : State} (h : Keeps s t) (die : Nat) :
    ResKeeps s (execDieThermalTrip die t) := by
  unfold execDieThermalTrip
  repeat' (first
    | with_reducible assumption
    | ((with_reducible change Inv _ → ∀ x, x ∈ _ → RegionOk x → RegionOk _); exact fun _ _ _ k => { k with })
    | intro _
    | with_reducible apply fieldLost_keeps
    | with_reducible apply onUnit_keeps
    | with_reducible apply Keeps.modRegion
    | with_reducible apply Keeps.foldl
    | with_reducible apply ResKeeps.next
    | with_reducible apply ResKeeps.onUnit
    | dsimp only)

theorem execCoolantAlarm_keeps {s t : State} (h : Keeps s t) (inlet : Nat) (outlet : Nat) (spread : Nat) :
    ResKeeps s (execCoolantAlarm inlet outlet spread t) := by
  unfold execCoolantAlarm
  repeat' (first
    | with_reducible assumption
    | ((with_reducible change ∀ x, PowerOk x → PowerOk _); exact fun _ k => { k with })
    | ((with_reducible change ∀ x, PowerOk x → PowerOk _); intro _ k; split <;> exact { k with })
    | intro _
    | with_reducible apply postEvent_keeps
    | with_reducible apply Keeps.modPwrAny
    | with_reducible apply Keeps.iteTest
    | with_reducible apply ResKeeps.next
    | with_reducible apply ResKeeps.iteTest
    | ((with_reducible change PowerOk _); exact ‹PowerOk _›)
    | split
    | dsimp only)

theorem execTrimCapHeld30Days_keeps {s t : State} (h : Keeps s t) (region : Nat) :
    ResKeeps s (execTrimCapHeld30Days region t) := by
  unfold execTrimCapHeld30Days
  repeat' (first
    | with_reducible assumption
    | with_reducible apply onUnit_keeps
    | with_reducible apply retireUnit_keeps
    | with_reducible apply Keeps.iteTest
    | with_reducible apply ResKeeps.next
    | with_reducible apply ResKeeps.onUnit
    | with_reducible apply ResKeeps.iteTest
    | split)

/-! ### Machine/Clocks.lean -/

theorem modCrossing_keeps {s t : State} (h : Keeps s t) (f d : Nat) {g : Edge → Edge} (hg : ∀ x, EdgeOk x → EdgeOk (g x)) :
    Keeps s (modCrossing t f d g) := by
  unfold modCrossing
  split
  · exact Keeps.modEdge (Keeps.modEdge h hg) hg
  · exact h

theorem execGaitDown_keeps {s t : State} (h : Keeps s t) (field : Nat) :
    ResKeeps s (execGaitDown field t) := by
  unfold execGaitDown
  repeat' (first
    | with_reducible assumption
    | with_reducible apply dropGait_keeps
    | with_reducible apply onUnit_keeps
    | with_reducible apply ResKeeps.next
    | with_reducible apply ResKeeps.onUnit)

theorem demoteEnd_keeps {s t : State} (h : Keeps s t) (f : Nat) :
    Keeps s (demoteEnd t f) := by
  unfold demoteEnd
  repeat' (first
    | with_reducible assumption
    | ((with_reducible change Inv _ → ∀ x, x ∈ _ → FieldOk x → FieldOk _); exact fun _ _ _ k => { k with })
    | intro _
    | with_reducible apply Keeps.modField
    | with_reducible apply Keeps.iteTest
    | ((with_reducible change FieldOk _); exact ‹FieldOk _›)
    | split
    | dsimp only)

theorem execGaitUp_keeps {s t : State} (h : Keeps s t) (field : Nat) :
    ResKeeps s (execGaitUp field t) := by
  unfold execGaitUp
  repeat' (first
    | with_reducible assumption
    | ((with_reducible change Inv _ → ∀ x, x ∈ _ → FieldOk x → FieldOk _); exact fun _ _ _ k => { k with })
    | ((with_reducible change Inv _ → ∀ x, x ∈ _ → FieldOk x → FieldOk _); intro _ _ _ k; split <;> exact { k with })
    | intro _
    | with_reducible apply demoteEnd_keeps
    | with_reducible apply onUnit_keeps
    | with_reducible apply setGait_keeps
    | with_reducible apply Keeps.modField
    | with_reducible apply Keeps.iteTest
    | with_reducible apply ResKeeps.next
    | with_reducible apply ResKeeps.onUnit
    | with_reducible apply ResKeeps.iteTest
    | ((with_reducible change FieldOk _); exact ‹FieldOk _›)
    | split)

theorem execGrantedGaitRise_keeps {s t : State} (h : Keeps s t) (field : Nat) :
    ResKeeps s (execGrantedGaitRise field t) := by
  unfold execGrantedGaitRise
  repeat' (first
    | with_reducible assumption
    | with_reducible apply onUnit_keeps
    | with_reducible apply startRise_keeps
    | with_reducible apply ResKeeps.next
    | with_reducible apply ResKeeps.onUnit)

theorem execIdleWalk_keeps {s t : State} (h : Keeps s t) (field : Nat) :
    ResKeeps s (execIdleWalk field t) := by
  unfold execIdleWalk
  repeat' (first
    | with_reducible assumption
    | ((with_reducible change Inv _ → ∀ x, x ∈ _ → FieldOk x → FieldOk _); exact fun _ _ _ k => { k with })
    | ((with_reducible change Inv _ → ∀ x, x ∈ _ → FieldOk x → FieldOk _); intro _ _ _ k; split <;> exact { k with })
    | intro _
    | with_reducible apply dropGait_keeps
    | with_reducible apply onUnit_keeps
    | with_reducible apply Keeps.modField
    | with_reducible apply Keeps.iteTest
    | with_reducible apply ResKeeps.next
    | with_reducible apply ResKeeps.onUnit
    | with_reducible apply ResKeeps.iteTest
    | ((with_reducible change FieldOk _); exact ‹FieldOk _›)
    | split)

theorem noteOccupancy_keeps {s t : State} (h : Keeps s t) (f : Nat) (d : Nat) :
    Keeps s (noteOccupancy t f d) := by
  unfold noteOccupancy
  repeat' (first
    | with_reducible assumption
    | ((with_reducible change ∀ x, EdgeOk x → EdgeOk _); exact fun _ k => { k with })
    | ((with_reducible change ∀ x, EdgeOk x → EdgeOk _); intro _ k; split <;> exact { k with })
    | intro _
    | with_reducible apply Keeps.modEdge
    | with_reducible apply Keeps.foldl
    | with_reducible apply Keeps.iteTest
    | ((with_reducible change EdgeOk _); exact ‹EdgeOk _›)
    | split)

theorem noteCrossings_keeps {s t : State} (h : Keeps s t) (f : Nat) :
    Keeps s (noteCrossings t f) := by
  unfold noteCrossings
  repeat' (first
    | with_reducible assumption
    | intro _
    | with_reducible apply noteOccupancy_keeps
    | with_reducible apply Keeps.foldl
    | split)

theorem stretch_keeps {s t : State} (h : Keeps s t) (f : Nat) :
    Keeps s (stretch t f) := by
  unfold stretch
  repeat' (first
    | with_reducible assumption
    | ((with_reducible change Inv _ → ∀ x, x ∈ _ → FieldOk x → FieldOk _); exact fun _ _ _ k => { k with })
    | intro _
    | with_reducible apply noteCrossings_keeps
    | with_reducible apply Keeps.modField)

theorem execDroopTrip_keeps {s t : State} (h : Keeps s t) (region : Nat) (samePeriod : Bool := false) (vcore : Nat := 1024) :
    ResKeeps s (execDroopTrip region t samePeriod vcore) := by
  unfold execDroopTrip
  repeat' (first
    | with_reducible assumption
    | ((with_reducible change Inv _ → ∀ x, x ∈ _ → FieldOk x → FieldOk _); exact fun _ _ _ k => { k with })
    | ((with_reducible change Inv _ → ∀ x, x ∈ _ → FieldOk x → FieldOk _); intro _ _ _ k; split <;> exact { k with })
    | intro _
    | with_reducible apply noteRail_keeps
    | with_reducible apply onUnit_keeps
    | with_reducible apply stretch_keeps
    | with_reducible apply Keeps.modField
    | with_reducible apply Keeps.iteTest
    | with_reducible apply ResKeeps.next
    | with_reducible apply ResKeeps.onUnit
    | with_reducible apply ResKeeps.iteTest
    | ((with_reducible change FieldOk _); exact ‹FieldOk _›)
    | split
    | dsimp only)

theorem execReinEcho_keeps {s t : State} (h : Keeps s t) (field : Nat) (samePeriod : Bool := false) :
    ResKeeps s (execReinEcho field t samePeriod) := by
  unfold execReinEcho
  repeat' (first
    | with_reducible assumption
    | with_reducible apply onUnit_keeps
    | with_reducible apply stretch_keeps
    | with_reducible apply Keeps.iteTest
    | with_reducible apply ResKeeps.next
    | with_reducible apply ResKeeps.onUnit
    | with_reducible apply ResKeeps.iteTest
    | split)

theorem demote_keeps {s t : State} (h : Keeps s t) (f : Nat) (own : Nat) :
    Keeps s (demote t f own) := by
  unfold demote
  repeat' (first
    | with_reducible assumption
    | ((with_reducible change Inv _ → ∀ x, x ∈ _ → FieldOk x → FieldOk _); exact fun _ _ _ k => { k with })
    | intro _
    | with_reducible apply dropGait_keeps
    | with_reducible apply postEvent_keeps
    | with_reducible apply Keeps.modField
    | with_reducible apply Keeps.iteTest
    | ((with_reducible change FieldOk _); exact ‹FieldOk _›)
    | split)

theorem quietMs_keeps {s t : State} (h : Keeps s t) (f : Nat) :
    Keeps s (quietMs t f) := by
  unfold quietMs
  repeat' (first
    | with_reducible assumption
    | ((with_reducible change Inv _ → ∀ x, x ∈ _ → FieldOk x → FieldOk _); exact fun _ _ _ k => { k with })
    | intro _
    | with_reducible apply demoteEnd_keeps
    | with_reducible apply startRise_keeps
    | with_reducible apply Keeps.modField
    | with_reducible apply Keeps.iteTest
    | ((with_reducible change FieldOk _); exact ‹FieldOk _›)
    | split
    | dsimp only)

theorem execDemotionCheck_keeps {s t : State} (h : Keeps s t) (field : Nat) (beats : Nat) :
    ResKeeps s (execDemotionCheck field beats t) := by
  unfold execDemotionCheck
  repeat' (first
    | with_reducible assumption
    | ((with_reducible change Inv _ → ∀ x, x ∈ _ → FieldOk x → FieldOk _); exact fun _ _ _ k => { k with })
    | ((with_reducible change Inv _ → ∀ x, x ∈ _ → FieldOk x → FieldOk _); exact fun _ _ _ k => { k with ownReins := Nat.min_le_left _ _ })
    | intro _
    | with_reducible apply demote_keeps
    | with_reducible apply onUnit_keeps
    | with_reducible apply quietMs_keeps
    | with_reducible apply Keeps.modField
    | with_reducible apply Keeps.iteTest
    | with_reducible apply ResKeeps.next
    | with_reducible apply ResKeeps.onUnit
    | with_reducible apply ResKeeps.iteTest
    | ((with_reducible change FieldOk _); exact ‹FieldOk _›)
    | split
    | dsimp only)

theorem execPllLock_keeps {s t : State} (h : Keeps s t) (field : Nat) :
    ResKeeps s (execPllLock field t) := by
  unfold execPllLock
  repeat' (first
    | with_reducible assumption
    | ((with_reducible change Inv _ → ∀ x, x ∈ _ → FieldOk x → FieldOk _); exact fun _ _ _ k => { k with })
    | ((with_reducible change Inv _ → ∀ x, x ∈ _ → FieldOk x → FieldOk _); intro _ _ _ k; split <;> exact { k with })
    | intro _
    | with_reducible apply changeCrossings_keeps
    | with_reducible apply onUnit_keeps
    | with_reducible apply Keeps.modField
    | with_reducible apply Keeps.iteTest
    | with_reducible apply ResKeeps.next
    | with_reducible apply ResKeeps.onUnit
    | with_reducible apply ResKeeps.iteTest
    | ((with_reducible change FieldOk _); exact ‹FieldOk _›)
    | split)

theorem execPllLossOfLock_keeps {s t : State} (h : Keeps s t) (field : Nat) :
    ResKeeps s (execPllLossOfLock field t) := by
  unfold execPllLossOfLock
  repeat' (first
    | with_reducible assumption
    | ((with_reducible change Inv _ → ∀ x, x ∈ _ → FieldOk x → FieldOk _); exact fun _ _ _ k => { k with })
    | ((with_reducible change Inv _ → ∀ x, x ∈ _ → FieldOk x → FieldOk _); intro _ _ _ k; split <;> exact { k with })
    | intro _
    | with_reducible apply onUnit_keeps
    | with_reducible apply postFieldEvent_keeps
    | with_reducible apply Keeps.modField
    | with_reducible apply Keeps.iteTest
    | with_reducible apply ResKeeps.next
    | with_reducible apply ResKeeps.onUnit
    | with_reducible apply ResKeeps.iteTest
    | ((with_reducible change FieldOk _); exact ‹FieldOk _›)
    | split)

theorem countReplay_keeps {s t : State} (h : Keeps s t) (f : Nat) (d : Nat) :
    Keeps s (countReplay t f d) := by
  unfold countReplay
  repeat' (first
    | with_reducible assumption
    | ((with_reducible change ∀ x, EdgeOk x → EdgeOk _); exact fun _ k => { k with })
    | exact fun _ k => { k with replays := capAdd_le _ _ _ }
    | intro _
    | with_reducible apply Keeps.modEdge)

theorem joinReplay_keeps {s t : State} (h : Keeps s t) (f : Nat) (d : Nat) (k : Nat) (third : Bool) :
    Keeps s (joinReplay t f d k third) := by
  unfold joinReplay
  repeat' (first
    | with_reducible assumption
    | with_reducible apply countReplay_keeps
    | with_reducible apply disableSubLink_keeps
    | with_reducible apply joinCheck_keeps
    | with_reducible apply postFieldEvent_keeps
    | with_reducible apply Keeps.iteTest
    | split
    | dsimp only)

theorem landingReplay_keeps {s t : State} (h : Keeps s t) (f : Nat) (d : Nat) (c : Nat) (h' : Nat) (k : Nat) (third : Bool) :
    Keeps s (landingReplay t f d c h' k third) := by
  unfold landingReplay
  repeat' (first
    | with_reducible assumption
    | with_reducible apply countReplay_keeps
    | with_reducible apply disableLanding_keeps
    | with_reducible apply landingCheck_keeps
    | with_reducible apply postFieldEvent_keeps
    | with_reducible apply Keeps.iteTest
    | split
    | dsimp only)

theorem execCrossingFlitParityReplay_keeps {s t : State} (h : Keeps s t) (field : Nat) (edge : Nat) (subLink : Nat) (thirdFailure : Bool) :
    ResKeeps s (execCrossingFlitParityReplay field edge subLink thirdFailure t) := by
  unfold execCrossingFlitParityReplay
  repeat' (first
    | with_reducible assumption
    | with_reducible apply countReplay_keeps
    | with_reducible apply joinReplay_keeps
    | with_reducible apply landingReplay_keeps
    | with_reducible apply onUnit_keeps
    | with_reducible apply Keeps.iteTest
    | with_reducible apply ResKeeps.next
    | with_reducible apply ResKeeps.onUnit
    | with_reducible apply ResKeeps.iteTest
    | split)

theorem enterMeso_keeps {s t : State} (h : Keeps s t) (f : Nat) (d : Nat) (leaving : List Nat) (entering : List Nat) :
    Keeps s (enterMeso t f d leaving entering) := by
  unfold enterMeso
  dsimp only
  split
  · refine bumpFree_keeps (Keeps.modEdge (Keeps.modEdge h fun _ k => ?_) fun _ k => ?_)
    all_goals exact { k with fifo := queued _ _ fun _ => fifoOf_len _ _ _ _ _ }
  · exact h

theorem execCrossingAlignEnd_keeps {s t : State} (h : Keeps s t) (field : Nat) (edge : Nat) (leaving : List Nat) (entering : List Nat) :
    ResKeeps s (execCrossingAlignEnd field edge leaving entering t) := by
  unfold execCrossingAlignEnd
  repeat' (first
    | with_reducible assumption
    | intro _
    | with_reducible apply disableSubLink_keeps
    | with_reducible apply enterMeso_keeps
    | with_reducible apply joinCheck_keeps
    | with_reducible apply onUnit_keeps
    | with_reducible apply Keeps.foldl
    | with_reducible apply Keeps.iteTest
    | with_reducible apply ResKeeps.next
    | with_reducible apply ResKeeps.onUnit
    | with_reducible apply ResKeeps.iteTest
    | split
    | dsimp only)

theorem noteSlip_keeps {s t : State} (h : Keeps s t) (f : Nat) (d : Nat) (leaving : Bool) (full : Bool) :
    Keeps s (noteSlip t f d leaving full) := by
  unfold noteSlip
  repeat' (first
    | with_reducible assumption
    | ((with_reducible change ∀ x, EdgeOk x → EdgeOk _); exact fun _ k => { k with })
    | ((with_reducible change ∀ x, EdgeOk x → EdgeOk _); intro _ k; split <;> exact { k with })
    | intro _
    | with_reducible apply Keeps.modEdge
    | with_reducible apply Keeps.iteTest
    | ((with_reducible change EdgeOk _); exact ‹EdgeOk _›)
    | exact Keeps.to h rfl fun i => { i with }
    | split
    | dsimp only)

theorem execCrossingSlip_keeps {s t : State} (h : Keeps s t) (field : Nat) (edge : Nat) (leaving : Bool := true) (full : Bool := true) :
    ResKeeps s (execCrossingSlip field edge t leaving full) := by
  unfold execCrossingSlip
  repeat' (first
    | with_reducible assumption
    | exact fun _ k => { k with slips := capAdd_le _ _ _ }
    | with_reducible apply countReplay_keeps
    | with_reducible apply modCrossing_keeps
    | with_reducible apply noteSlip_keeps
    | with_reducible apply onUnit_keeps
    | with_reducible apply postFieldEvent_keeps
    | with_reducible apply Keeps.iteTest
    | with_reducible apply ResKeeps.next
    | with_reducible apply ResKeeps.onUnit
    | with_reducible apply ResKeeps.iteTest
    | split
    | dsimp only)

theorem execCrossingFifoDrained_keeps {s t : State} (h : Keeps s t) (field : Nat) (edge : Nat) :
    ResKeeps s (execCrossingFifoDrained field edge t) := by
  unfold execCrossingFifoDrained
  refine .onUnit (modCrossing_keeps h _ _ fun _ k => ?_)
  split
  · exact { k with fifo := noneQueued 32 }
  · exact k

theorem execSleepEnter_keeps {s t : State} (h : Keeps s t) :
    ResKeeps s (execSleepEnter t) := by
  unfold execSleepEnter
  repeat' (first
    | with_reducible assumption
    | ((with_reducible change ∀ x, StackOk x → StackOk _); exact fun _ k => by first | exact { k with } | (split <;> exact { k with }))
    | ((with_reducible change ∀ x, FieldOk x → FieldOk _); exact fun _ k => by first | exact { k with } | (split <;> exact { k with }))
    | intro _
    | with_reducible apply updAllBanks_keeps
    | with_reducible apply Keeps.modClk
    | with_reducible apply Keeps.mapFields
    | with_reducible apply Keeps.mapStacks
    | with_reducible apply Keeps.iteTest
    | with_reducible apply ResKeeps.next
    | with_reducible apply ResKeeps.iteTest
    | exact Keeps.to h rfl fun i => { i with }
    | split
    | dsimp only)

theorem execGtcTimeCode_keeps {s t : State} (h : Keeps s t) (codes : Nat) :
    ResKeeps s (execGtcTimeCode codes t) := by
  unfold execGtcTimeCode
  repeat' (first
    | with_reducible assumption
    | intro _
    | with_reducible apply copyGtc_keeps
    | with_reducible apply noteStress_keeps
    | with_reducible apply Keeps.modClk
    | with_reducible apply Keeps.iteTest
    | with_reducible apply ResKeeps.next
    | with_reducible apply ResKeeps.iteTest
    | split)

theorem execFollowerContactLost_keeps {s t : State} (h : Keeps s t) :
    ResKeeps s (execFollowerContactLost t) := by
  unfold execFollowerContactLost
  repeat' (first
    | with_reducible assumption
    | intro _
    | with_reducible apply postEvent_keeps
    | with_reducible apply Keeps.modClk
    | with_reducible apply Keeps.iteTest
    | with_reducible apply ResKeeps.next
    | with_reducible apply ResKeeps.iteTest
    | split)

theorem setFar_keeps {s t : State} (h : Keeps s t) (d : Int) :
    Keeps s (setFar t d) := by
  unfold setFar
  repeat' (first
    | with_reducible assumption
    | intro _
    | with_reducible apply postEvent_keeps
    | with_reducible apply Keeps.modClk
    | with_reducible apply Keeps.iteTest
    | split
    | dsimp only)

theorem execPpsEdge_keeps {s t : State} (h : Keeps s t) :
    ResKeeps s (execPpsEdge t) := by
  unfold execPpsEdge
  repeat' (first
    | with_reducible assumption
    | intro _
    | with_reducible apply setFar_keeps
    | with_reducible apply Keeps.modClk
    | with_reducible apply Keeps.iteTest
    | with_reducible apply ResKeeps.next
    | with_reducible apply ResKeeps.iteTest
    | split
    | dsimp only)

theorem execPpsLost_keeps {s t : State} (h : Keeps s t) :
    ResKeeps s (execPpsLost t) := by
  unfold execPpsLost
  repeat' (first
    | with_reducible assumption
    | intro _
    | with_reducible apply postEvent_keeps
    | with_reducible apply Keeps.modClk
    | with_reducible apply Keeps.iteTest
    | with_reducible apply ResKeeps.next
    | with_reducible apply ResKeeps.iteTest
    | split)

/-! ### Machine/RegWrite.lean -/

theorem guardKey_keeps {s t : State} (h : Keeps s t) (b : Blk) (loc : Nat) (v : Word) (a : Access) {f : State → State}
    (hf : ∀ u, Keeps s u → Keeps s (f u)) : Keeps s (guardKey t b loc v a f) := by
  unfold guardKey
  split
  · exact h
  · split
    · exact hf t h
    · split
      · exact h
      · exact h.modCtl fun _ _ _ k => k

theorem guardPair_keeps {s t : State} (h : Keeps s t) (b : Blk) (loc : Nat) (v : Word) (a : Access) {f : State → State}
    (hf : ∀ u, Keeps s u → Keeps s (f u)) : Keeps s (guardPair t b loc v a f) := by
  unfold guardPair
  split
  · exact hf t h
  · split
    · exact h.modCtl fun _ _ _ k => k
    · exact h

theorem keyErr_keeps {s t : State} (h : Keeps s t) (b : Blk) :
    Keeps s (keyErr t b) := by
  unfold keyErr
  repeat' (first
    | with_reducible assumption
    | ((with_reducible change Inv _ → ∀ x, x ∈ _ → BlockOk x → BlockOk _); exact fun _ _ _ k => k)
    | intro _
    | with_reducible apply Keeps.modCtl)

theorem pairErr_keeps {s t : State} (h : Keeps s t) (b : Blk) :
    Keeps s (pairErr t b) := by
  unfold pairErr
  repeat' (first
    | with_reducible assumption
    | ((with_reducible change Inv _ → ∀ x, x ∈ _ → BlockOk x → BlockOk _); exact fun _ _ _ k => k)
    | intro _
    | with_reducible apply Keeps.modCtl)

theorem cinchErr_keeps {s t : State} (h : Keeps s t) (b : Blk) :
    Keeps s (cinchErr t b) := by
  unfold cinchErr
  repeat' (first
    | with_reducible assumption
    | ((with_reducible change Inv _ → ∀ x, x ∈ _ → BlockOk x → BlockOk _); exact fun _ _ _ k => k)
    | intro _
    | with_reducible apply Keeps.modCtl)

theorem writeFld_keeps {s t : State} (h : Keeps s t) (loc : Nat) (v : Word) :
    Keeps s (writeFld t loc v) := by
  unfold writeFld
  repeat' (first
    | with_reducible assumption
    | ((with_reducible change ∀ x, GlbOk x → GlbOk _); exact fun _ k => { k with })
    | intro _
    | with_reducible apply Keeps.modGlbAny
    | ((with_reducible change GlbOk _); exact ‹GlbOk _›)
    | split)

theorem writeRgn_keeps {s t : State} (h : Keeps s t) (loc : Nat) (v : Word) (a : Access) :
    Keeps s (writeRgn t loc v a) := by
  unfold writeRgn
  repeat' (first
    | with_reducible assumption
    | ((with_reducible change ∀ x, GlbOk x → GlbOk _); exact fun _ k => { k with })
    | ((with_reducible change ∀ x, GlbOk x → GlbOk _); intro _ k; split <;> exact { k with })
    | intro _
    | with_reducible apply guardPair_keeps
    | with_reducible apply Keeps.modGlbAny
    | with_reducible apply Keeps.iteTest
    | ((with_reducible change GlbOk _); exact ‹GlbOk _›)
    | split)

theorem writeMem_keeps {s t : State} (h : Keeps s t) (loc : Nat) (v : Word) (a : Access) :
    Keeps s (writeMem t loc v a) := by
  unfold writeMem
  repeat' (first
    | with_reducible assumption
    | ((with_reducible change Inv _ → ∀ x, x ∈ _ → StackOk x → StackOk _); exact fun _ _ _ k => { k with })
    | ((with_reducible change Inv _ → ∀ x, x ∈ _ → StackOk x → StackOk _); intro _ _ _ k; split <;> exact { k with })
    | ((with_reducible change ∀ x, GlbOk x → GlbOk _); exact fun _ k => { k with })
    | ((with_reducible change ∀ x, GlbOk x → GlbOk _); intro _ k; split <;> exact { k with })
    | intro _
    | with_reducible apply guardKey_keeps
    | with_reducible apply queueRetrain_keeps
    | with_reducible apply Keeps.modStack
    | with_reducible apply Keeps.modGlbAny
    | with_reducible apply Keeps.iteTest
    | ((with_reducible change GlbOk _); exact ‹GlbOk _›)
    | ((with_reducible change StackOk _); exact ‹StackOk _›)
    | split)

theorem writeLnk_keeps {s t : State} (h : Keeps s t) (loc : Nat) (v : Word) (a : Access) :
    Keeps s (writeLnk t loc v a) := by
  unfold writeLnk
  repeat' (first
    | with_reducible assumption
    | ((with_reducible change ∀ x, LnkOk x → LnkOk _); exact fun _ k => { k with })
    | ((with_reducible change ∀ x, LnkOk x → LnkOk _); intro _ k; split <;> exact { k with })
    | intro _
    | with_reducible apply guardKey_keeps
    | with_reducible apply Keeps.modLnkAny
    | with_reducible apply Keeps.iteTest
    | ((with_reducible change LnkOk _); exact ‹LnkOk _›)
    | split)

theorem clearVmin_keeps {s t : State} (h : Keeps s t) :
    Keeps s (clearVmin t) := by
  unfold clearVmin
  repeat' (first
    | with_reducible assumption
    | ((with_reducible change Inv _ → ∀ x, x ∈ _ → RegionOk x → RegionOk _); exact fun _ _ _ k => { k with })
    | intro _
    | with_reducible apply Keeps.modRegion)

theorem uncap_keeps {s t : State} (h : Keeps s t) :
    Keeps s (uncap t) := by
  unfold uncap
  repeat' (first
    | with_reducible assumption
    | ((with_reducible change ∀ x, FieldOk x → FieldOk _); exact fun _ k => by first | exact { k with } | (split <;> exact { k with }))
    | with_reducible apply Keeps.mapFields
    | with_reducible apply Keeps.iteTest
    | exact Keeps.to h rfl fun i => { i with }
    | split)

theorem writePwr_keeps {s t : State} (h : Keeps s t) (loc : Nat) (v : Word) (a : Access) :
    Keeps s (writePwr t loc v a) := by
  unfold writePwr
  repeat' (first
    | with_reducible assumption
    | ((with_reducible change ∀ x, PowerOk x → PowerOk _); exact fun _ k => { k with })
    | ((with_reducible change ∀ x, PowerOk x → PowerOk _); intro _ k; split <;> exact { k with })
    | intro _
    | with_reducible apply clearVmin_keeps
    | with_reducible apply dropAll_keeps
    | with_reducible apply guardKey_keeps
    | with_reducible apply uncap_keeps
    | with_reducible apply Keeps.modPwrAny
    | with_reducible apply Keeps.iteTest
    | ((with_reducible change PowerOk _); exact ‹PowerOk _›)
    | split
    | dsimp only)

theorem dropUnaccepted_keeps {s t : State} (h : Keeps s t) :
    Keeps s (dropUnaccepted t) := by
  unfold dropUnaccepted
  repeat' (first
    | with_reducible assumption
    | ((with_reducible change ∀ x, MasterOk x → MasterOk _); exact fun _ k => k)
    | intro _
    | with_reducible apply Keeps.modMasterAny
    | with_reducible apply Keeps.iteTest
    | ((with_reducible change MasterOk _); exact ‹MasterOk _›)
    | split)

theorem sleepRequest_keeps {s t : State} (h : Keeps s t) :
    Keeps s (sleepRequest t) := by
  unfold sleepRequest
  repeat' (first
    | with_reducible assumption
    | intro _
    | with_reducible apply dropPreSel_keeps
    | with_reducible apply dropUnaccepted_keeps
    | with_reducible apply updAllBanks_keeps
    | with_reducible apply Keeps.modClk
    | with_reducible apply Keeps.iteTest
    | split)

theorem syncCommand_keeps {s t : State} (h : Keeps s t) (o : Nat) (set : Bool) (v : Word64) :
    Keeps s (syncCommand t o set v) := by
  unfold syncCommand
  repeat' (first
    | with_reducible assumption
    | with_reducible apply syncApply_keeps
    | with_reducible apply Keeps.iteTest
    | exact Keeps.to h rfl fun i => { i with }
    | split)

theorem peerAddNow_keeps {s t : State} (h : Keeps s t) (o : Nat) (v : Word64) :
    Keeps s (peerAddNow t o v) := by
  unfold peerAddNow
  repeat' (first
    | with_reducible assumption
    | with_reducible apply postEvent_keeps
    | with_reducible apply syncApply_keeps
    | with_reducible apply Keeps.iteTest
    | split)

theorem peerAdd_keeps {s t : State} (h : Keeps s t) (o : Nat) (v : Word64) :
    Keeps s (peerAdd t o v) := by
  unfold peerAdd
  repeat' (first
    | with_reducible assumption
    | with_reducible apply peerAddNow_keeps
    | with_reducible apply Keeps.iteTest
    | exact Keeps.to h rfl fun i => { i with }
    | split)

theorem applyOneHeld_keeps {s t : State} (h : Keeps s t) (h' : HeldSync) :
    Keeps s (applyOneHeld t h') := by
  unfold applyOneHeld
  repeat' (first
    | with_reducible assumption
    | with_reducible apply peerAddNow_keeps
    | with_reducible apply syncApply_keeps
    | with_reducible apply Keeps.iteTest
    | split)

theorem applyHeld_keeps {s t : State} (h : Keeps s t) :
    Keeps s (applyHeld t) := by
  unfold applyHeld
  repeat' (first
    | with_reducible assumption
    | intro _
    | with_reducible apply applyOneHeld_keeps
    | with_reducible apply Keeps.foldl
    | exact Keeps.to h rfl fun i => { i with })

theorem realign_keeps {s t : State} (h : Keeps s t) :
    Keeps s (realign t) := by
  unfold realign
  repeat' (first
    | with_reducible assumption
    | intro _
    | with_reducible apply changeCrossing_keeps
    | with_reducible apply Keeps.foldl)

theorem leaveSleep_keeps {s t : State} (h : Keeps s t) :
    Keeps s (leaveSleep t) := by
  unfold leaveSleep
  exact Keeps.mapFields (t := { t with memStacks := t.memStacks.map (fun x => { x with selfRefresh := false }) })
    (Keeps.mapStacks h fun _ k => { k with }) fun _ k => { k with }

theorem limitGaits_keeps {s t : State} (h : Keeps s t) :
    Keeps s (limitGaits t) := by
  unfold limitGaits
  repeat' (first
    | with_reducible assumption
    | with_reducible apply curbWalk_keeps
    | with_reducible apply dropAll_keeps
    | with_reducible apply Keeps.iteTest
    | split)

theorem expireWaits_keeps {s t : State} (h : Keeps s t) :
    Keeps s (expireWaits t) := by
  unfold expireWaits
  repeat' (first
    | with_reducible assumption
    | intro _
    | with_reducible apply expireWait_keeps
    | with_reducible apply Keeps.foldl)

theorem wakeRequest_keeps {s t : State} (h : Keeps s t) :
    Keeps s (wakeRequest t) := by
  unfold wakeRequest
  repeat' (first
    | with_reducible assumption
    | intro _
    | with_reducible apply applyHeld_keeps
    | with_reducible apply expireWaits_keeps
    | with_reducible apply leaveSleep_keeps
    | with_reducible apply limitGaits_keeps
    | with_reducible apply realign_keeps
    | with_reducible apply updAllBanks_keeps
    | with_reducible apply Keeps.modClk
    | with_reducible apply Keeps.iteTest
    | split)

theorem writeClk_keeps {s t : State} (h : Keeps s t) (loc : Nat) (v : Word) (a : Access) :
    Keeps s (writeClk t loc v a) := by
  unfold writeClk
  repeat' (first
    | with_reducible assumption
    | intro _
    | with_reducible apply guardKey_keeps
    | with_reducible apply guardPair_keeps
    | with_reducible apply sleepRequest_keeps
    | with_reducible apply wakeRequest_keeps
    | with_reducible apply Keeps.modClk
    | with_reducible apply Keeps.iteTest
    | split
    | dsimp only)

theorem refusePair_keeps {s t : State} (h : Keeps s t) (b : Blk) :
    Keeps s (refusePair t b) := by
  unfold refusePair
  repeat' (first
    | with_reducible assumption
    | ((with_reducible change ∀ x, GlbOk x → GlbOk _); exact fun _ k => { k with })
    | intro _
    | with_reducible apply Keeps.modGlbAny
    | with_reducible apply Keeps.modClk
    | ((with_reducible change GlbOk _); exact ‹GlbOk _›)
    | split)

theorem closeCinch_keeps {s t : State} (h : Keeps s t) (b : Blk) (last : CinchLast) :
    Keeps s (closeCinch t b last) := by
  unfold closeCinch
  repeat' (first
    | with_reducible assumption
    | ((with_reducible change Inv _ → ∀ x, x ∈ _ → BlockOk x → BlockOk _); exact fun _ _ _ k => k)
    | exact fun _ _ _ k => Nat.zero_le _
    | intro _
    | with_reducible apply Keeps.modCtl)

theorem setGtc_keeps {s t : State} (h : Keeps s t) :
    Keeps s (setGtc t) := by
  unfold setGtc
  repeat' (first
    | with_reducible assumption
    | intro _
    | with_reducible apply copyGtc_keeps
    | with_reducible apply Keeps.modClk)

theorem pairApplied_keeps {s t : State} (h : Keeps s t) (b : Blk) :
    Keeps s (pairApplied t b) := by
  unfold pairApplied
  repeat' (first
    | with_reducible assumption
    | with_reducible apply setGtc_keeps
    | with_reducible apply updAllBanks_keeps
    | split)

theorem applyCommit_keeps {s t : State} (h : Keeps s t) (b : Blk) {write : State → Nat → Word → Access → State}
    (hw : ∀ u n v a, Keeps s u → Keeps s (write u n v a)) : Keeps s (applyCommit t b write) := by
  unfold applyCommit
  dsimp only
  split
  · exact refusePair_keeps (closeCinch_keeps h _ _) _
  · have ht := Keeps.foldl (f := fun u (w : Staged) => write u w.offset w.value (stagedAccess w)) (ctlAt t b).staged
      (fun v x k => hw v _ _ _ k) (closeCinch_keeps h b .applied)
    split
    · exact pairApplied_keeps ht _
    · exact ht

theorem applyPending_keeps {s t : State} (h : Keeps s t) (b : Blk) :
    Keeps s (applyPending t b) := by
  unfold applyPending
  repeat' (first
    | with_reducible assumption
    | apply applyCommit_keeps
    | intro _
    | with_reducible apply applyCommit_keeps
    | with_reducible apply writeClk_keeps
    | with_reducible apply writeRgn_keeps
    | with_reducible apply Keeps.iteTest
    | split)

/-! ### Machine/HalterOps.lean -/

theorem emptyLinks (n : Nat) : ∀ x ∈ List.replicate n Link.reset, LinkOk x := by
  intro x hx
  rw [List.eq_of_mem_replicate hx]
  exact ⟨Nat.zero_le _, Nat.zero_le _, Nat.zero_le _⟩

theorem closedBlocks (n : Nat) : ∀ x ∈ List.replicate n BlockCtl.reset, BlockOk x := by
  intro x hx
  rw [List.eq_of_mem_replicate hx]
  exact Nat.zero_le _

theorem fieldOff_ok {x : Field} (k : FieldOk x) : FieldOk (fieldOff x) :=
  { k with edgeCount := by simpa [fieldOff] using k.edgeCount, edges := forall_mem_map k.edges fun _ y => { y with fifo := noneQueued 32 }, ownReins := Nat.zero_le _ }

theorem regionDark_ok {x : Region} (k : RegionOk x) : RegionOk (regionDark x) :=
  { k with bankReady := BitVec.and_self }

theorem coldRegion_ok {x : Region} (k : RegionOk x) : RegionOk (coldRegion x) :=
  { k with hits := Nat.zero_le _, bankReady := BitVec.and_self }

theorem fieldReset_ok : FieldOk Field.reset where
  edgeCount := rfl
  edges := by
    intro e he
    rw [List.eq_of_mem_replicate (n := 4) (a := Edge.reset) he]
    exact ⟨Nat.zero_le _, Nat.zero_le _, noneQueued 32⟩
  credit := Nat.le_refl _
  mcDrop := Nat.zero_le _
  stageFailed := Nat.zero_le _
  ownReins := Nat.zero_le _

theorem startHalted_keeps {s t : State} (h : Keeps s t) :
    Keeps s (startHalted t) := by
  unfold startHalted
  repeat' (first
    | with_reducible assumption
    | intro _
    | with_reducible apply leaveSleep_keeps
    | with_reducible apply setGait_keeps
    | with_reducible apply Keeps.modClk
    | with_reducible apply Keeps.foldl
    | with_reducible apply Keeps.iteTest
    | split
    | dsimp only)

theorem clearZeroed_keeps {s t : State} (h : Keeps s t) :
    Keeps s (clearZeroed t) := by
  unfold clearZeroed
  have hh : Keeps s { t with held := [] } := h.to rfl fun i => { i with }
  have ht := Keeps.modMasterAny (g := fun m => { m with stale := [], staleFull := false, advisorStart := [] }) hh
    fun _ _ => Nat.zero_le _
  refine .iteTest ht (ht.to rfl fun i => ?_)
  exact
    { i with
      spad := rfl
      sync := trivial
      regionCount := by simpa using i.regionCount
      regions := forall_mem_map i.regions fun _ k => { k with hits := Nat.zero_le _ } }

theorem zeroStart_keeps {s t : State} (h : Keeps s t) :
    Keeps s (zeroStart t) := by
  unfold zeroStart
  repeat' (first
    | with_reducible assumption
    | ((with_reducible change ∀ x, GlbOk x → GlbOk _); exact fun _ k => { k with })
    | intro _
    | with_reducible apply clearZeroed_keeps
    | with_reducible apply startHalted_keeps
    | with_reducible apply Keeps.modGlbAny)

theorem zeroEnd_keeps {s t : State} (h : Keeps s t) :
    Keeps s (zeroEnd t) := by
  unfold zeroEnd
  have hg : Keeps s (modGlb t (fun g => { g with zeroing := false })) := Keeps.modGlbAny h fun _ k => { k with }
  have hm : Keeps s (modMaster (modGlb t (fun g => { g with zeroing := false })) (fun m => { m with stale := [], staleFull := false })) :=
    Keeps.modMasterAny hg fun _ _ => Nat.zero_le _
  exact updateHeads_keeps (Keeps.modHstAny (updAllBanks_keeps (hm.to rfl fun i => { i with slots := by simp [buildSlots] }))
    fun _ k => { k with })

theorem stopBoot_keeps {s t : State} (h : Keeps s t) :
    Keeps s (stopBoot t) := by
  unfold stopBoot
  repeat' (first
    | with_reducible assumption
    | ((with_reducible change ∀ x, LnkOk x → LnkOk _); exact fun _ k => { k with })
    | exact fun _ k => { k with linkCount := by simpa using k.linkCount, links := forall_mem_map k.links fun _ y => { y with } }
    | intro _
    | with_reducible apply Keeps.modBoot
    | with_reducible apply Keeps.modLnkAny
    | with_reducible apply Keeps.iteTest
    | ((with_reducible change LnkOk _); exact ‹LnkOk _›)
    | split
    | dsimp only)

theorem endVotes_keeps {s t : State} (h : Keeps s t) :
    Keeps s (endVotes t) := by
  unfold endVotes
  repeat' (first
    | with_reducible assumption
    | intro _
    | with_reducible apply dupRecord_keeps
    | with_reducible apply Keeps.foldl)

theorem discardWork_keeps {s t : State} (h : Keeps s t) :
    Keeps s (discardWork t) := by
  unfold discardWork
  repeat' (first
    | with_reducible assumption
    | ((with_reducible change ∀ x, MasterOk x → MasterOk _); exact fun _ k => k)
    | ((with_reducible change ∀ x, LnkOk x → LnkOk _); exact fun _ k => { k with })
    | exact fun _ k => { k with linkCount := by simpa using k.linkCount, links := forall_mem_map k.links fun _ y => { y with retry := Nat.zero_le _ } }
    | intro _
    | with_reducible apply clearQueues_keeps
    | with_reducible apply keepTiles_keeps
    | with_reducible apply Keeps.modMasterAny
    | with_reducible apply Keeps.modLnkAny
    | dsimp only)

theorem disableOpRings_keeps {s t : State} (h : Keeps s t) :
    Keeps s (disableOpRings t) := by
  unfold disableOpRings
  repeat' (first
    | with_reducible assumption
    | ((with_reducible change ∀ x, HstOk x → HstOk _); exact fun _ k => { k with })
    | ((with_reducible change ∀ x, HstOk x → HstOk _); intro _ k; split <;> exact { k with })
    | exact fun _ k => { k with ringCount := by simpa using k.ringCount }
    | intro _
    | with_reducible apply Keeps.modHstAny
    | with_reducible apply Keeps.iteTest
    | ((with_reducible change HstOk _); exact ‹HstOk _›)
    | split)

theorem pauseUpdate_keeps {s t : State} (h : Keeps s t) :
    Keeps s (pauseUpdate t) := by
  unfold pauseUpdate
  repeat' (first
    | with_reducible assumption
    | ((with_reducible change ∀ x, SecOk x → SecOk _); exact fun _ k => k)
    | intro _
    | with_reducible apply Keeps.modSecAny
    | ((with_reducible change SecOk _); exact ‹SecOk _›)
    | split)

theorem haltSequence_keeps {s t : State} (h : Keeps s t) (cause : Nat) (seq : BitVec 16) :
    Keeps s (haltSequence t cause seq) := by
  unfold haltSequence
  repeat' (first
    | with_reducible assumption
    | ((with_reducible change ∀ x, HstOk x → HstOk _); exact fun _ k => { k with })
    | intro _
    | with_reducible apply applyPending_keeps
    | with_reducible apply clearZeroed_keeps
    | with_reducible apply disableOpRings_keeps
    | with_reducible apply discardWork_keeps
    | with_reducible apply endVotes_keeps
    | with_reducible apply farrierAbandon_keeps
    | with_reducible apply pauseUpdate_keeps
    | with_reducible apply stopBoot_keeps
    | with_reducible apply zeroStart_keeps
    | with_reducible apply Keeps.modClk
    | with_reducible apply Keeps.modHstAny
    | with_reducible apply Keeps.iteTest
    | ((with_reducible change HstOk _); exact ‹HstOk _›)
    | split
    | dsimp only)

theorem writeHalterRecord_keeps {s t : State} (h : Keeps s t) (bytes : List Byte) :
    Keeps s (writeHalterRecord t bytes) := by
  unfold writeHalterRecord
  repeat' (first
    | with_reducible assumption
    | with_reducible apply hostWrite_keeps
    | with_reducible apply raiseMsix_keeps)

theorem postOwed_keeps {s t : State} (h : Keeps s t) (x : HalterOwed) :
    Keeps s (postOwed t x) := by
  unfold postOwed
  repeat' (first
    | with_reducible assumption
    | with_reducible apply postCompletion_keeps)

theorem haltPost_keeps {s t : State} (h : Keeps s t) :
    Keeps s (haltPost t) := by
  unfold haltPost
  repeat' (first
    | with_reducible assumption
    | ((with_reducible change ∀ x, HstOk x → HstOk _); exact fun _ k => { k with })
    | intro _
    | with_reducible apply postOwed_keeps
    | with_reducible apply writeHalterRecord_keeps
    | with_reducible apply Keeps.modHstAny
    | with_reducible apply Keeps.modSide
    | with_reducible apply Keeps.foldl
    | with_reducible apply Keeps.iteTest
    | ((with_reducible change HstOk _); exact ‹HstOk _›)
    | split
    | dsimp only)

theorem haltWhole_keeps {s t : State} (h : Keeps s t) (cause : Nat) :
    Keeps s (haltWhole t cause) := by
  unfold haltWhole
  repeat' (first
    | with_reducible assumption
    | with_reducible apply haltPost_keeps
    | with_reducible apply haltSequence_keeps
    | with_reducible apply zeroEnd_keeps
    | with_reducible apply Keeps.iteTest
    | split
    | dsimp only)

theorem resetRegisters_keeps {s t : State} (h : Keeps s t) :
    Keeps s (resetRegisters t) := by
  unfold resetRegisters
  exact h.to rfl fun i =>
    { i with
      pwr := { i.pwr with }
      glb := { i.glb with }
      lnk := { i.lnk with }
      hst := { i.hst with ringCount := rfl }
      sec := i.sec
      stackCount := by simpa using i.stackCount
      memStacks := forall_mem_map i.memStacks fun _ k => { k with }
      blockCount := rfl
      blocks := closedBlocks 9 }

theorem fieldsOff_keeps {s t : State} (h : Keeps s t) :
    Keeps s (fieldsOff t) := by
  unfold fieldsOff
  refine bumpFree_keeps (h.to rfl fun i => ?_)
  exact
    { i with
      fieldCount := by simpa using i.fieldCount
      fields := forall_mem_zipIdx_map i.fields fun _ _ k => { fieldOff_ok k with } }

theorem warmRest_keeps {s t : State} (h : Keeps s t) :
    Keeps s (warmRest t) := by
  unfold warmRest
  have ht := fieldsOff_keeps (resetRegisters_keeps (h.to (u := { t with held := [] }) rfl fun i => { i with }))
  generalize fieldsOff (resetRegisters { t with held := [] }) = u at ht
  exact ht.to rfl fun i =>
    { i with
      pwr := { i.pwr with }
      regionCount := by simpa using i.regionCount
      regions := forall_mem_map i.regions fun _ => regionDark_ok
      stackCount := by simpa using i.stackCount
      memStacks := forall_mem_map i.memStacks fun _ k => { k with }
      slots := by simp
      lnk := { i.lnk with linkCount := by simpa using i.lnk.linkCount, links := forall_mem_map i.lnk.links fun _ k => { k with retry := Nat.zero_le _ } }
      glb := { i.glb with }
      sec := i.sec
      master := Nat.zero_le _
      spad := rfl }

theorem warmReset_keeps {s t : State} (h : Keeps s t) :
    Keeps s (warmReset t) := by
  unfold warmReset
  repeat' (first
    | with_reducible assumption
    | ((with_reducible change ∀ x, SecOk x → SecOk _); exact fun _ k => k)
    | intro _
    | with_reducible apply haltWhole_keeps
    | with_reducible apply warmRest_keeps
    | with_reducible apply Keeps.modSecAny
    | with_reducible apply Keeps.iteTest
    | ((with_reducible change SecOk _); exact ‹SecOk _›)
    | split
    | dsimp only)

theorem nolotDown_keeps {s t : State} (h : Keeps s t) :
    Keeps s (nolotDown t) := by
  unfold nolotDown
  repeat' (first
    | with_reducible assumption
    | ((with_reducible change ∀ x, AdapterOk x → AdapterOk _); exact fun _ k => { k with })
    | intro _
    | with_reducible apply raiseMsix_keeps
    | with_reducible apply Keeps.modNaAny
    | with_reducible apply Keeps.iteTest
    | ((with_reducible change AdapterOk _); exact ‹AdapterOk _›)
    | split)

theorem coldState_keeps {s t : State} (h : Keeps s t) :
    Keeps s (coldState t) := by
  exact h.to rfl fun i =>
    { dram := rfl
      spad := rfl
      host := i.host
      sync := trivial
      fieldCount := rfl
      fields := by
        intro x hx
        rw [List.eq_of_mem_replicate hx]
        exact fieldReset_ok
      regionCount := by simpa [coldState] using i.regionCount
      regions := forall_mem_map i.regions fun _ => coldRegion_ok
      stackCount := rfl
      memStacks := by
        intro x hx
        rw [List.eq_of_mem_replicate hx]
        exact ⟨Nat.zero_le _, Nat.zero_le _⟩
      slots := rfl
      blockCount := rfl
      blocks := closedBlocks 9
      lnk := ⟨rfl, emptyLinks 96, Nat.zero_le _, Nat.zero_le _⟩
      hst := ⟨rfl, Nat.zero_le _⟩
      glb := { i.glb with weaveRecord := rfl, nanSquash := Nat.zero_le _, mismatches := Nat.zero_le _, skipped := Nat.zero_le _, errDropped := Nat.zero_le _ }
      sec := i.sec
      master := Nat.zero_le _
      pwr := ⟨Nat.zero_le _, Nat.zero_le _⟩
      na := i.na
      stud := i.stud
      fuses := i.fuses }

/-! ### Machine/Halter.lean -/

theorem execHalter_keeps {s t : State} (h : Keeps s t) :
    ResKeeps s (execHalter t) := by
  unfold execHalter
  repeat' (first
    | with_reducible assumption
    | with_reducible apply haltSequence_keeps
    | with_reducible apply Keeps.iteTest
    | with_reducible apply ResKeeps.next
    | with_reducible apply ResKeeps.iteTest
    | split)

theorem execHalterRecordPost_keeps {s t : State} (h : Keeps s t) :
    ResKeeps s (execHalterRecordPost t) := by
  unfold execHalterRecordPost
  repeat' (first
    | with_reducible assumption
    | with_reducible apply haltPost_keeps
    | with_reducible apply Keeps.iteTest
    | with_reducible apply ResKeeps.next
    | with_reducible apply ResKeeps.iteTest
    | split)

theorem execLinkDownSelfHalter_keeps {s t : State} (h : Keeps s t) :
    ResKeeps s (execLinkDownSelfHalter t) := by
  unfold execLinkDownSelfHalter
  repeat' (first
    | with_reducible assumption
    | ((with_reducible change ∀ x, HstOk x → HstOk _); exact fun _ k => { k with })
    | ((with_reducible change ∀ x, HstOk x → HstOk _); intro _ k; split <;> exact { k with })
    | ((with_reducible change ∀ x, AdapterOk x → AdapterOk _); exact fun _ k => { k with })
    | ((with_reducible change ∀ x, AdapterOk x → AdapterOk _); intro _ k; split <;> exact { k with })
    | intro _
    | with_reducible apply Keeps.modHstAny
    | with_reducible apply Keeps.modNaAny
    | with_reducible apply Keeps.iteTest
    | with_reducible apply ResKeeps.next
    | with_reducible apply ResKeeps.iteTest
    | ((with_reducible change AdapterOk _); exact ‹AdapterOk _›)
    | ((with_reducible change HstOk _); exact ‹HstOk _›)
    | split
    | dsimp only)

theorem execZeroingStart_keeps {s t : State} (h : Keeps s t) :
    ResKeeps s (execZeroingStart t) := by
  unfold execZeroingStart
  repeat' (first
    | with_reducible assumption
    | with_reducible apply zeroStart_keeps
    | with_reducible apply Keeps.iteTest
    | with_reducible apply ResKeeps.next
    | with_reducible apply ResKeeps.iteTest
    | split)

theorem execZeroingEnd_keeps {s t : State} (h : Keeps s t) :
    ResKeeps s (execZeroingEnd t) := by
  unfold execZeroingEnd
  repeat' (first
    | with_reducible assumption
    | with_reducible apply zeroEnd_keeps
    | with_reducible apply Keeps.iteTest
    | with_reducible apply ResKeeps.next
    | with_reducible apply ResKeeps.iteTest
    | split)

theorem railEnter_keeps {s t : State} (h : Keeps s t) (blades : List Nat) :
    Keeps s (railEnter t blades) := by
  unfold railEnter
  repeat' (first
    | with_reducible assumption
    | ((with_reducible change ∀ x, PowerOk x → PowerOk _); exact fun _ k => { k with })
    | ((with_reducible change ∀ x, SecOk x → SecOk _); exact fun _ k => k)
    | intro _
    | with_reducible apply Keeps.modPwrAny
    | with_reducible apply Keeps.modClk
    | with_reducible apply Keeps.modSecAny
    | dsimp only)

theorem execRailEnterWindow_keeps {s t : State} (h : Keeps s t) (blades : List Nat := [54000, 54000, 54000, 54000]) :
    ResKeeps s (execRailEnterWindow t blades) := by
  unfold execRailEnterWindow
  repeat' (first
    | with_reducible assumption
    | with_reducible apply railEnter_keeps
    | with_reducible apply Keeps.iteTest
    | with_reducible apply ResKeeps.next
    | with_reducible apply ResKeeps.iteTest
    | split)

theorem execRailLeaveWindow_keeps {s t : State} (h : Keeps s t) (durationUs : Nat) (minMv : Nat) (maxMv : Nat) (blades : List Nat := []) :
    ResKeeps s (execRailLeaveWindow durationUs minMv maxMv t blades) := by
  unfold execRailLeaveWindow
  repeat' (first
    | with_reducible assumption
    | with_reducible apply coldState_keeps
    | with_reducible apply nolotDown_keeps
    | with_reducible apply Keeps.iteTest
    | with_reducible apply ResKeeps.next
    | with_reducible apply ResKeeps.iteTest
    | split)

theorem execRomModeEntry_keeps {s t : State} (h : Keeps s t) :
    ResKeeps s (execRomModeEntry t) := by
  unfold execRomModeEntry
  repeat' (first
    | with_reducible assumption
    | ((with_reducible change ∀ x, PowerOk x → PowerOk _); exact fun _ k => { k with })
    | ((with_reducible change ∀ x, PowerOk x → PowerOk _); intro _ k; split <;> exact { k with })
    | intro _
    | with_reducible apply Keeps.modPwrAny
    | with_reducible apply Keeps.iteTest
    | with_reducible apply ResKeeps.next
    | with_reducible apply ResKeeps.iteTest
    | ((with_reducible change PowerOk _); exact ‹PowerOk _›)
    | split)

theorem execModresetNAssert_keeps {s t : State} (h : Keeps s t) (lowNs : Nat) :
    ResKeeps s (execModresetNAssert lowNs t) := by
  unfold execModresetNAssert
  repeat' (first
    | with_reducible assumption
    | ((with_reducible change ∀ x, PowerOk x → PowerOk _); exact fun _ k => { k with })
    | ((with_reducible change ∀ x, PowerOk x → PowerOk _); intro _ k; split <;> exact { k with })
    | intro _
    | with_reducible apply warmReset_keeps
    | with_reducible apply Keeps.modPwrAny
    | with_reducible apply Keeps.iteTest
    | with_reducible apply ResKeeps.next
    | with_reducible apply ResKeeps.iteTest
    | ((with_reducible change PowerOk _); exact ‹PowerOk _›)
    | split
    | dsimp only)

theorem execModresetNRelease_keeps {s t : State} (h : Keeps s t) :
    ResKeeps s (execModresetNRelease t) := by
  unfold execModresetNRelease
  repeat' (first
    | with_reducible assumption
    | ((with_reducible change ∀ x, PowerOk x → PowerOk _); exact fun _ k => { k with })
    | intro _
    | with_reducible apply Keeps.modPwrAny
    | with_reducible apply ResKeeps.next)

end Sys2Proof.Machine
end

