-- ==== Sys2Proof/Laws/KeepsBoot.lean ====
section
/-!
SUPPORT. One lemma for each operation of bring-up, the weave record, firmware and SPDM: it keeps the waiting queue
and the invariant of Safety.lean (Laws/Keeps.lean).
-/
namespace Sys2Proof.Machine

/-! ### Machine/Weave.lean -/

theorem counted_ok {g : Glb} (regions stakes : Nat) (floor : Bool) (time : Word64) (h : GlbOk g) :
    GlbOk { g with liveRegions := regions, liveStakes := stakes, floor := floor, recordGtc := time } := { h with }

theorem excludeField_keeps {s t : State} (h : Keeps s t) (f : Nat) (reason : Byte) :
    Keeps s (excludeField t f reason) := by
  unfold excludeField
  repeat' (first
    | with_reducible assumption
    | ((with_reducible change Inv _ → ∀ x, x ∈ _ → FieldOk x → FieldOk _); exact fun _ _ _ k => { k with })
    | ((with_reducible change ∀ x, PowerOk x → PowerOk _); exact fun _ k => { k with })
    | intro _
    | with_reducible apply edgeDown_keeps
    | with_reducible apply regionOff_keeps
    | with_reducible apply setLanding_keeps
    | with_reducible apply Keeps.modField
    | with_reducible apply Keeps.modPwrAny
    | with_reducible apply Keeps.foldl
    | ((with_reducible change FieldOk _); exact ‹FieldOk _›)
    | ((with_reducible change PowerOk _); exact ‹PowerOk _›)
    | split
    | dsimp only)

theorem excludeUntil_keeps {s t : State} (h : Keeps s t) (n : Nat) : Keeps s (excludeUntil n t) := by
  induction n generalizing t with
  | zero => exact h
  | succ n ih =>
    unfold excludeUntil
    split
    · exact h
    · split
      · exact ih (excludeField_keeps h _ _)
      · exact h

theorem setRoutes_keeps {s t : State} (h : Keeps s t) :
    Keeps s (setRoutes t) := by
  unfold setRoutes
  repeat' (first
    | with_reducible assumption
    | ((with_reducible change ∀ x, GlbOk x → GlbOk _); exact fun _ k => { k with })
    | intro _
    | with_reducible apply Keeps.modGlbAny
    | dsimp only)

theorem settleRegion_keeps {s t : State} (h : Keeps s t) (r : Nat) :
    Keeps s (settleRegion t r) := by
  unfold settleRegion
  repeat' (first
    | with_reducible assumption
    | ((with_reducible change Inv _ → ∀ x, x ∈ _ → RegionOk x → RegionOk _); exact fun _ _ _ k => { k with })
    | intro _
    | with_reducible apply regionOff_keeps
    | with_reducible apply Keeps.modRegion
    | with_reducible apply Keeps.iteTest
    | ((with_reducible change RegionOk _); exact ‹RegionOk _›)
    | split
    | dsimp only)

theorem settleStack_keeps {s t : State} (h : Keeps s t) (m : Nat) :
    Keeps s (settleStack t m) := by
  unfold settleStack
  repeat' (first
    | with_reducible assumption
    | ((with_reducible change Inv _ → ∀ x, x ∈ _ → StackOk x → StackOk _); exact fun _ _ _ k => { k with })
    | intro _
    | with_reducible apply Keeps.modStack
    | dsimp only)

theorem settleLink_keeps {s t : State} (h : Keeps s t) (l : Nat) :
    Keeps s (settleLink t l) := by
  unfold settleLink
  repeat' (first
    | with_reducible assumption
    | ((with_reducible change Inv _ → ∀ x, x ∈ _ → LinkOk x → LinkOk _); exact fun _ _ _ k => { k with })
    | ((with_reducible change Inv _ → ∀ x, x ∈ _ → LinkOk x → LinkOk _); intro _ _ _ k; split <;> exact { k with })
    | intro _
    | with_reducible apply Keeps.modLink
    | with_reducible apply Keeps.iteTest
    | ((with_reducible change LinkOk _); exact ‹LinkOk _›)
    | split
    | dsimp only)

theorem postUnreadable_keeps {s t : State} (h : Keeps s t) :
    Keeps s (postUnreadable t) := by
  unfold postUnreadable
  repeat' (first
    | with_reducible assumption
    | intro _
    | with_reducible apply postEvent_keeps
    | with_reducible apply Keeps.foldl)

theorem fastFields_keeps {s t : State} (h : Keeps s t) :
    Keeps s (fastFields t) := by
  unfold fastFields
  repeat' (first
    | with_reducible assumption
    | intro _
    | with_reducible apply excludeField_keeps
    | with_reducible apply Keeps.foldl
    | with_reducible apply Keeps.iteTest
    | split)

theorem dramLost_keeps {s t : State} (h : Keeps s t) : Keeps s { t with dram := [], badDram := [] } :=
  h.to rfl fun i => { i with dram := rfl }

theorem settleDram_keeps {s t : State} (h : Keeps s t) :
    Keeps s (settleDram t) := by
  unfold settleDram
  have ht := Keeps.foldl (f := settleStack) (List.range 16) (fun v m k => settleStack_keeps k m) h
  dsimp only
  split
  · exact ht
  · exact dramLost_keeps ht

theorem assembled_keeps {s u : State} (h : Keeps s u) :
    Keeps s { u with slots := assembleSlots u } :=
  h.to rfl fun i => { i with slots := by simp [assembleSlots] }

theorem assembleWeave_keeps {s t : State} (h : Keeps s t) :
    Keeps s (assembleWeave t) := by
  unfold assembleWeave
  have ht := setRoutes_keeps (excludeUntil_keeps (fastFields_keeps (postUnreadable_keeps h)) 16)
  have hu := Keeps.foldl (f := settleLink) (List.range 96) (fun v l k => settleLink_keeps k l)
    (settleDram_keeps (Keeps.foldl (f := settleRegion) (List.range 96) (fun v r k => settleRegion_keeps k r) ht))
  with_reducible apply dropAll_keeps
  with_reducible apply updAllBanks_keeps
  with_reducible apply Keeps.modBoot
  with_reducible apply Keeps.modGlbAny
  · exact assembled_keeps hu
  · exact fun _ k => counted_ok _ _ _ _ k

theorem copyRecord_keeps {s t : State} (h : Keeps s t) :
    Keeps s (copyRecord t) := by
  unfold copyRecord
  repeat' (first
    | with_reducible assumption
    | with_reducible apply hostWrite_keeps
    | with_reducible apply Keeps.iteTest
    | split)

theorem recordBody_wf (s : State) (n : Nat) : Memory.wf (recordBody s n) = true := by
  have key : ∀ (l : List (Nat × List Byte)) (m : Mem), Memory.wf m = true →
      Memory.wf (l.foldl (fun m p => memWrite m (cellsAt p.1 p.2)) m) = true := by
    intro l
    induction l with
    | nil => exact fun m h => h
    | cons p l ih => exact fun m h => ih _ (memWrite_wf _ h)
  exact key _ [] rfl

theorem newRecord_wf (s : State) (n : Nat) : Memory.wf (newRecord s n) = true := memWrite_wf _ (recordBody_wf s n)

theorem publishRecord_keeps {s t : State} (h : Keeps s t) {m : Mem} (hm : Inv t → Memory.wf m = true) :
    Keeps s (publishRecord t m) := by
  unfold publishRecord
  have hp := publishWeave_keeps h
  have hk : Keeps s (modGlb (publishWeave t) (fun g =>
      { g with flashWeave := m, flashWeaveOk := true, flashBad := (false, false), weaveRecord := m, weaveSeq := BitVec.ofNat 32 (readNat (memGet m) 0x0C 4) })) := by
    refine ⟨hp.1, fun i => ?_⟩
    have hw := hm (h.2 i)
    have k := hp.2 i
    exact { k with glb := { k.glb with weaveRecord := hw, flashWeave := hw } }
  exact Keeps.modBoot (copyRecord_keeps hk)

theorem publishStep_keeps {s t : State} (h : Keeps s t) (flashOk : Bool) :
    Keeps s (publishStep t flashOk) := by
  unfold publishStep
  split
  · exact publishRecord_keeps h fun i => i.glb.flashWeave
  · split
    · exact publishRecord_keeps h fun _ => newRecord_wf _ _
    · exact h.modBoot

/-! ### Machine/Boot.lean -/

theorem bootDelta_ok {s : State} (i : Inv s) (r : Nat) : DeltaOk (bootDelta s r) := by
  unfold bootDelta
  split
  · next t ht => exact i.stud.trims t (List.mem_filter.1 (List.mem_of_getLast? ht)).1
  · rw [List.getD_eq_getElem?_getD]
    cases hr : s.fuses.delta[r]? with
    | none => exact ⟨by decide, by decide⟩
    | some d => exact i.fuses.delta d (List.mem_of_getElem? hr)

theorem bootCredit_ok {s : State} (i : Inv s) (f : Nat) : bootCredit s f ≤ fullCredit := by
  unfold bootCredit
  cases hf : s.stud.creditCkpt[f]? with
  | none => exact Nat.le_refl _
  | some c =>
    have := i.stud.creditCkpt c (List.mem_of_getElem? hf)
    unfold fullCredit
    dsimp only
    omega

theorem advanceSvn_ok {x : Fuses} (img : Nat → Byte) (h : FusesOk x) : FusesOk (advanceSvn x img) := by
  unfold advanceSvn
  split
  · exact { h with svn := Nat.min_le_left _ _ }
  · exact h

theorem regionCleared_ok {x : Region} (k : RegionOk x) : RegionOk { regionDark x with reason := 0 } :=
  { regionDark_ok k with }

theorem bootErr_keeps {s t : State} (h : Keeps s t) (code : Byte) (step : Nat) :
    Keeps s (bootErr t code step) := by
  unfold bootErr
  repeat' (first
    | with_reducible assumption
    | intro _
    | with_reducible apply Keeps.modBoot)

theorem bootRefuse_keeps {s t : State} (h : Keeps s t) (n : Nat) :
    Keeps s (bootRefuse t n) := by
  unfold bootRefuse
  repeat' (first
    | with_reducible assumption
    | with_reducible apply bootErr_keeps
    | with_reducible apply Keeps.iteTest
    | split)

theorem bootBegin_keeps {s t : State} (h : Keeps s t) (n : Nat) (fast : Bool) :
    Keeps s (bootBegin t n fast) := by
  unfold bootBegin
  repeat' (first
    | with_reducible assumption
    | intro _
    | with_reducible apply Keeps.modBoot
    | with_reducible apply Keeps.iteTest
    | split)

theorem runStep_keeps {s t : State} (h : Keeps s t) (n : Nat) (fast : Bool) {work : State → State}
    (hw : ∀ u, Keeps s u → Keeps s (work u)) : Keeps s (runStep t n fast work) := by
  unfold runStep
  dsimp only
  split
  · exact hw _ h
  · split
    · exact h
    · split
      · split
        · exact bootBegin_keeps h _ _
        · exact hw _ (bootBegin_keeps h _ _)
      · exact bootRefuse_keeps h _

theorem stepResult_keeps {s t : State} (h : Keeps s t) (err : Byte) :
    Keeps s (stepResult t err) := by
  unfold stepResult
  repeat' (first
    | with_reducible assumption
    | intro _
    | with_reducible apply Keeps.modBoot)

theorem notePhases_keeps {s t : State} (h : Keeps s t) (failed : List (Nat × Nat)) :
    Keeps s (notePhases t failed) := by
  unfold notePhases
  repeat' (first
    | with_reducible assumption
    | ((with_reducible change Inv _ → ∀ x, x ∈ _ → FieldOk x → FieldOk _); exact fun _ _ _ k => { k with })
    | ((with_reducible change Inv _ → ∀ x, x ∈ _ → FieldOk x → FieldOk _); exact fun _ _ _ k => { k with stageFailed := Nat.min_le_left _ _ })
    | intro _
    | with_reducible apply Keeps.modField
    | with_reducible apply Keeps.foldl)

theorem powerEntry_keeps {s t : State} (h : Keeps s t) (vin : Nat) (inlet : Nat) (outlet : Nat) (lidOk : Bool) (failed : List (Nat × Nat)) (blades : List Nat) :
    Keeps s (powerEntry t vin inlet outlet lidOk failed blades) := by
  unfold powerEntry
  repeat' (first
    | with_reducible assumption
    | ((with_reducible change ∀ x, GlbOk x → GlbOk _); exact fun _ k => { k with })
    | ((with_reducible change ∀ x, GlbOk x → GlbOk _); intro _ k; split <;> exact { k with })
    | ((with_reducible change ∀ x, PowerOk x → PowerOk _); exact fun _ k => { k with })
    | ((with_reducible change ∀ x, PowerOk x → PowerOk _); intro _ k; split <;> exact { k with })
    | intro _
    | with_reducible apply notePhases_keeps
    | with_reducible apply stepResult_keeps
    | with_reducible apply Keeps.modGlbAny
    | with_reducible apply Keeps.modPwrAny
    | with_reducible apply Keeps.iteTest
    | ((with_reducible change GlbOk _); exact ‹GlbOk _›)
    | ((with_reducible change PowerOk _); exact ‹PowerOk _›)
    | split
    | dsimp only)

theorem readStud_keeps {s t : State} (h : Keeps s t) :
    Keeps s (readStud t) := by
  unfold readStud
  exact h.to rfl fun i =>
    { i with
      regionCount := by simpa using i.regionCount
      regions := forall_mem_zipIdx_map i.regions fun _ r k => { k with delta := bootDelta_ok i r }
      fieldCount := by simpa using i.fieldCount
      fields := forall_mem_zipIdx_map i.fields fun _ f k => { k with credit := bootCredit_ok i f } }

theorem noteCopies_keeps {s t : State} (h : Keeps s t) (p : UnitKind × Nat × Bool × Bool) :
    Keeps s (noteCopies t p) := by
  exact unitPut_keeps h { studUnit t p.1 p.2.1 with copiesBad := p.2.2 } fun i => studUnit_life i _ _

theorem noteFlash_keeps {s t : State} (h : Keeps s t) (found : FlashFindings) :
    Keeps s (noteFlash t found) := by
  unfold noteFlash
  repeat' (first
    | with_reducible assumption
    | ((with_reducible change ∀ x, GlbOk x → GlbOk _); exact fun _ k => { k with })
    | intro _
    | with_reducible apply noteCopies_keeps
    | with_reducible apply Keeps.modGlbAny
    | with_reducible apply Keeps.foldl)

theorem startImage_keeps {s t : State} (h : Keeps s t) (flash : FlashFindings) :
    Keeps s (startImage t flash) := by
  unfold startImage
  dsimp only
  with_reducible apply readStud_keeps
  with_reducible apply noteFlash_keeps
  with_reducible apply Keeps.modBoot
  with_reducible apply Keeps.modSecAny
  · exact h.to rfl fun i => { i with fuses := advanceSvn_ok _ i.fuses }
  · exact fun _ k => k

theorem testLandings_keeps {s t : State} (h : Keeps s t) (landing1 : Bool) (landing4 : Bool) :
    Keeps s (testLandings t landing1 landing4) := by
  unfold testLandings
  dsimp only
  refine Keeps.modField (Keeps.modField (Keeps.modPwrAny h fun _ k => { k with }) ?_) ?_
  all_goals
    intro _ _ _ k
    split
    · exact k
    · exact { k with }

theorem kBootWork_keeps {s t : State} (h : Keeps s t) (landing1 : Bool) (landing4 : Bool) (flash : FlashFindings) :
    Keeps s (kBootWork t landing1 landing4 flash) := by
  unfold kBootWork
  repeat' (first
    | with_reducible assumption
    | ((with_reducible change ∀ x, PowerOk x → PowerOk _); exact fun _ k => { k with })
    | ((with_reducible change ∀ x, PowerOk x → PowerOk _); intro _ k; split <;> exact { k with })
    | ((with_reducible change ∀ x, SecOk x → SecOk _); exact fun _ k => k)
    | intro _
    | with_reducible apply startImage_keeps
    | with_reducible apply stepResult_keeps
    | with_reducible apply testLandings_keeps
    | with_reducible apply Keeps.modPwrAny
    | with_reducible apply Keeps.modSecAny
    | with_reducible apply Keeps.modBoot
    | with_reducible apply Keeps.iteTest
    | ((with_reducible change PowerOk _); exact ‹PowerOk _›)
    | ((with_reducible change SecOk _); exact ‹SecOk _›)
    | split
    | dsimp only)

theorem clearFindings_keeps {s t : State} (h : Keeps s t) :
    Keeps s (clearFindings t) := by
  unfold clearFindings
  exact h.to rfl fun i =>
    { i with
      pwr := { i.pwr with }
      fieldCount := by simpa using i.fieldCount
      fields := forall_mem_map i.fields fun _ k => { fieldOff_ok k with }
      regionCount := by simpa using i.regionCount
      regions := forall_mem_map i.regions fun _ => regionCleared_ok
      stackCount := by simpa using i.stackCount
      memStacks := forall_mem_map i.memStacks fun _ k => ⟨Nat.zero_le _, Nat.zero_le _⟩ }

theorem raiseRails_keeps {s t : State} (h : Keeps s t) (silent : List Nat) :
    Keeps s (raiseRails t silent) := by
  unfold raiseRails
  repeat' (first
    | with_reducible assumption
    | ((with_reducible change ∀ x, PowerOk x → PowerOk _); exact fun _ k => { k with })
    | ((with_reducible change ∀ x, PowerOk x → PowerOk _); intro _ k; split <;> exact { k with })
    | intro _
    | with_reducible apply Keeps.modPwrAny
    | with_reducible apply Keeps.modClk
    | with_reducible apply Keeps.iteTest
    | ((with_reducible change PowerOk _); exact ‹PowerOk _›)
    | split
    | dsimp only)

theorem notePower_keeps {s t : State} (h : Keeps s t) (found : PowerUpFindings) :
    Keeps s (notePower t found) := by
  unfold notePower
  repeat' (first
    | with_reducible assumption
    | ((with_reducible change ∀ x, FieldOk x → FieldOk _); exact fun _ k => by first | exact { k with } | (split <;> exact { k with }))
    | ((with_reducible change Inv _ → ∀ x, x ∈ _ → FieldOk x → FieldOk _); exact fun _ _ _ k => { k with })
    | ((with_reducible change ∀ x, PowerOk x → PowerOk _); exact fun _ k => { k with })
    | intro _
    | with_reducible apply Keeps.modField
    | with_reducible apply Keeps.modPwrAny
    | with_reducible apply Keeps.mapFields
    | with_reducible apply Keeps.foldl
    | exact Keeps.to h rfl fun i => { i with }
    | dsimp only)

theorem phaseFails_keeps {s t : State} (h : Keeps s t) (r : Nat) (j : Nat) :
    Keeps s (phaseFails t r j) := by
  unfold phaseFails
  repeat' (first
    | with_reducible assumption
    | with_reducible apply recordFault_keeps
    | with_reducible apply retireUnit_keeps
    | with_reducible apply Keeps.iteTest
    | split)

theorem bootEfuse_keeps {s t : State} (h : Keeps s t) (r : Nat) :
    Keeps s (bootEfuse t r) := by
  unfold bootEfuse
  repeat' (first
    | with_reducible assumption
    | ((with_reducible change Inv _ → ∀ x, x ∈ _ → RegionOk x → RegionOk _); exact fun _ _ _ k => { k with })
    | ((with_reducible change Inv _ → ∀ x, x ∈ _ → RegionOk x → RegionOk _); exact fun _ _ _ k => { k with efuseOpenings := Nat.min_le_left _ _ })
    | intro _
    | with_reducible apply blowFuse_keeps
    | with_reducible apply noteOpening_keeps
    | with_reducible apply postEvent_keeps
    | with_reducible apply regionOff_keeps
    | with_reducible apply Keeps.modRegion
    | dsimp only)

theorem regionUp_keeps {s t : State} (h : Keeps s t) (found : PowerUpFindings) (r : Nat) :
    Keeps s (regionUp t found r) := by
  unfold regionUp
  repeat' (first
    | with_reducible assumption
    | ((with_reducible change Inv _ → ∀ x, x ∈ _ → RegionOk x → RegionOk _); exact fun _ _ _ k => { k with })
    | intro _
    | with_reducible apply bootEfuse_keeps
    | with_reducible apply noteRail_keeps
    | with_reducible apply phaseFails_keeps
    | with_reducible apply updBanks_keeps
    | with_reducible apply Keeps.modRegion
    | with_reducible apply Keeps.foldl
    | with_reducible apply Keeps.iteTest
    | ((with_reducible change RegionOk _); exact ‹RegionOk _›)
    | split
    | dsimp only)

theorem takeField_keeps {s t : State} (h : Keeps s t) (found : PowerUpFindings) (f : Nat) :
    Keeps s (takeField t found f) := by
  unfold takeField
  repeat' (first
    | with_reducible assumption
    | ((with_reducible change Inv _ → ∀ x, x ∈ _ → FieldOk x → FieldOk _); exact fun _ _ _ k => { k with })
    | ((with_reducible change ∀ x, PowerOk x → PowerOk _); exact fun _ k => { k with })
    | intro _
    | with_reducible apply excludeField_keeps
    | with_reducible apply regionUp_keeps
    | with_reducible apply Keeps.modField
    | with_reducible apply Keeps.modPwrAny
    | with_reducible apply Keeps.foldl
    | with_reducible apply Keeps.iteTest
    | ((with_reducible change FieldOk _); exact ‹FieldOk _›)
    | ((with_reducible change PowerOk _); exact ‹PowerOk _›)
    | split
    | dsimp only)

theorem noteRepair_keeps {s t : State} (h : Keeps s t) (i : Nat) (wires : Nat) :
    Keeps s (noteRepair t i wires) := by
  unfold noteRepair
  repeat' (first
    | with_reducible assumption
    | with_reducible apply noteRepairs_keeps
    | with_reducible apply Keeps.iteTest
    | split)

theorem noteSubLink_keeps {s t : State} (h : Keeps s t) (found : PowerUpFindings) (f : Nat) (d : Nat) (n : Nat) (k : Nat) :
    Keeps s (noteSubLink t found f d n k) := by
  unfold noteSubLink
  repeat' (first
    | with_reducible assumption
    | with_reducible apply noteRepair_keeps
    | with_reducible apply recordFault_keeps
    | with_reducible apply Keeps.iteTest
    | split
    | dsimp only)

theorem trainJoin_keeps {s t : State} (h : Keeps s t) (found : PowerUpFindings) (f : Nat) (d : Nat) :
    Keeps s (trainJoin t found f d) := by
  unfold trainJoin
  dsimp only
  split
  · exact h
  · split
    · exact edgeDown_keeps h _ _
    · refine bumpFree_keeps (Keeps.modEdge (Keeps.modEdge (Keeps.foldl _ (fun v k hv => noteSubLink_keeps hv _ _ _ _ _) h)
        fun _ k => ?_) fun _ k => ?_)
      all_goals exact { k with fifo := queued _ _ fun _ => fifoOf_len _ _ _ _ _ }

theorem noteLanding_keeps {s t : State} (h : Keeps s t) (found : PowerUpFindings) (f : Nat) (c : Nat) (h' : Nat) (k : Nat) :
    Keeps s (noteLanding t found f c h' k) := by
  unfold noteLanding
  repeat' (first
    | with_reducible assumption
    | with_reducible apply noteRepair_keeps
    | with_reducible apply recordFault_keeps
    | with_reducible apply Keeps.iteTest
    | split
    | dsimp only)

theorem trainLanding_keeps {s t : State} (h : Keeps s t) (found : PowerUpFindings) (f : Nat) :
    Keeps s (trainLanding t found f) := by
  unfold trainLanding
  repeat' (first
    | with_reducible assumption
    | intro _
    | with_reducible apply noteLanding_keeps
    | with_reducible apply setLanding_keeps
    | with_reducible apply Keeps.foldl
    | with_reducible apply Keeps.iteTest
    | split)

theorem trainLandings_keeps {s t : State} (h : Keeps s t) (found : PowerUpFindings) :
    Keeps s (trainLandings t found) := by
  unfold trainLandings
  repeat' (first
    | with_reducible assumption
    | intro _
    | with_reducible apply trainLanding_keeps
    | with_reducible apply Keeps.foldl)

theorem fieldPowerUpWork_keeps {s t : State} (h : Keeps s t) (found : PowerUpFindings) :
    Keeps s (fieldPowerUpWork t found) := by
  unfold fieldPowerUpWork
  repeat' (first
    | with_reducible assumption
    | intro _
    | with_reducible apply clearFindings_keeps
    | with_reducible apply notePower_keeps
    | with_reducible apply raiseRails_keeps
    | with_reducible apply stepResult_keeps
    | with_reducible apply takeField_keeps
    | with_reducible apply trainJoin_keeps
    | with_reducible apply trainLandings_keeps
    | with_reducible apply Keeps.foldl
    | with_reducible apply Keeps.iteTest
    | split
    | dsimp only)

theorem coreOff_keeps {s t : State} (h : Keeps s t) (c : Nat) :
    Keeps s (coreOff t c) := by
  unfold coreOff
  repeat' (first
    | with_reducible assumption
    | ((with_reducible change ∀ x, PowerOk x → PowerOk _); exact fun _ k => { k with })
    | intro _
    | with_reducible apply dieLinksOff_keeps
    | with_reducible apply Keeps.modPwrAny
    | dsimp only)

theorem Keeps.elim {α : Type} {s a : State} {o : Option α} {f : α → State} (ha : Keeps s a) (hf : ∀ x, Keeps s (f x)) :
    Keeps s (o.elim a f) := by
  cases o with
  | none => exact ha
  | some x => exact hf x

theorem markNow_joinRecount_keeps {s t : State} (h : Keeps s t) (i : Nat) :
    Keeps s (markNow.joinRecount t i) := by
  unfold markNow.joinRecount
  repeat' (first
    | with_reducible assumption
    | ((with_reducible change ∀ x, EdgeOk x → EdgeOk _); exact fun _ k => { k with })
    | with_reducible apply Keeps.elim
    | intro _
    | intro _
    | with_reducible apply edgeDown_keeps
    | with_reducible apply setLanding_keeps
    | with_reducible apply Keeps.modEdge
    | with_reducible apply Keeps.iteTest
    | ((with_reducible change EdgeOk _); exact ‹EdgeOk _›)
    | split
    | dsimp only)

theorem markNow_keeps {s t : State} (h : Keeps s t) (k : UnitKind) (i : Nat) :
    Keeps s (markNow t k i) := by
  unfold markNow
  repeat' (first
    | with_reducible assumption
    | ((with_reducible change Inv _ → ∀ x, x ∈ _ → RegionOk x → RegionOk _); exact fun _ _ _ k => { k with })
    | ((with_reducible change Inv _ → ∀ x, x ∈ _ → StackOk x → StackOk _); exact fun _ _ _ k => { k with })
    | ((with_reducible change ∀ x, EdgeOk x → EdgeOk _); exact fun _ k => { k with })
    | intro _
    | with_reducible apply coreOff_keeps
    | with_reducible apply excludeField_keeps
    | with_reducible apply markNow_joinRecount_keeps
    | with_reducible apply Keeps.modRegion
    | with_reducible apply Keeps.modStack
    | with_reducible apply Keeps.modEdge
    | with_reducible apply Keeps.iteTest
    | ((with_reducible change EdgeOk _); exact ‹EdgeOk _›)
    | ((with_reducible change RegionOk _); exact ‹RegionOk _›)
    | ((with_reducible change StackOk _); exact ‹StackOk _›)
    | split)

theorem testUnit_keeps {s t : State} (h : Keeps s t) (x : TestFinding) :
    Keeps s (testUnit t x) := by
  unfold testUnit
  repeat' (first
    | with_reducible assumption
    | with_reducible apply markNow_keeps
    | with_reducible apply recordFault_keeps
    | with_reducible apply retireUnit_keeps
    | with_reducible apply Keeps.iteTest
    | split)

theorem startUpTestsWork_keeps {s t : State} (h : Keeps s t) (found : List TestFinding) (efuseOpen : List Nat) :
    Keeps s (startUpTestsWork t found efuseOpen) := by
  unfold startUpTestsWork
  repeat' (first
    | with_reducible assumption
    | intro _
    | with_reducible apply bootEfuse_keeps
    | with_reducible apply stepResult_keeps
    | with_reducible apply testUnit_keeps
    | with_reducible apply Keeps.foldl
    | with_reducible apply Keeps.iteTest
    | split
    | dsimp only)

theorem trainStack_keeps {s t : State} (h : Keeps s t) (x : StackFinding) :
    Keeps s (trainStack t x) := by
  unfold trainStack
  repeat' (first
    | with_reducible assumption
    | ((with_reducible change Inv _ → ∀ x, x ∈ _ → StackOk x → StackOk _); exact fun _ _ _ k => { k with })
    | intro _
    | with_reducible apply noteLanes_keeps
    | with_reducible apply trainedStack_keeps
    | with_reducible apply Keeps.modStack
    | with_reducible apply Keeps.iteTest
    | ((with_reducible change StackOk _); exact ‹StackOk _›)
    | split)

theorem dramTrainingWork_keeps {s t : State} (h : Keeps s t) (found : List StackFinding) :
    Keeps s (dramTrainingWork t found) := by
  unfold dramTrainingWork
  repeat' (first
    | with_reducible assumption
    | intro _
    | with_reducible apply stepResult_keeps
    | with_reducible apply trainStack_keeps
    | with_reducible apply Keeps.foldl
    | dsimp only)

theorem linkTrainingWork_keeps {s t : State} (h : Keeps s t) :
    Keeps s (linkTrainingWork t) := by
  unfold linkTrainingWork
  repeat' (first
    | with_reducible assumption
    | ((with_reducible change Inv _ → ∀ x, x ∈ _ → LinkOk x → LinkOk _); exact fun _ _ _ k => { k with })
    | ((with_reducible change ∀ x, PowerOk x → PowerOk _); exact fun _ k => { k with })
    | intro _
    | with_reducible apply Keeps.modLink
    | with_reducible apply Keeps.modPwrAny
    | with_reducible apply Keeps.foldl
    | with_reducible apply Keeps.iteTest
    | ((with_reducible change LinkOk _); exact ‹LinkOk _›)
    | ((with_reducible change PowerOk _); exact ‹PowerOk _›)
    | split
    | dsimp only)

theorem planeMismatch_keeps {s t : State} (h : Keeps s t) (l : Nat) (peerPlane : Nat) :
    Keeps s (planeMismatch t l peerPlane) := by
  unfold planeMismatch
  repeat' (first
    | with_reducible assumption
    | with_reducible apply noteRepairs_keeps
    | with_reducible apply postEvent_keeps
    | dsimp only)

theorem laneFaults_keeps {s t : State} (h : Keeps s t) (l : Nat) (passed : BitVec 2) :
    Keeps s (laneFaults t l passed) := by
  unfold laneFaults
  repeat' (first
    | with_reducible assumption
    | intro _
    | with_reducible apply recordFault_keeps
    | with_reducible apply Keeps.foldl
    | with_reducible apply Keeps.iteTest
    | split)

theorem linkSettles_keeps {s t : State} (h : Keeps s t) (l : Nat) (lanes : BitVec 2) (passed : BitVec 2) :
    Keeps s (linkSettles t l lanes passed) := by
  unfold linkSettles
  repeat' (first
    | with_reducible assumption
    | ((with_reducible change Inv _ → ∀ x, x ∈ _ → LinkOk x → LinkOk _); exact fun _ _ _ k => { k with })
    | intro _
    | with_reducible apply laneFaults_keeps
    | with_reducible apply recordFault_keeps
    | with_reducible apply Keeps.modLink
    | with_reducible apply Keeps.iteTest
    | ((with_reducible change LinkOk _); exact ‹LinkOk _›)
    | split
    | dsimp only)

theorem attemptEnd_keeps {s t : State} (h : Keeps s t) (l : Nat) (lanes : BitVec 2) (peer : BitVec 48) (peerPlane : Nat) :
    Keeps s (attemptEnd t l lanes peer peerPlane) := by
  unfold attemptEnd
  repeat' (first
    | with_reducible assumption
    | ((with_reducible change Inv _ → ∀ x, x ∈ _ → LinkOk x → LinkOk _); exact fun _ _ _ k => { k with })
    | ((with_reducible change Inv _ → ∀ x, x ∈ _ → LinkOk x → LinkOk _); intro _ _ _ k; split <;> exact { k with })
    | intro _
    | with_reducible apply linkSettles_keeps
    | with_reducible apply planeMismatch_keeps
    | with_reducible apply putFlits_keeps
    | with_reducible apply Keeps.modLink
    | with_reducible apply Keeps.iteTest
    | ((with_reducible change LinkOk _); exact ‹LinkOk _›)
    | split
    | dsimp only)

theorem ringEnableWork_keeps {s t : State} (h : Keeps s t) :
    Keeps s (ringEnableWork t) := by
  unfold ringEnableWork
  dsimp only
  with_reducible apply stepResult_keeps
  with_reducible apply Keeps.modGlbAny
  · with_reducible apply Keeps.modMasterAny
    · exact h.to rfl fun i => { i with sync := trivial }
    · exact fun _ _ => Nat.zero_le _
  · exact fun _ k => { k with nanSquash := Nat.zero_le _ }

theorem bootCommand_keeps {s t : State} (h : Keeps s t) (n : Nat) (fast : Bool) :
    Keeps s (bootCommand t n fast) := by
  unfold bootCommand
  repeat' (first
    | with_reducible assumption
    | with_reducible apply assembleWeave_keeps
    | with_reducible apply bootBegin_keeps
    | with_reducible apply bootRefuse_keeps
    | with_reducible apply linkTrainingWork_keeps
    | with_reducible apply ringEnableWork_keeps
    | with_reducible apply Keeps.iteTest
    | split
    | dsimp only)

theorem stepFails_keeps {s t : State} (h : Keeps s t) (n : Nat) :
    Keeps s (stepFails t n) := by
  unfold stepFails
  repeat' (first
    | with_reducible assumption
    | intro _
    | with_reducible apply Keeps.modBoot)

theorem stepEnds_keeps {s t : State} (h : Keeps s t) (n : Nat) :
    Keeps s (stepEnds t n) := by
  unfold stepEnds
  repeat' (first
    | with_reducible assumption
    | ((with_reducible change ∀ x, GlbOk x → GlbOk _); exact fun _ k => { k with })
    | ((with_reducible change ∀ x, PowerOk x → PowerOk _); exact fun _ k => { k with })
    | intro _
    | with_reducible apply Keeps.modGlbAny
    | with_reducible apply Keeps.modPwrAny
    | with_reducible apply Keeps.modBoot
    | with_reducible apply Keeps.iteTest
    | ((with_reducible change GlbOk _); exact ‹GlbOk _›)
    | ((with_reducible change PowerOk _); exact ‹PowerOk _›)
    | split
    | dsimp only)

theorem linkStepEnds_keeps {s t : State} (h : Keeps s t) :
    Keeps s (linkStepEnds t) := by
  unfold linkStepEnds
  repeat' (first
    | with_reducible assumption
    | intro _
    | with_reducible apply assembleWeave_keeps
    | with_reducible apply Keeps.modBoot
    | with_reducible apply Keeps.iteTest
    | split
    | dsimp only)

theorem bootComplete_keeps {s t : State} (h : Keeps s t) (n : Nat) :
    Keeps s (bootComplete t n) := by
  unfold bootComplete
  repeat' (first
    | with_reducible assumption
    | with_reducible apply linkStepEnds_keeps
    | with_reducible apply stepEnds_keeps
    | with_reducible apply stepFails_keeps
    | with_reducible apply Keeps.iteTest
    | split)

/-! ### Machine/BootRows.lean -/

theorem execPowerEntryChecks_keeps {s t : State} (h : Keeps s t) (vin : Nat) (inlet : Nat) (outlet : Nat) (lidOk : Bool) (stageFailed : List (Nat × Nat)) (blades : List Nat := []) :
    ResKeeps s (execPowerEntryChecks vin inlet outlet lidOk stageFailed t blades) := by
  unfold execPowerEntryChecks
  repeat' (first
    | with_reducible assumption
    | intro _
    | with_reducible apply powerEntry_keeps
    | with_reducible apply runStep_keeps
    | with_reducible apply ResKeeps.next
    | dsimp only)

theorem execKBoot_keeps {s t : State} (h : Keeps s t) (landing1 : Bool) (landing4 : Bool) (flash : FlashFindings := FlashFindings.clean) :
    ResKeeps s (execKBoot landing1 landing4 t flash) := by
  unfold execKBoot
  repeat' (first
    | with_reducible assumption
    | intro _
    | with_reducible apply kBootWork_keeps
    | with_reducible apply runStep_keeps
    | with_reducible apply ResKeeps.next)

theorem execFieldPowerUp_keeps {s t : State} (h : Keeps s t) (found : PowerUpFindings) :
    ResKeeps s (execFieldPowerUp found t) := by
  unfold execFieldPowerUp
  repeat' (first
    | with_reducible assumption
    | intro _
    | with_reducible apply fieldPowerUpWork_keeps
    | with_reducible apply runStep_keeps
    | with_reducible apply ResKeeps.next)

theorem execFieldPowerUpFast_keeps {s t : State} (h : Keeps s t) (found : PowerUpFindings) :
    ResKeeps s (execFieldPowerUpFast found t) := by
  unfold execFieldPowerUpFast
  repeat' (first
    | with_reducible assumption
    | intro _
    | with_reducible apply fieldPowerUpWork_keeps
    | with_reducible apply runStep_keeps
    | with_reducible apply ResKeeps.next)

theorem execStartUpTests_keeps {s t : State} (h : Keeps s t) (found : List TestFinding) (efuseOpen : List Nat) :
    ResKeeps s (execStartUpTests found efuseOpen t) := by
  unfold execStartUpTests
  repeat' (first
    | with_reducible assumption
    | intro _
    | with_reducible apply runStep_keeps
    | with_reducible apply startUpTestsWork_keeps
    | with_reducible apply ResKeeps.next)

theorem execDramTraining_keeps {s t : State} (h : Keeps s t) (found : List StackFinding) :
    ResKeeps s (execDramTraining found t) := by
  unfold execDramTraining
  repeat' (first
    | with_reducible assumption
    | intro _
    | with_reducible apply dramTrainingWork_keeps
    | with_reducible apply runStep_keeps
    | with_reducible apply ResKeeps.next)

theorem execLinkTraining_keeps {s t : State} (h : Keeps s t) :
    ResKeeps s (execLinkTraining t) := by
  unfold execLinkTraining
  repeat' (first
    | with_reducible assumption
    | intro _
    | with_reducible apply linkTrainingWork_keeps
    | with_reducible apply runStep_keeps
    | with_reducible apply ResKeeps.next)

theorem execLinkTrainingAttemptEnd_keeps {s t : State} (h : Keeps s t) (link : Nat) (lanes : BitVec 2) (peer : BitVec 48) (peerPlane : Nat) :
    ResKeeps s (execLinkTrainingAttemptEnd link lanes peer peerPlane t) := by
  unfold execLinkTrainingAttemptEnd
  repeat' (first
    | with_reducible assumption
    | with_reducible apply attemptEnd_keeps
    | with_reducible apply onUnit_keeps
    | with_reducible apply Keeps.iteTest
    | with_reducible apply ResKeeps.next
    | with_reducible apply ResKeeps.onUnit
    | with_reducible apply ResKeeps.iteTest
    | split)

theorem execWeaveAssembly_keeps {s t : State} (h : Keeps s t) :
    ResKeeps s (execWeaveAssembly t) := by
  unfold execWeaveAssembly
  repeat' (first
    | with_reducible assumption
    | intro _
    | with_reducible apply assembleWeave_keeps
    | with_reducible apply runStep_keeps
    | with_reducible apply ResKeeps.next)

theorem execWeavePublication_keeps {s t : State} (h : Keeps s t) (flashOk : Bool) :
    ResKeeps s (execWeavePublication flashOk t) := by
  unfold execWeavePublication
  repeat' (first
    | with_reducible assumption
    | intro _
    | with_reducible apply publishStep_keeps
    | with_reducible apply runStep_keeps
    | with_reducible apply ResKeeps.next)

theorem execRingEnableStep_keeps {s t : State} (h : Keeps s t) :
    ResKeeps s (execRingEnableStep t) := by
  unfold execRingEnableStep
  repeat' (first
    | with_reducible assumption
    | intro _
    | with_reducible apply ringEnableWork_keeps
    | with_reducible apply runStep_keeps
    | with_reducible apply ResKeeps.next)

theorem execBootStepComplete_keeps {s t : State} (h : Keeps s t) (step : Nat) :
    ResKeeps s (execBootStepComplete step t) := by
  unfold execBootStepComplete
  repeat' (first
    | with_reducible assumption
    | with_reducible apply bootComplete_keeps
    | with_reducible apply Keeps.iteTest
    | with_reducible apply ResKeeps.next
    | with_reducible apply ResKeeps.iteTest
    | exact ResKeeps.fault _
    | split)

/-! ### Machine/Security.lean -/

theorem setResult_keeps {s t : State} (h : Keeps s t) (code : Byte) :
    Keeps s (setResult t code) := by
  unfold setResult
  repeat' (first
    | with_reducible assumption
    | ((with_reducible change ∀ x, SecOk x → SecOk _); exact fun _ k => k)
    | intro _
    | with_reducible apply Keeps.modSecAny)

theorem beginPass2_keeps {s t : State} (h : Keeps s t) :
    Keeps s (beginPass2 t) := by
  unfold beginPass2
  repeat' (first
    | with_reducible assumption
    | ((with_reducible change ∀ x, SecOk x → SecOk _); exact fun _ k => k)
    | ((with_reducible change ∀ x, SecOk x → SecOk _); exact fun _ _ => rfl)
    | intro _
    | with_reducible apply bumpFree_keeps
    | with_reducible apply Keeps.modSecAny)

theorem updateStart_keeps {s t : State} (h : Keeps s t) :
    Keeps s (updateStart t) := by
  unfold updateStart
  repeat' (first
    | with_reducible assumption
    | with_reducible apply beginPass2_keeps
    | with_reducible apply setResult_keeps
    | with_reducible apply Keeps.iteTest
    | split)

theorem updateEnds_keeps {s t : State} (h : Keeps s t) (code : Byte) :
    Keeps s (updateEnds t code) := by
  unfold updateEnds
  repeat' (first
    | with_reducible assumption
    | ((with_reducible change ∀ x, SecOk x → SecOk _); exact fun _ k => k)
    | intro _
    | with_reducible apply warmRest_keeps
    | with_reducible apply Keeps.modSecAny
    | with_reducible apply Keeps.iteTest
    | ((with_reducible change SecOk _); exact ‹SecOk _›)
    | split
    | dsimp only)

theorem turned_wf (wrong : List (Nat × Byte)) {m : Mem} (h : Memory.wf m = true) : Memory.wf (turned m wrong) = true := by
  unfold turned
  induction wrong generalizing m with
  | nil => exact h
  | cons w l ih => exact ih (memSet_wf _ _ h)

theorem updateFinish_keeps {s t : State} (h : Keeps s t) (flashOk : Bool) (readBack : List (Nat × Byte)) :
    Keeps s (updateFinish t flashOk readBack) := by
  unfold updateFinish
  repeat' (first
    | with_reducible assumption
    | ((with_reducible change ∀ x, SecOk x → SecOk _); exact fun _ k => k)
    | ((with_reducible change ∀ x, SecOk x → SecOk _); exact fun _ _ => turned_wf _ (memWrite_wf _ rfl))
    | intro _
    | with_reducible apply updateEnds_keeps
    | with_reducible apply Keeps.modSecAny
    | with_reducible apply Keeps.iteTest
    | ((with_reducible change SecOk _); exact ‹SecOk _›)
    | split
    | dsimp only)

theorem faTry_keeps {s t : State} (h : Keeps s t) :
    Keeps s (faTry t) := by
  unfold faTry
  repeat' (first
    | with_reducible assumption
    | ((with_reducible change ∀ x, SecOk x → SecOk _); exact fun _ k => k)
    | intro _
    | with_reducible apply setResult_keeps
    | with_reducible apply Keeps.modSecAny
    | with_reducible apply Keeps.iteTest
    | ((with_reducible change SecOk _); exact ‹SecOk _›)
    | split
    | dsimp only)

theorem faShut_keeps {s t : State} (h : Keeps s t) :
    Keeps s (faShut t) := by
  unfold faShut
  repeat' (first
    | with_reducible assumption
    | ((with_reducible change ∀ x, SecOk x → SecOk _); exact fun _ k => k)
    | intro _
    | with_reducible apply Keeps.modSecAny)

theorem spdmAnswer_keeps {s t : State} (h : Keeps s t) (request : List Byte) (response : List Byte) :
    Keeps s (spdmAnswer t request response) := by
  unfold spdmAnswer
  repeat' (first
    | with_reducible assumption
    | intro _
    | with_reducible apply Keeps.modSide)

theorem spdmRefuse_keeps {s t : State} (h : Keeps s t) (code : Nat) (data : Nat) :
    Keeps s (spdmRefuse t code data) := by
  unfold spdmRefuse
  repeat' (first
    | with_reducible assumption
    | intro _
    | with_reducible apply Keeps.modSide)

theorem signLater_keeps {s t : State} (h : Keeps s t) (challenge : Bool) (request : List Byte) (body : List Byte) :
    Keeps s (signLater t challenge request body) := by
  unfold signLater
  repeat' (first
    | with_reducible assumption
    | intro _
    | with_reducible apply bumpFree_keeps
    | with_reducible apply Keeps.modSide)

/-! ### Machine/SecRows.lean -/

theorem onEndpoint_keeps {s t : State} (h : Keeps s t) {f : State → State} (hf : ∀ u, Keeps s u → Keeps s (f u)) :
    ResKeeps s (onEndpoint t f) := by
  unfold onEndpoint
  exact .next (.iteTest (hf t h) h)

theorem execGetVersion_keeps {s t : State} (h : Keeps s t) :
    ResKeeps s (execGetVersion t) := by
  unfold execGetVersion
  repeat' (first
    | with_reducible assumption
    | intro _
    | with_reducible apply onEndpoint_keeps
    | with_reducible apply spdmAnswer_keeps
    | with_reducible apply Keeps.modSide
    | with_reducible apply ResKeeps.next)

theorem execGetCapabilities_keeps {s t : State} (h : Keeps s t) :
    ResKeeps s (execGetCapabilities t) := by
  unfold execGetCapabilities
  repeat' (first
    | with_reducible assumption
    | intro _
    | with_reducible apply onEndpoint_keeps
    | with_reducible apply spdmAnswer_keeps
    | with_reducible apply ResKeeps.next)

theorem execNegotiateAlgorithms_keeps {s t : State} (h : Keeps s t) (extAsym : Bool) (extHash : Bool) :
    ResKeeps s (execNegotiateAlgorithms extAsym extHash t) := by
  unfold execNegotiateAlgorithms
  repeat' (first
    | with_reducible assumption
    | intro _
    | with_reducible apply onEndpoint_keeps
    | with_reducible apply spdmAnswer_keeps
    | with_reducible apply spdmRefuse_keeps
    | with_reducible apply Keeps.iteTest
    | with_reducible apply ResKeeps.next
    | with_reducible apply ResKeeps.iteTest
    | split)

theorem execGetDigests_keeps {s t : State} (h : Keeps s t) :
    ResKeeps s (execGetDigests t) := by
  unfold execGetDigests
  repeat' (first
    | with_reducible assumption
    | intro _
    | with_reducible apply onEndpoint_keeps
    | with_reducible apply spdmAnswer_keeps
    | with_reducible apply ResKeeps.next)

theorem execGetCertificate_keeps {s t : State} (h : Keeps s t) (slot : Nat) (offset : Nat) (length : Nat) :
    ResKeeps s (execGetCertificate slot offset length t) := by
  unfold execGetCertificate
  repeat' (first
    | with_reducible assumption
    | intro _
    | with_reducible apply onEndpoint_keeps
    | with_reducible apply spdmAnswer_keeps
    | with_reducible apply spdmRefuse_keeps
    | with_reducible apply Keeps.iteTest
    | with_reducible apply ResKeeps.next
    | with_reducible apply ResKeeps.iteTest
    | split)

theorem execChallenge_keeps {s t : State} (h : Keeps s t) (slot : Nat) (nonce : List Byte) :
    ResKeeps s (execChallenge slot nonce t) := by
  unfold execChallenge
  repeat' (first
    | with_reducible assumption
    | intro _
    | with_reducible apply onEndpoint_keeps
    | with_reducible apply signLater_keeps
    | with_reducible apply spdmRefuse_keeps
    | with_reducible apply Keeps.iteTest
    | with_reducible apply ResKeeps.next
    | with_reducible apply ResKeeps.iteTest
    | split)

theorem execGetMeasurements_keeps {s t : State} (h : Keeps s t) (index : Nat) (signed : Bool) (nonce : List Byte) :
    ResKeeps s (execGetMeasurements index signed nonce t) := by
  unfold execGetMeasurements
  repeat' (first
    | with_reducible assumption
    | intro _
    | with_reducible apply bumpFree_keeps
    | with_reducible apply onEndpoint_keeps
    | with_reducible apply signLater_keeps
    | with_reducible apply spdmAnswer_keeps
    | with_reducible apply spdmRefuse_keeps
    | with_reducible apply Keeps.iteTest
    | with_reducible apply ResKeeps.next
    | with_reducible apply ResKeeps.iteTest
    | split)

theorem execSpdmUnsupportedRequest_keeps {s t : State} (h : Keeps s t) (code : Byte) :
    ResKeeps s (execSpdmUnsupportedRequest code t) := by
  unfold execSpdmUnsupportedRequest
  repeat' (first
    | with_reducible assumption
    | intro _
    | with_reducible apply onEndpoint_keeps
    | with_reducible apply spdmRefuse_keeps
    | with_reducible apply ResKeeps.next)

theorem execSignatureComplete_keeps {s t : State} (h : Keeps s t) :
    ResKeeps s (execSignatureComplete t) := by
  unfold execSignatureComplete
  repeat' (first
    | with_reducible assumption
    | intro _
    | with_reducible apply Keeps.modSide
    | with_reducible apply ResKeeps.next
    | split)

theorem execFirmwareUpdateEnd_keeps {s t : State} (h : Keeps s t) (host : List Host.Cell) (flashOk : Bool) (readBack : List (Nat × Byte) := []) :
    ResKeeps s (execFirmwareUpdateEnd host flashOk t readBack) := by
  unfold execFirmwareUpdateEnd
  repeat' (first
    | with_reducible assumption
    | with_reducible apply hostMerge_keeps
    | with_reducible apply updateFinish_keeps
    | with_reducible apply Keeps.iteTest
    | with_reducible apply ResKeeps.next
    | with_reducible apply ResKeeps.iteTest
    | split)

theorem execFirmwareUpdateResume_keeps {s t : State} (h : Keeps s t) :
    ResKeeps s (execFirmwareUpdateResume t) := by
  unfold execFirmwareUpdateResume
  repeat' (first
    | with_reducible assumption
    | ((with_reducible change ∀ x, SecOk x → SecOk _); exact fun _ k => k)
    | intro _
    | with_reducible apply Keeps.modSecAny
    | with_reducible apply Keeps.iteTest
    | with_reducible apply ResKeeps.next
    | with_reducible apply ResKeeps.iteTest
    | ((with_reducible change SecOk _); exact ‹SecOk _›)
    | split)

end Sys2Proof.Machine
end

