-- ==== Sys2Proof/Laws/KeepsPorts.lean ====
section
/-!
SUPPORT. One lemma for each operation of the host port, the register window, stacks, links, collectives, sideband and farrier commands: it keeps the waiting queue
and the invariant of Safety.lean (Laws/Keeps.lean).
-/
namespace Sys2Proof.Machine

/-! ### Machine/HostOps.lean -/

theorem stopUnder405_keeps {s t : State} (h : Keeps s t) (ring : Nat) (g : Ring → Ring) :
    Keeps s (stopUnder405 t ring g) := by
  unfold stopUnder405
  repeat' (first
    | with_reducible assumption
    | intro _
    | with_reducible apply ringStops_keeps
    | with_reducible apply updAllBanks_keeps
    | with_reducible apply Keeps.modRing)

theorem dbStop_keeps {s t : State} (h : Keeps s t) (ring : Nat) :
    Keeps s (dbStop t ring) := by
  unfold dbStop
  repeat' (first
    | with_reducible assumption
    | with_reducible apply stopUnder405_keeps)

theorem fetchStop_keeps {s t : State} (h : Keeps s t) (ring : Nat) :
    Keeps s (fetchStop t ring) := by
  unfold fetchStop
  repeat' (first
    | with_reducible assumption
    | with_reducible apply stopUnder405_keeps)

theorem takeCounts_keeps {s t : State} (h : Keeps s t) (line : Nat) (tail : Word) (head : Word) :
    Keeps s (takeCounts t line tail head) := by
  unfold takeCounts
  repeat' (first
    | with_reducible assumption
    | intro _
    | with_reducible apply dbStop_keeps
    | with_reducible apply Keeps.modRing
    | with_reducible apply Keeps.iteTest
    | split
    | dsimp only)

theorem clearLine_keeps {s t : State} (h : Keeps s t) (line : Nat) :
    Keeps s (clearLine t line) := by
  unfold clearLine
  repeat' (first
    | with_reducible assumption
    | ((with_reducible change ∀ x, AdapterOk x → AdapterOk _); exact fun _ k => { k with })
    | ((with_reducible change ∀ x, AdapterOk x → AdapterOk _); exact fun _ k => { k with tailLines := by simpa using k.tailLines, headLines := by simpa using k.headLines })
    | intro _
    | with_reducible apply Keeps.modNaAny)

theorem ringOn_keeps {s t : State} (h : Keeps s t) (ring : Nat) :
    Keeps s (ringOn t ring) := by
  unfold ringOn
  repeat' (first
    | with_reducible assumption
    | intro _
    | with_reducible apply clearLine_keeps
    | with_reducible apply Keeps.modRing
    | with_reducible apply Keeps.iteTest
    | split
    | dsimp only)

theorem ringOff_keeps {s t : State} (h : Keeps s t) (ring : Nat) :
    Keeps s (ringOff t ring) := by
  unfold ringOff
  repeat' (first
    | with_reducible assumption
    | intro _
    | with_reducible apply dropRing_keeps
    | with_reducible apply updAllBanks_keeps
    | with_reducible apply Keeps.modRing
    | with_reducible apply Keeps.iteTest
    | split
    | dsimp only)

theorem ringAgain_keeps {s t : State} (h : Keeps s t) (ring : Nat) :
    Keeps s (ringAgain t ring) := by
  unfold ringAgain
  repeat' (first
    | with_reducible assumption
    | intro _
    | with_reducible apply headUpdate_keeps
    | with_reducible apply takeCounts_keeps
    | with_reducible apply Keeps.modRing
    | with_reducible apply Keeps.iteTest
    | split
    | dsimp only)

theorem ringSizeWrite_keeps {s t : State} (h : Keeps s t) (ring : Nat) (v : Word) :
    Keeps s (ringSizeWrite t ring v) := by
  unfold ringSizeWrite
  repeat' (first
    | with_reducible assumption
    | intro _
    | with_reducible apply Keeps.modRing
    | with_reducible apply Keeps.iteTest
    | split
    | dsimp only)

theorem ringEnWrite_keeps {s t : State} (h : Keeps s t) (ring : Nat) (v : Word) :
    Keeps s (ringEnWrite t ring v) := by
  unfold ringEnWrite
  repeat' (first
    | with_reducible assumption
    | with_reducible apply ringOff_keeps
    | with_reducible apply ringOn_keeps
    | with_reducible apply Keeps.iteTest
    | split
    | dsimp only)

theorem ringCtrl_keeps {s t : State} (h : Keeps s t) (ring : Nat) (v : Word) :
    Keeps s (ringCtrl t ring v) := by
  unfold ringCtrl
  repeat' (first
    | with_reducible assumption
    | with_reducible apply ringAgain_keeps
    | with_reducible apply ringEnWrite_keeps
    | with_reducible apply ringSizeWrite_keeps
    | with_reducible apply Keeps.iteTest
    | split
    | dsimp only)

theorem ringBase_keeps {s t : State} (h : Keeps s t) (ring : Nat) (g : Ring → Ring) :
    Keeps s (ringBase t ring g) := by
  unfold ringBase
  repeat' (first
    | with_reducible assumption
    | intro _
    | with_reducible apply Keeps.modRing
    | with_reducible apply Keeps.iteTest
    | exact Keeps.to h rfl fun i => { i with }
    | split)

theorem jobEnds_keeps {s t : State} (h : Keeps s t) :
    Keeps s (jobEnds t) := by
  unfold jobEnds
  repeat' (first
    | with_reducible assumption
    | ((with_reducible change ∀ x, GlbOk x → GlbOk _); exact fun _ k => { k with })
    | ((with_reducible change ∀ x, HstOk x → HstOk _); exact fun _ k => { k with })
    | ((with_reducible change ∀ x, LnkOk x → LnkOk _); exact fun _ k => { k with })
    | intro _
    | with_reducible apply farrierAbandon_keeps
    | with_reducible apply Keeps.modGlbAny
    | with_reducible apply Keeps.modHstAny
    | with_reducible apply Keeps.modLnkAny
    | with_reducible apply Keeps.iteTest
    | ((with_reducible change GlbOk _); exact ‹GlbOk _›)
    | ((with_reducible change HstOk _); exact ‹HstOk _›)
    | ((with_reducible change LnkOk _); exact ‹LnkOk _›)
    | split)

theorem writeHst_keeps {s t : State} (h : Keeps s t) (loc : Nat) (v : Word) :
    Keeps s (writeHst t loc v) := by
  unfold writeHst
  repeat' (first
    | with_reducible assumption
    | ((with_reducible change ∀ x, HstOk x → HstOk _); exact fun _ k => { k with })
    | ((with_reducible change ∀ x, HstOk x → HstOk _); intro _ k; split <;> exact { k with })
    | intro _
    | with_reducible apply jobEnds_keeps
    | with_reducible apply ringBase_keeps
    | with_reducible apply ringCtrl_keeps
    | with_reducible apply Keeps.modRing
    | with_reducible apply Keeps.modHstAny
    | with_reducible apply Keeps.iteTest
    | ((with_reducible change HstOk _); exact ‹HstOk _›)
    | split
    | dsimp only)

theorem writeWaiting_keeps {s t : State} (h : Keeps s t) :
    Keeps s (writeWaiting t) := by
  unfold writeWaiting
  repeat' (first
    | with_reducible assumption
    | ((with_reducible change ∀ x, HstOk x → HstOk _); exact fun _ k => { k with })
    | intro _
    | with_reducible apply writeHalterRecord_keeps
    | with_reducible apply Keeps.modHstAny
    | ((with_reducible change HstOk _); exact ‹HstOk _›)
    | split)

theorem linkUp_keeps {s t : State} (h : Keeps s t) (width : Nat) :
    Keeps s (linkUp t width) := by
  unfold linkUp
  repeat' (first
    | with_reducible assumption
    | ((with_reducible change ∀ x, AdapterOk x → AdapterOk _); exact fun _ k => { k with })
    | ((with_reducible change ∀ x, AdapterOk x → AdapterOk _); exact fun _ k => { k with retrains := by dsimp only; split <;> first | exact k.retrains | exact capAdd_le _ _ _ })
    | intro _
    | with_reducible apply raiseMsix_keeps
    | with_reducible apply writeWaiting_keeps
    | with_reducible apply Keeps.modNaAny
    | with_reducible apply Keeps.iteTest
    | ((with_reducible change AdapterOk _); exact ‹AdapterOk _›)
    | split
    | dsimp only)

theorem nolotTrain_keeps {s t : State} (h : Keeps s t) (lanes : Nat) :
    Keeps s (nolotTrain t lanes) := by
  unfold nolotTrain
  repeat' (first
    | with_reducible assumption
    | with_reducible apply linkUp_keeps
    | with_reducible apply Keeps.iteTest
    | split)

theorem naBaseLow_keeps {s t : State} (h : Keeps s t) (v : Word) :
    Keeps s (naBaseLow t v) := by
  unfold naBaseLow
  repeat' (first
    | with_reducible assumption
    | ((with_reducible change ∀ x, AdapterOk x → AdapterOk _); exact fun _ k => { k with })
    | intro _
    | with_reducible apply Keeps.modNaAny
    | with_reducible apply Keeps.iteTest
    | ((with_reducible change AdapterOk _); exact ‹AdapterOk _›)
    | split
    | dsimp only)

theorem naBaseHigh_keeps {s t : State} (h : Keeps s t) (v : Word) :
    Keeps s (naBaseHigh t v) := by
  unfold naBaseHigh
  repeat' (first
    | with_reducible assumption
    | ((with_reducible change ∀ x, AdapterOk x → AdapterOk _); exact fun _ k => { k with })
    | intro _
    | with_reducible apply Keeps.modNaAny)

theorem writeNa_keeps {s t : State} (h : Keeps s t) (off : Nat) (v : Word) :
    Keeps s (writeNa t off v) := by
  unfold writeNa
  repeat' (first
    | with_reducible assumption
    | with_reducible apply naBaseHigh_keeps
    | with_reducible apply naBaseLow_keeps
    | split)

theorem pollLine_keeps {s t : State} (h : Keeps s t) (line : Nat) :
    Keeps s (pollLine t line) := by
  unfold pollLine
  repeat' (first
    | with_reducible assumption
    | ((with_reducible change ∀ x, AdapterOk x → AdapterOk _); exact fun _ k => { k with })
    | ((with_reducible change ∀ x, AdapterOk x → AdapterOk _); exact fun _ k => { k with tailLines := by simpa using k.tailLines, headLines := by simpa using k.headLines })
    | intro _
    | with_reducible apply Keeps.modNaAny
    | with_reducible apply Keeps.iteTest
    | ((with_reducible change AdapterOk _); exact ‹AdapterOk _›)
    | split
    | dsimp only)

theorem pollHalter_keeps {s t : State} (h : Keeps s t) :
    Keeps s (pollHalter t) := by
  unfold pollHalter
  repeat' (first
    | with_reducible assumption
    | ((with_reducible change ∀ x, AdapterOk x → AdapterOk _); exact fun _ k => { k with })
    | intro _
    | with_reducible apply Keeps.modNaAny
    | with_reducible apply Keeps.iteTest
    | ((with_reducible change AdapterOk _); exact ‹AdapterOk _›)
    | split
    | dsimp only)

theorem pollPage_keeps {s t : State} (h : Keeps s t) :
    Keeps s (pollPage t) := by
  unfold pollPage
  repeat' (first
    | with_reducible assumption
    | intro _
    | with_reducible apply pollHalter_keeps
    | with_reducible apply pollLine_keeps
    | with_reducible apply Keeps.foldl)

theorem takeHalterWord_keeps {s t : State} (h : Keeps s t) (seq : BitVec 16) :
    Keeps s (takeHalterWord t seq) := by
  unfold takeHalterWord
  repeat' (first
    | with_reducible assumption
    | ((with_reducible change ∀ x, HstOk x → HstOk _); exact fun _ k => { k with })
    | intro _
    | with_reducible apply Keeps.modHstAny
    | ((with_reducible change HstOk _); exact ‹HstOk _›)
    | exact Keeps.to h rfl fun i => { i with }
    | split)

theorem forwardLine_keeps {s t : State} (h : Keeps s t) (line : Nat) :
    Keeps s (forwardLine t line) := by
  unfold forwardLine
  repeat' (first
    | with_reducible assumption
    | ((with_reducible change ∀ x, AdapterOk x → AdapterOk _); exact fun _ k => { k with })
    | intro _
    | with_reducible apply takeCounts_keeps
    | with_reducible apply Keeps.modNaAny
    | with_reducible apply Keeps.iteTest
    | ((with_reducible change AdapterOk _); exact ‹AdapterOk _›)
    | split)

theorem forwardHalter_keeps {s t : State} (h : Keeps s t) :
    Keeps s (forwardHalter t) := by
  unfold forwardHalter
  repeat' (first
    | with_reducible assumption
    | ((with_reducible change ∀ x, AdapterOk x → AdapterOk _); exact fun _ k => { k with })
    | intro _
    | with_reducible apply takeHalterWord_keeps
    | with_reducible apply Keeps.modNaAny
    | ((with_reducible change AdapterOk _); exact ‹AdapterOk _›)
    | split)

theorem acceptHostError_keeps {s t : State} (h : Keeps s t) (sel : Selection) (e : Entry) (addr : Nat) (detail : Nat) :
    Keeps s (acceptHostError t sel e addr detail) := by
  unfold acceptHostError
  repeat' (first
    | with_reducible assumption
    | with_reducible apply postError_keeps
    | with_reducible apply rejectAbort_keeps
    | with_reducible apply rejectMember_keeps
    | dsimp only)

theorem acceptIssues_keeps {s t u : State} {addr : Nat} {sel : Selection} {e : Entry} (h : Keeps s t)
    (hi : acceptIssues t addr = some (u, sel, e)) : Keeps s u := by
  have hc := closeMember_keeps h
  unfold acceptIssues at hi
  dsimp only at hi
  split at hi
  · split at hi
    · split at hi
      · cases hi
        exact hc
      · cases hi
    · cases hi
  · cases hi

theorem operationHostError_keeps {s t : State} (h : Keeps s t) (addr : Nat) (detail : Nat) :
    Keeps s (operationHostError t addr detail) := by
  unfold operationHostError
  repeat' (first
    | with_reducible assumption
    | with_reducible exact acceptIssues_keeps h ‹_›
    | with_reducible apply abandon_keeps
    | with_reducible apply acceptHostError_keeps
    | with_reducible apply endAside_keeps
    | with_reducible apply postError_keeps
    | split
    | dsimp only)

theorem fetchHostError_keeps {s t : State} (h : Keeps s t) (ring : Nat) (addr : Nat) (detail : Nat) :
    Keeps s (fetchHostError t ring addr detail) := by
  unfold fetchHostError
  repeat' (first
    | with_reducible assumption
    | with_reducible apply fetchStop_keeps
    | with_reducible apply postError_keeps
    | with_reducible apply Keeps.iteTest
    | split)

theorem firmwareHostError_keeps {s t : State} (h : Keeps s t) :
    Keeps s (firmwareHostError t) := by
  unfold firmwareHostError
  repeat' (first
    | with_reducible assumption
    | ((with_reducible change ∀ x, SecOk x → SecOk _); exact fun _ k => k)
    | intro _
    | with_reducible apply warmRest_keeps
    | with_reducible apply Keeps.modSecAny
    | with_reducible apply Keeps.iteTest
    | ((with_reducible change SecOk _); exact ‹SecOk _›)
    | split
    | dsimp only)

theorem hostError399_keeps {s t : State} (h : Keeps s t) (who : HostReader) (detail : Nat) (addr : Nat) :
    Keeps s (hostError399 t who detail addr) := by
  unfold hostError399
  repeat' (first
    | with_reducible assumption
    | with_reducible apply fetchHostError_keeps
    | with_reducible apply firmwareHostError_keeps
    | with_reducible apply operationHostError_keeps
    | with_reducible apply Keeps.iteTest
    | split)

/-! ### Machine/HostPort.lean -/

theorem execNolotLinkTraining_keeps {s t : State} (h : Keeps s t) (lanes : Nat) :
    ResKeeps s (execNolotLinkTraining lanes t) := by
  unfold execNolotLinkTraining
  repeat' (first
    | with_reducible assumption
    | with_reducible apply nolotTrain_keeps
    | with_reducible apply ResKeeps.next)

theorem execNolotRetrainRetry_keeps {s t : State} (h : Keeps s t) (lanes : Nat) :
    ResKeeps s (execNolotRetrainRetry lanes t) := by
  unfold execNolotRetrainRetry
  repeat' (first
    | with_reducible assumption
    | with_reducible apply nolotTrain_keeps
    | with_reducible apply ResKeeps.next)

theorem execNolotLinkDown_keeps {s t : State} (h : Keeps s t) :
    ResKeeps s (execNolotLinkDown t) := by
  unfold execNolotLinkDown
  repeat' (first
    | with_reducible assumption
    | with_reducible apply nolotDown_keeps
    | with_reducible apply ResKeeps.next)

theorem execNolotPacketRetry_keeps {s t : State} (h : Keeps s t) :
    ResKeeps s (execNolotPacketRetry t) := by
  unfold execNolotPacketRetry
  repeat' (first
    | with_reducible assumption
    | with_reducible apply ResKeeps.next)

theorem execDoorbellPoll_keeps {s t : State} (h : Keeps s t) (host : List Host.Cell) :
    ResKeeps s (execDoorbellPoll host t) := by
  unfold execDoorbellPoll
  repeat' (first
    | with_reducible assumption
    | with_reducible apply hostMerge_keeps
    | with_reducible apply pollPage_keeps
    | with_reducible apply Keeps.iteTest
    | with_reducible apply ResKeeps.next
    | with_reducible apply ResKeeps.iteTest
    | split
    | dsimp only)

theorem execDoorbellForward_keeps {s t : State} (h : Keeps s t) (line : Nat) :
    ResKeeps s (execDoorbellForward line t) := by
  unfold execDoorbellForward
  repeat' (first
    | with_reducible assumption
    | with_reducible apply forwardHalter_keeps
    | with_reducible apply forwardLine_keeps
    | with_reducible apply onUnit_keeps
    | with_reducible apply Keeps.iteTest
    | with_reducible apply ResKeeps.next
    | with_reducible apply ResKeeps.onUnit
    | with_reducible apply ResKeeps.iteTest
    | split)

theorem execNaDbBaseEnable_keeps {s t : State} (h : Keeps s t) (value : Word) (host : List Host.Cell) :
    ResKeeps s (execNaDbBaseEnable value host t) := by
  unfold execNaDbBaseEnable
  repeat' (first
    | with_reducible assumption
    | with_reducible apply hostMerge_keeps
    | with_reducible apply naBaseLow_keeps
    | with_reducible apply ResKeeps.next)

theorem execHostAccessFailure_keeps {s t : State} (h : Keeps s t) (who : HostReader) (cause : HostFailure) (addr : Nat) :
    ResKeeps s (execHostAccessFailure who cause addr t) := by
  unfold execHostAccessFailure
  repeat' (first
    | with_reducible assumption
    | with_reducible apply hostError399_keeps
    | with_reducible apply ResKeeps.next)

theorem execHostAccessTimeout_keeps {s t : State} (h : Keeps s t) (who : HostReader) (addr : Nat) :
    ResKeeps s (execHostAccessTimeout who addr t) := by
  unfold execHostAccessTimeout
  repeat' (first
    | with_reducible assumption
    | with_reducible apply hostError399_keeps
    | with_reducible apply ResKeeps.next)

theorem execAdapterConventionalReset_keeps {s t : State} (h : Keeps s t) :
    ResKeeps s (execAdapterConventionalReset t) := by
  unfold execAdapterConventionalReset
  repeat' (first
    | with_reducible assumption
    | ((with_reducible change ∀ x, AdapterOk x → AdapterOk _); exact fun _ k => { k with })
    | ((with_reducible change ∀ x, AdapterOk x → AdapterOk _); exact fun _ _ => ⟨Nat.zero_le _, rfl, rfl⟩)
    | intro _
    | with_reducible apply Keeps.modNaAny
    | with_reducible apply ResKeeps.next)

/-! ### Machine/Registers.lean -/

theorem stage_append {l : List Staged} (h : ¬ 16 ≤ l.length) (x : Staged) : (l ++ [x]).length ≤ 16 := by
  rw [List.length_append, List.length_singleton]
  omega

theorem latchPair_keeps {s t : State} (h : Keeps s t) (p : LatchedPair) : Keeps s (latchPair t p) := by
  cases p
  · exact Keeps.modGlbAny h fun _ k => { k with }
  · exact Keeps.modClk h
  · exact Keeps.modLnkAny h fun _ k => { k with }
  · exact Keeps.modLnkAny h fun _ k => { k with }
  · exact Keeps.modPwrAny h fun _ k => { k with }

theorem wordRead_keeps {s t : State} (h : Keeps s t) (off : Nat) :
    Keeps s (wordRead t off).1 := by
  unfold wordRead
  repeat' (first
    | with_reducible assumption
    | with_reducible apply latchPair_keeps
    | with_reducible apply Keeps.iteTest
    | split
    | dsimp only)

theorem bar0Read_keeps {s t : State} (h : Keeps s t) (off : Nat) (bytes : Nat) :
    Keeps s (bar0Read t off bytes).1 := by
  unfold bar0Read
  repeat' (first
    | with_reducible assumption
    | with_reducible apply wordRead_keeps
    | with_reducible apply Keeps.iteTest
    | split
    | dsimp only)

theorem hostRead_keeps {s t : State} (h : Keeps s t) (off : Nat) (bytes : Nat) :
    Keeps s (hostRead t off bytes) := by
  unfold hostRead
  repeat' (first
    | with_reducible assumption
    | intro _
    | with_reducible apply bar0Read_keeps
    | with_reducible apply Keeps.modSide
    | dsimp only)

theorem hostSync_keeps {s t : State} (h : Keeps s t) (set : Bool) :
    Keeps s (hostSync t set) := by
  unfold hostSync
  repeat' (first
    | with_reducible assumption
    | with_reducible apply syncCommand_keeps
    | with_reducible apply Keeps.iteTest
    | split)

theorem writeGlb_keeps {s t : State} (h : Keeps s t) (loc : Nat) (v : Word) (a : Access) :
    Keeps s (writeGlb t loc v a) := by
  unfold writeGlb
  repeat' (first
    | with_reducible assumption
    | ((with_reducible change ∀ x, GlbOk x → GlbOk _); exact fun _ k => { k with })
    | ((with_reducible change ∀ x, GlbOk x → GlbOk _); intro _ k; split <;> exact { k with })
    | intro _
    | with_reducible apply bootCommand_keeps
    | with_reducible apply guardKey_keeps
    | with_reducible apply hostSync_keeps
    | with_reducible apply warmReset_keeps
    | with_reducible apply Keeps.modGlbAny
    | with_reducible apply Keeps.modBoot
    | with_reducible apply Keeps.modFarrier
    | with_reducible apply Keeps.iteTest
    | ((with_reducible change GlbOk _); exact ‹GlbOk _›)
    | split
    | dsimp only)

theorem writeSec_keeps {s t : State} (h : Keeps s t) (loc : Nat) (v : Word) (a : Access) :
    Keeps s (writeSec t loc v a) := by
  unfold writeSec
  repeat' (first
    | with_reducible assumption
    | ((with_reducible change ∀ x, SecOk x → SecOk _); exact fun _ k => k)
    | intro _
    | with_reducible apply faShut_keeps
    | with_reducible apply faTry_keeps
    | with_reducible apply guardKey_keeps
    | with_reducible apply setResult_keeps
    | with_reducible apply updateStart_keeps
    | with_reducible apply Keeps.modSecAny
    | with_reducible apply Keeps.iteTest
    | ((with_reducible change SecOk _); exact ‹SecOk _›)
    | split)

theorem writeBlock_keeps {s t : State} (h : Keeps s t) (b : Blk) (loc : Nat) (v : Word) (a : Access) :
    Keeps s (writeBlock b t loc v a) := by
  unfold writeBlock
  repeat' (first
    | with_reducible assumption
    | with_reducible apply writeClk_keeps
    | with_reducible apply writeFld_keeps
    | with_reducible apply writeGlb_keeps
    | with_reducible apply writeHst_keeps
    | with_reducible apply writeLnk_keeps
    | with_reducible apply writeMem_keeps
    | with_reducible apply writePwr_keeps
    | with_reducible apply writeRgn_keeps
    | with_reducible apply writeSec_keeps
    | with_reducible apply Keeps.iteTest
    | split)

theorem keyWrite_keeps {s t : State} (h : Keeps s t) (b : Blk) (v : Word) :
    Keeps s (keyWrite t b v) := by
  unfold keyWrite
  repeat' (first
    | with_reducible assumption
    | ((with_reducible change Inv _ → ∀ x, x ∈ _ → BlockOk x → BlockOk _); exact fun _ _ _ k => k)
    | intro _
    | with_reducible apply keyErr_keeps
    | with_reducible apply Keeps.modCtl
    | with_reducible apply Keeps.iteTest
    | ((with_reducible change BlockOk _); exact ‹BlockOk _›)
    | split)

theorem openCinch_keeps {s t : State} (h : Keeps s t) (b : Blk) :
    Keeps s (openCinch t b) := by
  unfold openCinch
  repeat' (first
    | with_reducible assumption
    | ((with_reducible change Inv _ → ∀ x, x ∈ _ → BlockOk x → BlockOk _); exact fun _ _ _ k => k)
    | ((with_reducible change Inv _ → ∀ x, x ∈ _ → BlockOk x → BlockOk _); exact fun _ _ _ _ => Nat.zero_le _)
    | intro _
    | with_reducible apply cinchErr_keeps
    | with_reducible apply Keeps.modCtl
    | with_reducible apply Keeps.iteTest
    | ((with_reducible change BlockOk _); exact ‹BlockOk _›)
    | split)

theorem commitCinch_keeps {s t : State} (h : Keeps s t) (b : Blk) :
    Keeps s (commitCinch t b) := by
  unfold commitCinch
  repeat' (first
    | with_reducible assumption
    | ((with_reducible change Inv _ → ∀ x, x ∈ _ → BlockOk x → BlockOk _); exact fun _ _ _ k => k)
    | with_reducible apply applyCommit_keeps
    | intro _
    | with_reducible apply applyCommit_keeps
    | with_reducible apply cinchErr_keeps
    | with_reducible apply closeCinch_keeps
    | with_reducible apply writeBlock_keeps
    | with_reducible apply Keeps.modCtl
    | with_reducible apply Keeps.iteTest
    | ((with_reducible change BlockOk _); exact ‹BlockOk _›)
    | split)

theorem abandonCinch_keeps {s t : State} (h : Keeps s t) (b : Blk) :
    Keeps s (abandonCinch t b) := by
  unfold abandonCinch
  repeat' (first
    | with_reducible assumption
    | with_reducible apply cinchErr_keeps
    | with_reducible apply closeCinch_keeps
    | with_reducible apply Keeps.iteTest
    | split)

theorem cinchWrite_keeps {s t : State} (h : Keeps s t) (b : Blk) (v : Word) :
    Keeps s (cinchWrite t b v) := by
  unfold cinchWrite
  repeat' (first
    | with_reducible assumption
    | with_reducible apply abandonCinch_keeps
    | with_reducible apply commitCinch_keeps
    | with_reducible apply openCinch_keeps
    | split)

theorem accessWrite_keeps {s t : State} (h : Keeps s t) (b : Blk) (v : Word) :
    Keeps s (accessWrite t b v) := by
  unfold accessWrite
  repeat' (first
    | with_reducible assumption
    | ((with_reducible change Inv _ → ∀ x, x ∈ _ → BlockOk x → BlockOk _); exact fun _ _ _ k => k)
    | intro _
    | with_reducible apply cinchErr_keeps
    | with_reducible apply keyErr_keeps
    | with_reducible apply pairErr_keeps
    | with_reducible apply Keeps.modCtl)

theorem stageWrite_keeps {s t : State} (h : Keeps s t) (b : Blk) (loc : Nat) (v : Word) (keyed : Bool) :
    Keeps s (stageWrite t b loc v keyed) := by
  unfold stageWrite
  split
  · exact h.modCtl fun _ _ _ k => k
  · next hl => exact h.modCtlAt fun _ => stage_append hl _

theorem keyedWrite_keeps {s t : State} (h : Keeps s t) (b : Blk) (loc : Nat) (v : Word) :
    Keeps s (keyedWrite t b loc v) := by
  unfold keyedWrite
  repeat' (first
    | with_reducible assumption
    | ((with_reducible change Inv _ → ∀ x, x ∈ _ → BlockOk x → BlockOk _); exact fun _ _ _ k => k)
    | intro _
    | with_reducible apply accessWrite_keeps
    | with_reducible apply cinchErr_keeps
    | with_reducible apply cinchWrite_keeps
    | with_reducible apply stageWrite_keeps
    | with_reducible apply writeBlock_keeps
    | with_reducible apply Keeps.modCtl
    | with_reducible apply Keeps.iteTest
    | ((with_reducible change BlockOk _); exact ‹BlockOk _›)
    | split
    | dsimp only)

theorem wordWrite_keeps {s t : State} (h : Keeps s t) (off : Nat) (v : Word) :
    Keeps s (wordWrite t off v) := by
  unfold wordWrite
  repeat' (first
    | with_reducible assumption
    | with_reducible apply keyWrite_keeps
    | with_reducible apply keyedWrite_keeps
    | with_reducible apply Keeps.iteTest
    | split)

theorem splitWrite_keeps {s t : State} (h : Keeps s t) (off bytes : Nat) (v : Word64) {f : State → Nat → Word → State}
    (hf : ∀ u n w, Keeps s u → Keeps s (f u n w)) : Keeps s (splitWrite t off bytes v f) := by
  unfold splitWrite
  split
  · exact hf _ _ _ h
  · split
    · exact hf _ _ _ (hf _ _ _ h)
    · exact h

theorem bar0Write_keeps {s t : State} (h : Keeps s t) (off : Nat) (bytes : Nat) (v : Word64) :
    Keeps s (bar0Write t off bytes v) := by
  unfold bar0Write
  repeat' (first
    | with_reducible assumption
    | intro _
    | with_reducible apply splitWrite_keeps
    | with_reducible apply wordWrite_keeps
    | with_reducible apply Keeps.iteTest
    | split)

theorem bar2Write_keeps {s t : State} (h : Keeps s t) (off : Nat) (bytes : Nat) (v : Word64) :
    Keeps s (bar2Write t off bytes v) := by
  unfold bar2Write
  repeat' (first
    | with_reducible assumption
    | intro _
    | with_reducible apply splitWrite_keeps
    | with_reducible apply writeNa_keeps)

theorem regWrite_keeps {s t : State} (h : Keeps s t) (b : Blk) (loc : Nat) (v : Word) :
    Keeps s (regWrite t b loc v) := by
  unfold regWrite
  repeat' (first
    | with_reducible assumption
    | with_reducible apply wordWrite_keeps
    | with_reducible apply Keeps.iteTest
    | split)

/-! ### Machine/RegRows.lean -/

theorem execRegisterWrite_keeps {s t : State} (h : Keeps s t) (window : Window) (offset : Nat) (bytes : Nat) (value : Word64) :
    ResKeeps s (execRegisterWrite window offset bytes value t) := by
  unfold execRegisterWrite
  repeat' (first
    | with_reducible assumption
    | with_reducible apply bar0Write_keeps
    | with_reducible apply bar2Write_keeps
    | with_reducible apply ResKeeps.next
    | split)

theorem execKeylockWrite_keeps {s t : State} (h : Keeps s t) (block : Blk) (value : Word) :
    ResKeeps s (execKeylockWrite block value t) := by
  unfold execKeylockWrite
  repeat' (first
    | with_reducible assumption
    | with_reducible apply regWrite_keeps
    | with_reducible apply ResKeeps.next)

theorem execCinchOpen_keeps {s t : State} (h : Keeps s t) (block : Blk) :
    ResKeeps s (execCinchOpen block t) := by
  unfold execCinchOpen
  repeat' (first
    | with_reducible assumption
    | with_reducible apply regWrite_keeps
    | with_reducible apply ResKeeps.next)

theorem execCinchCommit_keeps {s t : State} (h : Keeps s t) (block : Blk) :
    ResKeeps s (execCinchCommit block t) := by
  unfold execCinchCommit
  repeat' (first
    | with_reducible assumption
    | with_reducible apply regWrite_keeps
    | with_reducible apply ResKeeps.next)

theorem execCinchCommitApply_keeps {s t : State} (h : Keeps s t) (block : Blk) :
    ResKeeps s (execCinchCommitApply block t) := by
  unfold execCinchCommitApply
  repeat' (first
    | with_reducible assumption
    | with_reducible apply applyPending_keeps
    | with_reducible apply ResKeeps.next)

theorem execCinchAbandon_keeps {s t : State} (h : Keeps s t) (block : Blk) :
    ResKeeps s (execCinchAbandon block t) := by
  unfold execCinchAbandon
  repeat' (first
    | with_reducible assumption
    | with_reducible apply regWrite_keeps
    | with_reducible apply ResKeeps.next)

theorem execSyncSet_keeps {s t : State} (h : Keeps s t) :
    ResKeeps s (execSyncSet t) := by
  unfold execSyncSet
  repeat' (first
    | with_reducible assumption
    | with_reducible apply regWrite_keeps
    | with_reducible apply ResKeeps.next)

theorem execSyncAdd_keeps {s t : State} (h : Keeps s t) :
    ResKeeps s (execSyncAdd t) := by
  unfold execSyncAdd
  repeat' (first
    | with_reducible assumption
    | with_reducible apply regWrite_keeps
    | with_reducible apply ResKeeps.next)

theorem execLowWordReadLatch_keeps {s t : State} (h : Keeps s t) (pair : LatchedPair) (start : Nat := 0) (bytes : Nat := 4) :
    ResKeeps s (execLowWordReadLatch pair t start bytes) := by
  unfold execLowWordReadLatch
  repeat' (first
    | with_reducible assumption
    | with_reducible apply hostRead_keeps
    | with_reducible apply ResKeeps.next)

theorem execVminClear_keeps {s t : State} (h : Keeps s t) :
    ResKeeps s (execVminClear t) := by
  unfold execVminClear
  repeat' (first
    | with_reducible assumption
    | with_reducible apply regWrite_keeps
    | with_reducible apply ResKeeps.next)

theorem execMemRetrainStart_keeps {s t : State} (h : Keeps s t) :
    ResKeeps s (execMemRetrainStart t) := by
  unfold execMemRetrainStart
  repeat' (first
    | with_reducible assumption
    | with_reducible apply regWrite_keeps
    | with_reducible apply ResKeeps.next)

theorem execSleepRequest_keeps {s t : State} (h : Keeps s t) :
    ResKeeps s (execSleepRequest t) := by
  unfold execSleepRequest
  repeat' (first
    | with_reducible assumption
    | with_reducible apply regWrite_keeps
    | with_reducible apply ResKeeps.next)

theorem execWake_keeps {s t : State} (h : Keeps s t) :
    ResKeeps s (execWake t) := by
  unfold execWake
  repeat' (first
    | with_reducible assumption
    | with_reducible apply regWrite_keeps
    | with_reducible apply ResKeeps.next)

theorem execWarmReset_keeps {s t : State} (h : Keeps s t) :
    ResKeeps s (execWarmReset t) := by
  unfold execWarmReset
  repeat' (first
    | with_reducible assumption
    | with_reducible apply regWrite_keeps
    | with_reducible apply ResKeeps.next)

theorem execRingEnable_keeps {s t : State} (h : Keeps s t) (value : Word) (host : List Host.Cell) :
    ResKeeps s (execRingEnable value host t) := by
  unfold execRingEnable
  repeat' (first
    | with_reducible assumption
    | with_reducible apply hostMerge_keeps
    | with_reducible apply regWrite_keeps
    | with_reducible apply ResKeeps.next)

theorem execRingDisable_keeps {s t : State} (h : Keeps s t) (value : Word) :
    ResKeeps s (execRingDisable value t) := by
  unfold execRingDisable
  repeat' (first
    | with_reducible assumption
    | with_reducible apply regWrite_keeps
    | with_reducible apply ResKeeps.next)

theorem execRingRestart_keeps {s t : State} (h : Keeps s t) (value : Word) (host : List Host.Cell) :
    ResKeeps s (execRingRestart value host t) := by
  unfold execRingRestart
  repeat' (first
    | with_reducible assumption
    | with_reducible apply hostMerge_keeps
    | with_reducible apply regWrite_keeps
    | with_reducible apply ResKeeps.next)

theorem execJobEnd_keeps {s t : State} (h : Keeps s t) :
    ResKeeps s (execJobEnd t) := by
  unfold execJobEnd
  repeat' (first
    | with_reducible assumption
    | with_reducible apply regWrite_keeps
    | with_reducible apply ResKeeps.next)

theorem execFirmwareUpdate_keeps {s t : State} (h : Keeps s t) (host : List Host.Cell) (readFails : Bool := false) :
    ResKeeps s (execFirmwareUpdate host t readFails) := by
  unfold execFirmwareUpdate
  have hu := regWrite_keeps (hostMerge_keeps h host) .sec 0x04C 1
  have ht := hostMerge_keeps h host
  refine .next (.iteTest ⟨hu.1, fun i => ?_⟩ hu)
  exact { hu.2 i with sec := (ht.2 i).sec }

theorem execFaUnlock_keeps {s t : State} (h : Keeps s t) (host : List Host.Cell) :
    ResKeeps s (execFaUnlock host t) := by
  unfold execFaUnlock
  repeat' (first
    | with_reducible assumption
    | with_reducible apply hostMerge_keeps
    | with_reducible apply regWrite_keeps
    | with_reducible apply ResKeeps.next)

theorem execFaClose_keeps {s t : State} (h : Keeps s t) :
    ResKeeps s (execFaClose t) := by
  unfold execFaClose
  repeat' (first
    | with_reducible assumption
    | with_reducible apply regWrite_keeps
    | with_reducible apply ResKeeps.next)

/-! ### Machine/Stacks.lean -/

theorem bits_join {r n m : BitVec 32} (h : r &&& n = r) : (r ||| (n &&& m)) &&& n = r ||| (n &&& m) := by
  have key : ∀ a b c : Bool, (a && b) = a → ((a || (b && c)) && b) = (a || (b && c)) := by decide
  apply BitVec.eq_of_getLsbD_eq
  intro i _
  rw [BitVec.getLsbD_and, BitVec.getLsbD_or, BitVec.getLsbD_and]
  exact key _ _ _ (by rw [← BitVec.getLsbD_and, h])

theorem execBankReady_keeps {s t : State} (h : Keeps s t) (region : Nat) (bank : Nat) :
    ResKeeps s (execBankReady region bank t) := by
  unfold execBankReady
  repeat' (first
    | with_reducible assumption
    | ((with_reducible change Inv _ → ∀ x, x ∈ _ → RegionOk x → RegionOk _); exact fun _ _ _ k => { k with })
    | ((with_reducible change Inv _ → ∀ x, x ∈ _ → RegionOk x → RegionOk _); exact fun _ _ _ k => { k with bankReady := bits_join k.bankReady })
    | intro _
    | with_reducible apply onUnit_keeps
    | with_reducible apply Keeps.modRegion
    | with_reducible apply ResKeeps.next
    | with_reducible apply ResKeeps.onUnit)

theorem spadScrubBad_keeps {s t : State} (h : Keeps s t) (p : Nat) :
    Keeps s (spadScrubBad t p) := by
  unfold spadScrubBad
  repeat' (first
    | with_reducible assumption
    | with_reducible apply bankFault_keeps
    | with_reducible apply bumpFree_keeps
    | with_reducible apply postError_keeps
    | with_reducible apply Keeps.iteTest
    | exact Keeps.to h rfl fun i => { i with }
    | split
    | dsimp only)

theorem execSpadScrub_keeps {s t : State} (h : Keeps s t) (region : Nat) (line : Nat) (found : ScrubFinding) :
    ResKeeps s (execSpadScrub region line found t) := by
  unfold execSpadScrub
  repeat' (first
    | with_reducible assumption
    | with_reducible apply bankCorrected_keeps
    | with_reducible apply onUnit_keeps
    | with_reducible apply spadScrubBad_keeps
    | with_reducible apply Keeps.iteTest
    | with_reducible apply ResKeeps.next
    | with_reducible apply ResKeeps.onUnit
    | with_reducible apply ResKeeps.iteTest
    | split
    | dsimp only)

theorem dramScrubBad_keeps {s t : State} (h : Keeps s t) (a : Nat) :
    Keeps s (dramScrubBad t a) := by
  unfold dramScrubBad
  repeat' (first
    | with_reducible assumption
    | with_reducible apply markBad_keeps
    | with_reducible apply postError_keeps
    | with_reducible apply stackUncorr_keeps
    | dsimp only)

theorem execDramPatrolScrub_keeps {s t : State} (h : Keeps s t) (addr : Nat) (found : ScrubFinding) :
    ResKeeps s (execDramPatrolScrub addr found t) := by
  unfold execDramPatrolScrub
  repeat' (first
    | with_reducible assumption
    | with_reducible apply dramScrubBad_keeps
    | with_reducible apply stackCorr_keeps
    | with_reducible apply Keeps.iteTest
    | with_reducible apply ResKeeps.next
    | with_reducible apply ResKeeps.iteTest
    | split)

theorem execRefreshDue_keeps {s t : State} (h : Keeps s t) (stack : Nat) (pc : Nat) (postponed : Bool) :
    ResKeeps s (execRefreshDue stack pc postponed t) := by
  unfold execRefreshDue
  repeat' (first
    | with_reducible assumption
    | ((with_reducible change Inv _ → ∀ x, x ∈ _ → StackOk x → StackOk _); exact fun _ _ _ k => { k with })
    | ((with_reducible change Inv _ → ∀ x, x ∈ _ → StackOk x → StackOk _); intro _ _ _ k; split <;> exact { k with })
    | intro _
    | with_reducible apply onUnit_keeps
    | with_reducible apply Keeps.modStack
    | with_reducible apply Keeps.iteTest
    | with_reducible apply ResKeeps.next
    | with_reducible apply ResKeeps.onUnit
    | with_reducible apply ResKeeps.iteTest
    | ((with_reducible change StackOk _); exact ‹StackOk _›)
    | split)

theorem stackDrop_keeps {s t : State} (h : Keeps s t) (m : Nat) :
    Keeps s (stackDrop t m) := by
  unfold stackDrop
  repeat' (first
    | with_reducible assumption
    | ((with_reducible change Inv _ → ∀ x, x ∈ _ → FieldOk x → FieldOk _); exact fun _ _ _ k => { k with })
    | intro _
    | with_reducible apply dropGait_keeps
    | with_reducible apply Keeps.modField)

theorem stackRaise_keeps {s t : State} (h : Keeps s t) (m : Nat) :
    Keeps s (stackRaise t m) := by
  unfold stackRaise
  repeat' (first
    | with_reducible assumption
    | ((with_reducible change Inv _ → ∀ x, x ∈ _ → FieldOk x → FieldOk _); exact fun _ _ _ k => { k with })
    | intro _
    | with_reducible apply startRise_keeps
    | with_reducible apply Keeps.modField)

theorem stackReading_keeps {s t : State} (h : Keeps s t) (m : Nat) (before : Nat) :
    Keeps s (stackReading t m before) := by
  unfold stackReading
  repeat' (first
    | with_reducible assumption
    | with_reducible apply queueRetrain_keeps
    | with_reducible apply stackDrop_keeps
    | with_reducible apply Keeps.iteTest
    | split
    | dsimp only)

theorem execStackTempSample_keeps {s t : State} (h : Keeps s t) (stack : Nat) (temp : Nat) :
    ResKeeps s (execStackTempSample stack temp t) := by
  unfold execStackTempSample
  repeat' (first
    | with_reducible assumption
    | ((with_reducible change Inv _ → ∀ x, x ∈ _ → StackOk x → StackOk _); exact fun _ _ _ k => { k with })
    | ((with_reducible change Inv _ → ∀ x, x ∈ _ → StackOk x → StackOk _); intro _ _ _ k; split <;> exact { k with })
    | intro _
    | with_reducible apply onUnit_keeps
    | with_reducible apply stackReading_keeps
    | with_reducible apply Keeps.modStack
    | with_reducible apply Keeps.iteTest
    | with_reducible apply ResKeeps.next
    | with_reducible apply ResKeeps.onUnit
    | with_reducible apply ResKeeps.iteTest
    | ((with_reducible change StackOk _); exact ‹StackOk _›)
    | split)

theorem execStackHotStep_keeps {s t : State} (h : Keeps s t) (stack : Nat) :
    ResKeeps s (execStackHotStep stack t) := by
  unfold execStackHotStep
  repeat' (first
    | with_reducible assumption
    | with_reducible apply onUnit_keeps
    | with_reducible apply stackDrop_keeps
    | with_reducible apply stackRaise_keeps
    | with_reducible apply Keeps.iteTest
    | with_reducible apply ResKeeps.next
    | with_reducible apply ResKeeps.onUnit
    | with_reducible apply ResKeeps.iteTest
    | split)

theorem execStackHotSelfRefresh_keeps {s t : State} (h : Keeps s t) (stack : Nat) :
    ResKeeps s (execStackHotSelfRefresh stack t) := by
  unfold execStackHotSelfRefresh
  repeat' (first
    | with_reducible assumption
    | ((with_reducible change Inv _ → ∀ x, x ∈ _ → StackOk x → StackOk _); exact fun _ _ _ k => { k with })
    | ((with_reducible change Inv _ → ∀ x, x ∈ _ → StackOk x → StackOk _); intro _ _ _ k; split <;> exact { k with })
    | intro _
    | with_reducible apply onUnit_keeps
    | with_reducible apply Keeps.modStack
    | with_reducible apply Keeps.iteTest
    | with_reducible apply ResKeeps.next
    | with_reducible apply ResKeeps.onUnit
    | with_reducible apply ResKeeps.iteTest
    | ((with_reducible change StackOk _); exact ‹StackOk _›)
    | split)

theorem execStackHotTimeout_keeps {s t : State} (h : Keeps s t) (stack : Nat) :
    ResKeeps s (execStackHotTimeout stack t) := by
  unfold execStackHotTimeout
  repeat' (first
    | with_reducible assumption
    | with_reducible apply onUnit_keeps
    | with_reducible apply stackFail_keeps
    | with_reducible apply Keeps.iteTest
    | with_reducible apply ResKeeps.next
    | with_reducible apply ResKeeps.onUnit
    | with_reducible apply ResKeeps.iteTest
    | split)

theorem execRetrainBegin_keeps {s t : State} (h : Keeps s t) :
    ResKeeps s (execRetrainBegin t) := by
  unfold execRetrainBegin
  repeat' (first
    | with_reducible assumption
    | ((with_reducible change Inv _ → ∀ x, x ∈ _ → StackOk x → StackOk _); exact fun _ _ _ k => { k with })
    | ((with_reducible change Inv _ → ∀ x, x ∈ _ → StackOk x → StackOk _); intro _ _ _ k; split <;> exact { k with })
    | ((with_reducible change ∀ x, GlbOk x → GlbOk _); exact fun _ k => { k with })
    | ((with_reducible change ∀ x, GlbOk x → GlbOk _); intro _ k; split <;> exact { k with })
    | intro _
    | with_reducible apply postEvent_keeps
    | with_reducible apply Keeps.modStack
    | with_reducible apply Keeps.modGlbAny
    | with_reducible apply Keeps.iteTest
    | with_reducible apply ResKeeps.next
    | with_reducible apply ResKeeps.iteTest
    | ((with_reducible change GlbOk _); exact ‹GlbOk _›)
    | ((with_reducible change StackOk _); exact ‹StackOk _›)
    | split
    | dsimp only)

theorem retrainCentred_keeps {s t : State} (h : Keeps s t) (m : Nat) (temp : Nat) (lanes : List (Nat × Nat)) :
    Keeps s (retrainCentred t m temp lanes) := by
  unfold retrainCentred
  repeat' (first
    | with_reducible assumption
    | with_reducible apply noteLanes_keeps
    | with_reducible apply postEvent_keeps
    | with_reducible apply stackFail_keeps
    | with_reducible apply trainedStack_keeps
    | with_reducible apply Keeps.iteTest
    | split
    | dsimp only)

theorem retrainRestored_keeps {s t : State} (h : Keeps s t) (m : Nat) :
    Keeps s (retrainRestored t m) := by
  unfold retrainRestored
  repeat' (first
    | with_reducible assumption
    | ((with_reducible change Inv _ → ∀ x, x ∈ _ → StackOk x → StackOk _); exact fun _ _ _ k => { k with })
    | intro _
    | with_reducible apply postEvent_keeps
    | with_reducible apply recordFault_keeps
    | with_reducible apply Keeps.modStack
    | dsimp only)

theorem execRetrainEnd_keeps {s t : State} (h : Keeps s t) (result : RetrainResult) :
    ResKeeps s (execRetrainEnd result t) := by
  unfold execRetrainEnd
  repeat' (first
    | with_reducible assumption
    | with_reducible apply retrainCentred_keeps
    | with_reducible apply retrainRestored_keeps
    | with_reducible apply ResKeeps.next
    | split)

theorem execStackFailed_keeps {s t : State} (h : Keeps s t) (stack : Nat) :
    ResKeeps s (execStackFailed stack t) := by
  unfold execStackFailed
  repeat' (first
    | with_reducible assumption
    | with_reducible apply onUnit_keeps
    | with_reducible apply stackFail_keeps
    | with_reducible apply ResKeeps.next
    | with_reducible apply ResKeeps.onUnit)

/-! ### Machine/Links.lean -/

theorem stallPlane_keeps {s t : State} (h : Keeps s t) (p : Nat) :
    Keeps s (stallPlane t p) := by
  unfold stallPlane
  repeat' (first
    | with_reducible assumption
    | ((with_reducible change ∀ x, MasterOk x → MasterOk _); exact fun _ k => k)
    | intro _
    | with_reducible apply Keeps.modMasterAny)

theorem dropLink_keeps {s t : State} (h : Keeps s t) (l : Nat) :
    Keeps s (dropLink t l) := by
  unfold dropLink
  repeat' (first
    | with_reducible assumption
    | ((with_reducible change Inv _ → ∀ x, x ∈ _ → LinkOk x → LinkOk _); exact fun _ _ _ k => { k with })
    | exact fun _ _ _ k => { k with retry := Nat.zero_le _ }
    | intro _
    | with_reducible apply stallPlane_keeps
    | with_reducible apply Keeps.modLink
    | ((with_reducible change LinkOk _); exact ‹LinkOk _›)
    | split
    | dsimp only)

theorem loseLink_keeps {s t : State} (h : Keeps s t) (l : Nat) :
    Keeps s (loseLink t l) := by
  unfold loseLink
  repeat' (first
    | with_reducible assumption
    | with_reducible apply dropLink_keeps
    | with_reducible apply postEvent_keeps)

theorem planeNarrows_keeps {s t : State} (h : Keeps s t) (p : Nat) (o : Op) :
    Keeps s (planeNarrows t p o) := by
  unfold planeNarrows
  repeat' (first
    | with_reducible assumption
    | with_reducible apply adjustColl_keeps
    | with_reducible apply Keeps.iteTest
    | split)

theorem linkNarrows_keeps {s t : State} (h : Keeps s t) (l : Nat) (rest : BitVec 2) :
    Keeps s (linkNarrows t l rest) := by
  unfold linkNarrows
  repeat' (first
    | with_reducible assumption
    | ((with_reducible change Inv _ → ∀ x, x ∈ _ → LinkOk x → LinkOk _); exact fun _ _ _ k => { k with })
    | intro _
    | with_reducible apply planeNarrows_keeps
    | with_reducible apply Keeps.modLink
    | with_reducible apply Keeps.foldl
    | ((with_reducible change LinkOk _); exact ‹LinkOk _›)
    | split
    | dsimp only)

theorem laneFails_keeps {s t : State} (h : Keeps s t) (l : Nat) (m : Nat) :
    Keeps s (laneFails t l m) := by
  unfold laneFails
  repeat' (first
    | with_reducible assumption
    | with_reducible apply postEvent_keeps
    | with_reducible apply recordFault_keeps)

theorem execLaneLost_keeps {s t : State} (h : Keeps s t) (link : Nat) (lane : Nat) :
    ResKeeps s (execLaneLost link lane t) := by
  unfold execLaneLost
  repeat' (first
    | with_reducible assumption
    | with_reducible apply laneFails_keeps
    | with_reducible apply linkNarrows_keeps
    | with_reducible apply loseLink_keeps
    | with_reducible apply onUnit_keeps
    | with_reducible apply Keeps.iteTest
    | with_reducible apply ResKeeps.next
    | with_reducible apply ResKeeps.onUnit
    | with_reducible apply ResKeeps.iteTest
    | split
    | dsimp only)

theorem execLinkLost_keeps {s t : State} (h : Keeps s t) (link : Nat) :
    ResKeeps s (execLinkLost link t) := by
  unfold execLinkLost
  repeat' (first
    | with_reducible assumption
    | with_reducible apply loseLink_keeps
    | with_reducible apply onUnit_keeps
    | with_reducible apply Keeps.iteTest
    | with_reducible apply ResKeeps.next
    | with_reducible apply ResKeeps.onUnit
    | with_reducible apply ResKeeps.iteTest
    | split)

theorem execFlitCrcRetry_keeps {s t : State} (h : Keeps s t) (link : Nat) (eighth : Bool) (codewords : Nat := 1) :
    ResKeeps s (execFlitCrcRetry link eighth t codewords) := by
  unfold execFlitCrcRetry
  repeat' (first
    | with_reducible assumption
    | ((with_reducible change Inv _ → ∀ x, x ∈ _ → LinkOk x → LinkOk _); exact fun _ _ _ k => { k with })
    | ((with_reducible change Inv _ → ∀ x, x ∈ _ → LinkOk x → LinkOk _); intro _ _ _ k; split <;> exact { k with })
    | exact fun _ _ _ k => { k with fecUncorr := capAdd_le _ _ _, retries := capAdd_le _ _ _ }
    | intro _
    | with_reducible apply loseLink_keeps
    | with_reducible apply onUnit_keeps
    | with_reducible apply Keeps.modLink
    | with_reducible apply Keeps.iteTest
    | with_reducible apply ResKeeps.next
    | with_reducible apply ResKeeps.onUnit
    | with_reducible apply ResKeeps.iteTest
    | ((with_reducible change LinkOk _); exact ‹LinkOk _›)
    | split
    | dsimp only)

theorem linkCtrlIn_keeps {s t : State} (h : Keeps s t) (l : Nat) (f : Flit) :
    Keeps s (linkCtrlIn t l f) := by
  unfold linkCtrlIn
  repeat' (first
    | with_reducible assumption
    | ((with_reducible change Inv _ → ∀ x, x ∈ _ → LinkOk x → LinkOk _); exact fun _ _ _ k => { k with })
    | ((with_reducible change Inv _ → ∀ x, x ∈ _ → LinkOk x → LinkOk _); intro _ _ _ k; split <;> exact { k with })
    | intro _
    | with_reducible apply dropLink_keeps
    | with_reducible apply planeMismatch_keeps
    | with_reducible apply Keeps.modLink
    | with_reducible apply Keeps.iteTest
    | ((with_reducible change LinkOk _); exact ‹LinkOk _›)
    | split
    | dsimp only)

theorem execLinkCtrl_keeps {s t : State} (h : Keeps s t) (link : Nat) (flit : Flit) :
    ResKeeps s (execLinkCtrl link flit t) := by
  unfold execLinkCtrl
  repeat' (first
    | with_reducible assumption
    | with_reducible apply flitGate_keeps
    | with_reducible apply linkCtrlIn_keeps
    | with_reducible apply onUnit_keeps
    | with_reducible apply Keeps.iteTest
    | with_reducible apply ResKeeps.next
    | with_reducible apply ResKeeps.onUnit
    | with_reducible apply ResKeeps.iteTest
    | split
    | dsimp only)

theorem execPeerSyncAdd_keeps {s t : State} (h : Keeps s t) (flit : Flit) :
    ResKeeps s (execPeerSyncAdd flit t) := by
  unfold execPeerSyncAdd
  repeat' (first
    | with_reducible assumption
    | with_reducible apply flitGate_keeps
    | with_reducible apply peerAdd_keeps
    | with_reducible apply Keeps.iteTest
    | with_reducible apply ResKeeps.next
    | with_reducible apply ResKeeps.iteTest
    | split
    | dsimp only)

theorem execTimeExchange_keeps {s t : State} (h : Keeps s t) :
    ResKeeps s (execTimeExchange t) := by
  unfold execTimeExchange
  repeat' (first
    | with_reducible assumption
    | intro _
    | with_reducible apply sendFlits_keeps
    | with_reducible apply Keeps.modClk
    | with_reducible apply Keeps.iteTest
    | with_reducible apply ResKeeps.next
    | with_reducible apply ResKeeps.iteTest
    | split)

theorem execTimeReq_keeps {s t : State} (h : Keeps s t) (flit : Flit) :
    ResKeeps s (execTimeReq flit t) := by
  unfold execTimeReq
  repeat' (first
    | with_reducible assumption
    | with_reducible apply flitGate_keeps
    | with_reducible apply sendFlits_keeps
    | with_reducible apply Keeps.iteTest
    | with_reducible apply ResKeeps.next
    | with_reducible apply ResKeeps.iteTest
    | split
    | dsimp only)

theorem takeOffset_keeps {s t : State} (h : Keeps s t) (d : Int) :
    Keeps s (takeOffset t d) := by
  unfold takeOffset
  repeat' (first
    | with_reducible assumption
    | intro _
    | with_reducible apply setFar_keeps
    | with_reducible apply Keeps.modClk
    | with_reducible apply Keeps.iteTest
    | split)

theorem execTimeResp_keeps {s t : State} (h : Keeps s t) (flit : Flit) :
    ResKeeps s (execTimeResp flit t) := by
  unfold execTimeResp
  repeat' (first
    | with_reducible assumption
    | intro _
    | with_reducible apply flitGate_keeps
    | with_reducible apply takeOffset_keeps
    | with_reducible apply Keeps.modClk
    | with_reducible apply Keeps.iteTest
    | with_reducible apply ResKeeps.next
    | with_reducible apply ResKeeps.iteTest
    | split
    | dsimp only)

/-! ### Machine/Collective.lean -/

theorem keepMail_keeps {s t : State} (h : Keeps s t) (f : Flit) :
    Keeps s (keepMail t f) := by
  unfold keepMail
  repeat' (first
    | with_reducible assumption
    | ((with_reducible change ∀ x, LnkOk x → LnkOk _); exact fun _ k => { k with })
    | intro _
    | with_reducible apply Keeps.modLnkAny
    | with_reducible apply Keeps.iteTest
    | ((with_reducible change LnkOk _); exact ‹LnkOk _›)
    | split)

theorem holdMail_keeps {s t : State} (h : Keeps s t) (f : Flit) :
    Keeps s (holdMail t f) := by
  unfold holdMail
  repeat' (first
    | with_reducible assumption
    | ((with_reducible change ∀ x, LnkOk x → LnkOk _); exact fun _ k => { k with })
    | intro _
    | with_reducible apply Keeps.modLnkAny)

theorem execReady_keeps {s t : State} (h : Keeps s t) (flit : Flit) (reads : ReadOutcome := ReadOutcome.clean) :
    ResKeeps s (execReady flit t reads) := by
  unfold execReady
  repeat' (first
    | with_reducible assumption
    | with_reducible apply collReady_keeps
    | with_reducible apply flitGate_keeps
    | with_reducible apply holdMail_keeps
    | with_reducible apply keepMail_keeps
    | with_reducible apply Keeps.iteTest
    | with_reducible apply ResKeeps.next
    | with_reducible apply ResKeeps.iteTest
    | split
    | dsimp only)

theorem execAbort_keeps {s t : State} (h : Keeps s t) (flit : Flit) :
    ResKeeps s (execAbort flit t) := by
  unfold execAbort
  repeat' (first
    | with_reducible assumption
    | with_reducible apply collAborted_keeps
    | with_reducible apply flitGate_keeps
    | with_reducible apply keepMail_keeps
    | with_reducible apply Keeps.iteTest
    | with_reducible apply ResKeeps.next
    | with_reducible apply ResKeeps.iteTest
    | split
    | dsimp only)

theorem execStart_keeps {s t : State} (h : Keeps s t) (flit : Flit) (reads : ReadOutcome := ReadOutcome.clean) :
    ResKeeps s (execStart flit t reads) := by
  unfold execStart
  repeat' (first
    | with_reducible assumption
    | with_reducible apply collStart_keeps
    | with_reducible apply flitGate_keeps
    | with_reducible apply Keeps.iteTest
    | with_reducible apply ResKeeps.next
    | with_reducible apply ResKeeps.iteTest
    | split
    | dsimp only)

theorem laneError_keeps {s t : State} (h : Keeps s t) (o : Op) (plane : Nat) :
    Keeps s (laneError t o plane) := by
  unfold laneError
  repeat' (first
    | with_reducible assumption
    | with_reducible apply endColl_keeps
    | with_reducible apply postError_keeps
    | dsimp only)

theorem execData_keeps {s t : State} (h : Keeps s t) (flit : Flit) (laneMismatch : Bool) (merge : ReadOutcome := ReadOutcome.clean) :
    ResKeeps s (execData flit laneMismatch t merge) := by
  unfold execData
  repeat' (first
    | with_reducible assumption
    | with_reducible apply dataArrived_keeps
    | with_reducible apply flitGate_keeps
    | with_reducible apply laneError_keeps
    | with_reducible apply Keeps.iteTest
    | with_reducible apply ResKeeps.next
    | with_reducible apply ResKeeps.iteTest
    | split
    | dsimp only)

theorem execSendData_keeps {s t : State} (h : Keeps s t) (flit : Flit) (merge : ReadOutcome := ReadOutcome.clean) :
    ResKeeps s (execSendData flit t merge) := by
  unfold execSendData
  repeat' (first
    | with_reducible assumption
    | with_reducible apply flitGate_keeps
    | with_reducible apply sendDataArrived_keeps
    | with_reducible apply Keeps.iteTest
    | with_reducible apply ResKeeps.next
    | with_reducible apply ResKeeps.iteTest
    | split
    | dsimp only)

theorem execSlotAdj_keeps {s t : State} (h : Keeps s t) (flit : Flit) :
    ResKeeps s (execSlotAdj flit t) := by
  unfold execSlotAdj
  repeat' (first
    | with_reducible assumption
    | with_reducible apply flitGate_keeps
    | with_reducible apply setOpOf_keeps
    | with_reducible apply Keeps.iteTest
    | with_reducible apply ResKeeps.next
    | with_reducible apply ResKeeps.iteTest
    | exact Keeps.to h rfl fun i => { i with }
    | split
    | dsimp only)

theorem execCollectiveSlotStart_keeps {s t : State} (h : Keeps s t) (reads : ReadOutcome := ReadOutcome.clean) :
    ResKeeps s (execCollectiveSlotStart t reads) := by
  unfold execCollectiveSlotStart
  repeat' (first
    | with_reducible assumption
    | with_reducible apply collKick_keeps
    | with_reducible apply sendSlot_keeps
    | with_reducible apply sendTail_keeps
    | with_reducible apply Keeps.iteTest
    | with_reducible apply ResKeeps.next
    | with_reducible apply ResKeeps.iteTest
    | split)

theorem execSendAcknowledged_keeps {s t : State} (h : Keeps s t) (reads : ReadOutcome := ReadOutcome.clean) :
    ResKeeps s (execSendAcknowledged t reads) := by
  unfold execSendAcknowledged
  repeat' (first
    | with_reducible assumption
    | with_reducible apply commitOrEnd_keeps
    | with_reducible apply setOpOf_keeps
    | with_reducible apply Keeps.iteTest
    | with_reducible apply ResKeeps.next
    | with_reducible apply ResKeeps.iteTest
    | exact Keeps.to h rfl fun i => { i with }
    | split)

/-! ### Machine/Sideband.lean -/

theorem respond_keeps {s t : State} (h : Keeps s t) (code : Byte) (body : List Byte) :
    Keeps s (respond t code body) := by
  unfold respond
  repeat' (first
    | with_reducible assumption
    | intro _
    | with_reducible apply Keeps.modSide)

theorem execSidebandEndpointReady_keeps {s t : State} (h : Keeps s t) :
    ResKeeps s (execSidebandEndpointReady t) := by
  unfold execSidebandEndpointReady
  repeat' (first
    | with_reducible assumption
    | intro _
    | with_reducible apply Keeps.modSide
    | with_reducible apply Keeps.iteTest
    | with_reducible apply ResKeeps.next
    | with_reducible apply ResKeeps.iteTest
    | split)

theorem execEntdaa_keeps {s t : State} (h : Keeps s t) (address : BitVec 7) :
    ResKeeps s (execEntdaa address t) := by
  unfold execEntdaa
  repeat' (first
    | with_reducible assumption
    | intro _
    | with_reducible apply Keeps.modSide
    | with_reducible apply Keeps.iteTest
    | with_reducible apply ResKeeps.next
    | with_reducible apply ResKeeps.iteTest
    | split)

theorem mctpAnswer_keeps {s t : State} (h : Keeps s t) (m : MctpControl) : Keeps s (mctpAnswer t m) := by
  cases m
  · exact respond_keeps (bumpFree_keeps h.modSide) _ _
  · exact respond_keeps (bumpFree_keeps h) _ _
  · exact respond_keeps (bumpFree_keeps h) _ _
  · exact respond_keeps h _ _
  · exact respond_keeps h _ _

theorem execMctpControl_keeps {s t : State} (h : Keeps s t) (message : MctpControl) :
    ResKeeps s (execMctpControl message t) := by
  unfold execMctpControl
  repeat' (first
    | with_reducible assumption
    | with_reducible apply mctpAnswer_keeps
    | intro _
    | with_reducible apply onEndpoint_keeps
    | with_reducible apply ResKeeps.next)

theorem execGetTelemetry_keeps {s t : State} (h : Keeps s t) (page : Nat) :
    ResKeeps s (execGetTelemetry page t) := by
  unfold execGetTelemetry
  repeat' (first
    | with_reducible assumption
    | intro _
    | with_reducible apply bumpFree_keeps
    | with_reducible apply onEndpoint_keeps
    | with_reducible apply respond_keeps
    | with_reducible apply ResKeeps.next
    | split)

theorem sendLinkCtrls_keeps {s t : State} (h : Keeps s t) :
    Keeps s (sendLinkCtrls t) := by
  unfold sendLinkCtrls
  repeat' (first
    | with_reducible assumption
    | with_reducible apply putFlits_keeps)

theorem execSetCoord_keeps {s t : State} (h : Keeps s t) (address : BitVec 48) :
    ResKeeps s (execSetCoord address t) := by
  unfold execSetCoord
  repeat' (first
    | with_reducible assumption
    | ((with_reducible change ∀ x, LnkOk x → LnkOk _); exact fun _ k => { k with })
    | ((with_reducible change ∀ x, LnkOk x → LnkOk _); intro _ k; split <;> exact { k with })
    | intro _
    | with_reducible apply onEndpoint_keeps
    | with_reducible apply respond_keeps
    | with_reducible apply sendLinkCtrls_keeps
    | with_reducible apply Keeps.modLnkAny
    | with_reducible apply Keeps.iteTest
    | with_reducible apply ResKeeps.next
    | with_reducible apply ResKeeps.iteTest
    | ((with_reducible change LnkOk _); exact ‹LnkOk _›)
    | split)

theorem takePlanes_keeps {s t : State} (h : Keeps s t) (planes : List Byte) :
    Keeps s (takePlanes t planes) := by
  unfold takePlanes
  repeat' (first
    | with_reducible assumption
    | ((with_reducible change ∀ x, LnkOk x → LnkOk _); exact fun _ k => { k with })
    | ((with_reducible change ∀ x, LnkOk x → LnkOk _); exact fun _ k => { k with linkCount := by simpa using k.linkCount, links := forall_mem_zipIdx_map k.links fun _ _ y => { y with } })
    | intro _
    | with_reducible apply Keeps.modLnkAny)

theorem execSetPlaneMap_keeps {s t : State} (h : Keeps s t) (planes : List Byte) :
    ResKeeps s (execSetPlaneMap planes t) := by
  unfold execSetPlaneMap
  repeat' (first
    | with_reducible assumption
    | intro _
    | with_reducible apply onEndpoint_keeps
    | with_reducible apply respond_keeps
    | with_reducible apply sendLinkCtrls_keeps
    | with_reducible apply takePlanes_keeps
    | with_reducible apply Keeps.iteTest
    | with_reducible apply ResKeeps.next
    | with_reducible apply ResKeeps.iteTest
    | split)

theorem execSidebandHalter_keeps {s t : State} (h : Keeps s t) :
    ResKeeps s (execSidebandHalter t) := by
  unfold execSidebandHalter
  repeat' (first
    | with_reducible assumption
    | ((with_reducible change ∀ x, HstOk x → HstOk _); exact fun _ k => { k with })
    | intro _
    | with_reducible apply onEndpoint_keeps
    | with_reducible apply Keeps.modHstAny
    | with_reducible apply Keeps.iteTest
    | with_reducible apply ResKeeps.next
    | with_reducible apply ResKeeps.iteTest
    | ((with_reducible change HstOk _); exact ‹HstOk _›)
    | split)

theorem execGetWeave_keeps {s t : State} (h : Keeps s t) :
    ResKeeps s (execGetWeave t) := by
  unfold execGetWeave
  repeat' (first
    | with_reducible assumption
    | intro _
    | with_reducible apply onEndpoint_keeps
    | with_reducible apply respond_keeps
    | with_reducible apply Keeps.iteTest
    | with_reducible apply ResKeeps.next
    | with_reducible apply ResKeeps.iteTest
    | split)

theorem execGetCoord_keeps {s t : State} (h : Keeps s t) :
    ResKeeps s (execGetCoord t) := by
  unfold execGetCoord
  repeat' (first
    | with_reducible assumption
    | intro _
    | with_reducible apply onEndpoint_keeps
    | with_reducible apply respond_keeps
    | with_reducible apply ResKeeps.next)

theorem execUnknownVendorCommand_keeps {s t : State} (h : Keeps s t) (code : Byte) :
    ResKeeps s (execUnknownVendorCommand code t) := by
  unfold execUnknownVendorCommand
  repeat' (first
    | with_reducible assumption
    | intro _
    | with_reducible apply onEndpoint_keeps
    | with_reducible apply respond_keeps
    | with_reducible apply Keeps.iteTest
    | with_reducible apply ResKeeps.next
    | with_reducible apply ResKeeps.iteTest
    | split)

/-! ### Machine/FarrierCmds.lean -/

theorem deltaFor_ok {d : Int} {vPass : Nat} (h : DeltaOk d) (hm : coreSetpoint .canter d - vPass < 40) (hd : ¬ 12 < deltaFor vPass) :
    DeltaOk (deltaFor vPass) := by
  simp only [coreSetpoint, gaitSetpoint] at hm
  simp only [deltaFor, gaitSetpoint, DeltaOk] at *
  omega

theorem deltaTop_ok : DeltaOk 12 := ⟨by decide, by decide⟩

theorem trimRegion_ok {x : Region} (now vPass : Nat) (h : RegionOk x) : RegionOk (trimRegion now vPass x) := by
  have hm : ∀ n : Nat, min 255 n ≤ 255 := fun n => Nat.min_le_left _ _
  have hd := h.delta
  unfold trimRegion
  dsimp only
  split
  · next hlt =>
    split
    · exact { h with margin := hm _, wideSessions := Nat.zero_le _, delta := deltaTop_ok }
    · next hn => exact { h with margin := hm _, wideSessions := Nat.zero_le _, delta := deltaFor_ok hd hlt hn }
  · split
    · exact { h with margin := hm _, wideSessions := Nat.zero_le _, delta := hd }
    · split
      · next hw => exact { h with margin := hm _, wideSessions := hw, delta := hd }
      · refine { h with margin := hm _, wideSessions := Nat.zero_le _, delta := ?_ }
        unfold DeltaOk at *
        dsimp only
        omega

theorem regionAt_delta {s : State} (i : Inv s) (r : Nat) : DeltaOk (regionAt s r).delta := by
  unfold regionAt
  rw [List.getD_eq_getElem?_getD]
  cases hr : s.regions[r]? with
  | none => exact ⟨by decide, by decide⟩
  | some x => exact (i.regions x (List.mem_of_getElem? hr)).delta

theorem trimNoted_keeps {s t : State} (h : Keeps s t) (x : TrimRecord) (hx : Inv t → DeltaOk x.new) :
    Keeps s { t with stud := { t.stud with trims := t.stud.trims ++ [x] } } :=
  h.to rfl fun i =>
    { i with
      stud :=
        { i.stud with
          trims := by
            intro y hy
            rcases List.mem_append.1 hy with hy | hy
            · exact i.stud.trims y hy
            · rw [List.mem_singleton.1 hy]
              exact hx i } }

theorem takeSession_keeps {s t : State} (h : Keeps s t) (r : Nat) (returning : Bool) :
    Keeps s (takeSession t r returning) := by
  unfold takeSession
  repeat' (first
    | with_reducible assumption
    | intro _
    | with_reducible apply requestPower_keeps
    | with_reducible apply Keeps.modFarrier
    | with_reducible apply Keeps.iteTest
    | split
    | dsimp only)

theorem tryRolling_keeps {s t : State} (h : Keeps s t) :
    Keeps s (tryRolling t) := by
  unfold tryRolling
  repeat' (first
    | with_reducible assumption
    | intro _
    | with_reducible apply takeSession_keeps
    | with_reducible apply Keeps.modFarrier
    | with_reducible apply Keeps.iteTest
    | split)

theorem execFarrierRollingStart_keeps {s t : State} (h : Keeps s t) :
    ResKeeps s (execFarrierRollingStart t) := by
  unfold execFarrierRollingStart
  repeat' (first
    | with_reducible assumption
    | with_reducible apply tryRolling_keeps
    | with_reducible apply Keeps.iteTest
    | with_reducible apply ResKeeps.next
    | with_reducible apply ResKeeps.iteTest
    | split)

theorem execFarrierReturnStart_keeps {s t : State} (h : Keeps s t) :
    ResKeeps s (execFarrierReturnStart t) := by
  unfold execFarrierReturnStart
  repeat' (first
    | with_reducible assumption
    | with_reducible apply takeSession_keeps
    | with_reducible apply Keeps.iteTest
    | with_reducible apply ResKeeps.next
    | with_reducible apply ResKeeps.iteTest
    | split)

theorem execFarrierRetry_keeps {s t : State} (h : Keeps s t) :
    ResKeeps s (execFarrierRetry t) := by
  unfold execFarrierRetry
  repeat' (first
    | with_reducible assumption
    | with_reducible apply takeSession_keeps
    | with_reducible apply tryRolling_keeps
    | with_reducible apply Keeps.iteTest
    | with_reducible apply ResKeeps.next
    | with_reducible apply ResKeeps.iteTest
    | split)

theorem execFarrierHold_keeps {s t : State} (h : Keeps s t) :
    ResKeeps s (execFarrierHold t) := by
  unfold execFarrierHold
  repeat' (first
    | with_reducible assumption
    | intro _
    | with_reducible apply updBanks_keeps
    | with_reducible apply Keeps.modFarrier
    | with_reducible apply Keeps.iteTest
    | with_reducible apply ResKeeps.next
    | with_reducible apply ResKeeps.iteTest
    | exact Keeps.to h rfl fun i => { i with }
    | split)

theorem scanUnit_keeps {s t : State} (h : Keeps s t) (x : TestFinding) :
    Keeps s (scanUnit t x) := by
  unfold scanUnit
  repeat' (first
    | with_reducible assumption
    | with_reducible apply recordFault_keeps
    | with_reducible apply retireUnit_keeps
    | with_reducible apply Keeps.iteTest
    | split)

theorem trimSession_keeps {s t : State} (h : Keeps s t) (r : Nat) (vPass : Nat) :
    Keeps s (trimSession t r vPass) := by
  unfold trimSession
  dsimp only
  have ht := Keeps.modRegion (r := r) (g := trimRegion (lifeTime t) vPass) h fun _ _ _ => trimRegion_ok _ _
  split
  · exact ht
  · exact trimNoted_keeps ht _ fun i => regionAt_delta i r

theorem releaseRolling_keeps {s t : State} (h : Keeps s t) (r : Nat) (out : Bool) :
    Keeps s (releaseRolling t r out) := by
  unfold releaseRolling
  repeat' (first
    | with_reducible assumption
    | ((with_reducible change Inv _ → ∀ x, x ∈ _ → RegionOk x → RegionOk _); exact fun _ _ _ k => { k with })
    | intro _
    | with_reducible apply leaveWeave_keeps
    | with_reducible apply publishEvent_keeps
    | with_reducible apply Keeps.modRegion
    | with_reducible apply Keeps.iteTest
    | ((with_reducible change RegionOk _); exact ‹RegionOk _›)
    | split
    | dsimp only)

theorem releaseReturning_keeps {s t : State} (h : Keeps s t) (r : Nat) (out : Bool) :
    Keeps s (releaseReturning t r out) := by
  unfold releaseReturning
  repeat' (first
    | with_reducible assumption
    | ((with_reducible change Inv _ → ∀ x, x ∈ _ → RegionOk x → RegionOk _); exact fun _ _ _ k => { k with })
    | intro _
    | with_reducible apply publishEvent_keeps
    | with_reducible apply regionOff_keeps
    | with_reducible apply Keeps.modRegion
    | with_reducible apply Keeps.iteTest
    | ((with_reducible change RegionOk _); exact ‹RegionOk _›)
    | split)

theorem closeSession_keeps {s t : State} (h : Keeps s t) (x : Session) (result : Nat) :
    Keeps s (closeSession t x result) := by
  unfold closeSession
  repeat' (first
    | with_reducible assumption
    | ((with_reducible change Inv _ → ∀ x, x ∈ _ → RegionOk x → RegionOk _); exact fun _ _ _ k => { k with })
    | intro _
    | with_reducible apply Keeps.modRegion
    | with_reducible apply Keeps.modFarrier
    | with_reducible apply Keeps.iteTest
    | ((with_reducible change RegionOk _); exact ‹RegionOk _›)
    | split
    | dsimp only)

theorem execFarrierRelease_keeps {s t : State} (h : Keeps s t) (found : SessionFindings) :
    ResKeeps s (execFarrierRelease found t) := by
  unfold execFarrierRelease
  repeat' (first
    | with_reducible assumption
    | intro _
    | with_reducible apply closeSession_keeps
    | with_reducible apply dropGait_keeps
    | with_reducible apply farrierAbandon_keeps
    | with_reducible apply postEvent_keeps
    | with_reducible apply releaseReturning_keeps
    | with_reducible apply releaseRolling_keeps
    | with_reducible apply scanUnit_keeps
    | with_reducible apply trimSession_keeps
    | with_reducible apply updBanks_keeps
    | with_reducible apply Keeps.foldl
    | with_reducible apply Keeps.iteTest
    | with_reducible apply ResKeeps.next
    | with_reducible apply ResKeeps.iteTest
    | split
    | dsimp only)

end Sys2Proof.Machine
end

