-- ==== Sys2Proof/Laws/Only.lean ====
section
/-!
SUPPORT. Which parts of the state an update touches, in the form in which updates are chained.
-/
namespace Sys2Proof.Machine

/-- Every part of one list stands in another. -/
def Within (qs ps : List Part) : Prop := ∀ q ∈ qs, q ∈ ps

theorem Within.refl (ps : List Part) : Within ps ps := fun _ h => h

theorem Within.ofBool {qs ps : List Part} (h : (qs.all fun q => decide (q ∈ ps)) = true) : Within qs ps := by
  intro q hq
  simpa using List.all_eq_true.1 h q hq

theorem Within.mem {qs ps : List Part} {p : Part} (h : Within qs ps) (hq : decide (p ∈ qs) = true) : p ∈ ps :=
  h p (of_decide_eq_true hq)

theorem Within.trans {a b c : List Part} (h : Within b c) (k : Within a b) : Within a c := fun q hq => h q (k q hq)

variable {ps : List Part} {s t u : State}

theorem Only.refl (s : State) : Only ps s s := by
  intro p _
  cases p <;> rfl

theorem Only.trans (h : Only ps s t) (k : Only ps t u) : Only ps s u := by
  intro p hp
  have a := h p hp
  have b := k p hp
  cases p <;> exact Eq.trans b a

theorem Only.mono {qs : List Part} (h : Only qs s t) (hq : Within qs ps) : Only ps s t :=
  fun p hp => h p fun hn => hp (hq p hn)

/-- One update after another. -/
theorem Only.to {qs : List Part} (h : Only ps s t) (hq : Within qs ps) (k : Only qs t u) : Only ps s u := h.trans (k.mono hq)

theorem Only.iteTest {c : Prop} [Decidable c] {a b : State} (ha : Only ps s a) (hb : Only ps s b) : Only ps s (if c then a else b) := by
  split <;> assumption

theorem Only.foldl {α : Type} {f : State → α → State} (l : List α) (hf : ∀ (v : State) (x : α), Only ps s v → Only ps s (f v x))
    (h : Only ps s t) : Only ps s (l.foldl f t) := by
  induction l generalizing t with
  | nil => exact h
  | cons x l ih => exact ih (hf t x h)

theorem Only.modField {f : Nat} {g : Field → Field} (h : Only ps s t) (hp : Part.fields ∈ ps) : Only ps s (Machine.modField t f g) :=
  h.trans fun p hn => by cases p <;> first | rfl | exact absurd hp hn

theorem Only.modRegion {r : Nat} {g : Region → Region} (h : Only ps s t) (hp : Part.regions ∈ ps) : Only ps s (Machine.modRegion t r g) :=
  h.trans fun p hn => by cases p <;> first | rfl | exact absurd hp hn

theorem Only.modStack {m : Nat} {g : Stack → Stack} (h : Only ps s t) (hp : Part.memStacks ∈ ps) : Only ps s (Machine.modStack t m g) :=
  h.trans fun p hn => by cases p <;> first | rfl | exact absurd hp hn

theorem Only.modLink {l : Nat} {g : Link → Link} (h : Only ps s t) (hp : Part.lnk ∈ ps) : Only ps s (Machine.modLink t l g) :=
  h.trans fun p hn => by cases p <;> first | rfl | exact absurd hp hn

theorem Only.modRing {r : Nat} {g : Ring → Ring} (h : Only ps s t) (hp : Part.hst ∈ ps) : Only ps s (Machine.modRing t r g) :=
  h.trans fun p hn => by cases p <;> first | rfl | exact absurd hp hn

theorem Only.modCtl {b : Blk} {g : BlockCtl → BlockCtl} (h : Only ps s t) (hp : Part.blocks ∈ ps) : Only ps s (Machine.modCtl t b g) :=
  h.trans fun p hn => by cases p <;> first | rfl | exact absurd hp hn

theorem Only.modEdge {f e : Nat} {g : Edge → Edge} (h : Only ps s t) (hp : Part.fields ∈ ps) : Only ps s (Machine.modEdge t f e g) :=
  h.modField hp

theorem Only.modMaster {g : Master → Master} (h : Only ps s t) (hp : Part.master ∈ ps) : Only ps s (Machine.modMaster t g) :=
  h.trans fun p hn => by cases p <;> first | rfl | exact absurd hp hn

theorem Only.modGlb {g : Glb → Glb} (h : Only ps s t) (hp : Part.glb ∈ ps) : Only ps s (Machine.modGlb t g) :=
  h.trans fun p hn => by cases p <;> first | rfl | exact absurd hp hn

theorem Only.modPwr {g : Power → Power} (h : Only ps s t) (hp : Part.pwr ∈ ps) : Only ps s (Machine.modPwr t g) :=
  h.trans fun p hn => by cases p <;> first | rfl | exact absurd hp hn

theorem Only.modClk {g : Clock → Clock} (h : Only ps s t) (hp : Part.clk ∈ ps) : Only ps s (Machine.modClk t g) :=
  h.trans fun p hn => by cases p <;> first | rfl | exact absurd hp hn

theorem Only.modHst {g : Hst → Hst} (h : Only ps s t) (hp : Part.hst ∈ ps) : Only ps s (Machine.modHst t g) :=
  h.trans fun p hn => by cases p <;> first | rfl | exact absurd hp hn

theorem Only.modNa {g : Adapter → Adapter} (h : Only ps s t) (hp : Part.na ∈ ps) : Only ps s (Machine.modNa t g) :=
  h.trans fun p hn => by cases p <;> first | rfl | exact absurd hp hn

theorem Only.modSec {g : Sec → Sec} (h : Only ps s t) (hp : Part.sec ∈ ps) : Only ps s (Machine.modSec t g) :=
  h.trans fun p hn => by cases p <;> first | rfl | exact absurd hp hn

theorem Only.modSide {g : Side → Side} (h : Only ps s t) (hp : Part.side ∈ ps) : Only ps s (Machine.modSide t g) :=
  h.trans fun p hn => by cases p <;> first | rfl | exact absurd hp hn

theorem Only.modBoot {g : Boot → Boot} (h : Only ps s t) (hp : Part.boot ∈ ps) : Only ps s (Machine.modBoot t g) :=
  h.trans fun p hn => by cases p <;> first | rfl | exact absurd hp hn

theorem Only.modLnk {g : Lnk → Lnk} (h : Only ps s t) (hp : Part.lnk ∈ ps) : Only ps s (Machine.modLnk t g) :=
  h.trans fun p hn => by cases p <;> first | rfl | exact absurd hp hn

theorem Only.modFarrier {g : Farrier → Farrier} (h : Only ps s t) (hp : Part.farrier ∈ ps) : Only ps s (Machine.modFarrier t g) :=
  h.trans fun p hn => by cases p <;> first | rfl | exact absurd hp hn

/-! ### Answers -/

/-- Every next state an answer gives leaves the other parts alone. -/
structure ResOnly (ps : List Part) (s : State) (r : Res) : Prop where
  only : ∀ t, r = .next t → Only ps s t

theorem ResOnly.next (h : Only ps s t) : ResOnly ps s (.next t) := ⟨by rintro _ ⟨⟩; exact h⟩

theorem ResOnly.fault (e : Fault) : ResOnly ps s (.fault e) := ⟨by rintro _ ⟨⟩⟩

theorem ResOnly.iteTest {c : Prop} [Decidable c] {a b : Res} (ha : ResOnly ps s a) (hb : ResOnly ps s b) :
    ResOnly ps s (if c then a else b) := by
  split <;> assumption

theorem ResOnly.onUnit {ok : Bool} (h : Only ps s t) : ResOnly ps s (onUnit ok t) := .iteTest (.next h) (.fault _)

end Sys2Proof.Machine
end

