-- ==== Sys2Proof/Laws/OnlyOps.lean ====
section
/-!
SUPPORT. One lemma for each operation of memory, records, weave, placement, tiles and collectives: the parts of the
state it touches (Laws/Only.lean).
-/
namespace Sys2Proof.Machine

/-! ### Machine/Ops.lean -/

theorem writeByte_only {ps : List Part} {s t : State} (h : Only ps s t) (hp : Within [.dram, .spad, .host] ps) (a : Nat) (b : Byte) :
    Only ps s (writeByte t a b) := by
  unfold writeByte
  repeat' (first
    | with_reducible assumption
    | with_reducible exact hp.trans (.ofBool rfl)
    | with_reducible exact hp.mem rfl
    | with_reducible apply Only.iteTest
    | split
    | exact Only.to (qs := [.dram, .spad, .host]) h (hp.trans (.ofBool rfl)) fun p hn => by cases p <;> first | rfl | exact absurd (by decide) hn)

theorem writeCells_only {ps : List Part} {s t : State} (h : Only ps s t) (hp : Within [.dram, .spad, .host] ps) (cells : List Host.Cell) :
    Only ps s (writeCells t cells) := by
  unfold writeCells
  repeat' (first
    | with_reducible assumption
    | with_reducible exact hp.trans (.ofBool rfl)
    | with_reducible exact hp.mem rfl
    | with_reducible intro _
    | with_reducible apply writeByte_only
    | with_reducible apply Only.foldl)

theorem hostMerge_only {ps : List Part} {s t : State} (h : Only ps s t) (hp : Within [.host] ps) (cells : List Host.Cell) :
    Only ps s (hostMerge t cells) := by
  unfold hostMerge
  repeat' (first
    | with_reducible assumption
    | with_reducible exact hp.trans (.ofBool rfl)
    | with_reducible exact hp.mem rfl
    | exact Only.to (qs := [.host]) h (hp.trans (.ofBool rfl)) fun p hn => by cases p <;> first | rfl | exact absurd (by decide) hn)

theorem hostWrite_only {ps : List Part} {s t : State} (h : Only ps s t) (hp : Within [.host] ps) (a : Nat) (bs : List Byte) :
    Only ps s (hostWrite t a bs) := by
  unfold hostWrite
  repeat' (first
    | with_reducible assumption
    | with_reducible exact hp.trans (.ofBool rfl)
    | with_reducible exact hp.mem rfl
    | exact Only.to (qs := [.host]) h (hp.trans (.ofBool rfl)) fun p hn => by cases p <;> first | rfl | exact absurd (by decide) hn)

theorem raiseMsix_only {ps : List Part} {s t : State} (h : Only ps s t) (hp : Within [.na] ps) (v : Nat) :
    Only ps s (raiseMsix t v) := by
  unfold raiseMsix
  repeat' (first
    | with_reducible assumption
    | with_reducible exact hp.trans (.ofBool rfl)
    | with_reducible exact hp.mem rfl
    | with_reducible apply Only.modNa)

theorem postRecord64_only {ps : List Part} {s t : State} (h : Only ps s t) (hp : Within [.na, .hst, .host] ps) (ring : Nat) (body : List Byte) :
    Only ps s (postRecord64 t ring body) := by
  unfold postRecord64
  repeat' (first
    | with_reducible assumption
    | with_reducible exact hp.trans (.ofBool rfl)
    | with_reducible exact hp.mem rfl
    | with_reducible apply hostWrite_only
    | with_reducible apply raiseMsix_only
    | with_reducible apply Only.modRing
    | dsimp only)

theorem postError_only {ps : List Part} {s t : State} (h : Only ps s t) (hp : Within [.na, .hst, .glb, .host] ps) (e : ErrRec) :
    Only ps s (postError t e) := by
  unfold postError
  repeat' (first
    | with_reducible assumption
    | with_reducible exact hp.trans (.ofBool rfl)
    | with_reducible exact hp.mem rfl
    | with_reducible apply postRecord64_only
    | with_reducible apply Only.modGlb
    | with_reducible apply Only.iteTest
    | split
    | dsimp only)

theorem postEventAt_only {ps : List Part} {s t : State} (h : Only ps s t) (hp : Within [.na, .hst, .host] ps) (time : Word64) (code : Nat) (kind : UnitKind) (unit : Nat) (detail : Nat) :
    Only ps s (postEventAt t time code kind unit detail) := by
  unfold postEventAt
  repeat' (first
    | with_reducible assumption
    | with_reducible exact hp.trans (.ofBool rfl)
    | with_reducible exact hp.mem rfl
    | with_reducible apply postRecord64_only
    | with_reducible apply Only.modHst
    | with_reducible apply Only.iteTest
    | split
    | dsimp only)

theorem postEvent_only {ps : List Part} {s t : State} (h : Only ps s t) (hp : Within [.na, .hst, .host] ps) (code : Nat) (kind : UnitKind) (unit : Nat) (detail : Nat) :
    Only ps s (postEvent t code kind unit detail) := by
  unfold postEvent
  repeat' (first
    | with_reducible assumption
    | with_reducible exact hp.trans (.ofBool rfl)
    | with_reducible exact hp.mem rfl
    | with_reducible apply postEventAt_only)

theorem unitPut_only {ps : List Part} {s t : State} (h : Only ps s t) (hp : Within [.stud] ps) (u' : StudUnit) :
    Only ps s (unitPut t u') := by
  unfold unitPut
  repeat' (first
    | with_reducible assumption
    | with_reducible exact hp.trans (.ofBool rfl)
    | with_reducible exact hp.mem rfl
    | exact Only.to (qs := [.stud]) h (hp.trans (.ofBool rfl)) fun p hn => by cases p <;> first | rfl | exact absurd (by decide) hn)

theorem studPut_only {ps : List Part} {s t : State} (h : Only ps s t) (hp : Within [.stud] ps) (u' : StudUnit) :
    Only ps s (studPut t u') := by
  unfold studPut
  repeat' (first
    | with_reducible assumption
    | with_reducible exact hp.trans (.ofBool rfl)
    | with_reducible exact hp.mem rfl
    | with_reducible apply unitPut_only)

theorem noteRepairs_only {ps : List Part} {s t : State} (h : Only ps s t) (hp : Within [.stud] ps) (k : UnitKind) (i : Nat) (n : Nat) :
    Only ps s (noteRepairs t k i n) := by
  unfold noteRepairs
  repeat' (first
    | with_reducible assumption
    | with_reducible exact hp.trans (.ofBool rfl)
    | with_reducible exact hp.mem rfl
    | exact Only.to (qs := [.stud]) h (hp.trans (.ofBool rfl)) fun p hn => by cases p <;> first | rfl | exact absurd (by decide) hn)

theorem noteOpening_only {ps : List Part} {s t : State} (h : Only ps s t) (hp : Within [.stud] ps) (r : Nat) :
    Only ps s (noteOpening t r) := by
  unfold noteOpening
  repeat' (first
    | with_reducible assumption
    | with_reducible exact hp.trans (.ofBool rfl)
    | with_reducible exact hp.mem rfl
    | exact Only.to (qs := [.stud]) h (hp.trans (.ofBool rfl)) fun p hn => by cases p <;> first | rfl | exact absurd (by decide) hn)

theorem retireUnit_only {ps : List Part} {s t : State} (h : Only ps s t) (hp : Within [.na, .hst, .stud, .host] ps) (k : UnitKind) (i : Nat) (reason : Byte) :
    Only ps s (retireUnit t k i reason) := by
  unfold retireUnit
  repeat' (first
    | with_reducible assumption
    | with_reducible exact hp.trans (.ofBool rfl)
    | with_reducible exact hp.mem rfl
    | with_reducible apply postEvent_only
    | with_reducible apply studPut_only
    | with_reducible apply Only.iteTest
    | split)

theorem recordFault_only {ps : List Part} {s t : State} (h : Only ps s t) (hp : Within [.na, .hst, .stud, .host] ps) (k : UnitKind) (i : Nat) (reason : Byte) :
    Only ps s (recordFault t k i reason) := by
  unfold recordFault
  repeat' (first
    | with_reducible assumption
    | with_reducible exact hp.trans (.ofBool rfl)
    | with_reducible exact hp.mem rfl
    | with_reducible apply retireUnit_only
    | with_reducible apply studPut_only
    | with_reducible apply Only.iteTest
    | split
    | dsimp only)

theorem recordFaultOnly_only {ps : List Part} {s t : State} (h : Only ps s t) (hp : Within [.stud] ps) (k : UnitKind) (i : Nat) :
    Only ps s (recordFaultOnly t k i) := by
  unfold recordFaultOnly
  repeat' (first
    | with_reducible assumption
    | with_reducible exact hp.trans (.ofBool rfl)
    | with_reducible exact hp.mem rfl
    | with_reducible apply studPut_only
    | dsimp only)

theorem modTiles_only {ps : List Part} {s t : State} (h : Only ps s t) (hp : Within [.master] ps) (f : Tile → Tile) :
    Only ps s (modTiles t f) := by
  unfold modTiles
  repeat' (first
    | with_reducible assumption
    | with_reducible exact hp.trans (.ofBool rfl)
    | with_reducible exact hp.mem rfl
    | with_reducible apply Only.modMaster)

theorem modTile_only {ps : List Part} {s t : State} (h : Only ps s t) (hp : Within [.master] ps) (id : Nat) (f : Tile → Tile) :
    Only ps s (modTile t id f) := by
  unfold modTile
  repeat' (first
    | with_reducible assumption
    | with_reducible exact hp.trans (.ofBool rfl)
    | with_reducible exact hp.mem rfl
    | with_reducible apply modTiles_only
    | with_reducible apply Only.iteTest
    | split)

theorem releaseStat_only {ps : List Part} {s t : State} (h : Only ps s t) (hp : Within [.regions] ps) (t' : Tile) :
    Only ps s (releaseStat t t') := by
  unfold releaseStat
  repeat' (first
    | with_reducible assumption
    | with_reducible exact hp.trans (.ofBool rfl)
    | with_reducible exact hp.mem rfl
    | with_reducible apply Only.modRegion)

theorem releaseStrm_only {ps : List Part} {s t : State} (h : Only ps s t) (hp : Within [.regions] ps) (t' : Tile) :
    Only ps s (releaseStrm t t') := by
  unfold releaseStrm
  repeat' (first
    | with_reducible assumption
    | with_reducible exact hp.trans (.ofBool rfl)
    | with_reducible exact hp.mem rfl
    | with_reducible apply Only.modRegion)

theorem releaseTile_only {ps : List Part} {s t : State} (h : Only ps s t) (hp : Within [.regions] ps) (t' : Tile) :
    Only ps s (releaseTile t t') := by
  unfold releaseTile
  repeat' (first
    | with_reducible assumption
    | with_reducible exact hp.trans (.ofBool rfl)
    | with_reducible exact hp.mem rfl
    | with_reducible apply releaseStat_only
    | with_reducible apply releaseStrm_only
    | with_reducible apply Only.iteTest
    | split
    | dsimp only)

theorem refillOne_only {ps : List Part} {s t : State} (h : Only ps s t) (hp : Within [.fields, .regions, .master] ps) (r : Nat) :
    Only ps s (refillOne t r) := by
  unfold refillOne
  repeat' (first
    | with_reducible assumption
    | with_reducible exact hp.trans (.ofBool rfl)
    | with_reducible exact hp.mem rfl
    | with_reducible apply modTile_only
    | with_reducible apply Only.modField
    | with_reducible apply Only.modRegion
    | with_reducible apply Only.iteTest
    | split
    | dsimp only)

theorem yieldPre_only {ps : List Part} {s t : State} (h : Only ps s t) (hp : Within [.regions, .master] ps) (r : Nat) :
    Only ps s (yieldPre t r) := by
  unfold yieldPre
  repeat' (first
    | with_reducible assumption
    | with_reducible exact hp.trans (.ofBool rfl)
    | with_reducible exact hp.mem rfl
    | with_reducible intro _
    | with_reducible apply releaseTile_only
    | with_reducible apply Only.modRegion
    | with_reducible apply Only.modMaster
    | with_reducible apply Only.foldl
    | with_reducible apply Only.iteTest
    | split
    | dsimp only)

theorem refillRegion_only {ps : List Part} {s t : State} (h : Only ps s t) (hp : Within [.fields, .regions, .master] ps) (r : Nat) :
    Only ps s (refillRegion t r) := by
  unfold refillRegion
  repeat' (first
    | with_reducible assumption
    | with_reducible exact hp.trans (.ofBool rfl)
    | with_reducible exact hp.mem rfl
    | with_reducible apply refillOne_only
    | with_reducible apply yieldPre_only
    | with_reducible apply Only.iteTest
    | split
    | dsimp only)

theorem refillAll_only {ps : List Part} {s t : State} (h : Only ps s t) (hp : Within [.fields, .regions, .master] ps) :
    Only ps s (refillAll t) := by
  unfold refillAll
  repeat' (first
    | with_reducible assumption
    | with_reducible exact hp.trans (.ofBool rfl)
    | with_reducible exact hp.mem rfl
    | with_reducible intro _
    | with_reducible apply refillRegion_only
    | with_reducible apply Only.foldl
    | dsimp only)

theorem sweepQueues_only {ps : List Part} {s t : State} (h : Only ps s t) (hp : Within [.regions] ps) :
    Only ps s (sweepQueues t) := by
  unfold sweepQueues
  repeat' (first
    | with_reducible assumption
    | with_reducible exact hp.trans (.ofBool rfl)
    | with_reducible exact hp.mem rfl
    | dsimp only
    | exact Only.to (qs := [.regions]) h (hp.trans (.ofBool rfl)) fun p hn => by cases p <;> first | rfl | exact absurd (by decide) hn)

theorem keepTiles_only {ps : List Part} {s t : State} (h : Only ps s t) (hp : Within [.fields, .regions, .master] ps) (keep : Tile → Bool) (keepPre : Tile → Bool) :
    Only ps s (keepTiles t keep keepPre) := by
  unfold keepTiles
  repeat' (first
    | with_reducible assumption
    | with_reducible exact hp.trans (.ofBool rfl)
    | with_reducible exact hp.mem rfl
    | with_reducible intro _
    | with_reducible apply refillAll_only
    | with_reducible apply releaseTile_only
    | with_reducible apply sweepQueues_only
    | with_reducible apply Only.modMaster
    | with_reducible apply Only.foldl
    | dsimp only)

theorem dropPre_only {ps : List Part} {s t : State} (h : Only ps s t) (hp : Within [.fields, .regions, .master] ps) :
    Only ps s (dropPre t) := by
  unfold dropPre
  repeat' (first
    | with_reducible assumption
    | with_reducible exact hp.trans (.ofBool rfl)
    | with_reducible exact hp.mem rfl
    | with_reducible apply keepTiles_only
    | with_reducible apply Only.modMaster)

theorem dropPreSel_only {ps : List Part} {s t : State} (h : Only ps s t) (hp : Within [.fields, .regions, .master] ps) :
    Only ps s (dropPreSel t) := by
  unfold dropPreSel
  repeat' (first
    | with_reducible assumption
    | with_reducible exact hp.trans (.ofBool rfl)
    | with_reducible exact hp.mem rfl
    | with_reducible apply dropPre_only
    | with_reducible apply Only.modMaster)

theorem setColl_only {ps : List Part} {s t : State} (h : Only ps s t) (hp : Within [.lnk] ps) (k : Nat × Nat × Nat) (n : Nat) :
    Only ps s (setColl t k n) := by
  unfold setColl
  repeat' (first
    | with_reducible assumption
    | with_reducible exact hp.trans (.ofBool rfl)
    | with_reducible exact hp.mem rfl
    | with_reducible apply Only.modLnk)

theorem uncount_only {ps : List Part} {s t : State} (h : Only ps s t) (hp : Within [.lnk] ps) (o : Op) :
    Only ps s (uncount t o) := by
  unfold uncount
  repeat' (first
    | with_reducible assumption
    | with_reducible exact hp.trans (.ofBool rfl)
    | with_reducible exact hp.mem rfl
    | with_reducible apply setColl_only
    | split)

theorem dropRing_only {ps : List Part} {s t : State} (h : Only ps s t) (hp : Within [.fields, .regions, .lnk, .master] ps) (ring : Nat) :
    Only ps s (dropRing t ring) := by
  unfold dropRing
  repeat' (first
    | with_reducible assumption
    | with_reducible exact hp.trans (.ofBool rfl)
    | with_reducible exact hp.mem rfl
    | with_reducible intro _
    | with_reducible apply dropPreSel_only
    | with_reducible apply uncount_only
    | with_reducible apply Only.modMaster
    | with_reducible apply Only.foldl
    | with_reducible apply Only.iteTest
    | split
    | dsimp only)

theorem ringStops_only {ps : List Part} {s t : State} (h : Only ps s t) (hp : Within [.fields, .regions, .lnk, .hst, .master] ps) (ring : Nat) (status : Byte) (db : Bool) :
    Only ps s (ringStops t ring status db) := by
  unfold ringStops
  repeat' (first
    | with_reducible assumption
    | with_reducible exact hp.trans (.ofBool rfl)
    | with_reducible exact hp.mem rfl
    | with_reducible apply dropRing_only
    | with_reducible apply Only.modRing)

theorem stopAllRings_only {ps : List Part} {s t : State} (h : Only ps s t) (hp : Within [.fields, .regions, .lnk, .hst, .master] ps) (status : Byte) :
    Only ps s (stopAllRings t status) := by
  unfold stopAllRings
  repeat' (first
    | with_reducible assumption
    | with_reducible exact hp.trans (.ofBool rfl)
    | with_reducible exact hp.mem rfl
    | with_reducible intro _
    | with_reducible apply ringStops_only
    | with_reducible apply Only.foldl
    | with_reducible apply Only.iteTest
    | split)

theorem enterStale_only {ps : List Part} {s t : State} (h : Only ps s t) (hp : Within [.fields, .regions, .lnk, .na, .hst, .glb, .master, .host] ps) (iv : Interval) :
    Only ps s (enterStale t iv) := by
  unfold enterStale
  repeat' (first
    | with_reducible assumption
    | with_reducible exact hp.trans (.ofBool rfl)
    | with_reducible exact hp.mem rfl
    | with_reducible apply postError_only
    | with_reducible apply stopAllRings_only
    | with_reducible apply Only.modMaster
    | with_reducible apply Only.iteTest
    | split
    | dsimp only)

theorem enterStales_only {ps : List Part} {s t : State} (h : Only ps s t) (hp : Within [.fields, .regions, .lnk, .na, .hst, .glb, .master, .host] ps) (ivs : List Interval) :
    Only ps s (enterStales t ivs) := by
  unfold enterStales
  repeat' (first
    | with_reducible assumption
    | with_reducible exact hp.trans (.ofBool rfl)
    | with_reducible exact hp.mem rfl
    | with_reducible intro _
    | with_reducible apply enterStale_only
    | with_reducible apply Only.foldl)

theorem clearStale_only {ps : List Part} {s t : State} (h : Only ps s t) (hp : Within [.master] ps) (outs : List Interval) :
    Only ps s (clearStale t outs) := by
  unfold clearStale
  repeat' (first
    | with_reducible assumption
    | with_reducible exact hp.trans (.ofBool rfl)
    | with_reducible exact hp.mem rfl
    | with_reducible apply Only.modMaster)

theorem markWaits_only {ps : List Part} {s t : State} (h : Only ps s t) (hp : Within [.hst] ps) (o : Nat) :
    Only ps s (markWaits t o) := by
  unfold markWaits
  repeat' (first
    | with_reducible assumption
    | with_reducible exact hp.trans (.ofBool rfl)
    | with_reducible exact hp.mem rfl
    | with_reducible apply Only.modHst
    | with_reducible apply Only.iteTest
    | split
    | dsimp only)

theorem syncRaw_only {ps : List Part} {s t : State} (h : Only ps s t) (hp : Within [.sync] ps) (o : Nat) (set : Bool) (v : Word64) :
    Only ps s (syncRaw t o set v) := by
  unfold syncRaw
  repeat' (first
    | with_reducible assumption
    | with_reducible exact hp.trans (.ofBool rfl)
    | with_reducible exact hp.mem rfl
    | with_reducible apply Only.iteTest
    | split
    | exact Only.to (qs := [.sync]) h (hp.trans (.ofBool rfl)) fun p hn => by cases p <;> first | rfl | exact absurd (by decide) hn)

theorem syncApply_only {ps : List Part} {s t : State} (h : Only ps s t) (hp : Within [.hst, .sync] ps) (o : Nat) (set : Bool) (v : Word64) :
    Only ps s (syncApply t o set v) := by
  unfold syncApply
  repeat' (first
    | with_reducible assumption
    | with_reducible exact hp.trans (.ofBool rfl)
    | with_reducible exact hp.mem rfl
    | with_reducible apply markWaits_only
    | with_reducible apply syncRaw_only)

theorem applySignals_only {ps : List Part} {s t : State} (h : Only ps s t) (hp : Within [.hst, .sync] ps) (sigs : List Signal) :
    Only ps s (applySignals t sigs) := by
  unfold applySignals
  repeat' (first
    | with_reducible assumption
    | with_reducible exact hp.trans (.ofBool rfl)
    | with_reducible exact hp.mem rfl
    | with_reducible intro _
    | with_reducible apply markWaits_only
    | with_reducible apply syncRaw_only
    | with_reducible apply Only.foldl
    | dsimp only)

theorem postCompletion_only {ps : List Part} {s t : State} (h : Only ps s t) (hp : Within [.na, .hst, .host] ps) (ring : Nat) (c : Completion) :
    Only ps s (postCompletion t ring c) := by
  unfold postCompletion
  repeat' (first
    | with_reducible assumption
    | with_reducible exact hp.trans (.ofBool rfl)
    | with_reducible exact hp.mem rfl
    | with_reducible apply hostWrite_only
    | with_reducible apply raiseMsix_only
    | with_reducible apply Only.modRing
    | dsimp only)

theorem postCompletions_only {ps : List Part} {s t : State} (h : Only ps s t) (hp : Within [.na, .hst, .host] ps) (ring : Nat) (cs : List Completion) :
    Only ps s (postCompletions t ring cs) := by
  unfold postCompletions
  repeat' (first
    | with_reducible assumption
    | with_reducible exact hp.trans (.ofBool rfl)
    | with_reducible exact hp.mem rfl
    | with_reducible intro _
    | with_reducible apply postCompletion_only
    | with_reducible apply Only.foldl)

theorem bumpFree_only {ps : List Part} {s t : State} (h : Only ps s t) (hp : Within [.free] ps) :
    Only ps s (bumpFree t) := by
  unfold bumpFree
  repeat' (first
    | with_reducible assumption
    | with_reducible exact hp.trans (.ofBool rfl)
    | with_reducible exact hp.mem rfl
    | exact Only.to (qs := [.free]) h (hp.trans (.ofBool rfl)) fun p hn => by cases p <;> first | rfl | exact absurd (by decide) hn)

/-! ### Machine/Gaits.lean -/

theorem Only.setFields {ps : List Part} {s t : State} {l : List Field} (h : Only ps s t) (hp : Part.fields ∈ ps) :
    Only ps s { t with fields := l } :=
  h.trans fun p hn => by cases p <;> first | rfl | exact absurd hp hn

theorem Only.setRegions {ps : List Part} {s t : State} {l : List Region} (h : Only ps s t) (hp : Part.regions ∈ ps) :
    Only ps s { t with regions := l } :=
  h.trans fun p hn => by cases p <;> first | rfl | exact absurd hp hn

theorem Only.setStacks {ps : List Part} {s t : State} {l : List Stack} (h : Only ps s t) (hp : Part.memStacks ∈ ps) :
    Only ps s { t with memStacks := l } :=
  h.trans fun p hn => by cases p <;> first | rfl | exact absurd hp hn

theorem Only.setSlots {ps : List Part} {s t : State} {l : List Slot} (h : Only ps s t) (hp : Part.slots ∈ ps) :
    Only ps s { t with slots := l } :=
  h.trans fun p hn => by cases p <;> first | rfl | exact absurd hp hn

theorem Only.setStud {ps : List Part} {s t : State} {b : StudBook} (h : Only ps s t) (hp : Part.stud ∈ ps) :
    Only ps s { t with stud := b } :=
  h.trans fun p hn => by cases p <;> first | rfl | exact absurd hp hn

theorem Only.setFuses {ps : List Part} {s t : State} {b : Fuses} (h : Only ps s t) (hp : Part.fuses ∈ ps) :
    Only ps s { t with fuses := b } :=
  h.trans fun p hn => by cases p <;> first | rfl | exact absurd hp hn

theorem Only.setSync {ps : List Part} {s t : State} {l : List (Nat × Word64)} (h : Only ps s t) (hp : Part.sync ∈ ps) :
    Only ps s { t with sync := l } :=
  h.trans fun p hn => by cases p <;> first | rfl | exact absurd hp hn

theorem Only.setHeld {ps : List Part} {s t : State} {l : List HeldSync} (h : Only ps s t) (hp : Part.held ∈ ps) :
    Only ps s { t with held := l } :=
  h.trans fun p hn => by cases p <;> first | rfl | exact absurd hp hn

theorem changeCrossing_only {ps : List Part} {s t : State} (h : Only ps s t) (hp : Within [.fields] ps) (f : Nat) (d : Nat) :
    Only ps s (changeCrossing t f d) := by
  unfold changeCrossing
  repeat' (first
    | with_reducible assumption
    | with_reducible exact hp.trans (.ofBool rfl)
    | with_reducible exact hp.mem rfl
    | with_reducible apply Only.modEdge
    | with_reducible apply Only.iteTest
    | split
    | dsimp only)

theorem changeCrossings_only {ps : List Part} {s t : State} (h : Only ps s t) (hp : Within [.fields] ps) (f : Nat) :
    Only ps s (changeCrossings t f) := by
  unfold changeCrossings
  repeat' (first
    | with_reducible assumption
    | with_reducible exact hp.trans (.ofBool rfl)
    | with_reducible exact hp.mem rfl
    | with_reducible intro _
    | with_reducible apply changeCrossing_only
    | with_reducible apply Only.foldl)

theorem setGait_only {ps : List Part} {s t : State} (h : Only ps s t) (hp : Within [.fields] ps) (f : Nat) (g : Gait) :
    Only ps s (setGait t f g) := by
  unfold setGait
  repeat' (first
    | with_reducible assumption
    | with_reducible exact hp.trans (.ofBool rfl)
    | with_reducible exact hp.mem rfl
    | with_reducible apply changeCrossings_only
    | with_reducible apply Only.modField
    | with_reducible apply Only.iteTest
    | split)

theorem dropGait_only {ps : List Part} {s t : State} (h : Only ps s t) (hp : Within [.fields] ps) (f : Nat) :
    Only ps s (dropGait t f) := by
  unfold dropGait
  repeat' (first
    | with_reducible assumption
    | with_reducible exact hp.trans (.ofBool rfl)
    | with_reducible exact hp.mem rfl
    | with_reducible apply setGait_only
    | with_reducible apply Only.modField
    | with_reducible apply Only.iteTest
    | split
    | dsimp only)

theorem dropAll_only {ps : List Part} {s t : State} (h : Only ps s t) (hp : Within [.fields] ps) :
    Only ps s (dropAll t) := by
  unfold dropAll
  repeat' (first
    | with_reducible assumption
    | with_reducible exact hp.trans (.ofBool rfl)
    | with_reducible exact hp.mem rfl
    | with_reducible intro _
    | with_reducible apply dropGait_only
    | with_reducible apply Only.foldl)

theorem startRise_only {ps : List Part} {s t : State} (h : Only ps s t) (hp : Within [.fields] ps) (f : Nat) :
    Only ps s (startRise t f) := by
  unfold startRise
  repeat' (first
    | with_reducible assumption
    | with_reducible exact hp.trans (.ofBool rfl)
    | with_reducible exact hp.mem rfl
    | with_reducible apply Only.modField
    | with_reducible apply Only.iteTest
    | split
    | dsimp only)

theorem copyGtc_only {ps : List Part} {s t : State} (h : Only ps s t) (hp : Within [.clk, .fields] ps) :
    Only ps s (copyGtc t) := by
  unfold copyGtc
  exact Only.modClk (Only.setFields h (hp.mem rfl)) (hp.mem rfl)

theorem passBeats_only {ps : List Part} {s t : State} (h : Only ps s t) (hp : Within [.fields, .free] ps) (f : Nat) :
    Only ps s (passBeats t f) := by
  unfold passBeats
  repeat' (first
    | with_reducible assumption
    | with_reducible exact hp.trans (.ofBool rfl)
    | with_reducible exact hp.mem rfl
    | with_reducible apply bumpFree_only
    | with_reducible apply Only.modField
    | with_reducible apply Only.iteTest
    | split)

theorem noteRail_only {ps : List Part} {s t : State} (h : Only ps s t) (hp : Within [.fields, .regions, .free] ps) (r : Nat) (mv : Nat) (age : Nat := 0) :
    Only ps s (noteRail t r mv age) := by
  unfold noteRail
  repeat' (first
    | with_reducible assumption
    | with_reducible exact hp.trans (.ofBool rfl)
    | with_reducible exact hp.mem rfl
    | with_reducible apply passBeats_only
    | with_reducible apply Only.modRegion
    | with_reducible apply Only.iteTest
    | split
    | dsimp only)

theorem postFieldEvent_only {ps : List Part} {s t : State} (h : Only ps s t) (hp : Within [.fields, .na, .hst, .host, .free] ps) (f : Nat) (code : Nat) (kind : UnitKind) (unit : Nat) (detail : Nat) :
    Only ps s (postFieldEvent t f code kind unit detail) := by
  unfold postFieldEvent
  repeat' (first
    | with_reducible assumption
    | with_reducible exact hp.trans (.ofBool rfl)
    | with_reducible exact hp.mem rfl
    | with_reducible apply passBeats_only
    | with_reducible apply postEventAt_only
    | dsimp only)

/-! ### Machine/Accept.lean -/

theorem startGroup_only {ps : List Part} {s t : State} (h : Only ps s t) (hp : Within [.master] ps) :
    Only ps s (startGroup t) := by
  unfold startGroup
  repeat' (first
    | with_reducible assumption
    | with_reducible exact hp.trans (.ofBool rfl)
    | with_reducible exact hp.mem rfl
    | with_reducible apply Only.modMaster)

/-! ### Machine/Banks.lean -/

theorem dropBanks_only {ps : List Part} {s t : State} (h : Only ps s t) (hp : Within [.spad, .before, .badSpad] ps) (r : Nat) (keep : BitVec 32) :
    Only ps s (dropBanks t r keep) := by
  unfold dropBanks
  repeat' (first
    | with_reducible assumption
    | with_reducible exact hp.trans (.ofBool rfl)
    | with_reducible exact hp.mem rfl
    | exact Only.to (qs := [.spad, .before, .badSpad]) h (hp.trans (.ofBool rfl)) fun p hn => by cases p <;> first | rfl | exact absurd (by decide) hn)

theorem updBanks_only {ps : List Part} {s t : State} (h : Only ps s t) (hp : Within [.regions, .spad, .before, .badSpad] ps) (r : Nat) :
    Only ps s (updBanks t r) := by
  unfold updBanks
  repeat' (first
    | with_reducible assumption
    | with_reducible exact hp.trans (.ofBool rfl)
    | with_reducible exact hp.mem rfl
    | with_reducible apply dropBanks_only
    | with_reducible apply Only.modRegion
    | dsimp only)

theorem updAllBanks_only {ps : List Part} {s t : State} (h : Only ps s t) (hp : Within [.regions, .spad, .before, .badSpad] ps) :
    Only ps s (updAllBanks t) := by
  unfold updAllBanks
  repeat' (first
    | with_reducible assumption
    | with_reducible exact hp.trans (.ofBool rfl)
    | with_reducible exact hp.mem rfl
    | with_reducible intro _
    | with_reducible apply updBanks_only
    | with_reducible apply Only.foldl)

theorem regionOff_only {ps : List Part} {s t : State} (h : Only ps s t) (hp : Within [.regions, .spad, .before, .badSpad] ps) (r : Nat) :
    Only ps s (regionOff t r) := by
  unfold regionOff
  repeat' (first
    | with_reducible assumption
    | with_reducible exact hp.trans (.ofBool rfl)
    | with_reducible exact hp.mem rfl
    | with_reducible apply dropBanks_only
    | with_reducible apply Only.modRegion)

theorem setSlot_only {ps : List Part} {s t : State} (h : Only ps s t) (hp : Within [.slots] ps) (k : Nat) (x : Slot) :
    Only ps s (setSlot t k x) := by
  unfold setSlot
  repeat' (first
    | with_reducible assumption
    | with_reducible exact hp.trans (.ofBool rfl)
    | with_reducible exact hp.mem rfl
    | exact Only.to (qs := [.slots]) h (hp.trans (.ofBool rfl)) fun p hn => by cases p <;> first | rfl | exact absurd (by decide) hn)

theorem leaveSlot_only {ps : List Part} {s t : State} (h : Only ps s t) (hp : Within [.fields, .regions, .slots, .lnk, .na, .hst, .glb, .master, .host] ps) (r : Nat) :
    Only ps s (leaveSlot t r) := by
  unfold leaveSlot
  repeat' (first
    | with_reducible assumption
    | with_reducible exact hp.trans (.ofBool rfl)
    | with_reducible exact hp.mem rfl
    | with_reducible apply enterStale_only
    | with_reducible apply enterStales_only
    | with_reducible apply setSlot_only
    | split
    | dsimp only)

theorem markBad_only {ps : List Part} {s t : State} (h : Only ps s t) (hp : Within [.badSpad, .badDram] ps) (a : Nat) :
    Only ps s (markBad t a) := by
  unfold markBad
  repeat' (first
    | with_reducible assumption
    | with_reducible exact hp.trans (.ofBool rfl)
    | with_reducible exact hp.mem rfl
    | with_reducible apply Only.iteTest
    | split
    | exact Only.to (qs := [.badSpad, .badDram]) h (hp.trans (.ofBool rfl)) fun p hn => by cases p <;> first | rfl | exact absurd (by decide) hn)

theorem queueRetrain_only {ps : List Part} {s t : State} (h : Only ps s t) (hp : Within [.glb] ps) (m : Nat) :
    Only ps s (queueRetrain t m) := by
  unfold queueRetrain
  repeat' (first
    | with_reducible assumption
    | with_reducible exact hp.trans (.ofBool rfl)
    | with_reducible exact hp.mem rfl
    | with_reducible apply Only.modGlb
    | with_reducible apply Only.iteTest
    | split)

theorem stackUncorr_only {ps : List Part} {s t : State} (h : Only ps s t) (hp : Within [.memStacks, .na, .hst, .stud, .host] ps) (m : Nat) :
    Only ps s (stackUncorr t m) := by
  unfold stackUncorr
  repeat' (first
    | with_reducible assumption
    | with_reducible exact hp.trans (.ofBool rfl)
    | with_reducible exact hp.mem rfl
    | with_reducible apply recordFault_only
    | with_reducible apply Only.modStack
    | with_reducible apply Only.iteTest
    | split
    | dsimp only)

theorem bankFault_only {ps : List Part} {s t : State} (h : Only ps s t) (hp : Within [.regions, .na, .hst, .stud, .host] ps) (r : Nat) (bank : Nat) :
    Only ps s (bankFault t r bank) := by
  unfold bankFault
  repeat' (first
    | with_reducible assumption
    | with_reducible exact hp.trans (.ofBool rfl)
    | with_reducible exact hp.mem rfl
    | with_reducible apply recordFault_only
    | with_reducible apply Only.modRegion
    | with_reducible apply Only.iteTest
    | split
    | dsimp only)

theorem countBad_only {ps : List Part} {s t : State} (h : Only ps s t) (hp : Within [.regions, .memStacks, .na, .hst, .stud, .host] ps) (a : Nat) :
    Only ps s (countBad t a) := by
  unfold countBad
  repeat' (first
    | with_reducible assumption
    | with_reducible exact hp.trans (.ofBool rfl)
    | with_reducible exact hp.mem rfl
    | with_reducible apply bankFault_only
    | with_reducible apply stackUncorr_only
    | with_reducible apply Only.iteTest
    | split)

theorem stackCorr_only {ps : List Part} {s t : State} (h : Only ps s t) (hp : Within [.memStacks, .glb] ps) (m : Nat) (pc : Nat) :
    Only ps s (stackCorr t m pc) := by
  unfold stackCorr
  repeat' (first
    | with_reducible assumption
    | with_reducible exact hp.trans (.ofBool rfl)
    | with_reducible exact hp.mem rfl
    | with_reducible apply queueRetrain_only
    | with_reducible apply Only.modStack
    | with_reducible apply Only.iteTest
    | split
    | dsimp only)

theorem bankCorrected_only {ps : List Part} {s t : State} (h : Only ps s t) (hp : Within [.regions, .na, .hst, .stud, .host] ps) (r : Nat) (bank : Nat) :
    Only ps s (bankCorrected t r bank) := by
  unfold bankCorrected
  repeat' (first
    | with_reducible assumption
    | with_reducible exact hp.trans (.ofBool rfl)
    | with_reducible exact hp.mem rfl
    | with_reducible apply bankFault_only
    | with_reducible apply Only.modRegion
    | with_reducible apply Only.iteTest
    | split
    | dsimp only)

theorem noteCorrected_only {ps : List Part} {s t : State} (h : Only ps s t) (hp : Within [.regions, .memStacks, .na, .hst, .glb, .stud, .host] ps) (a : Nat) :
    Only ps s (noteCorrected t a) := by
  unfold noteCorrected
  repeat' (first
    | with_reducible assumption
    | with_reducible exact hp.trans (.ofBool rfl)
    | with_reducible exact hp.mem rfl
    | with_reducible apply bankCorrected_only
    | with_reducible apply stackCorr_only
    | with_reducible apply Only.iteTest
    | split)

theorem healUnits_only {ps : List Part} {s t : State} (h : Only ps s t) (hp : Within [.badSpad, .badDram] ps) (addrs : List Nat) :
    Only ps s (healUnits t addrs) := by
  unfold healUnits
  repeat' (first
    | with_reducible assumption
    | with_reducible exact hp.trans (.ofBool rfl)
    | with_reducible exact hp.mem rfl
    | split
    | exact Only.to (qs := [.badSpad, .badDram]) h (hp.trans (.ofBool rfl)) fun p hn => by cases p <;> first | rfl | exact absurd (by decide) hn)

theorem postReadErrs_only {ps : List Part} {s t : State} (h : Only ps s t) (hp : Within [.na, .hst, .glb, .host] ps) (addrs : List Nat) (op : Option (Word × Nat × Nat)) (merge : Bool) :
    Only ps s (postReadErrs t addrs op merge).1 := by
  unfold postReadErrs
  repeat' (first
    | with_reducible assumption
    | with_reducible exact hp.trans (.ofBool rfl)
    | with_reducible exact hp.mem rfl
    | with_reducible intro _
    | with_reducible apply postError_only
    | with_reducible apply Only.foldl
    | with_reducible apply Only.iteTest
    | split
    | dsimp only)

theorem keepBefore_only {ps : List Part} {s t : State} (h : Only ps s t) (hp : Within [.before] ps) (addrs : List Nat) :
    Only ps s (keepBefore t addrs) := by
  unfold keepBefore
  repeat' (first
    | with_reducible assumption
    | with_reducible exact hp.trans (.ofBool rfl)
    | with_reducible exact hp.mem rfl
    | with_reducible apply Only.iteTest
    | split
    | dsimp only
    | exact Only.to (qs := [.before]) h (hp.trans (.ofBool rfl)) fun p hn => by cases p <;> first | rfl | exact absurd (by decide) hn)

theorem noteReads_only {ps : List Part} {s t : State} (h : Only ps s t) (hp : Within [.regions, .memStacks, .na, .hst, .glb, .stud, .host] ps) (out : ReadOutcome) :
    Only ps s (noteReads t out) := by
  unfold noteReads
  repeat' (first
    | with_reducible assumption
    | with_reducible exact hp.trans (.ofBool rfl)
    | with_reducible exact hp.mem rfl
    | with_reducible intro _
    | with_reducible apply noteCorrected_only
    | with_reducible apply Only.foldl)

/-! ### Machine/Sched.lean -/

theorem modEntry_only {ps : List Part} {s t : State} (h : Only ps s t) (hp : Within [.hst] ps) (ring : Nat) (count : Word) (f : Entry → Entry) :
    Only ps s (modEntry t ring count f) := by
  unfold modEntry
  repeat' (first
    | with_reducible assumption
    | with_reducible exact hp.trans (.ofBool rfl)
    | with_reducible exact hp.mem rfl
    | with_reducible apply Only.modRing
    | with_reducible apply Only.iteTest
    | split)

theorem endHead_only {ps : List Part} {s t : State} (h : Only ps s t) (hp : Within [.fields, .regions, .lnk, .na, .hst, .master, .spad, .before, .host, .badSpad] ps) (ring : Nat) (members : List Entry) (status : Byte) (detail : Word) (gtc : Word64) :
    Only ps s (endHead t ring members status detail gtc) := by
  unfold endHead
  repeat' (first
    | with_reducible assumption
    | with_reducible exact hp.trans (.ofBool rfl)
    | with_reducible exact hp.mem rfl
    | with_reducible apply postCompletions_only
    | with_reducible apply ringStops_only
    | with_reducible apply updAllBanks_only)

theorem passColls_only {ps : List Part} {s t : State} (h : Only ps s t) (hp : Within [.lnk] ps) (es : List Entry) :
    Only ps s (passColls t es) := by
  unfold passColls
  repeat' (first
    | with_reducible assumption
    | with_reducible exact hp.trans (.ofBool rfl)
    | with_reducible exact hp.mem rfl
    | with_reducible intro _
    | with_reducible apply setColl_only
    | with_reducible apply Only.foldl
    | split)

theorem closeHead_only {ps : List Part} {s t : State} (h : Only ps s t) (hp : Within [.fields, .regions, .lnk, .na, .hst, .master, .spad, .before, .host, .badSpad] ps) (ring : Nat) (members : List Entry) (status : Byte) (detail : Word) :
    Only ps s (closeHead t ring members status detail) := by
  unfold closeHead
  repeat' (first
    | with_reducible assumption
    | with_reducible exact hp.trans (.ofBool rfl)
    | with_reducible exact hp.mem rfl
    | with_reducible apply endHead_only
    | with_reducible apply modEntry_only
    | with_reducible apply Only.iteTest
    | split)

theorem failHead_only {ps : List Part} {s t : State} (h : Only ps s t) (hp : Within [.fields, .regions, .lnk, .na, .hst, .master, .spad, .before, .host, .badSpad] ps) (ring : Nat) (members : List Entry) (status : Byte) (detail : Word) :
    Only ps s (failHead t ring members status detail) := by
  unfold failHead
  repeat' (first
    | with_reducible assumption
    | with_reducible exact hp.trans (.ofBool rfl)
    | with_reducible exact hp.mem rfl
    | with_reducible apply closeHead_only
    | with_reducible apply passColls_only)

theorem settleHead_only {ps : List Part} {s t : State} (h : Only ps s t) (hp : Within [.fields, .regions, .lnk, .na, .hst, .master, .spad, .before, .host, .badSpad] ps) (ring : Nat) :
    Only ps s (settleHead t ring) := by
  unfold settleHead
  repeat' (first
    | with_reducible assumption
    | with_reducible exact hp.trans (.ofBool rfl)
    | with_reducible exact hp.mem rfl
    | with_reducible apply endHead_only
    | split)

theorem clearQueues_only {ps : List Part} {s t : State} (h : Only ps s t) (hp : Within [.regions] ps) :
    Only ps s (clearQueues t) := by
  unfold clearQueues
  repeat' (first
    | with_reducible assumption
    | with_reducible exact hp.trans (.ofBool rfl)
    | with_reducible exact hp.mem rfl
    | exact Only.to (qs := [.regions]) h (hp.trans (.ofBool rfl)) fun p hn => by cases p <;> first | rfl | exact absurd (by decide) hn)

theorem endAside_only {ps : List Part} {s t : State} (h : Only ps s t) (hp : Within [.fields, .regions, .lnk, .na, .hst, .glb, .master, .spad, .before, .host, .badSpad] ps) (o : Op) (status : Byte) (detail : Word) :
    Only ps s (endAside t o status detail) := by
  unfold endAside
  repeat' (first
    | with_reducible assumption
    | with_reducible exact hp.trans (.ofBool rfl)
    | with_reducible exact hp.mem rfl
    | with_reducible apply closeHead_only
    | with_reducible apply enterStales_only
    | with_reducible apply Only.modMaster
    | with_reducible apply Only.iteTest
    | split
    | dsimp only)

theorem endGroup_only {ps : List Part} {s t : State} (h : Only ps s t) (hp : Within [.fields, .regions, .lnk, .na, .hst, .glb, .master, .spad, .before, .host, .badSpad] ps) (idx : Nat) (status : Byte) (detail : Word) :
    Only ps s (endGroup t idx status detail) := by
  unfold endGroup
  repeat' (first
    | with_reducible assumption
    | with_reducible exact hp.trans (.ofBool rfl)
    | with_reducible exact hp.mem rfl
    | with_reducible apply enterStales_only
    | with_reducible apply keepTiles_only
    | with_reducible apply passColls_only
    | with_reducible apply postCompletions_only
    | with_reducible apply ringStops_only
    | with_reducible apply updAllBanks_only
    | with_reducible apply Only.modMaster
    | with_reducible apply Only.iteTest
    | split
    | dsimp only)

theorem abandon_only {ps : List Part} {s t : State} (h : Only ps s t) (hp : Within [.fields, .regions, .lnk, .na, .hst, .glb, .master, .spad, .before, .host, .badSpad] ps) (status : Byte) (detail : Word) :
    Only ps s (abandon t status detail) := by
  unfold abandon
  repeat' (first
    | with_reducible assumption
    | with_reducible exact hp.trans (.ofBool rfl)
    | with_reducible exact hp.mem rfl
    | with_reducible apply endGroup_only)

theorem abandonBad_only {ps : List Part} {s t : State} (h : Only ps s t) (hp : Within [.fields, .regions, .memStacks, .lnk, .na, .hst, .glb, .master, .stud, .spad, .before, .host, .badSpad, .badDram] ps) (addrs : List Nat) (merge : Bool) :
    Only ps s (abandonBad t addrs merge) := by
  unfold abandonBad
  repeat' (first
    | with_reducible assumption
    | with_reducible exact hp.trans (.ofBool rfl)
    | with_reducible exact hp.mem rfl
    | with_reducible intro _
    | with_reducible apply abandon_only
    | with_reducible apply countBad_only
    | with_reducible apply markBad_only
    | with_reducible apply postReadErrs_only
    | with_reducible apply Only.foldl
    | dsimp only)

theorem abandonUnitAt_only {ps : List Part} {s t : State} (h : Only ps s t) (hp : Within [.fields, .regions, .lnk, .na, .hst, .glb, .master, .spad, .before, .host, .badSpad] ps) (idx : Nat) (kind : UnitKind) (unit : Nat) :
    Only ps s (abandonUnitAt t idx kind unit) := by
  unfold abandonUnitAt
  repeat' (first
    | with_reducible assumption
    | with_reducible exact hp.trans (.ofBool rfl)
    | with_reducible exact hp.mem rfl
    | with_reducible apply endGroup_only
    | with_reducible apply postError_only
    | with_reducible apply Only.iteTest
    | split
    | dsimp only)

theorem abandonUnit_only {ps : List Part} {s t : State} (h : Only ps s t) (hp : Within [.fields, .regions, .lnk, .na, .hst, .glb, .master, .spad, .before, .host, .badSpad] ps) (kind : UnitKind) (unit : Nat) :
    Only ps s (abandonUnit t kind unit) := by
  unfold abandonUnit
  repeat' (first
    | with_reducible assumption
    | with_reducible exact hp.trans (.ofBool rfl)
    | with_reducible exact hp.mem rfl
    | with_reducible apply abandonUnitAt_only)

theorem abandonAside_only {ps : List Part} {s t : State} (h : Only ps s t) (hp : Within [.fields, .regions, .lnk, .na, .hst, .glb, .master, .spad, .before, .host, .badSpad] ps) (o : Op) (kind : UnitKind) (unit : Nat) :
    Only ps s (abandonAside t o kind unit) := by
  unfold abandonAside
  repeat' (first
    | with_reducible assumption
    | with_reducible exact hp.trans (.ofBool rfl)
    | with_reducible exact hp.mem rfl
    | with_reducible apply endAside_only
    | with_reducible apply postError_only
    | dsimp only)

theorem setOp_only {ps : List Part} {s t : State} (h : Only ps s t) (hp : Within [.master] ps) (f : Op → Op) :
    Only ps s (setOp t f) := by
  unfold setOp
  repeat' (first
    | with_reducible assumption
    | with_reducible exact hp.trans (.ofBool rfl)
    | with_reducible exact hp.mem rfl
    | with_reducible apply Only.modMaster)

theorem accessMeets_only {ps : List Part} {s t : State} (h : Only ps s t)
    (hp : Within [.fields, .regions, .memStacks, .lnk, .na, .hst, .glb, .master, .stud, .spad, .before, .host, .badSpad, .badDram] ps) (access : AccessEnd)
    (merge : Bool) {out inside : State → State} (ho : ∀ u, Only ps s u → Only ps s (out u))
    (hi : ∀ u, Only ps s u → Only ps s (inside u)) : Only ps s (accessMeets t access merge out inside) := by
  cases access with
  | ok => exact ho t h
  | waits => exact h
  | failed m => exact abandonUnit_only h (hp.trans (.ofBool rfl)) _ _
  | bad addrs => exact abandonBad_only h (hp.trans (.ofBool rfl)) _ _
  | bound => exact abandon_only (hi t h) (hp.trans (.ofBool rfl)) _ _

theorem readNow_only {ps : List Part} {s t : State} (h : Only ps s t)
    (hp : Within [.fields, .regions, .memStacks, .lnk, .na, .hst, .glb, .master, .stud, .spad, .before, .host, .badSpad, .badDram] ps) (spans : List Interval)
    (reads : ReadOutcome) {after : State → State} (ha : ∀ u, Only ps s u → Only ps s (after u)) :
    Only ps s (readNow t spans reads after) :=
  accessMeets_only h (hp.trans (.ofBool rfl)) _ _ (fun _ k => ha _ (noteReads_only k (hp.trans (.ofBool rfl)) reads)) fun _ k => k

theorem putCells_only {ps : List Part} {s t : State} (h : Only ps s t) (hp : Within [.regions, .memStacks, .na, .hst, .glb, .stud, .dram, .spad, .before, .host, .badSpad, .badDram] ps) (cells : List Host.Cell) (merge : ReadOutcome) :
    Only ps s (putCells t cells merge) := by
  unfold putCells
  repeat' (first
    | with_reducible assumption
    | with_reducible exact hp.trans (.ofBool rfl)
    | with_reducible exact hp.mem rfl
    | with_reducible apply healUnits_only
    | with_reducible apply keepBefore_only
    | with_reducible apply noteReads_only
    | with_reducible apply writeCells_only
    | dsimp only)

theorem writeNow_only {ps : List Part} {s t : State} (h : Only ps s t)
    (hp : Within [.fields, .regions, .memStacks, .lnk, .na, .hst, .glb, .master, .stud, .dram, .spad, .before, .host, .badSpad, .badDram] ps)
    (cells : List Host.Cell) (merge : ReadOutcome) {after : State → State} (ha : ∀ u, Only ps s u → Only ps s (after u)) :
    Only ps s (writeNow t cells merge after) :=
  accessMeets_only h (hp.trans (.ofBool rfl)) _ _ (fun _ k => ha _ (putCells_only k (hp.trans (.ofBool rfl)) _ _))
    fun _ k => putCells_only k (hp.trans (.ofBool rfl)) _ _

theorem headUpdate_only {ps : List Part} {s t : State} (h : Only ps s t) (hp : Within [.fields, .regions, .lnk, .na, .hst, .master, .spad, .before, .host, .badSpad] ps) (ring : Nat) :
    Only ps s (headUpdate t ring) := by
  unfold headUpdate
  repeat' (first
    | with_reducible assumption
    | with_reducible exact hp.trans (.ofBool rfl)
    | with_reducible exact hp.mem rfl
    | with_reducible apply failHead_only
    | with_reducible apply modEntry_only
    | with_reducible apply Only.iteTest
    | split
    | dsimp only)

theorem updateHeads_only {ps : List Part} {s t : State} (h : Only ps s t) (hp : Within [.fields, .regions, .lnk, .na, .hst, .master, .spad, .before, .host, .badSpad] ps) :
    Only ps s (updateHeads t) := by
  unfold updateHeads
  repeat' (first
    | with_reducible assumption
    | with_reducible exact hp.trans (.ofBool rfl)
    | with_reducible exact hp.mem rfl
    | with_reducible intro _
    | with_reducible apply headUpdate_only
    | with_reducible apply Only.foldl)

theorem selectNext_only {ps : List Part} {s t : State} (h : Only ps s t) (hp : Within [.master] ps) :
    Only ps s (selectNext t) := by
  unfold selectNext
  repeat' (first
    | with_reducible assumption
    | with_reducible exact hp.trans (.ofBool rfl)
    | with_reducible exact hp.mem rfl
    | with_reducible apply Only.modMaster
    | split)

theorem jobBegins_only {ps : List Part} {s t : State} (h : Only ps s t) (hp : Within [.hst, .glb, .master] ps) :
    Only ps s (jobBegins t) := by
  unfold jobBegins
  repeat' (first
    | with_reducible assumption
    | with_reducible exact hp.trans (.ofBool rfl)
    | with_reducible exact hp.mem rfl
    | with_reducible apply Only.modMaster
    | with_reducible apply Only.modGlb
    | with_reducible apply Only.modHst
    | with_reducible apply Only.iteTest
    | split
    | dsimp only)

theorem acceptance_only {ps : List Part} {s t : State} (h : Only ps s t) (hp : Within [.hst, .glb, .master] ps) :
    Only ps s (acceptance t) := by
  unfold acceptance
  repeat' (first
    | with_reducible assumption
    | with_reducible exact hp.trans (.ofBool rfl)
    | with_reducible exact hp.mem rfl
    | with_reducible apply jobBegins_only
    | with_reducible apply Only.modMaster)

theorem openMember_only {ps : List Part} {s t : State} (h : Only ps s t) (hp : Within [.master] ps) (idx : Nat) :
    Only ps s (openMember t idx) := by
  unfold openMember
  repeat' (first
    | with_reducible assumption
    | with_reducible exact hp.trans (.ofBool rfl)
    | with_reducible exact hp.mem rfl
    | with_reducible apply startGroup_only
    | with_reducible apply Only.iteTest
    | split)

theorem takeMember_only {ps : List Part} {s t : State} (h : Only ps s t) (hp : Within [.fields, .regions, .lnk, .na, .hst, .glb, .master, .spad, .before, .host, .badSpad] ps) (sel : Selection) (e : Entry) (o : Op) :
    Only ps s (takeMember t sel e o) := by
  unfold takeMember
  repeat' (first
    | with_reducible assumption
    | with_reducible exact hp.trans (.ofBool rfl)
    | with_reducible exact hp.mem rfl
    | with_reducible apply acceptance_only
    | with_reducible apply dropPre_only
    | with_reducible apply headUpdate_only
    | with_reducible apply modEntry_only
    | with_reducible apply updAllBanks_only
    | with_reducible apply Only.modMaster
    | split
    | dsimp only)

theorem runRecord_only {ps : List Part} {s t : State} (h : Only ps s t) (hp : Within [.fields, .regions, .memStacks, .lnk, .na, .hst, .glb, .master, .stud, .dram, .spad, .before, .host, .badSpad, .badDram] ps) :
    Only ps s (runRecord t) := by
  unfold runRecord
  repeat' (first
    | with_reducible assumption
    | with_reducible exact hp.trans (.ofBool rfl)
    | with_reducible exact hp.mem rfl
    | with_reducible intro _
    | with_reducible apply setOp_only
    | with_reducible apply writeNow_only
    | with_reducible apply Only.iteTest
    | split)

theorem closeMember_only {ps : List Part} {s t : State} (h : Only ps s t) (hp : Within [.fields, .regions, .memStacks, .lnk, .na, .hst, .glb, .master, .stud, .dram, .spad, .before, .host, .badSpad, .badDram] ps) :
    Only ps s (closeMember t) := by
  unfold closeMember
  repeat' (first
    | with_reducible assumption
    | with_reducible exact hp.trans (.ofBool rfl)
    | with_reducible exact hp.mem rfl
    | with_reducible apply keepTiles_only
    | with_reducible apply runRecord_only
    | with_reducible apply updAllBanks_only
    | with_reducible apply Only.modMaster
    | with_reducible apply Only.iteTest
    | split
    | dsimp only)

theorem advCommit_only {ps : List Part} {s t : State} (h : Only ps s t) (hp : Within [.dram] ps) (st : AdvStat) :
    Only ps s (advCommit t st) := by
  unfold advCommit
  repeat' (first
    | with_reducible assumption
    | with_reducible exact hp.trans (.ofBool rfl)
    | with_reducible exact hp.mem rfl
    | exact Only.to (qs := [.dram]) h (hp.trans (.ofBool rfl)) fun p hn => by cases p <;> first | rfl | exact absurd (by decide) hn)

theorem putFlits_only {ps : List Part} {s t : State} (h : Only ps s t) (hp : Within [.lnk, .side] ps) (fs : List (Nat × Flit)) :
    Only ps s (putFlits t fs) := by
  unfold putFlits
  repeat' (first
    | with_reducible assumption
    | with_reducible exact hp.trans (.ofBool rfl)
    | with_reducible exact hp.mem rfl
    | with_reducible apply Only.modSide
    | with_reducible apply Only.modLnk)

theorem sendFlits_only {ps : List Part} {s t : State} (h : Only ps s t) (hp : Within [.lnk, .side] ps) (fs : List Flit) :
    Only ps s (sendFlits t fs) := by
  unfold sendFlits
  repeat' (first
    | with_reducible assumption
    | with_reducible exact hp.trans (.ofBool rfl)
    | with_reducible exact hp.mem rfl
    | with_reducible apply putFlits_only)

theorem sendAdd_only {ps : List Part} {s t : State} (h : Only ps s t) (hp : Within [.lnk, .side] ps) (o : Op) :
    Only ps s (sendAdd t o) := by
  unfold sendAdd
  repeat' (first
    | with_reducible assumption
    | with_reducible exact hp.trans (.ofBool rfl)
    | with_reducible exact hp.mem rfl
    | with_reducible apply sendFlits_only
    | with_reducible apply Only.iteTest
    | split)

theorem commitNow_only {ps : List Part} {s t : State} (h : Only ps s t) (hp : Within [.fields, .regions, .lnk, .na, .hst, .side, .master, .sync, .dram, .spad, .before, .host, .badSpad] ps) :
    Only ps s (commitNow t) := by
  unfold commitNow
  repeat' (first
    | with_reducible assumption
    | with_reducible exact hp.trans (.ofBool rfl)
    | with_reducible exact hp.mem rfl
    | with_reducible intro _
    | with_reducible apply advCommit_only
    | with_reducible apply applySignals_only
    | with_reducible apply clearStale_only
    | with_reducible apply keepTiles_only
    | with_reducible apply postCompletions_only
    | with_reducible apply sendAdd_only
    | with_reducible apply settleHead_only
    | with_reducible apply updAllBanks_only
    | with_reducible apply Only.modMaster
    | with_reducible apply Only.foldl
    | split
    | dsimp only)

/-! ### Machine/Tiles.lean -/

theorem drawTile_only {ps : List Part} {s t : State} (h : Only ps s t) (hp : Within [.glb, .master] ps) (o : Op) (t' : Tile) (pre : Bool) :
    Only ps s (drawTile t o t' pre) := by
  unfold drawTile
  repeat' (first
    | with_reducible assumption
    | with_reducible exact hp.trans (.ofBool rfl)
    | with_reducible exact hp.mem rfl
    | with_reducible apply Only.modMaster
    | with_reducible apply Only.modGlb
    | with_reducible apply Only.iteTest
    | split
    | dsimp only)

theorem dealShares_only {ps : List Part} {s t : State} (h : Only ps s t) (hp : Within [.glb, .master] ps) (o : Op) (shares : List Share) (pre : Bool) :
    Only ps s (dealShares t o shares pre) := by
  unfold dealShares
  repeat' (first
    | with_reducible assumption
    | with_reducible exact hp.trans (.ofBool rfl)
    | with_reducible exact hp.mem rfl
    | with_reducible intro _
    | with_reducible apply drawTile_only
    | with_reducible apply Only.modMaster
    | with_reducible apply Only.foldl
    | dsimp only)

theorem leaveQueue_only {ps : List Part} {s t : State} (h : Only ps s t) (hp : Within [.fields, .regions, .master] ps) (t' : Tile) :
    Only ps s (leaveQueue t t') := by
  unfold leaveQueue
  repeat' (first
    | with_reducible assumption
    | with_reducible exact hp.trans (.ofBool rfl)
    | with_reducible exact hp.mem rfl
    | with_reducible apply refillRegion_only
    | with_reducible apply Only.modRegion)

theorem yieldShadow_only {ps : List Part} {s t : State} (h : Only ps s t) (hp : Within [.master] ps) (t' : Tile) :
    Only ps s (yieldShadow t t') := by
  unfold yieldShadow
  repeat' (first
    | with_reducible assumption
    | with_reducible exact hp.trans (.ofBool rfl)
    | with_reducible exact hp.mem rfl
    | with_reducible apply Only.modMaster
    | with_reducible apply Only.iteTest
    | split)

theorem loadShadow_only {ps : List Part} {s t : State} (h : Only ps s t) (hp : Within [.regions, .master] ps) (o : Op) (t' : Tile) :
    Only ps s (loadShadow t o t') := by
  unfold loadShadow
  repeat' (first
    | with_reducible assumption
    | with_reducible exact hp.trans (.ofBool rfl)
    | with_reducible exact hp.mem rfl
    | with_reducible apply modTile_only
    | with_reducible apply yieldShadow_only
    | with_reducible apply Only.modRegion)

theorem advanceArray_only {ps : List Part} {s t : State} (h : Only ps s t) (hp : Within [.regions, .master] ps) (r : Nat) :
    Only ps s (advanceArray t r) := by
  unfold advanceArray
  repeat' (first
    | with_reducible assumption
    | with_reducible exact hp.trans (.ofBool rfl)
    | with_reducible exact hp.mem rfl
    | with_reducible intro _
    | with_reducible apply modTile_only
    | with_reducible apply releaseStat_only
    | with_reducible apply releaseStrm_only
    | with_reducible apply Only.modRegion
    | with_reducible apply Only.foldl
    | dsimp only)

theorem enterArray_only {ps : List Part} {s t : State} (h : Only ps s t) (hp : Within [.regions, .master] ps) (o : Op) (t' : Tile) :
    Only ps s (enterArray t o t') := by
  unfold enterArray
  repeat' (first
    | with_reducible assumption
    | with_reducible exact hp.trans (.ofBool rfl)
    | with_reducible exact hp.mem rfl
    | with_reducible apply advanceArray_only
    | with_reducible apply loadShadow_only
    | with_reducible apply Only.iteTest
    | split
    | dsimp only)

/-! ### Machine/Replace.lean -/

theorem publishWeave_only {ps : List Part} {s t : State} (h : Only ps s t) (hp : Within [.regions, .glb] ps) :
    Only ps s (publishWeave t) := by
  unfold publishWeave
  repeat' (first
    | with_reducible assumption
    | with_reducible exact hp.trans (.ofBool rfl)
    | with_reducible exact hp.mem rfl
    | with_reducible apply Only.modGlb
    | dsimp only
    | exact Only.to (qs := [.regions]) h (hp.trans (.ofBool rfl)) fun p hn => by cases p <;> first | rfl | exact absurd (by decide) hn)

theorem publishEvent_only {ps : List Part} {s t : State} (h : Only ps s t) (hp : Within [.regions, .na, .hst, .glb, .host] ps) :
    Only ps s (publishEvent t) := by
  unfold publishEvent
  repeat' (first
    | with_reducible assumption
    | with_reducible exact hp.trans (.ofBool rfl)
    | with_reducible exact hp.mem rfl
    | with_reducible apply postEvent_only
    | with_reducible apply publishWeave_only
    | dsimp only)

theorem startRebuild_only {ps : List Part} {s t : State} (h : Only ps s t) (hp : Within [.master] ps) (failed : List Nat) (runs : List Nat) (copies : List TileRole) :
    Only ps s (startRebuild t failed runs copies) := by
  unfold startRebuild
  repeat' (first
    | with_reducible assumption
    | with_reducible exact hp.trans (.ofBool rfl)
    | with_reducible exact hp.mem rfl
    | with_reducible apply Only.modMaster
    | split)

theorem leaveWeave_only {ps : List Part} {s t : State} (h : Only ps s t) (hp : Within [.fields, .regions, .slots, .lnk, .na, .hst, .glb, .master, .spad, .before, .host, .badSpad] ps) (r : Nat) :
    Only ps s (leaveWeave t r) := by
  unfold leaveWeave
  repeat' (first
    | with_reducible assumption
    | with_reducible exact hp.trans (.ofBool rfl)
    | with_reducible exact hp.mem rfl
    | with_reducible apply leaveSlot_only
    | with_reducible apply regionOff_only
    | with_reducible apply Only.modRegion)

theorem stopTiles_only {ps : List Part} {s t : State} (h : Only ps s t) (hp : Within [.fields, .regions, .master] ps) (r : Nat) :
    Only ps s (stopTiles t r) := by
  unfold stopTiles
  repeat' (first
    | with_reducible assumption
    | with_reducible exact hp.trans (.ofBool rfl)
    | with_reducible exact hp.mem rfl
    | with_reducible apply keepTiles_only
    | with_reducible apply Only.modMaster)

theorem failRegion_only {ps : List Part} {s t : State} (h : Only ps s t) (hp : Within [.fields, .regions, .slots, .lnk, .na, .hst, .glb, .master, .spad, .before, .host, .badSpad] ps) (r : Nat) :
    Only ps s (failRegion t r) := by
  unfold failRegion
  repeat' (first
    | with_reducible assumption
    | with_reducible exact hp.trans (.ofBool rfl)
    | with_reducible exact hp.mem rfl
    | with_reducible intro _
    | with_reducible apply abandon_only
    | with_reducible apply endAside_only
    | with_reducible apply leaveWeave_only
    | with_reducible apply startRebuild_only
    | with_reducible apply stopTiles_only
    | with_reducible apply Only.modRegion
    | with_reducible apply Only.foldl
    | with_reducible apply Only.iteTest
    | split
    | dsimp only)

theorem replayDeal_only {ps : List Part} {s t : State} (h : Only ps s t) (hp : Within [.fields, .regions, .lnk, .na, .hst, .glb, .master, .spad, .before, .host, .badSpad] ps) (o : Op) (xs : List Share) :
    Only ps s (replayDeal t o xs) := by
  unfold replayDeal
  repeat' (first
    | with_reducible assumption
    | with_reducible exact hp.trans (.ofBool rfl)
    | with_reducible exact hp.mem rfl
    | with_reducible intro _
    | with_reducible apply abandon_only
    | with_reducible apply dealShares_only
    | with_reducible apply keepTiles_only
    | with_reducible apply refillAll_only
    | with_reducible apply setOp_only
    | with_reducible apply updAllBanks_only
    | with_reducible apply Only.foldl
    | with_reducible apply Only.iteTest
    | split
    | dsimp only)

theorem placeAnew_only {ps : List Part} {s t : State} (h : Only ps s t) (hp : Within [.fields, .regions, .lnk, .na, .hst, .glb, .master, .spad, .before, .host, .badSpad] ps) (o : Op) :
    Only ps s (placeAnew t o) := by
  unfold placeAnew
  repeat' (first
    | with_reducible assumption
    | with_reducible exact hp.trans (.ofBool rfl)
    | with_reducible exact hp.mem rfl
    | with_reducible apply abandon_only
    | with_reducible apply setOp_only
    | with_reducible apply Only.iteTest
    | split
    | dsimp only)

theorem replace_only {ps : List Part} {s t : State} (h : Only ps s t) (hp : Within [.fields, .regions, .lnk, .na, .hst, .glb, .master, .spad, .before, .host, .badSpad] ps) (rec : Recovery) :
    Only ps s (replace t rec) := by
  unfold replace
  repeat' (first
    | with_reducible assumption
    | with_reducible exact hp.trans (.ofBool rfl)
    | with_reducible exact hp.mem rfl
    | with_reducible apply placeAnew_only
    | with_reducible apply replayDeal_only
    | with_reducible apply Only.iteTest
    | split
    | dsimp only)

theorem dupRecord_only {ps : List Part} {s t : State} (h : Only ps s t) (hp : Within [.na, .hst, .glb, .host] ps) (orig : Nat) (dup : Nat) (vote : Option Nat) (verdict : Nat) (repeatMode : Bool) (cls : Nat) (fails : Bool) :
    Only ps s (dupRecord t orig dup vote verdict repeatMode cls fails) := by
  unfold dupRecord
  repeat' (first
    | with_reducible assumption
    | with_reducible exact hp.trans (.ofBool rfl)
    | with_reducible exact hp.mem rfl
    | with_reducible apply postError_only
    | with_reducible apply Only.iteTest
    | split)

theorem dropCopies_only {ps : List Part} {s t : State} (h : Only ps s t) (hp : Within [.fields, .regions, .master] ps) (id : Nat) :
    Only ps s (dropCopies t id) := by
  unfold dropCopies
  repeat' (first
    | with_reducible assumption
    | with_reducible exact hp.trans (.ofBool rfl)
    | with_reducible exact hp.mem rfl
    | with_reducible apply keepTiles_only
    | split)

theorem verifyTile_only {ps : List Part} {s t : State} (h : Only ps s t) (hp : Within [.master] ps) (id : Nat) :
    Only ps s (verifyTile t id) := by
  unfold verifyTile
  repeat' (first
    | with_reducible assumption
    | with_reducible exact hp.trans (.ofBool rfl)
    | with_reducible exact hp.mem rfl
    | with_reducible apply modTile_only)

theorem noVerdict_only {ps : List Part} {s t : State} (h : Only ps s t) (hp : Within [.fields, .regions, .lnk, .na, .hst, .glb, .master, .spad, .before, .host, .badSpad] ps) (t' : Tile) (d : Tile) :
    Only ps s (noVerdict t t' d) := by
  unfold noVerdict
  repeat' (first
    | with_reducible assumption
    | with_reducible exact hp.trans (.ofBool rfl)
    | with_reducible exact hp.mem rfl
    | with_reducible apply abandon_only
    | with_reducible apply dupRecord_only
    | dsimp only)

theorem dealCopy_only {ps : List Part} {s t u : State} {o : Op} {x : Tile} {fields : List Nat} {role : TileRole} (h : Only ps s t)
    (hp : Within [.fields, .regions, .master, .spad, .before, .badSpad] ps) (hu : dealCopy t o x fields role = some u) : Only ps s u := by
  unfold dealCopy at hu
  obtain ⟨r, -, rfl⟩ := Option.map_eq_some_iff.1 hu
  exact refillRegion_only (updBanks_only (h.modMaster (hp.mem rfl)) (hp.trans (.ofBool rfl)) _) (hp.trans (.ofBool rfl)) _

theorem dealCopy_getD_only {ps : List Part} {s t : State} (o : Op) (x : Tile) (fields : List Nat) (role : TileRole) {v : State}
    (h : Only ps s t) (hp : Within [.fields, .regions, .master, .spad, .before, .badSpad] ps) (hv : Only ps s v) :
    Only ps s ((dealCopy t o x fields role).getD v) := by
  cases hu : dealCopy t o x fields role with
  | none => exact hv
  | some u => exact dealCopy_only h hp hu

theorem dealAgain_only {ps : List Part} {s t : State} (h : Only ps s t) (hp : Within [.fields, .regions, .lnk, .na, .hst, .glb, .master, .spad, .before, .host, .badSpad] ps) (role : TileRole) :
    Only ps s (dealAgain t role) := by
  unfold dealAgain
  repeat' (first
    | with_reducible assumption
    | with_reducible exact hp.trans (.ofBool rfl)
    | with_reducible exact hp.mem rfl
    | with_reducible apply dealCopy_getD_only
    | with_reducible apply noVerdict_only
    | with_reducible apply verifyTile_only
    | with_reducible apply Only.modGlb
    | with_reducible apply Only.iteTest
    | split)

theorem rebuildDone_only {ps : List Part} {s t : State} (h : Only ps s t) (hp : Within [.fields, .regions, .lnk, .na, .hst, .glb, .master, .spad, .before, .host, .badSpad] ps) :
    Only ps s (rebuildDone t) := by
  unfold rebuildDone
  repeat' (first
    | with_reducible assumption
    | with_reducible exact hp.trans (.ofBool rfl)
    | with_reducible exact hp.mem rfl
    | with_reducible intro _
    | with_reducible apply dealAgain_only
    | with_reducible apply publishEvent_only
    | with_reducible apply replace_only
    | with_reducible apply updAllBanks_only
    | with_reducible apply Only.modMaster
    | with_reducible apply Only.foldl
    | split
    | dsimp only)

/-! ### Machine/CollOps.lean -/

theorem flitGate_only {ps : List Part} {s t : State} (h : Only ps s t) (hp : Within [.lnk] ps) (f : Flit) :
    Only ps s (flitGate t f).1 := by
  unfold flitGate
  repeat' (first
    | with_reducible assumption
    | with_reducible exact hp.trans (.ofBool rfl)
    | with_reducible exact hp.mem rfl
    | with_reducible apply Only.modLnk
    | with_reducible apply Only.iteTest
    | split)

theorem setOpOf_only {ps : List Part} {s t : State} (h : Only ps s t) (hp : Within [.master] ps) (o : Op) :
    Only ps s (setOpOf t o) := by
  unfold setOpOf
  repeat' (first
    | with_reducible assumption
    | with_reducible exact hp.trans (.ofBool rfl)
    | with_reducible exact hp.mem rfl
    | with_reducible apply Only.modMaster
    | with_reducible apply Only.iteTest
    | split)

theorem endColl_only {ps : List Part} {s t : State} (h : Only ps s t) (hp : Within [.fields, .regions, .lnk, .na, .hst, .glb, .master, .spad, .before, .host, .badSpad] ps) (o : Op) (status : Byte) (detail : Word) :
    Only ps s (endColl t o status detail) := by
  unfold endColl
  repeat' (first
    | with_reducible assumption
    | with_reducible exact hp.trans (.ofBool rfl)
    | with_reducible exact hp.mem rfl
    | with_reducible apply abandon_only
    | with_reducible apply endAside_only
    | with_reducible apply Only.iteTest
    | split)

theorem sendAbort_only {ps : List Part} {s t : State} (h : Only ps s t) (hp : Within [.lnk, .side] ps) (c : Coll) (peer : Nat) (status : Byte) :
    Only ps s (sendAbort t c peer status) := by
  unfold sendAbort
  repeat' (first
    | with_reducible assumption
    | with_reducible exact hp.trans (.ofBool rfl)
    | with_reducible exact hp.mem rfl
    | with_reducible apply sendFlits_only)

theorem dropMail_only {ps : List Part} {s t : State} (h : Only ps s t) (hp : Within [.lnk] ps) (f : Flit) :
    Only ps s (dropMail t f) := by
  unfold dropMail
  repeat' (first
    | with_reducible assumption
    | with_reducible exact hp.trans (.ofBool rfl)
    | with_reducible exact hp.mem rfl
    | with_reducible apply Only.modLnk)

theorem collWrite_only {ps : List Part} {s t : State} (h : Only ps s t)
    (hp : Within [.fields, .regions, .memStacks, .lnk, .na, .hst, .glb, .master, .stud, .dram, .spad, .before, .host, .badSpad, .badDram] ps)
    (ws : List BitWrite) (merge : ReadOutcome) {after : State → State} (ha : ∀ u, Only ps s u → Only ps s (after u)) :
    Only ps s (collWrite t ws merge after) := writeNow_only h (hp.trans (.ofBool rfl)) _ _ ha

theorem tryReduce_only {ps : List Part} {s t : State} (h : Only ps s t) (hp : Within [.fields, .regions, .memStacks, .lnk, .na, .hst, .glb, .master, .stud, .dram, .spad, .before, .host, .badSpad, .badDram] ps) (merge : ReadOutcome) :
    Only ps s (tryReduce t merge) := by
  unfold tryReduce
  repeat' (first
    | with_reducible assumption
    | with_reducible exact hp.trans (.ofBool rfl)
    | with_reducible exact hp.mem rfl
    | with_reducible intro _
    | with_reducible apply collWrite_only
    | with_reducible apply setOpOf_only
    | with_reducible apply Only.iteTest
    | split
    | dsimp only)

theorem checkDone_only {ps : List Part} {s t : State} (h : Only ps s t) (hp : Within [.master] ps) :
    Only ps s (checkDone t) := by
  unfold checkDone
  repeat' (first
    | with_reducible assumption
    | with_reducible exact hp.trans (.ofBool rfl)
    | with_reducible exact hp.mem rfl
    | with_reducible apply setOpOf_only
    | with_reducible apply Only.iteTest
    | split)

theorem nowBegun_only {ps : List Part} {s t : State} (h : Only ps s t) (hp : Within [.hst, .master] ps) (o : Op) (c : Coll) :
    Only ps s (nowBegun t o c) := by
  unfold nowBegun
  repeat' (first
    | with_reducible assumption
    | with_reducible exact hp.trans (.ofBool rfl)
    | with_reducible exact hp.mem rfl
    | with_reducible apply modEntry_only
    | with_reducible apply setOpOf_only)

theorem moveOwn_only {ps : List Part} {s t : State} (h : Only ps s t) (hp : Within [.fields, .regions, .memStacks, .lnk, .na, .hst, .glb, .master, .stud, .dram, .spad, .before, .host, .badSpad, .badDram] ps) (o : Op) (c : Coll) (rd : Nat → Byte) (z0 : Nat) (p0 : Nat) (n : Nat) (merge : ReadOutcome) :
    Only ps s (moveOwn t o c rd z0 p0 n merge) := by
  unfold moveOwn
  repeat' (first
    | with_reducible assumption
    | with_reducible exact hp.trans (.ofBool rfl)
    | with_reducible exact hp.mem rfl
    | with_reducible intro _
    | with_reducible apply collWrite_only
    | with_reducible apply nowBegun_only)

theorem collBegin_only {ps : List Part} {s t : State} (h : Only ps s t) (hp : Within [.fields, .regions, .memStacks, .lnk, .na, .hst, .glb, .side, .master, .stud, .dram, .spad, .before, .host, .badSpad, .badDram] ps) (o : Op) (c : Coll) (own : ReadOutcome) (merge : ReadOutcome) :
    Only ps s (collBegin t o c own merge) := by
  unfold collBegin
  repeat' (first
    | with_reducible assumption
    | with_reducible exact hp.trans (.ofBool rfl)
    | with_reducible exact hp.mem rfl
    | with_reducible intro _
    | with_reducible apply moveOwn_only
    | with_reducible apply nowBegun_only
    | with_reducible apply readNow_only
    | with_reducible apply sendFlits_only
    | split
    | dsimp only)

theorem adjustColl_only {ps : List Part} {s t : State} (h : Only ps s t) (hp : Within [.lnk, .side, .master] ps) (o : Op) (c : Coll) :
    Only ps s (adjustColl t o c) := by
  unfold adjustColl
  repeat' (first
    | with_reducible assumption
    | with_reducible exact hp.trans (.ofBool rfl)
    | with_reducible exact hp.mem rfl
    | with_reducible apply sendFlits_only
    | with_reducible apply setOpOf_only
    | dsimp only)

theorem sendSlot_only {ps : List Part} {s t : State} (h : Only ps s t) (hp : Within [.fields, .regions, .memStacks, .lnk, .na, .hst, .glb, .side, .master, .stud, .spad, .before, .host, .badSpad, .badDram] ps) (o : Op) (c : Coll) (reads : ReadOutcome) :
    Only ps s (sendSlot t o c reads) := by
  unfold sendSlot
  repeat' (first
    | with_reducible assumption
    | with_reducible exact hp.trans (.ofBool rfl)
    | with_reducible exact hp.mem rfl
    | with_reducible intro _
    | with_reducible apply readNow_only
    | with_reducible apply sendFlits_only
    | with_reducible apply setOpOf_only
    | dsimp only)

theorem tailSent_only {ps : List Part} {s t : State} (h : Only ps s t) (hp : Within [.regions, .memStacks, .lnk, .na, .hst, .glb, .side, .master, .stud, .host] ps) (x : Tail) (c : Coll) (own : ReadOutcome) (ts : List Tail) :
    Only ps s (tailSent t x c own ts) := by
  unfold tailSent
  repeat' (first
    | with_reducible assumption
    | with_reducible exact hp.trans (.ofBool rfl)
    | with_reducible exact hp.mem rfl
    | with_reducible apply noteReads_only
    | with_reducible apply sendFlits_only
    | with_reducible apply Only.modMaster
    | with_reducible apply Only.iteTest
    | split
    | dsimp only)

theorem sendTail_only {ps : List Part} {s t : State} (h : Only ps s t) (hp : Within [.regions, .memStacks, .lnk, .na, .hst, .glb, .side, .master, .stud, .host, .badSpad, .badDram] ps) (x : Tail) (c : Coll) (reads : ReadOutcome) (ts : List Tail) :
    Only ps s (sendTail t x c reads ts) := by
  unfold sendTail
  repeat' (first
    | with_reducible assumption
    | with_reducible exact hp.trans (.ofBool rfl)
    | with_reducible exact hp.mem rfl
    | with_reducible intro _
    | with_reducible apply countBad_only
    | with_reducible apply markBad_only
    | with_reducible apply postError_only
    | with_reducible apply postReadErrs_only
    | with_reducible apply tailSent_only
    | with_reducible apply Only.modMaster
    | with_reducible apply Only.foldl
    | split
    | dsimp only)

theorem slotArrived_only {ps : List Part} {s t : State} (h : Only ps s t) (hp : Within [.fields, .regions, .memStacks, .lnk, .na, .hst, .glb, .master, .stud, .dram, .spad, .before, .host, .badSpad, .badDram] ps) (o : Op) (c : Coll) (k : Nat) (bs : List Byte) (merge : ReadOutcome) :
    Only ps s (slotArrived t o c k bs merge) := by
  unfold slotArrived
  repeat' (first
    | with_reducible assumption
    | with_reducible exact hp.trans (.ofBool rfl)
    | with_reducible exact hp.mem rfl
    | with_reducible intro _
    | with_reducible apply collWrite_only
    | with_reducible apply setOpOf_only
    | with_reducible apply tryReduce_only
    | with_reducible apply Only.iteTest
    | split
    | dsimp only)

theorem replayGot_only {ps : List Part} {s t : State} (h : Only ps s t) (hp : Within [.fields, .regions, .memStacks, .lnk, .na, .hst, .glb, .master, .stud, .dram, .spad, .before, .host, .badSpad, .badDram] ps) (k : Nat) (merge : ReadOutcome) :
    Only ps s (replayGot t k merge) := by
  unfold replayGot
  repeat' (first
    | with_reducible assumption
    | with_reducible exact hp.trans (.ofBool rfl)
    | with_reducible exact hp.mem rfl
    | with_reducible apply slotArrived_only
    | with_reducible apply Only.iteTest
    | split
    | dsimp only)

theorem acknowledge_only {ps : List Part} {s t : State} (h : Only ps s t) (hp : Within [.side] ps) (o : Op) (c : Coll) :
    Only ps s (acknowledge t o c) := by
  unfold acknowledge
  repeat' (first
    | with_reducible assumption
    | with_reducible exact hp.trans (.ofBool rfl)
    | with_reducible exact hp.mem rfl
    | with_reducible apply Only.modSide)

theorem recvWhole_only {ps : List Part} {s t : State} (h : Only ps s t) (hp : Within [.fields, .regions, .memStacks, .lnk, .na, .hst, .glb, .side, .master, .stud, .dram, .spad, .before, .host, .badSpad, .badDram] ps) (merge : ReadOutcome) :
    Only ps s (recvWhole t merge) := by
  unfold recvWhole
  repeat' (first
    | with_reducible assumption
    | with_reducible exact hp.trans (.ofBool rfl)
    | with_reducible exact hp.mem rfl
    | with_reducible intro _
    | with_reducible apply acknowledge_only
    | with_reducible apply collWrite_only
    | with_reducible apply setOpOf_only
    | with_reducible apply Only.iteTest
    | split
    | dsimp only)

theorem collKick_only {ps : List Part} {s t : State} (h : Only ps s t) (hp : Within [.fields, .regions, .memStacks, .lnk, .na, .hst, .glb, .side, .master, .stud, .dram, .spad, .before, .host, .badSpad, .badDram] ps) (reads : ReadOutcome) :
    Only ps s (collKick t reads) := by
  unfold collKick
  repeat' (first
    | with_reducible assumption
    | with_reducible exact hp.trans (.ofBool rfl)
    | with_reducible exact hp.mem rfl
    | with_reducible intro _
    | with_reducible apply checkDone_only
    | with_reducible apply collBegin_only
    | with_reducible apply recvWhole_only
    | with_reducible apply replayGot_only
    | with_reducible apply tryReduce_only
    | with_reducible apply Only.foldl
    | with_reducible apply Only.iteTest
    | split
    | dsimp only)

theorem dataArrived_only {ps : List Part} {s t : State} (h : Only ps s t) (hp : Within [.fields, .regions, .memStacks, .lnk, .na, .hst, .glb, .master, .stud, .dram, .spad, .before, .host, .badSpad, .badDram] ps) (o : Op) (c : Coll) (f : Flit) (merge : ReadOutcome) :
    Only ps s (dataArrived t o c f merge) := by
  unfold dataArrived
  repeat' (first
    | with_reducible assumption
    | with_reducible exact hp.trans (.ofBool rfl)
    | with_reducible exact hp.mem rfl
    | with_reducible apply checkDone_only
    | with_reducible apply replayGot_only
    | with_reducible apply setOpOf_only
    | with_reducible apply Only.iteTest
    | split
    | dsimp only)

theorem sendDataArrived_only {ps : List Part} {s t : State} (h : Only ps s t) (hp : Within [.fields, .regions, .memStacks, .lnk, .na, .hst, .glb, .side, .master, .stud, .dram, .spad, .before, .host, .badSpad, .badDram] ps) (o : Op) (c : Coll) (f : Flit) (merge : ReadOutcome) :
    Only ps s (sendDataArrived t o c f merge) := by
  unfold sendDataArrived
  repeat' (first
    | with_reducible assumption
    | with_reducible exact hp.trans (.ofBool rfl)
    | with_reducible exact hp.mem rfl
    | with_reducible apply recvWhole_only
    | with_reducible apply setOpOf_only
    | with_reducible apply Only.iteTest
    | split
    | dsimp only)

theorem takeColl_only {ps : List Part} {s t : State} (h : Only ps s t) (hp : Within [.fields, .regions, .memStacks, .lnk, .na, .hst, .glb, .side, .master, .stud, .dram, .spad, .before, .host, .badSpad, .badDram] ps) (reads : ReadOutcome) :
    Only ps s (takeColl t reads) := by
  unfold takeColl
  repeat' (first
    | with_reducible assumption
    | with_reducible exact hp.trans (.ofBool rfl)
    | with_reducible exact hp.mem rfl
    | with_reducible apply collKick_only
    | with_reducible apply Only.modMaster
    | split
    | dsimp only)

theorem matchWidths_only {ps : List Part} {s t : State} (h : Only ps s t) (hp : Within [.lnk, .side, .master] ps) (o : Op) (c : Coll) :
    Only ps s (matchWidths t o c) := by
  unfold matchWidths
  repeat' (first
    | with_reducible assumption
    | with_reducible exact hp.trans (.ofBool rfl)
    | with_reducible exact hp.mem rfl
    | with_reducible apply adjustColl_only
    | with_reducible apply Only.iteTest
    | split)

theorem collAccepted_only {ps : List Part} {s t : State} (h : Only ps s t) (hp : Within [.fields, .regions, .memStacks, .lnk, .na, .hst, .glb, .side, .master, .stud, .dram, .spad, .before, .host, .badSpad, .badDram] ps) (o : Op) (c : Coll) (reads : ReadOutcome) :
    Only ps s (collAccepted t o c reads) := by
  unfold collAccepted
  repeat' (first
    | with_reducible assumption
    | with_reducible exact hp.trans (.ofBool rfl)
    | with_reducible exact hp.mem rfl
    | with_reducible apply acceptance_only
    | with_reducible apply collKick_only
    | with_reducible apply headUpdate_only
    | with_reducible apply matchWidths_only
    | with_reducible apply modEntry_only
    | with_reducible apply sendFlits_only
    | with_reducible apply setOpOf_only
    | with_reducible apply takeColl_only
    | with_reducible apply Only.iteTest
    | split
    | dsimp only)

theorem collAgreed_only {ps : List Part} {s t : State} (h : Only ps s t) (hp : Within [.fields, .regions, .memStacks, .lnk, .na, .hst, .glb, .side, .master, .stud, .dram, .spad, .before, .host, .badSpad, .badDram] ps) (o : Op) (c : Coll) (reads : ReadOutcome) :
    Only ps s (collAgreed t o c reads) := by
  unfold collAgreed
  repeat' (first
    | with_reducible assumption
    | with_reducible exact hp.trans (.ofBool rfl)
    | with_reducible exact hp.mem rfl
    | with_reducible apply collAccepted_only
    | with_reducible apply endColl_only
    | with_reducible apply sendAbort_only
    | with_reducible apply setOpOf_only
    | with_reducible apply Only.iteTest
    | split)

theorem acceptAgreed_only {ps : List Part} {s t : State} (h : Only ps s t) (hp : Within [.fields, .regions, .memStacks, .lnk, .na, .hst, .glb, .side, .master, .stud, .dram, .spad, .before, .host, .badSpad, .badDram] ps) (reads : ReadOutcome) :
    Only ps s (acceptAgreed t reads) := by
  unfold acceptAgreed
  repeat' (first
    | with_reducible assumption
    | with_reducible exact hp.trans (.ofBool rfl)
    | with_reducible exact hp.mem rfl
    | with_reducible apply collAgreed_only
    | split)

theorem collStart_only {ps : List Part} {s t : State} (h : Only ps s t) (hp : Within [.fields, .regions, .memStacks, .lnk, .na, .hst, .glb, .side, .master, .stud, .dram, .spad, .before, .host, .badSpad, .badDram] ps) (o : Op) (c : Coll) (t0 : Nat) (len : Nat) (widths : List Nat) (reads : ReadOutcome) :
    Only ps s (collStart t o c t0 len widths reads) := by
  unfold collStart
  repeat' (first
    | with_reducible assumption
    | with_reducible exact hp.trans (.ofBool rfl)
    | with_reducible exact hp.mem rfl
    | with_reducible intro _
    | with_reducible apply collAgreed_only
    | with_reducible apply Only.foldl
    | dsimp only)

theorem collCheck_only {ps : List Part} {s t : State} (h : Only ps s t) (hp : Within [.fields, .regions, .memStacks, .lnk, .na, .hst, .glb, .side, .master, .stud, .dram, .spad, .before, .host, .badSpad, .badDram] ps) (o : Op) (c : Coll) (reads : ReadOutcome) :
    Only ps s (collCheck t o c reads) := by
  unfold collCheck
  repeat' (first
    | with_reducible assumption
    | with_reducible exact hp.trans (.ofBool rfl)
    | with_reducible exact hp.mem rfl
    | with_reducible apply collStart_only
    | with_reducible apply endColl_only
    | with_reducible apply sendFlits_only
    | with_reducible apply Only.iteTest
    | split
    | dsimp only)

theorem collAborted_only {ps : List Part} {s t : State} (h : Only ps s t) (hp : Within [.fields, .regions, .lnk, .na, .hst, .glb, .side, .master, .spad, .before, .host, .badSpad] ps) (o : Op) (c : Coll) (src : Nat) (status : Byte) :
    Only ps s (collAborted t o c src status) := by
  unfold collAborted
  repeat' (first
    | with_reducible assumption
    | with_reducible exact hp.trans (.ofBool rfl)
    | with_reducible exact hp.mem rfl
    | with_reducible apply endColl_only
    | with_reducible apply sendFlits_only
    | with_reducible apply Only.iteTest
    | split
    | dsimp only)

theorem collReady_only {ps : List Part} {s t : State} (h : Only ps s t) (hp : Within [.fields, .regions, .memStacks, .lnk, .na, .hst, .glb, .side, .master, .stud, .dram, .spad, .before, .host, .badSpad, .badDram] ps) (o : Op) (c : Coll) (src : Nat) (body : List Byte) (reads : ReadOutcome) :
    Only ps s (collReady t o c src body reads) := by
  unfold collReady
  repeat' (first
    | with_reducible assumption
    | with_reducible exact hp.trans (.ofBool rfl)
    | with_reducible exact hp.mem rfl
    | with_reducible apply collAgreed_only
    | with_reducible apply collCheck_only
    | with_reducible apply endColl_only
    | with_reducible apply sendAbort_only
    | with_reducible apply setOpOf_only
    | with_reducible apply Only.iteTest
    | split
    | dsimp only)

theorem collExchange_only {ps : List Part} {s t : State} (h : Only ps s t) (hp : Within [.fields, .regions, .memStacks, .lnk, .na, .hst, .glb, .side, .master, .stud, .dram, .spad, .before, .host, .badSpad, .badDram] ps) (o : Op) (c : Coll) (reads : ReadOutcome) :
    Only ps s (collExchange t o c reads) := by
  unfold collExchange
  repeat' (first
    | with_reducible assumption
    | with_reducible exact hp.trans (.ofBool rfl)
    | with_reducible exact hp.mem rfl
    | with_reducible intro _
    | with_reducible apply collAborted_only
    | with_reducible apply collAgreed_only
    | with_reducible apply collCheck_only
    | with_reducible apply collReady_only
    | with_reducible apply dropMail_only
    | with_reducible apply sendFlits_only
    | with_reducible apply setOpOf_only
    | with_reducible apply Only.foldl
    | with_reducible apply Only.iteTest
    | split
    | dsimp only)

theorem collReached_only {ps : List Part} {s t : State} (h : Only ps s t) (hp : Within [.fields, .regions, .memStacks, .lnk, .na, .hst, .glb, .side, .master, .stud, .dram, .spad, .before, .host, .badSpad, .badDram] ps) (sel : Selection) (e : Entry) (o : Op) (reads : ReadOutcome) :
    Only ps s (collReached t sel e o reads) := by
  unfold collReached
  repeat' (first
    | with_reducible assumption
    | with_reducible exact hp.trans (.ofBool rfl)
    | with_reducible exact hp.mem rfl
    | with_reducible apply collExchange_only
    | with_reducible apply dropPre_only
    | with_reducible apply modEntry_only
    | with_reducible apply passColls_only
    | with_reducible apply updAllBanks_only
    | with_reducible apply Only.modMaster
    | with_reducible apply Only.iteTest
    | split
    | dsimp only)

end Sys2Proof.Machine
end

