-- ==== Sys2Proof/Laws/OnlyWork.lean ====
section
/-!
SUPPORT. One lemma for each operation of the scheduler, power, clocks, thermal and halter commands and the register writes of their blocks: the parts of the
state it touches (Laws/Only.lean).
-/
namespace Sys2Proof.Machine

/-! ### Machine/SchedCmds.lean -/

theorem execSelectOperation_only {ps : List Part} {s t : State} (h : Only ps s t) (hp : Within [.fields, .regions, .memStacks, .lnk, .na, .hst, .glb, .side, .master, .stud, .dram, .spad, .before, .host, .badSpad, .badDram] ps) (reads : ReadOutcome := ReadOutcome.clean) :
    ResOnly ps s (execSelectOperation t reads) := by
  unfold execSelectOperation
  repeat' (first
    | with_reducible assumption
    | with_reducible exact hp.trans (.ofBool rfl)
    | with_reducible exact hp.mem rfl
    | with_reducible apply acceptAgreed_only
    | with_reducible apply selectNext_only
    | with_reducible apply takeColl_only
    | with_reducible apply updateHeads_only
    | with_reducible apply Only.iteTest
    | with_reducible apply ResOnly.next
    | with_reducible apply ResOnly.iteTest
    | split
    | dsimp only)

theorem execDescriptorFetch_only {ps : List Part} {s t : State} (h : Only ps s t) (hp : Within [.fields, .regions, .lnk, .na, .hst, .master, .spad, .before, .host, .badSpad] ps) (ring : Nat) (host : List Host.Cell) :
    ResOnly ps s (execDescriptorFetch ring host t) := by
  unfold execDescriptorFetch
  repeat' (first
    | with_reducible assumption
    | with_reducible exact hp.trans (.ofBool rfl)
    | with_reducible exact hp.mem rfl
    | with_reducible apply headUpdate_only
    | with_reducible apply hostMerge_only
    | with_reducible apply Only.modRing
    | with_reducible apply Only.iteTest
    | with_reducible apply ResOnly.next
    | with_reducible apply ResOnly.iteTest
    | split
    | dsimp only)

theorem execWaitSatisfied_only {ps : List Part} {s t : State} (h : Only ps s t) (hp : Within [.hst] ps) (ring : Nat) :
    ResOnly ps s (execWaitSatisfied ring t) := by
  unfold execWaitSatisfied
  repeat' (first
    | with_reducible assumption
    | with_reducible exact hp.trans (.ofBool rfl)
    | with_reducible exact hp.mem rfl
    | with_reducible apply modEntry_only
    | with_reducible apply Only.iteTest
    | with_reducible apply ResOnly.next
    | with_reducible apply ResOnly.iteTest
    | split)

theorem expireWait_only {ps : List Part} {s t : State} (h : Only ps s t) (hp : Within [.fields, .regions, .lnk, .na, .hst, .glb, .master, .spad, .before, .host, .badSpad] ps) (ring : Nat) :
    Only ps s (expireWait t ring) := by
  unfold expireWait
  repeat' (first
    | with_reducible assumption
    | with_reducible exact hp.trans (.ofBool rfl)
    | with_reducible exact hp.mem rfl
    | with_reducible apply endColl_only
    | with_reducible apply failHead_only
    | with_reducible apply Only.iteTest
    | split)

theorem execWaitTimeoutExpiry_only {ps : List Part} {s t : State} (h : Only ps s t) (hp : Within [.fields, .regions, .lnk, .na, .hst, .glb, .master, .spad, .before, .host, .badSpad] ps) (ring : Nat) :
    ResOnly ps s (execWaitTimeoutExpiry ring t) := by
  unfold execWaitTimeoutExpiry
  repeat' (first
    | with_reducible assumption
    | with_reducible exact hp.trans (.ofBool rfl)
    | with_reducible exact hp.mem rfl
    | with_reducible apply expireWait_only
    | with_reducible apply Only.iteTest
    | with_reducible apply ResOnly.next
    | with_reducible apply ResOnly.iteTest
    | split)

theorem abandonSignal_only {ps : List Part} {s t : State} (h : Only ps s t) (hp : Within [.fields, .regions, .lnk, .na, .hst, .glb, .master, .spad, .before, .host, .badSpad] ps) (sel : Selection) (idx : Nat) :
    Only ps s (abandonSignal t sel idx) := by
  unfold abandonSignal
  repeat' (first
    | with_reducible assumption
    | with_reducible exact hp.trans (.ofBool rfl)
    | with_reducible exact hp.mem rfl
    | with_reducible apply abandonUnitAt_only
    | dsimp only)

theorem endLostSignals_only {ps : List Part} {s t : State} (h : Only ps s t) (hp : Within [.fields, .regions, .lnk, .na, .hst, .glb, .master, .spad, .before, .host, .badSpad] ps) :
    Only ps s (endLostSignals t) := by
  unfold endLostSignals
  repeat' (first
    | with_reducible assumption
    | with_reducible exact hp.trans (.ofBool rfl)
    | with_reducible exact hp.mem rfl
    | with_reducible apply abandonSignal_only
    | split)

theorem endLostAside_only {ps : List Part} {s t : State} (h : Only ps s t) (hp : Within [.fields, .regions, .lnk, .na, .hst, .glb, .master, .spad, .before, .host, .badSpad] ps) (o : Op) :
    Only ps s (endLostAside t o) := by
  unfold endLostAside
  repeat' (first
    | with_reducible assumption
    | with_reducible exact hp.trans (.ofBool rfl)
    | with_reducible exact hp.mem rfl
    | with_reducible apply abandonAside_only
    | split)

theorem failLostWait_only {ps : List Part} {s t : State} (h : Only ps s t) (hp : Within [.fields, .regions, .lnk, .na, .hst, .master, .spad, .before, .host, .badSpad] ps) (ring : Nat) :
    Only ps s (failLostWait t ring) := by
  unfold failLostWait
  repeat' (first
    | with_reducible assumption
    | with_reducible exact hp.trans (.ofBool rfl)
    | with_reducible exact hp.mem rfl
    | with_reducible apply failHead_only
    | with_reducible apply Only.iteTest
    | split)

theorem execSpineOffLearnt_only {ps : List Part} {s t : State} (h : Only ps s t) (hp : Within [.fields, .regions, .lnk, .na, .hst, .glb, .master, .spad, .before, .host, .badSpad] ps) (field : Nat) :
    ResOnly ps s (execSpineOffLearnt field t) := by
  unfold execSpineOffLearnt
  repeat' (first
    | with_reducible assumption
    | with_reducible exact hp.trans (.ofBool rfl)
    | with_reducible exact hp.mem rfl
    | with_reducible intro _
    | with_reducible apply endLostAside_only
    | with_reducible apply endLostSignals_only
    | with_reducible apply failLostWait_only
    | with_reducible apply Only.foldl
    | with_reducible apply Only.iteTest
    | with_reducible apply ResOnly.next
    | with_reducible apply ResOnly.onUnit
    | with_reducible apply ResOnly.iteTest
    | split
    | dsimp only)

theorem rejectMember_only {ps : List Part} {s t : State} (h : Only ps s t) (hp : Within [.fields, .regions, .lnk, .na, .hst, .glb, .master, .spad, .before, .host, .badSpad] ps) (sel : Selection) (idx : Nat) (status : Byte) (detail : Word) :
    Only ps s (rejectMember t sel idx status detail) := by
  unfold rejectMember
  repeat' (first
    | with_reducible assumption
    | with_reducible exact hp.trans (.ofBool rfl)
    | with_reducible exact hp.mem rfl
    | with_reducible apply endGroup_only
    | with_reducible apply failHead_only
    | with_reducible apply Only.modMaster
    | with_reducible apply Only.iteTest
    | split)

theorem rejectBad_only {ps : List Part} {s t : State} (h : Only ps s t) (hp : Within [.fields, .regions, .memStacks, .lnk, .na, .hst, .glb, .master, .stud, .spad, .before, .host, .badSpad, .badDram] ps) (sel : Selection) (idx : Nat) (e : Entry) (addr : Nat) :
    Only ps s (rejectBad t sel idx e addr) := by
  unfold rejectBad
  repeat' (first
    | with_reducible assumption
    | with_reducible exact hp.trans (.ofBool rfl)
    | with_reducible exact hp.mem rfl
    | with_reducible apply countBad_only
    | with_reducible apply markBad_only
    | with_reducible apply postReadErrs_only
    | with_reducible apply rejectMember_only
    | dsimp only)

theorem rejectUnit_only {ps : List Part} {s t : State} (h : Only ps s t) (hp : Within [.fields, .regions, .lnk, .na, .hst, .glb, .master, .spad, .before, .host, .badSpad] ps) (sel : Selection) (idx : Nat) (e : Entry) (stack : Nat) :
    Only ps s (rejectUnit t sel idx e stack) := by
  unfold rejectUnit
  repeat' (first
    | with_reducible assumption
    | with_reducible exact hp.trans (.ofBool rfl)
    | with_reducible exact hp.mem rfl
    | with_reducible apply postError_only
    | with_reducible apply rejectMember_only
    | dsimp only)

theorem rejectAbort_only {ps : List Part} {s t : State} (h : Only ps s t) (hp : Within [.lnk, .side] ps) (e : Entry) (badReads : List Nat) (first : Bool) (status : Byte) :
    Only ps s (rejectAbort t e badReads first status) := by
  unfold rejectAbort
  repeat' (first
    | with_reducible assumption
    | with_reducible exact hp.trans (.ofBool rfl)
    | with_reducible exact hp.mem rfl
    | with_reducible apply sendAbort_only
    | with_reducible apply Only.iteTest
    | split)

theorem seenState_only {ps : List Part} {s t : State} (h : Only ps s t) (hp : Within [.dram, .spad, .host] ps) (reads : ReadOutcome) :
    Only ps s (seenState t reads) := by
  unfold seenState
  repeat' (first
    | with_reducible assumption
    | with_reducible exact hp.trans (.ofBool rfl)
    | with_reducible exact hp.mem rfl
    | with_reducible intro _
    | with_reducible apply writeByte_only
    | with_reducible apply writeCells_only
    | with_reducible apply Only.foldl)

theorem acceptMember_only {ps : List Part} {s t : State} (h : Only ps s t) (hp : Within [.fields, .regions, .memStacks, .lnk, .na, .hst, .glb, .side, .master, .stud, .dram, .spad, .before, .host, .badSpad, .badDram] ps) (sel : Selection) (e : Entry) (o : Op) (reads : ReadOutcome) :
    Only ps s (acceptMember t sel e o reads) := by
  unfold acceptMember
  repeat' (first
    | with_reducible assumption
    | with_reducible exact hp.trans (.ofBool rfl)
    | with_reducible exact hp.mem rfl
    | with_reducible apply collReached_only
    | with_reducible apply runRecord_only
    | with_reducible apply takeMember_only
    | with_reducible apply Only.iteTest
    | split)

theorem acceptNext_only {ps : List Part} {s t : State} (h : Only ps s t) (hp : Within [.fields, .regions, .memStacks, .lnk, .na, .hst, .glb, .side, .master, .stud, .dram, .spad, .before, .host, .badSpad, .badDram] ps) (sel : Selection) (reads : ReadOutcome) :
    Only ps s (acceptNext t sel reads) := by
  unfold acceptNext
  repeat' (first
    | with_reducible assumption
    | with_reducible exact hp.trans (.ofBool rfl)
    | with_reducible exact hp.mem rfl
    | with_reducible apply acceptMember_only
    | with_reducible apply noteReads_only
    | with_reducible apply openMember_only
    | with_reducible apply rejectAbort_only
    | with_reducible apply rejectBad_only
    | with_reducible apply rejectMember_only
    | with_reducible apply rejectUnit_only
    | with_reducible apply seenState_only
    | with_reducible apply Only.iteTest
    | split
    | dsimp only)

theorem execAcceptOperation_only {ps : List Part} {s t : State} (h : Only ps s t) (hp : Within [.fields, .regions, .memStacks, .lnk, .na, .hst, .glb, .side, .master, .stud, .dram, .spad, .before, .host, .badSpad, .badDram] ps) (host : List Host.Cell) (reads : ReadOutcome) :
    ResOnly ps s (execAcceptOperation host reads t) := by
  unfold execAcceptOperation
  repeat' (first
    | with_reducible assumption
    | with_reducible exact hp.trans (.ofBool rfl)
    | with_reducible exact hp.mem rfl
    | with_reducible apply acceptNext_only
    | with_reducible apply closeMember_only
    | with_reducible apply hostMerge_only
    | with_reducible apply Only.iteTest
    | with_reducible apply ResOnly.next
    | with_reducible apply ResOnly.iteTest
    | split
    | dsimp only)

theorem openPre_only {ps : List Part} {s t : State} (h : Only ps s t) (hp : Within [.master] ps) :
    Only ps s (openPre t) := by
  unfold openPre
  repeat' (first
    | with_reducible assumption
    | with_reducible exact hp.trans (.ofBool rfl)
    | with_reducible exact hp.mem rfl
    | exact Only.to (qs := [.master]) h (hp.trans (.ofBool rfl)) fun p hn => by cases p <;> first | rfl | exact absurd (by decide) hn)

theorem preAccept_only {ps : List Part} {s t : State} (h : Only ps s t) (hp : Within [.regions, .memStacks, .na, .hst, .glb, .master, .stud, .dram, .spad, .before, .host, .badSpad] ps) (ring : Nat) (e : Entry) (members : List Entry) (reads : ReadOutcome) :
    Only ps s (preAccept t ring e members reads) := by
  unfold preAccept
  repeat' (first
    | with_reducible assumption
    | with_reducible exact hp.trans (.ofBool rfl)
    | with_reducible exact hp.mem rfl
    | with_reducible apply noteReads_only
    | with_reducible apply openPre_only
    | with_reducible apply seenState_only
    | with_reducible apply updAllBanks_only
    | with_reducible apply Only.modMaster
    | with_reducible apply Only.iteTest
    | split
    | dsimp only)

theorem execPreselectNext_only {ps : List Part} {s t : State} (h : Only ps s t) (hp : Within [.fields, .regions, .memStacks, .lnk, .na, .hst, .glb, .master, .stud, .dram, .spad, .before, .host, .badSpad] ps) (host : List Host.Cell) (reads : ReadOutcome) :
    ResOnly ps s (execPreselectNext host reads t) := by
  unfold execPreselectNext
  repeat' (first
    | with_reducible assumption
    | with_reducible exact hp.trans (.ofBool rfl)
    | with_reducible exact hp.mem rfl
    | with_reducible apply hostMerge_only
    | with_reducible apply openPre_only
    | with_reducible apply preAccept_only
    | with_reducible apply seenState_only
    | with_reducible apply updateHeads_only
    | with_reducible apply Only.modMaster
    | with_reducible apply Only.iteTest
    | with_reducible apply ResOnly.next
    | with_reducible apply ResOnly.iteTest
    | split
    | dsimp only)

theorem writeFrozen_only {ps : List Part} {s t : State} (h : Only ps s t) (hp : Within [.fields, .regions, .memStacks, .lnk, .na, .hst, .glb, .master, .stud, .dram, .spad, .before, .host, .badSpad, .badDram] ps) (merge : ReadOutcome) :
    Only ps s (writeFrozen t merge) := by
  unfold writeFrozen
  repeat' (first
    | with_reducible assumption
    | with_reducible exact hp.trans (.ofBool rfl)
    | with_reducible exact hp.mem rfl
    | with_reducible intro _
    | with_reducible apply setOp_only
    | with_reducible apply writeNow_only
    | with_reducible apply Only.iteTest
    | split)

theorem dealOp_only {ps : List Part} {s t : State} (h : Only ps s t) (hp : Within [.fields, .regions, .glb, .master, .spad, .before, .badSpad] ps) (o : Op) (pre : Bool) :
    Only ps s (dealOp t o pre) := by
  unfold dealOp
  repeat' (first
    | with_reducible assumption
    | with_reducible exact hp.trans (.ofBool rfl)
    | with_reducible exact hp.mem rfl
    | with_reducible apply dealShares_only
    | with_reducible apply refillAll_only
    | with_reducible apply updAllBanks_only
    | with_reducible apply Only.modMaster
    | with_reducible apply Only.iteTest
    | split
    | dsimp only)

theorem execPlacementDealt_only {ps : List Part} {s t : State} (h : Only ps s t) (hp : Within [.fields, .regions, .memStacks, .lnk, .na, .hst, .glb, .master, .stud, .dram, .spad, .before, .host, .badSpad, .badDram] ps) (merge : ReadOutcome := ReadOutcome.clean) :
    ResOnly ps s (execPlacementDealt t merge) := by
  unfold execPlacementDealt
  repeat' (first
    | with_reducible assumption
    | with_reducible exact hp.trans (.ofBool rfl)
    | with_reducible exact hp.mem rfl
    | with_reducible apply abandon_only
    | with_reducible apply dealOp_only
    | with_reducible apply writeFrozen_only
    | with_reducible apply Only.iteTest
    | with_reducible apply ResOnly.next
    | with_reducible apply ResOnly.iteTest
    | split
    | dsimp only)

theorem execTileBuffersTaken_only {ps : List Part} {s t : State} (h : Only ps s t) (hp : Within [.regions, .master] ps) (tile : Nat) :
    ResOnly ps s (execTileBuffersTaken tile t) := by
  unfold execTileBuffersTaken
  repeat' (first
    | with_reducible assumption
    | with_reducible exact hp.trans (.ofBool rfl)
    | with_reducible exact hp.mem rfl
    | with_reducible apply advanceArray_only
    | with_reducible apply modTile_only
    | with_reducible apply Only.iteTest
    | with_reducible apply ResOnly.next
    | with_reducible apply ResOnly.iteTest
    | split
    | dsimp only)

theorem countMeets_only {ps : List Part} {s t : State} (h : Only ps s t) (hp : Within [.regions] ps) (o : Op) (met : List Nat) :
    Only ps s (countMeets t o met) := by
  unfold countMeets
  repeat' (first
    | with_reducible assumption
    | with_reducible exact hp.trans (.ofBool rfl)
    | with_reducible exact hp.mem rfl
    | with_reducible intro _
    | with_reducible apply Only.modRegion
    | with_reducible apply Only.foldl
    | with_reducible apply Only.iteTest
    | split
    | dsimp only)

theorem nowResident_only {ps : List Part} {s t : State} (h : Only ps s t) (hp : Within [.master] ps) (tile : Nat) (o : Op) (t' : Tile) (reads : ReadOutcome) :
    Only ps s (nowResident t tile o t' reads) := by
  unfold nowResident
  repeat' (first
    | with_reducible assumption
    | with_reducible exact hp.trans (.ofBool rfl)
    | with_reducible exact hp.mem rfl
    | with_reducible apply modTile_only
    | dsimp only)

theorem loadReturn_only {ps : List Part} {s t : State} (h : Only ps s t) (hp : Within [.fields, .regions, .memStacks, .lnk, .na, .hst, .glb, .master, .stud, .spad, .before, .host, .badSpad, .badDram] ps) (tile : Nat) (o : Op) (t' : Tile) (reads : ReadOutcome) :
    Only ps s (loadReturn t tile o t' reads) := by
  unfold loadReturn
  repeat' (first
    | with_reducible assumption
    | with_reducible exact hp.trans (.ofBool rfl)
    | with_reducible exact hp.mem rfl
    | with_reducible intro _
    | with_reducible apply accessMeets_only
    | with_reducible apply markBad_only
    | with_reducible apply noteReads_only
    | with_reducible apply nowResident_only
    | with_reducible apply Only.foldl
    | with_reducible apply Only.iteTest
    | split
    | dsimp only)

theorem execLoaderReadReturn_only {ps : List Part} {s t : State} (h : Only ps s t) (hp : Within [.fields, .regions, .memStacks, .lnk, .na, .hst, .glb, .master, .stud, .spad, .before, .host, .badSpad, .badDram] ps) (tile : Nat) (outcome : ReadOutcome) (meets : List Nat) (host : List Host.Cell) :
    ResOnly ps s (execLoaderReadReturn tile outcome meets host t) := by
  unfold execLoaderReadReturn
  repeat' (first
    | with_reducible assumption
    | with_reducible exact hp.trans (.ofBool rfl)
    | with_reducible exact hp.mem rfl
    | with_reducible apply countMeets_only
    | with_reducible apply hostMerge_only
    | with_reducible apply loadReturn_only
    | with_reducible apply modTile_only
    | with_reducible apply Only.iteTest
    | with_reducible apply ResOnly.next
    | with_reducible apply ResOnly.iteTest
    | split
    | dsimp only)

theorem issueBypass_only {ps : List Part} {s t : State} (h : Only ps s t) (hp : Within [.fields, .regions, .master] ps) (o : Op) (t' : Tile) (reads : ReadOutcome) :
    Only ps s (issueBypass t o t' reads) := by
  unfold issueBypass
  repeat' (first
    | with_reducible assumption
    | with_reducible exact hp.trans (.ofBool rfl)
    | with_reducible exact hp.mem rfl
    | with_reducible apply leaveQueue_only
    | with_reducible apply modTile_only
    | with_reducible apply releaseTile_only
    | with_reducible apply setOp_only
    | with_reducible apply Only.iteTest
    | split
    | dsimp only)

theorem execTileIssue_only {ps : List Part} {s t : State} (h : Only ps s t) (hp : Within [.fields, .regions, .memStacks, .lnk, .na, .hst, .glb, .master, .stud, .spad, .before, .host, .badSpad, .badDram] ps) (tile : Nat) (reads : ReadOutcome := ReadOutcome.clean) :
    ResOnly ps s (execTileIssue tile t reads) := by
  unfold execTileIssue
  repeat' (first
    | with_reducible assumption
    | with_reducible exact hp.trans (.ofBool rfl)
    | with_reducible exact hp.mem rfl
    | with_reducible intro _
    | with_reducible apply accessMeets_only
    | with_reducible apply countMeets_only
    | with_reducible apply enterArray_only
    | with_reducible apply issueBypass_only
    | with_reducible apply loadShadow_only
    | with_reducible apply modEntry_only
    | with_reducible apply modTile_only
    | with_reducible apply noteReads_only
    | with_reducible apply Only.iteTest
    | with_reducible apply ResOnly.next
    | with_reducible apply ResOnly.iteTest
    | split
    | dsimp only)

theorem leaveArray_only {ps : List Part} {s t : State} (h : Only ps s t) (hp : Within [.fields, .regions, .master] ps) (o : Op) (t' : Tile) (upset : List (Nat × Word)) (early : List (Nat × Bool)) (reads : ReadOutcome) :
    Only ps s (leaveArray t o t' upset early reads) := by
  unfold leaveArray
  repeat' (first
    | with_reducible assumption
    | with_reducible exact hp.trans (.ofBool rfl)
    | with_reducible exact hp.mem rfl
    | with_reducible apply advanceArray_only
    | with_reducible apply countMeets_only
    | with_reducible apply leaveQueue_only
    | with_reducible apply modTile_only
    | with_reducible apply Only.modMaster
    | with_reducible apply Only.iteTest
    | split
    | dsimp only)

theorem execTileLeavesArray_only {ps : List Part} {s t : State} (h : Only ps s t) (hp : Within [.fields, .regions, .memStacks, .lnk, .na, .hst, .glb, .master, .stud, .spad, .before, .host, .badSpad, .badDram] ps) (tile : Nat) (upset : List (Nat × Word)) (early : List (Nat × Bool) := []) (reads : ReadOutcome := ReadOutcome.clean) :
    ResOnly ps s (execTileLeavesArray tile upset t early reads) := by
  unfold execTileLeavesArray
  repeat' (first
    | with_reducible assumption
    | with_reducible exact hp.trans (.ofBool rfl)
    | with_reducible exact hp.mem rfl
    | with_reducible intro _
    | with_reducible apply accessMeets_only
    | with_reducible apply leaveArray_only
    | with_reducible apply noteReads_only
    | with_reducible apply Only.iteTest
    | with_reducible apply ResOnly.next
    | with_reducible apply ResOnly.iteTest
    | split)

theorem execChunkResultArrival_only {ps : List Part} {s t : State} (h : Only ps s t) (hp : Within [.master] ps) (tile : Nat) :
    ResOnly ps s (execChunkResultArrival tile t) := by
  unfold execChunkResultArrival
  repeat' (first
    | with_reducible assumption
    | with_reducible exact hp.trans (.ofBool rfl)
    | with_reducible exact hp.mem rfl
    | with_reducible apply modTile_only
    | with_reducible apply Only.modMaster
    | with_reducible apply Only.iteTest
    | with_reducible apply ResOnly.next
    | with_reducible apply ResOnly.iteTest
    | split)

theorem execStatisticsBlockArrival_only {ps : List Part} {s t : State} (h : Only ps s t) (hp : Within [.master] ps) (tile : Nat) (upset : List (Nat × Word) := []) :
    ResOnly ps s (execStatisticsBlockArrival tile t upset) := by
  unfold execStatisticsBlockArrival
  repeat' (first
    | with_reducible assumption
    | with_reducible exact hp.trans (.ofBool rfl)
    | with_reducible exact hp.mem rfl
    | with_reducible apply modTile_only
    | with_reducible apply Only.modMaster
    | with_reducible apply Only.iteTest
    | with_reducible apply ResOnly.next
    | with_reducible apply ResOnly.iteTest
    | split)

theorem dropMulticast_only {ps : List Part} {s t : State} (h : Only ps s t) (hp : Within [.fields] ps) (rows : Nat) (r : Nat) :
    Only ps s (dropMulticast t rows r) := by
  unfold dropMulticast
  repeat' (first
    | with_reducible assumption
    | with_reducible exact hp.trans (.ofBool rfl)
    | with_reducible exact hp.mem rfl
    | with_reducible apply Only.modField)

theorem execRowMaxMulticast_only {ps : List Part} {s t : State} (h : Only ps s t) (hp : Within [.fields, .master] ps) (tile : Nat) :
    ResOnly ps s (execRowMaxMulticast tile t) := by
  unfold execRowMaxMulticast
  repeat' (first
    | with_reducible assumption
    | with_reducible exact hp.trans (.ofBool rfl)
    | with_reducible exact hp.mem rfl
    | with_reducible intro _
    | with_reducible apply dropMulticast_only
    | with_reducible apply modTile_only
    | with_reducible apply Only.modMaster
    | with_reducible apply Only.foldl
    | with_reducible apply Only.iteTest
    | with_reducible apply ResOnly.next
    | with_reducible apply ResOnly.iteTest
    | split
    | dsimp only)

theorem sweepBytes_only {ps : List Part} {s t : State} (h : Only ps s t) (hp : Within [.dram, .spad, .before, .host, .badSpad, .badDram] ps) (f : Interval) :
    Only ps s (sweepBytes t f) := by
  unfold sweepBytes
  repeat' (first
    | with_reducible assumption
    | with_reducible exact hp.trans (.ofBool rfl)
    | with_reducible exact hp.mem rfl
    | split
    | dsimp only
    | exact Only.to (qs := [.dram, .spad, .before, .host, .badSpad, .badDram]) h (hp.trans (.ofBool rfl)) fun p hn => by cases p <;> first | rfl | exact absurd (by decide) hn)

theorem drainSweep_only {ps : List Part} {s t : State} (h : Only ps s t)
    (hp : Within [.fields, .regions, .memStacks, .lnk, .na, .hst, .glb, .master, .stud, .dram, .spad, .before, .host, .badSpad, .badDram] ps)
    (f : Interval) (merge : ReadOutcome) {after : State → State} (ha : ∀ u, Only ps s u → Only ps s (after u)) :
    Only ps s (drainSweep t f merge after) :=
  accessMeets_only h (hp.trans (.ofBool rfl)) _ _
    (fun _ k => ha _ (writeCells_only (sweepBytes_only (noteReads_only k (hp.trans (.ofBool rfl)) merge) (hp.trans (.ofBool rfl)) f)
      (hp.trans (.ofBool rfl)) _))
    fun _ k => sweepBytes_only k (hp.trans (.ofBool rfl)) f

theorem drainBook_only {ps : List Part} {s t : State} (h : Only ps s t) (hp : Within [.glb, .master] ps) (o : Op) (t' : Tile) (squash : Nat) (adv : List AdvStat) (sum : Word64) :
    Only ps s (drainBook t o t' squash adv sum) := by
  unfold drainBook
  repeat' (first
    | with_reducible assumption
    | with_reducible exact hp.trans (.ofBool rfl)
    | with_reducible exact hp.mem rfl
    | with_reducible apply modTile_only
    | with_reducible apply setOp_only
    | with_reducible apply Only.modGlb
    | with_reducible apply Only.iteTest
    | split
    | dsimp only)

theorem execDrainComplete_only {ps : List Part} {s t : State} (h : Only ps s t) (hp : Within [.fields, .regions, .memStacks, .lnk, .na, .hst, .glb, .master, .stud, .dram, .spad, .before, .host, .badSpad, .badDram] ps) (tile : Nat) (upset : List (Nat × Nat)) (merge : ReadOutcome) :
    ResOnly ps s (execDrainComplete tile upset merge t) := by
  unfold execDrainComplete
  repeat' (first
    | with_reducible assumption
    | with_reducible exact hp.trans (.ofBool rfl)
    | with_reducible exact hp.mem rfl
    | with_reducible intro _
    | with_reducible apply drainBook_only
    | with_reducible apply drainSweep_only
    | with_reducible apply modTile_only
    | with_reducible apply writeNow_only
    | with_reducible apply Only.iteTest
    | with_reducible apply ResOnly.next
    | with_reducible apply ResOnly.iteTest
    | split
    | dsimp only)

theorem dealRepeats_only {ps : List Part} {s t : State} (h : Only ps s t) (hp : Within [.fields, .regions, .master, .spad, .before, .badSpad] ps) (t' : Tile) (d : Tile) :
    Only ps s (dealRepeats t t' d) := by
  unfold dealRepeats
  repeat' (first
    | with_reducible assumption
    | with_reducible exact hp.trans (.ofBool rfl)
    | with_reducible exact hp.mem rfl
    | with_reducible apply refillRegion_only
    | with_reducible apply updBanks_only
    | with_reducible apply Only.modMaster
    | dsimp only)

theorem execDuplicateCompare_only {ps : List Part} {s t : State} (h : Only ps s t) (hp : Within [.fields, .regions, .lnk, .na, .hst, .glb, .master, .spad, .before, .host, .badSpad] ps) (tile : Nat) :
    ResOnly ps s (execDuplicateCompare tile t) := by
  unfold execDuplicateCompare
  repeat' (first
    | with_reducible assumption
    | with_reducible exact hp.trans (.ofBool rfl)
    | with_reducible exact hp.mem rfl
    | with_reducible refine dealCopy_only ?_ (hp.trans (.ofBool rfl)) ‹_›
    | with_reducible apply dealRepeats_only
    | with_reducible apply dropCopies_only
    | with_reducible apply modTile_only
    | with_reducible apply noVerdict_only
    | with_reducible apply setOp_only
    | with_reducible apply verifyTile_only
    | with_reducible apply Only.modGlb
    | with_reducible apply Only.iteTest
    | with_reducible apply ResOnly.next
    | with_reducible apply ResOnly.iteTest
    | split
    | dsimp only)

theorem nameRegion_only {ps : List Part} {s t : State} (h : Only ps s t) (hp : Within [.fields, .regions, .slots, .lnk, .na, .hst, .glb, .master, .stud, .spad, .before, .host, .badSpad] ps) (r : Nat) :
    Only ps s (nameRegion t r) := by
  unfold nameRegion
  repeat' (first
    | with_reducible assumption
    | with_reducible exact hp.trans (.ofBool rfl)
    | with_reducible exact hp.mem rfl
    | with_reducible apply failRegion_only
    | with_reducible apply recordFault_only)

theorem verdictRecord_only {ps : List Part} {s t : State} (h : Only ps s t) (hp : Within [.fields, .regions, .na, .hst, .glb, .master, .host] ps) (t' : Tile) (d : Tile) (v : Tile) (verdict : Nat) (named : List Nat) :
    Only ps s (verdictRecord t t' d v verdict named) := by
  unfold verdictRecord
  repeat' (first
    | with_reducible assumption
    | with_reducible exact hp.trans (.ofBool rfl)
    | with_reducible exact hp.mem rfl
    | with_reducible apply dropCopies_only
    | with_reducible apply dupRecord_only)

theorem execVoteVerdict_only {ps : List Part} {s t : State} (h : Only ps s t) (hp : Within [.fields, .regions, .slots, .lnk, .na, .hst, .glb, .master, .stud, .spad, .before, .host, .badSpad] ps) (tile : Nat) :
    ResOnly ps s (execVoteVerdict tile t) := by
  unfold execVoteVerdict
  repeat' (first
    | with_reducible assumption
    | with_reducible exact hp.trans (.ofBool rfl)
    | with_reducible exact hp.mem rfl
    | with_reducible apply nameRegion_only
    | with_reducible apply verdictRecord_only
    | with_reducible apply Only.iteTest
    | with_reducible apply ResOnly.next
    | with_reducible apply ResOnly.iteTest
    | split)

theorem permanent_only {ps : List Part} {s t : State} (h : Only ps s t) (hp : Within [.fields, .regions, .slots, .lnk, .na, .hst, .glb, .master, .stud, .spad, .before, .host, .badSpad] ps) (r : Nat) :
    Only ps s (permanent t r) := by
  unfold permanent
  repeat' (first
    | with_reducible assumption
    | with_reducible exact hp.trans (.ofBool rfl)
    | with_reducible exact hp.mem rfl
    | with_reducible apply failRegion_only
    | with_reducible apply recordFaultOnly_only
    | with_reducible apply retireUnit_only)

theorem transientReplay_only {ps : List Part} {s t : State} (h : Only ps s t) (hp : Within [.fields, .regions, .lnk, .na, .hst, .glb, .master, .spad, .before, .host, .badSpad] ps) (t' : Tile) :
    Only ps s (transientReplay t t') := by
  unfold transientReplay
  repeat' (first
    | with_reducible assumption
    | with_reducible exact hp.trans (.ofBool rfl)
    | with_reducible exact hp.mem rfl
    | with_reducible apply abandon_only
    | with_reducible apply replayDeal_only
    | with_reducible apply Only.iteTest
    | split)

theorem repeatRecord_only {ps : List Part} {s t : State} (h : Only ps s t) (hp : Within [.fields, .regions, .na, .hst, .glb, .master, .host] ps) (t' : Tile) (d : Tile) (v : Tile) (verdict : Nat) (cls : Nat) (fails : Bool) :
    Only ps s (repeatRecord t t' d v verdict cls fails) := by
  unfold repeatRecord
  repeat' (first
    | with_reducible assumption
    | with_reducible exact hp.trans (.ofBool rfl)
    | with_reducible exact hp.mem rfl
    | with_reducible apply dropCopies_only
    | with_reducible apply dupRecord_only)

theorem permanents_only {ps : List Part} {s t : State} (h : Only ps s t) (hp : Within [.fields, .regions, .slots, .lnk, .na, .hst, .glb, .master, .stud, .spad, .before, .host, .badSpad] ps) (t' : Tile) (d : Tile) (v : Tile) (verdict : Nat) (rs : List Nat) :
    Only ps s (permanents t t' d v verdict rs) := by
  unfold permanents
  repeat' (first
    | with_reducible assumption
    | with_reducible exact hp.trans (.ofBool rfl)
    | with_reducible exact hp.mem rfl
    | with_reducible intro _
    | with_reducible apply permanent_only
    | with_reducible apply repeatRecord_only
    | with_reducible apply Only.foldl)

theorem transients_only {ps : List Part} {s t : State} (h : Only ps s t) (hp : Within [.fields, .regions, .lnk, .na, .hst, .glb, .master, .spad, .before, .host, .badSpad] ps) (o : Op) (t' : Tile) (d : Tile) (v : Tile) :
    Only ps s (transients t o t' d v) := by
  unfold transients
  repeat' (first
    | with_reducible assumption
    | with_reducible exact hp.trans (.ofBool rfl)
    | with_reducible exact hp.mem rfl
    | with_reducible apply repeatRecord_only
    | with_reducible apply transientReplay_only
    | with_reducible apply verifyTile_only
    | with_reducible apply Only.iteTest
    | split)

theorem execRepeatVerdict_only {ps : List Part} {s t : State} (h : Only ps s t) (hp : Within [.fields, .regions, .slots, .lnk, .na, .hst, .glb, .master, .stud, .spad, .before, .host, .badSpad] ps) (tile : Nat) :
    ResOnly ps s (execRepeatVerdict tile t) := by
  unfold execRepeatVerdict
  repeat' (first
    | with_reducible assumption
    | with_reducible exact hp.trans (.ofBool rfl)
    | with_reducible exact hp.mem rfl
    | with_reducible apply permanents_only
    | with_reducible apply transients_only
    | with_reducible apply Only.iteTest
    | with_reducible apply ResOnly.next
    | with_reducible apply ResOnly.iteTest
    | split)

theorem commitOrEnd_only {ps : List Part} {s t : State} (h : Only ps s t) (hp : Within [.fields, .regions, .memStacks, .lnk, .na, .hst, .glb, .side, .master, .stud, .sync, .dram, .spad, .before, .host, .badSpad, .badDram] ps) (reads : ReadOutcome) :
    Only ps s (commitOrEnd t reads) := by
  unfold commitOrEnd
  repeat' (first
    | with_reducible assumption
    | with_reducible exact hp.trans (.ofBool rfl)
    | with_reducible exact hp.mem rfl
    | with_reducible intro _
    | with_reducible apply abandonSignal_only
    | with_reducible apply commitNow_only
    | with_reducible apply readNow_only
    | with_reducible apply runRecord_only
    | with_reducible apply seenState_only
    | with_reducible apply Only.iteTest
    | split
    | dsimp only)

theorem execCommit_only {ps : List Part} {s t : State} (h : Only ps s t) (hp : Within [.fields, .regions, .memStacks, .lnk, .na, .hst, .glb, .side, .master, .stud, .sync, .dram, .spad, .before, .host, .badSpad, .badDram] ps) (reads : ReadOutcome := ReadOutcome.clean) :
    ResOnly ps s (execCommit t reads) := by
  unfold execCommit
  repeat' (first
    | with_reducible assumption
    | with_reducible exact hp.trans (.ofBool rfl)
    | with_reducible exact hp.mem rfl
    | with_reducible apply commitOrEnd_only
    | with_reducible apply ResOnly.next)

theorem execRegionHeartbeat_only {ps : List Part} {s t : State} (h : Only ps s t) (hp : Within [.fields, .regions, .free] ps) (region : Nat) (vcore : Nat := 1024) (age : Nat := 0) :
    ResOnly ps s (execRegionHeartbeat region t vcore age) := by
  unfold execRegionHeartbeat
  repeat' (first
    | with_reducible assumption
    | with_reducible exact hp.trans (.ofBool rfl)
    | with_reducible exact hp.mem rfl
    | with_reducible apply noteRail_only
    | with_reducible apply Only.modRegion
    | with_reducible apply Only.iteTest
    | with_reducible apply ResOnly.next
    | with_reducible apply ResOnly.onUnit
    | with_reducible apply ResOnly.iteTest
    | split
    | dsimp only)

theorem execHeartbeatCheck_only {ps : List Part} {s t : State} (h : Only ps s t) (hp : Within [.fields, .regions, .slots, .lnk, .na, .hst, .glb, .master, .spad, .before, .host, .badSpad] ps) (field : Nat) :
    ResOnly ps s (execHeartbeatCheck field t) := by
  unfold execHeartbeatCheck
  repeat' (first
    | with_reducible assumption
    | with_reducible exact hp.trans (.ofBool rfl)
    | with_reducible exact hp.mem rfl
    | with_reducible intro _
    | with_reducible apply failRegion_only
    | with_reducible apply Only.foldl
    | with_reducible apply Only.iteTest
    | with_reducible apply ResOnly.next
    | with_reducible apply ResOnly.onUnit
    | with_reducible apply ResOnly.iteTest
    | split)

theorem execRegionFlitParityError_only {ps : List Part} {s t : State} (h : Only ps s t) (hp : Within [.fields, .regions, .slots, .lnk, .na, .hst, .glb, .master, .spad, .before, .host, .badSpad] ps) (region : Nat) :
    ResOnly ps s (execRegionFlitParityError region t) := by
  unfold execRegionFlitParityError
  repeat' (first
    | with_reducible assumption
    | with_reducible exact hp.trans (.ofBool rfl)
    | with_reducible exact hp.mem rfl
    | with_reducible apply failRegion_only
    | with_reducible apply postError_only
    | with_reducible apply Only.iteTest
    | with_reducible apply ResOnly.next
    | with_reducible apply ResOnly.onUnit
    | with_reducible apply ResOnly.iteTest
    | split)

theorem execRegionFailed_only {ps : List Part} {s t : State} (h : Only ps s t) (hp : Within [.fields, .regions, .slots, .lnk, .na, .hst, .glb, .master, .stud, .spad, .before, .host, .badSpad] ps) (region : Nat) (cause : FailCause) :
    ResOnly ps s (execRegionFailed region cause t) := by
  unfold execRegionFailed
  repeat' (first
    | with_reducible assumption
    | with_reducible exact hp.trans (.ofBool rfl)
    | with_reducible exact hp.mem rfl
    | with_reducible apply failRegion_only
    | with_reducible apply nameRegion_only
    | with_reducible apply ResOnly.next
    | with_reducible apply ResOnly.onUnit
    | split)

theorem execWeaveRebuildComplete_only {ps : List Part} {s t : State} (h : Only ps s t) (hp : Within [.fields, .regions, .lnk, .na, .hst, .glb, .master, .spad, .before, .host, .badSpad] ps) :
    ResOnly ps s (execWeaveRebuildComplete t) := by
  unfold execWeaveRebuildComplete
  repeat' (first
    | with_reducible assumption
    | with_reducible exact hp.trans (.ofBool rfl)
    | with_reducible exact hp.mem rfl
    | with_reducible apply rebuildDone_only
    | with_reducible apply ResOnly.next)

/-! ### Machine/PowerOps.lean -/

theorem failUnit_only {ps : List Part} {s t : State} (h : Only ps s t) (hp : Within [.na, .hst, .stud, .host] ps) (k : UnitKind) (i : Nat) :
    Only ps s (failUnit t k i) := by
  unfold failUnit
  repeat' (first
    | with_reducible assumption
    | with_reducible exact hp.trans (.ofBool rfl)
    | with_reducible exact hp.mem rfl
    | with_reducible apply recordFault_only
    | with_reducible apply retireUnit_only)

theorem stopEverything_only {ps : List Part} {s t : State} (h : Only ps s t) (hp : Within [.fields, .regions, .lnk, .na, .hst, .glb, .master, .spad, .before, .host, .badSpad] ps) (k : UnitKind) (i : Nat) :
    Only ps s (stopEverything t k i) := by
  unfold stopEverything
  repeat' (first
    | with_reducible assumption
    | with_reducible exact hp.trans (.ofBool rfl)
    | with_reducible exact hp.mem rfl
    | with_reducible intro _
    | with_reducible apply abandonAside_only
    | with_reducible apply stopAllRings_only
    | with_reducible apply updAllBanks_only
    | with_reducible apply Only.foldl)

theorem farrierAbandon_only {ps : List Part} {s t : State} (h : Only ps s t) (hp : Within [.regions, .na, .hst, .farrier, .spad, .before, .host, .badSpad] ps) :
    Only ps s (farrierAbandon t) := by
  unfold farrierAbandon
  repeat' (first
    | with_reducible assumption
    | with_reducible exact hp.trans (.ofBool rfl)
    | with_reducible exact hp.mem rfl
    | with_reducible apply postEvent_only
    | with_reducible apply regionOff_only
    | with_reducible apply updBanks_only
    | with_reducible apply Only.modFarrier
    | with_reducible apply Only.iteTest
    | split
    | dsimp only)

theorem noteStress_only {ps : List Part} {s t : State} (h : Only ps s t) (hp : Within [.farrier] ps) :
    Only ps s (noteStress t) := by
  unfold noteStress
  repeat' (first
    | with_reducible assumption
    | with_reducible exact hp.trans (.ofBool rfl)
    | with_reducible exact hp.mem rfl
    | with_reducible apply Only.modFarrier
    | with_reducible apply Only.iteTest
    | split)

theorem farrierAbandonAt_only {ps : List Part} {s t : State} (h : Only ps s t) (hp : Within [.regions, .na, .hst, .farrier, .spad, .before, .host, .badSpad] ps) (r : Nat) :
    Only ps s (farrierAbandonAt t r) := by
  unfold farrierAbandonAt
  repeat' (first
    | with_reducible assumption
    | with_reducible exact hp.trans (.ofBool rfl)
    | with_reducible exact hp.mem rfl
    | with_reducible apply farrierAbandon_only
    | with_reducible apply Only.iteTest
    | split)

theorem recordUnitFailed_only {ps : List Part} {s t : State} (h : Only ps s t) (hp : Within [.na, .hst, .glb, .host] ps) (k : UnitKind) (i : Nat) :
    Only ps s (recordUnitFailed t k i) := by
  unfold recordUnitFailed
  repeat' (first
    | with_reducible assumption
    | with_reducible exact hp.trans (.ofBool rfl)
    | with_reducible exact hp.mem rfl
    | with_reducible apply postError_only)

theorem unitNeeded_only {ps : List Part} {s t : State} (h : Only ps s t) (hp : Within [.fields, .regions, .lnk, .na, .hst, .glb, .master, .spad, .before, .host, .badSpad] ps) (k : UnitKind) (i : Nat) (needs : Op → Bool) :
    Only ps s (unitNeeded t k i needs) := by
  unfold unitNeeded
  repeat' (first
    | with_reducible assumption
    | with_reducible exact hp.trans (.ofBool rfl)
    | with_reducible exact hp.mem rfl
    | with_reducible intro _
    | with_reducible apply abandonAside_only
    | with_reducible apply abandonUnitAt_only
    | with_reducible apply recordUnitFailed_only
    | with_reducible apply Only.foldl
    | with_reducible apply Only.iteTest
    | split
    | dsimp only)

theorem stackNeeded_only {ps : List Part} {s t : State} (h : Only ps s t) (hp : Within [.fields, .regions, .lnk, .na, .hst, .glb, .master, .spad, .before, .host, .badSpad] ps) (m : Nat) :
    Only ps s (stackNeeded t m) := by
  unfold stackNeeded
  repeat' (first
    | with_reducible assumption
    | with_reducible exact hp.trans (.ofBool rfl)
    | with_reducible exact hp.mem rfl
    | with_reducible apply unitNeeded_only)

theorem stackFail_only {ps : List Part} {s t : State} (h : Only ps s t) (hp : Within [.fields, .regions, .memStacks, .lnk, .na, .hst, .glb, .master, .stud, .spad, .before, .host, .badSpad] ps) (m : Nat) :
    Only ps s (stackFail t m) := by
  unfold stackFail
  repeat' (first
    | with_reducible assumption
    | with_reducible exact hp.trans (.ofBool rfl)
    | with_reducible exact hp.mem rfl
    | with_reducible apply failUnit_only
    | with_reducible apply postEvent_only
    | with_reducible apply stackNeeded_only
    | with_reducible apply Only.modStack
    | with_reducible apply Only.modGlb
    | with_reducible apply Only.iteTest
    | split
    | dsimp only)

theorem trainedStack_only {ps : List Part} {s t : State} (h : Only ps s t) (hp : Within [.memStacks] ps) (m : Nat) (temp : Nat) (lanes : List (Nat × Nat)) :
    Only ps s (trainedStack t m temp lanes) := by
  unfold trainedStack
  repeat' (first
    | with_reducible assumption
    | with_reducible exact hp.trans (.ofBool rfl)
    | with_reducible exact hp.mem rfl
    | with_reducible apply Only.modStack)

theorem noteLanes_only {ps : List Part} {s t : State} (h : Only ps s t) (hp : Within [.stud] ps) (m : Nat) (lanes : List (Nat × Nat)) :
    Only ps s (noteLanes t m lanes) := by
  unfold noteLanes
  repeat' (first
    | with_reducible assumption
    | with_reducible exact hp.trans (.ofBool rfl)
    | with_reducible exact hp.mem rfl
    | with_reducible intro _
    | with_reducible apply noteRepairs_only
    | with_reducible apply Only.foldl
    | with_reducible apply Only.iteTest
    | split
    | dsimp only)

theorem edgeDown_only {ps : List Part} {s t : State} (h : Only ps s t) (hp : Within [.fields] ps) (f : Nat) (d : Nat) :
    Only ps s (edgeDown t f d) := by
  unfold edgeDown
  repeat' (first
    | with_reducible assumption
    | with_reducible exact hp.trans (.ofBool rfl)
    | with_reducible exact hp.mem rfl
    | with_reducible apply Only.modEdge
    | split
    | dsimp only)

theorem joinDown_only {ps : List Part} {s t : State} (h : Only ps s t) (hp : Within [.fields, .na, .hst, .host] ps) (f : Nat) (d : Nat) :
    Only ps s (joinDown t f d) := by
  unfold joinDown
  repeat' (first
    | with_reducible assumption
    | with_reducible exact hp.trans (.ofBool rfl)
    | with_reducible exact hp.mem rfl
    | with_reducible apply edgeDown_only
    | with_reducible apply postEvent_only
    | with_reducible apply Only.iteTest
    | split)

theorem retireJoin_only {ps : List Part} {s t : State} (h : Only ps s t) (hp : Within [.na, .hst, .stud, .host] ps) (f : Nat) (d : Nat) :
    Only ps s (retireJoin t f d) := by
  unfold retireJoin
  repeat' (first
    | with_reducible assumption
    | with_reducible exact hp.trans (.ofBool rfl)
    | with_reducible exact hp.mem rfl
    | with_reducible intro _
    | with_reducible apply failUnit_only
    | with_reducible apply Only.foldl
    | split)

theorem joinLost_only {ps : List Part} {s t : State} (h : Only ps s t) (hp : Within [.fields, .na, .hst, .stud, .host] ps) (f : Nat) (d : Nat) :
    Only ps s (joinLost t f d) := by
  unfold joinLost
  repeat' (first
    | with_reducible assumption
    | with_reducible exact hp.trans (.ofBool rfl)
    | with_reducible exact hp.mem rfl
    | with_reducible apply joinDown_only
    | with_reducible apply retireJoin_only
    | with_reducible apply Only.iteTest
    | split)

theorem joinFails_only {ps : List Part} {s t : State} (h : Only ps s t) (hp : Within [.fields, .regions, .lnk, .na, .hst, .glb, .master, .stud, .spad, .before, .host, .badSpad] ps) (f : Nat) (d : Nat) :
    Only ps s (joinFails t f d) := by
  unfold joinFails
  repeat' (first
    | with_reducible assumption
    | with_reducible exact hp.trans (.ofBool rfl)
    | with_reducible exact hp.mem rfl
    | with_reducible apply abandonUnit_only
    | with_reducible apply joinLost_only
    | with_reducible apply stopEverything_only
    | dsimp only)

theorem disableSubLink_only {ps : List Part} {s t : State} (h : Only ps s t) (hp : Within [.fields, .na, .hst, .stud, .host] ps) (f : Nat) (d : Nat) (k : Nat) :
    Only ps s (disableSubLink t f d k) := by
  unfold disableSubLink
  repeat' (first
    | with_reducible assumption
    | with_reducible exact hp.trans (.ofBool rfl)
    | with_reducible exact hp.mem rfl
    | with_reducible apply recordFault_only
    | with_reducible apply Only.modEdge
    | split
    | dsimp only)

theorem joinCheck_only {ps : List Part} {s t : State} (h : Only ps s t) (hp : Within [.fields, .regions, .lnk, .na, .hst, .glb, .master, .stud, .spad, .before, .host, .badSpad] ps) (f : Nat) (d : Nat) :
    Only ps s (joinCheck t f d) := by
  unfold joinCheck
  repeat' (first
    | with_reducible assumption
    | with_reducible exact hp.trans (.ofBool rfl)
    | with_reducible exact hp.mem rfl
    | with_reducible apply joinFails_only
    | with_reducible apply Only.iteTest
    | split)

theorem setLanding_only {ps : List Part} {s t : State} (h : Only ps s t) (hp : Within [.pwr] ps) (c : Nat) (h' : Nat) (mask : BitVec 12) :
    Only ps s (setLanding t c h' mask) := by
  unfold setLanding
  repeat' (first
    | with_reducible assumption
    | with_reducible exact hp.trans (.ofBool rfl)
    | with_reducible exact hp.mem rfl
    | with_reducible apply Only.modPwr)

theorem dieLinksOff_only {ps : List Part} {s t : State} (h : Only ps s t) (hp : Within [.lnk] ps) (c : Nat) :
    Only ps s (dieLinksOff t c) := by
  unfold dieLinksOff
  repeat' (first
    | with_reducible assumption
    | with_reducible exact hp.trans (.ofBool rfl)
    | with_reducible exact hp.mem rfl
    | with_reducible intro _
    | with_reducible apply Only.modLink
    | with_reducible apply Only.foldl
    | with_reducible apply Only.iteTest
    | split)

theorem dieCut_only {ps : List Part} {s t : State} (h : Only ps s t) (hp : Within [.fields, .regions, .lnk, .na, .hst, .glb, .master, .spad, .before, .host, .badSpad] ps) (c : Nat) :
    Only ps s (dieCut t c) := by
  unfold dieCut
  repeat' (first
    | with_reducible assumption
    | with_reducible exact hp.trans (.ofBool rfl)
    | with_reducible exact hp.mem rfl
    | with_reducible apply dieLinksOff_only
    | with_reducible apply unitNeeded_only
    | with_reducible apply Only.iteTest
    | split
    | dsimp only)

theorem disableLanding_only {ps : List Part} {s t : State} (h : Only ps s t) (hp : Within [.pwr, .na, .hst, .stud, .host] ps) (f : Nat) (c : Nat) (h' : Nat) (k : Nat) :
    Only ps s (disableLanding t f c h' k) := by
  unfold disableLanding
  repeat' (first
    | with_reducible assumption
    | with_reducible exact hp.trans (.ofBool rfl)
    | with_reducible exact hp.mem rfl
    | with_reducible apply recordFault_only
    | with_reducible apply setLanding_only)

theorem landingCheck_only {ps : List Part} {s t : State} (h : Only ps s t) (hp : Within [.fields, .regions, .lnk, .na, .hst, .glb, .master, .stud, .spad, .before, .host, .badSpad] ps) (f : Nat) (c : Nat) (h' : Nat) :
    Only ps s (landingCheck t f c h') := by
  unfold landingCheck
  repeat' (first
    | with_reducible assumption
    | with_reducible exact hp.trans (.ofBool rfl)
    | with_reducible exact hp.mem rfl
    | with_reducible intro _
    | with_reducible apply dieCut_only
    | with_reducible apply failUnit_only
    | with_reducible apply Only.foldl
    | with_reducible apply Only.iteTest
    | split)

theorem loseLandings_only {ps : List Part} {s t : State} (h : Only ps s t) (hp : Within [.pwr, .fields, .regions, .lnk, .na, .hst, .glb, .master, .stud, .spad, .before, .host, .badSpad] ps) (f : Nat) :
    Only ps s (loseLandings t f) := by
  unfold loseLandings
  repeat' (first
    | with_reducible assumption
    | with_reducible exact hp.trans (.ofBool rfl)
    | with_reducible exact hp.mem rfl
    | with_reducible apply abandonUnit_only
    | with_reducible apply dieCut_only
    | with_reducible apply failUnit_only
    | with_reducible apply setLanding_only
    | with_reducible apply stopEverything_only
    | with_reducible apply Only.modPwr
    | with_reducible apply Only.iteTest
    | split
    | dsimp only)

theorem fieldRegionsOff_only {ps : List Part} {s t : State} (h : Only ps s t) (hp : Within [.fields, .regions, .slots, .lnk, .na, .hst, .glb, .master, .spad, .before, .host, .badSpad] ps) (f : Nat) :
    Only ps s (fieldRegionsOff t f) := by
  unfold fieldRegionsOff
  repeat' (first
    | with_reducible assumption
    | with_reducible exact hp.trans (.ofBool rfl)
    | with_reducible exact hp.mem rfl
    | with_reducible intro _
    | with_reducible apply leaveWeave_only
    | with_reducible apply regionOff_only
    | with_reducible apply Only.foldl
    | with_reducible apply Only.iteTest
    | split)

theorem keepVplane_only {ps : List Part} {s t : State} (h : Only ps s t) (hp : Within [.fields, .free] ps) (f : Nat) :
    Only ps s (keepVplane t f) := by
  unfold keepVplane
  repeat' (first
    | with_reducible assumption
    | with_reducible exact hp.trans (.ofBool rfl)
    | with_reducible exact hp.mem rfl
    | with_reducible apply bumpFree_only
    | with_reducible apply Only.modField
    | with_reducible apply Only.iteTest
    | split)

theorem spineOff_only {ps : List Part} {s t : State} (h : Only ps s t) (hp : Within [.fields, .free] ps) (f : Nat) :
    Only ps s (spineOff t f) := by
  unfold spineOff
  repeat' (first
    | with_reducible assumption
    | with_reducible exact hp.trans (.ofBool rfl)
    | with_reducible exact hp.mem rfl
    | with_reducible apply keepVplane_only
    | with_reducible apply Only.modField)

theorem dropPlacement_only {ps : List Part} {s t : State} (h : Only ps s t) (hp : Within [.fields, .regions, .master] ps) :
    Only ps s (dropPlacement t) := by
  unfold dropPlacement
  repeat' (first
    | with_reducible assumption
    | with_reducible exact hp.trans (.ofBool rfl)
    | with_reducible exact hp.mem rfl
    | with_reducible apply keepTiles_only
    | with_reducible apply Only.modMaster)

theorem endWithSpine_only {ps : List Part} {s t : State} (h : Only ps s t) (hp : Within [.fields, .regions, .lnk, .na, .hst, .glb, .master, .spad, .before, .host, .badSpad] ps) (f : Nat) :
    Only ps s (endWithSpine t f) := by
  unfold endWithSpine
  repeat' (first
    | with_reducible assumption
    | with_reducible exact hp.trans (.ofBool rfl)
    | with_reducible exact hp.mem rfl
    | with_reducible apply abandonUnitAt_only
    | split)

theorem fieldLost_only {ps : List Part} {s t : State} (h : Only ps s t) (hp : Within [.pwr, .fields, .regions, .slots, .memStacks, .lnk, .na, .hst, .glb, .master, .farrier, .stud, .spad, .before, .host, .badSpad, .free] ps) (f : Nat) :
    Only ps s (fieldLost t f) := by
  unfold fieldLost
  repeat' (first
    | with_reducible assumption
    | with_reducible exact hp.trans (.ofBool rfl)
    | with_reducible exact hp.mem rfl
    | with_reducible intro _
    | with_reducible apply dropPlacement_only
    | with_reducible apply endWithSpine_only
    | with_reducible apply failUnit_only
    | with_reducible apply farrierAbandonAt_only
    | with_reducible apply fieldRegionsOff_only
    | with_reducible apply joinLost_only
    | with_reducible apply loseLandings_only
    | with_reducible apply publishEvent_only
    | with_reducible apply spineOff_only
    | with_reducible apply stackFail_only
    | with_reducible apply stopEverything_only
    | with_reducible apply Only.foldl
    | with_reducible apply Only.iteTest
    | split
    | dsimp only)

theorem d28Off_only {ps : List Part} {s t : State} (h : Only ps s t) (hp : Within [.pwr, .fields, .regions, .lnk, .na, .hst, .glb, .master, .stud, .spad, .before, .host, .badSpad] ps) (c : Nat) :
    Only ps s (d28Off t c) := by
  unfold d28Off
  repeat' (first
    | with_reducible assumption
    | with_reducible exact hp.trans (.ofBool rfl)
    | with_reducible exact hp.mem rfl
    | with_reducible intro _
    | with_reducible apply abandonUnit_only
    | with_reducible apply joinLost_only
    | with_reducible apply loseLandings_only
    | with_reducible apply stopEverything_only
    | with_reducible apply Only.foldl
    | dsimp only)

theorem driveCurb_only {ps : List Part} {s t : State} (h : Only ps s t) (hp : Within [.pwr] ps) :
    Only ps s (driveCurb t) := by
  unfold driveCurb
  repeat' (first
    | with_reducible assumption
    | with_reducible exact hp.trans (.ofBool rfl)
    | with_reducible exact hp.mem rfl
    | with_reducible apply Only.modPwr)

theorem curbWalk_only {ps : List Part} {s t : State} (h : Only ps s t) (hp : Within [.fields] ps) :
    Only ps s (curbWalk t) := by
  unfold curbWalk
  repeat' (first
    | with_reducible assumption
    | with_reducible exact hp.trans (.ofBool rfl)
    | with_reducible exact hp.mem rfl
    | with_reducible intro _
    | with_reducible apply setGait_only
    | with_reducible apply Only.foldl
    | with_reducible apply Only.iteTest
    | split)

theorem requestPower_only {ps : List Part} {s t : State} (h : Only ps s t) (hp : Within [.fields] ps) (r : Nat) :
    Only ps s (requestPower t r) := by
  unfold requestPower
  repeat' (first
    | with_reducible assumption
    | with_reducible exact hp.trans (.ofBool rfl)
    | with_reducible exact hp.mem rfl
    | with_reducible apply Only.modField
    | with_reducible apply Only.iteTest
    | split
    | dsimp only)

theorem endSoftStart_only {ps : List Part} {s t : State} (h : Only ps s t) (hp : Within [.fields] ps) (r : Nat) :
    Only ps s (endSoftStart t r) := by
  unfold endSoftStart
  repeat' (first
    | with_reducible assumption
    | with_reducible exact hp.trans (.ofBool rfl)
    | with_reducible exact hp.mem rfl
    | with_reducible apply Only.modField
    | with_reducible apply Only.iteTest
    | split)

/-! ### Machine/Power.lean -/

theorem execInputOvercurrent_only {ps : List Part} {s t : State} (h : Only ps s t) (hp : Within [.pwr] ps) :
    ResOnly ps s (execInputOvercurrent t) := by
  unfold execInputOvercurrent
  repeat' (first
    | with_reducible assumption
    | with_reducible exact hp.trans (.ofBool rfl)
    | with_reducible exact hp.mem rfl
    | with_reducible apply driveCurb_only
    | with_reducible apply ResOnly.next)

theorem execPlaneLow_only {ps : List Part} {s t : State} (h : Only ps s t) (hp : Within [.pwr] ps) (field : Nat) :
    ResOnly ps s (execPlaneLow field t) := by
  unfold execPlaneLow
  repeat' (first
    | with_reducible assumption
    | with_reducible exact hp.trans (.ofBool rfl)
    | with_reducible exact hp.mem rfl
    | with_reducible apply driveCurb_only
    | with_reducible apply ResOnly.next
    | with_reducible apply ResOnly.onUnit)

theorem execPlaneAbove30sRating_only {ps : List Part} {s t : State} (h : Only ps s t) (hp : Within [.pwr] ps) (field : Nat) :
    ResOnly ps s (execPlaneAbove30sRating field t) := by
  unfold execPlaneAbove30sRating
  repeat' (first
    | with_reducible assumption
    | with_reducible exact hp.trans (.ofBool rfl)
    | with_reducible exact hp.mem rfl
    | with_reducible apply driveCurb_only
    | with_reducible apply ResOnly.next
    | with_reducible apply ResOnly.onUnit)

theorem execStageAbove125c_only {ps : List Part} {s t : State} (h : Only ps s t) (hp : Within [.pwr] ps) (field : Nat) :
    ResOnly ps s (execStageAbove125c field t) := by
  unfold execStageAbove125c
  repeat' (first
    | with_reducible assumption
    | with_reducible exact hp.trans (.ofBool rfl)
    | with_reducible exact hp.mem rfl
    | with_reducible apply driveCurb_only
    | with_reducible apply ResOnly.next
    | with_reducible apply ResOnly.onUnit)

theorem slowSoftStarts_only {ps : List Part} {s t : State} (h : Only ps s t) (hp : Within [.fields] ps) :
    Only ps s (slowSoftStarts t) := by
  unfold slowSoftStarts
  repeat' (first
    | with_reducible assumption
    | with_reducible exact hp.trans (.ofBool rfl)
    | with_reducible exact hp.mem rfl
    | exact Only.to (qs := [.fields]) h (hp.trans (.ofBool rfl)) fun p hn => by cases p <;> first | rfl | exact absurd (by decide) hn)

theorem execCurbNAssert_only {ps : List Part} {s t : State} (h : Only ps s t) (hp : Within [.pwr, .fields, .regions, .na, .hst, .farrier, .spad, .before, .host, .badSpad] ps) (own : Bool) :
    ResOnly ps s (execCurbNAssert own t) := by
  unfold execCurbNAssert
  repeat' (first
    | with_reducible assumption
    | with_reducible exact hp.trans (.ofBool rfl)
    | with_reducible exact hp.mem rfl
    | with_reducible apply curbWalk_only
    | with_reducible apply farrierAbandon_only
    | with_reducible apply postEvent_only
    | with_reducible apply slowSoftStarts_only
    | with_reducible apply Only.modPwr
    | with_reducible apply Only.iteTest
    | with_reducible apply ResOnly.next
    | with_reducible apply ResOnly.iteTest
    | split
    | dsimp only)

theorem execCurbNModuleRelease_only {ps : List Part} {s t : State} (h : Only ps s t) (hp : Within [.pwr] ps) :
    ResOnly ps s (execCurbNModuleRelease t) := by
  unfold execCurbNModuleRelease
  repeat' (first
    | with_reducible assumption
    | with_reducible exact hp.trans (.ofBool rfl)
    | with_reducible exact hp.mem rfl
    | with_reducible apply Only.modPwr
    | with_reducible apply ResOnly.next)

theorem execCurbNExternalRelease_only {ps : List Part} {s t : State} (h : Only ps s t) (hp : Within [.pwr] ps) :
    ResOnly ps s (execCurbNExternalRelease t) := by
  unfold execCurbNExternalRelease
  repeat' (first
    | with_reducible assumption
    | with_reducible exact hp.trans (.ofBool rfl)
    | with_reducible exact hp.mem rfl
    | with_reducible apply Only.modPwr
    | with_reducible apply ResOnly.next)

theorem execCurbRestore_only {ps : List Part} {s t : State} (h : Only ps s t) (hp : Within [.pwr, .fields] ps) :
    ResOnly ps s (execCurbRestore t) := by
  unfold execCurbRestore
  repeat' (first
    | with_reducible assumption
    | with_reducible exact hp.trans (.ofBool rfl)
    | with_reducible exact hp.mem rfl
    | with_reducible intro _
    | with_reducible apply startRise_only
    | with_reducible apply Only.modPwr
    | with_reducible apply Only.foldl
    | with_reducible apply Only.iteTest
    | with_reducible apply ResOnly.next
    | with_reducible apply ResOnly.iteTest
    | split)

theorem planeSwitchOff_only {ps : List Part} {s t : State} (h : Only ps s t) (hp : Within [.pwr, .fields, .regions, .slots, .memStacks, .lnk, .na, .hst, .glb, .master, .farrier, .stud, .spad, .before, .host, .badSpad, .free] ps) (f : Nat) :
    Only ps s (planeSwitchOff t f) := by
  unfold planeSwitchOff
  repeat' (first
    | with_reducible assumption
    | with_reducible exact hp.trans (.ofBool rfl)
    | with_reducible exact hp.mem rfl
    | with_reducible apply failUnit_only
    | with_reducible apply fieldLost_only
    | with_reducible apply keepVplane_only
    | with_reducible apply Only.modField)

theorem execStagePhaseFailure_only {ps : List Part} {s t : State} (h : Only ps s t) (hp : Within [.pwr, .fields, .regions, .slots, .memStacks, .lnk, .na, .hst, .glb, .master, .farrier, .stud, .spad, .before, .host, .badSpad, .free] ps) (field : Nat) :
    ResOnly ps s (execStagePhaseFailure field t) := by
  unfold execStagePhaseFailure
  repeat' (first
    | with_reducible assumption
    | with_reducible exact hp.trans (.ofBool rfl)
    | with_reducible exact hp.mem rfl
    | with_reducible apply dropGait_only
    | with_reducible apply planeSwitchOff_only
    | with_reducible apply Only.modField
    | with_reducible apply Only.iteTest
    | with_reducible apply ResOnly.next
    | with_reducible apply ResOnly.onUnit
    | with_reducible apply ResOnly.iteTest
    | split
    | dsimp only)

theorem execPlaneSenseLost_only {ps : List Part} {s t : State} (h : Only ps s t) (hp : Within [.fields, .na, .hst, .stud, .host] ps) (field : Nat) :
    ResOnly ps s (execPlaneSenseLost field t) := by
  unfold execPlaneSenseLost
  repeat' (first
    | with_reducible assumption
    | with_reducible exact hp.trans (.ofBool rfl)
    | with_reducible exact hp.mem rfl
    | with_reducible apply dropGait_only
    | with_reducible apply postEvent_only
    | with_reducible apply recordFaultOnly_only
    | with_reducible apply Only.modField
    | with_reducible apply Only.iteTest
    | with_reducible apply ResOnly.next
    | with_reducible apply ResOnly.onUnit
    | with_reducible apply ResOnly.iteTest
    | split
    | dsimp only)

theorem execPlaneCollapse_only {ps : List Part} {s t : State} (h : Only ps s t) (hp : Within [.pwr, .fields, .regions, .slots, .memStacks, .lnk, .na, .hst, .glb, .master, .farrier, .stud, .spad, .before, .host, .badSpad, .free] ps) (field : Nat) :
    ResOnly ps s (execPlaneCollapse field t) := by
  unfold execPlaneCollapse
  repeat' (first
    | with_reducible assumption
    | with_reducible exact hp.trans (.ofBool rfl)
    | with_reducible exact hp.mem rfl
    | with_reducible apply planeSwitchOff_only
    | with_reducible apply Only.iteTest
    | with_reducible apply ResOnly.next
    | with_reducible apply ResOnly.onUnit
    | with_reducible apply ResOnly.iteTest
    | split)

theorem execIvrPhaseLost_only {ps : List Part} {s t : State} (h : Only ps s t) (hp : Within [.fields, .regions, .slots, .lnk, .na, .hst, .glb, .master, .farrier, .stud, .spad, .before, .host, .badSpad, .free] ps) (region : Nat) (phase : Nat) :
    ResOnly ps s (execIvrPhaseLost region phase t) := by
  unfold execIvrPhaseLost
  repeat' (first
    | with_reducible assumption
    | with_reducible exact hp.trans (.ofBool rfl)
    | with_reducible exact hp.mem rfl
    | with_reducible apply dropGait_only
    | with_reducible apply endSoftStart_only
    | with_reducible apply failRegion_only
    | with_reducible apply farrierAbandonAt_only
    | with_reducible apply postFieldEvent_only
    | with_reducible apply recordFault_only
    | with_reducible apply regionOff_only
    | with_reducible apply Only.modRegion
    | with_reducible apply Only.iteTest
    | with_reducible apply ResOnly.next
    | with_reducible apply ResOnly.onUnit
    | with_reducible apply ResOnly.iteTest
    | split
    | dsimp only)

theorem execSpineIvrLoss_only {ps : List Part} {s t : State} (h : Only ps s t) (hp : Within [.pwr, .fields, .regions, .slots, .memStacks, .lnk, .na, .hst, .glb, .master, .farrier, .stud, .spad, .before, .host, .badSpad, .free] ps) (spine : Bool) (unit : Nat) (lost : Nat) :
    ResOnly ps s (execSpineIvrLoss spine unit lost t) := by
  unfold execSpineIvrLoss
  repeat' (first
    | with_reducible assumption
    | with_reducible exact hp.trans (.ofBool rfl)
    | with_reducible exact hp.mem rfl
    | with_reducible apply d28Off_only
    | with_reducible apply fieldLost_only
    | with_reducible apply Only.modField
    | with_reducible apply Only.modPwr
    | with_reducible apply Only.iteTest
    | with_reducible apply ResOnly.next
    | with_reducible apply ResOnly.onUnit
    | with_reducible apply ResOnly.iteTest
    | split
    | dsimp only)

theorem blowFuse_only {ps : List Part} {s t : State} (h : Only ps s t) (hp : Within [.regions, .na, .hst, .stud, .host] ps) (r : Nat) :
    Only ps s (blowFuse t r) := by
  unfold blowFuse
  repeat' (first
    | with_reducible assumption
    | with_reducible exact hp.trans (.ofBool rfl)
    | with_reducible exact hp.mem rfl
    | with_reducible apply retireUnit_only
    | with_reducible apply Only.modRegion
    | with_reducible apply Only.iteTest
    | split)

theorem execEfuseOpening_only {ps : List Part} {s t : State} (h : Only ps s t) (hp : Within [.fields, .regions, .slots, .lnk, .na, .hst, .glb, .master, .farrier, .stud, .spad, .before, .host, .badSpad] ps) (region : Nat) :
    ResOnly ps s (execEfuseOpening region t) := by
  unfold execEfuseOpening
  repeat' (first
    | with_reducible assumption
    | with_reducible exact hp.trans (.ofBool rfl)
    | with_reducible exact hp.mem rfl
    | with_reducible apply blowFuse_only
    | with_reducible apply endSoftStart_only
    | with_reducible apply failRegion_only
    | with_reducible apply farrierAbandonAt_only
    | with_reducible apply noteOpening_only
    | with_reducible apply postEvent_only
    | with_reducible apply regionOff_only
    | with_reducible apply Only.modRegion
    | with_reducible apply Only.iteTest
    | with_reducible apply ResOnly.next
    | with_reducible apply ResOnly.onUnit
    | with_reducible apply ResOnly.iteTest
    | split
    | dsimp only)

theorem execRegionPowerUpRequest_only {ps : List Part} {s t : State} (h : Only ps s t) (hp : Within [.fields] ps) (region : Nat) :
    ResOnly ps s (execRegionPowerUpRequest region t) := by
  unfold execRegionPowerUpRequest
  repeat' (first
    | with_reducible assumption
    | with_reducible exact hp.trans (.ofBool rfl)
    | with_reducible exact hp.mem rfl
    | with_reducible apply requestPower_only
    | with_reducible apply ResOnly.next
    | with_reducible apply ResOnly.onUnit)

theorem beginSoftStart_only {ps : List Part} {s t : State} (h : Only ps s t) (hp : Within [.fields] ps) (f : Nat) (slow : Bool) (headroom : Bool) :
    Only ps s (beginSoftStart t f slow headroom) := by
  unfold beginSoftStart
  repeat' (first
    | with_reducible assumption
    | with_reducible exact hp.trans (.ofBool rfl)
    | with_reducible exact hp.mem rfl
    | with_reducible apply Only.modField
    | split)

theorem execSoftStartBegin_only {ps : List Part} {s t : State} (h : Only ps s t) (hp : Within [.fields] ps) (field : Nat) :
    ResOnly ps s (execSoftStartBegin field t) := by
  unfold execSoftStartBegin
  repeat' (first
    | with_reducible assumption
    | with_reducible exact hp.trans (.ofBool rfl)
    | with_reducible exact hp.mem rfl
    | with_reducible apply beginSoftStart_only
    | with_reducible apply ResOnly.next
    | with_reducible apply ResOnly.onUnit)

theorem execSoftStartSlow_only {ps : List Part} {s t : State} (h : Only ps s t) (hp : Within [.fields] ps) (field : Nat) :
    ResOnly ps s (execSoftStartSlow field t) := by
  unfold execSoftStartSlow
  repeat' (first
    | with_reducible assumption
    | with_reducible exact hp.trans (.ofBool rfl)
    | with_reducible exact hp.mem rfl
    | with_reducible apply beginSoftStart_only
    | with_reducible apply ResOnly.next
    | with_reducible apply ResOnly.onUnit)

theorem powerOnRegion_only {ps : List Part} {s t : State} (h : Only ps s t) (hp : Within [.fields, .regions, .spad, .before, .badSpad, .free] ps) (r : Nat) (vcore : Nat) (temp : Nat) :
    Only ps s (powerOnRegion t r vcore temp) := by
  unfold powerOnRegion
  repeat' (first
    | with_reducible assumption
    | with_reducible exact hp.trans (.ofBool rfl)
    | with_reducible exact hp.mem rfl
    | with_reducible apply noteRail_only
    | with_reducible apply updBanks_only
    | with_reducible apply Only.modRegion)

theorem heatReturn_only {ps : List Part} {s t : State} (h : Only ps s t) (hp : Within [.fields, .regions, .na, .hst, .glb, .spad, .before, .host, .badSpad] ps) (r : Nat) (temp : Nat) :
    Only ps s (heatReturn t r temp) := by
  unfold heatReturn
  repeat' (first
    | with_reducible assumption
    | with_reducible exact hp.trans (.ofBool rfl)
    | with_reducible exact hp.mem rfl
    | with_reducible apply dropGait_only
    | with_reducible apply publishEvent_only
    | with_reducible apply regionOff_only
    | with_reducible apply updBanks_only
    | with_reducible apply Only.modRegion
    | with_reducible apply Only.iteTest
    | split)

theorem hardReturn_only {ps : List Part} {s t : State} (h : Only ps s t) (hp : Within [.regions, .farrier, .spad, .before, .badSpad] ps) (r : Nat) (temp : Nat) :
    Only ps s (hardReturn t r temp) := by
  unfold hardReturn
  repeat' (first
    | with_reducible assumption
    | with_reducible exact hp.trans (.ofBool rfl)
    | with_reducible exact hp.mem rfl
    | with_reducible apply regionOff_only
    | with_reducible apply Only.modRegion
    | with_reducible apply Only.modFarrier
    | with_reducible apply Only.iteTest
    | split
    | dsimp only)

theorem execSoftStartEnd_only {ps : List Part} {s t : State} (h : Only ps s t) (hp : Within [.fields, .regions, .na, .hst, .glb, .farrier, .spad, .before, .host, .badSpad, .free] ps) (field : Nat) (vcore : Nat) (temp : Nat) :
    ResOnly ps s (execSoftStartEnd field vcore temp t) := by
  unfold execSoftStartEnd
  repeat' (first
    | with_reducible assumption
    | with_reducible exact hp.trans (.ofBool rfl)
    | with_reducible exact hp.mem rfl
    | with_reducible apply hardReturn_only
    | with_reducible apply heatReturn_only
    | with_reducible apply powerOnRegion_only
    | with_reducible apply Only.modField
    | with_reducible apply Only.iteTest
    | with_reducible apply ResOnly.next
    | with_reducible apply ResOnly.onUnit
    | with_reducible apply ResOnly.iteTest
    | split
    | dsimp only)

theorem execGallopLimitUpdate_only {ps : List Part} {s t : State} (h : Only ps s t) (hp : Within [.pwr, .fields] ps) (powerIn : Nat) (iPlane : List Nat) :
    ResOnly ps s (execGallopLimitUpdate powerIn iPlane t) := by
  unfold execGallopLimitUpdate
  refine .next (dropAll_only (Only.modPwr ?_ (hp.mem rfl)) (hp.trans (.ofBool rfl)))
  exact Only.to (qs := [.fields]) h (hp.trans (.ofBool rfl)) fun p hn => by cases p <;> first | rfl | exact absurd (by decide) hn

theorem execWearCreditCheckpoint_only {ps : List Part} {s t : State} (h : Only ps s t) (hp : Within [.stud] ps) :
    ResOnly ps s (execWearCreditCheckpoint t) := by
  unfold execWearCreditCheckpoint
  repeat' (first
    | with_reducible assumption
    | with_reducible exact hp.trans (.ofBool rfl)
    | with_reducible exact hp.mem rfl
    | with_reducible apply Only.iteTest
    | with_reducible apply ResOnly.next
    | with_reducible apply ResOnly.iteTest
    | split
    | exact Only.to (qs := [.stud]) h (hp.trans (.ofBool rfl)) fun p hn => by cases p <;> first | rfl | exact absurd (by decide) hn)

theorem execPowerCapCompare_only {ps : List Part} {s t : State} (h : Only ps s t) (hp : Within [.pwr, .fields, .na, .hst, .host] ps) (powerIn : Nat) :
    ResOnly ps s (execPowerCapCompare powerIn t) := by
  unfold execPowerCapCompare
  repeat' (first
    | with_reducible assumption
    | with_reducible exact hp.trans (.ofBool rfl)
    | with_reducible exact hp.mem rfl
    | with_reducible apply dropGait_only
    | with_reducible apply postEvent_only
    | with_reducible apply Only.modField
    | with_reducible apply Only.modPwr
    | with_reducible apply Only.iteTest
    | with_reducible apply ResOnly.next
    | with_reducible apply ResOnly.iteTest
    | split
    | dsimp only)

theorem execPowerCapRaise_only {ps : List Part} {s t : State} (h : Only ps s t) (hp : Within [.pwr, .fields] ps) (powerIn : Nat) :
    ResOnly ps s (execPowerCapRaise powerIn t) := by
  unfold execPowerCapRaise
  repeat' (first
    | with_reducible assumption
    | with_reducible exact hp.trans (.ofBool rfl)
    | with_reducible exact hp.mem rfl
    | with_reducible apply startRise_only
    | with_reducible apply Only.modField
    | with_reducible apply Only.modPwr
    | with_reducible apply Only.iteTest
    | with_reducible apply ResOnly.next
    | with_reducible apply ResOnly.iteTest
    | split
    | dsimp only)

/-! ### Machine/Thermal.lean -/

theorem heatSwitchOff_only {ps : List Part} {s t : State} (h : Only ps s t) (hp : Within [.fields, .regions, .slots, .lnk, .na, .hst, .glb, .master, .spad, .before, .host, .badSpad] ps) (r : Nat) :
    Only ps s (heatSwitchOff t r) := by
  unfold heatSwitchOff
  repeat' (first
    | with_reducible assumption
    | with_reducible exact hp.trans (.ofBool rfl)
    | with_reducible exact hp.mem rfl
    | with_reducible apply leaveWeave_only
    | with_reducible apply publishEvent_only
    | with_reducible apply Only.modRegion)

theorem markHeat_only {ps : List Part} {s t : State} (h : Only ps s t) (hp : Within [.fields, .regions, .slots, .lnk, .na, .hst, .glb, .master, .spad, .before, .host, .badSpad] ps) (r : Nat) :
    Only ps s (markHeat t r) := by
  unfold markHeat
  repeat' (first
    | with_reducible assumption
    | with_reducible exact hp.trans (.ofBool rfl)
    | with_reducible exact hp.mem rfl
    | with_reducible apply heatSwitchOff_only
    | with_reducible apply Only.modField
    | with_reducible apply Only.modRegion
    | with_reducible apply Only.iteTest
    | split
    | dsimp only)

theorem hardLimit_only {ps : List Part} {s t : State} (h : Only ps s t) (hp : Within [.fields, .regions, .slots, .lnk, .na, .hst, .glb, .master, .farrier, .spad, .before, .host, .badSpad] ps) (r : Nat) :
    Only ps s (hardLimit t r) := by
  unfold hardLimit
  repeat' (first
    | with_reducible assumption
    | with_reducible exact hp.trans (.ofBool rfl)
    | with_reducible exact hp.mem rfl
    | with_reducible apply failRegion_only
    | with_reducible apply farrierAbandonAt_only
    | with_reducible apply Only.modRegion)

theorem tempDrop_only {ps : List Part} {s t : State} (h : Only ps s t) (hp : Within [.fields] ps) (f : Nat) :
    Only ps s (tempDrop t f) := by
  unfold tempDrop
  repeat' (first
    | with_reducible assumption
    | with_reducible exact hp.trans (.ofBool rfl)
    | with_reducible exact hp.mem rfl
    | with_reducible apply dropGait_only
    | with_reducible apply Only.modField
    | with_reducible apply Only.iteTest
    | split)

theorem tempRelease_only {ps : List Part} {s t : State} (h : Only ps s t) (hp : Within [.fields] ps) (f : Nat) :
    Only ps s (tempRelease t f) := by
  unfold tempRelease
  repeat' (first
    | with_reducible assumption
    | with_reducible exact hp.trans (.ofBool rfl)
    | with_reducible exact hp.mem rfl
    | with_reducible apply Only.modField
    | with_reducible apply Only.iteTest
    | split)

theorem heatWatch_only {ps : List Part} {s t : State} (h : Only ps s t) (hp : Within [.fields, .regions, .slots, .lnk, .na, .hst, .glb, .master, .spad, .before, .host, .badSpad] ps) (r : Nat) :
    Only ps s (heatWatch t r) := by
  unfold heatWatch
  repeat' (first
    | with_reducible assumption
    | with_reducible exact hp.trans (.ofBool rfl)
    | with_reducible exact hp.mem rfl
    | with_reducible apply markHeat_only
    | with_reducible apply Only.modRegion
    | with_reducible apply Only.iteTest
    | split
    | dsimp only)

theorem execRegionTempSample_only {ps : List Part} {s t : State} (h : Only ps s t) (hp : Within [.fields, .regions, .slots, .lnk, .na, .hst, .glb, .master, .farrier, .spad, .before, .host, .badSpad] ps) (region : Nat) (temp : Nat) (sensorOk : Bool) :
    ResOnly ps s (execRegionTempSample region temp sensorOk t) := by
  unfold execRegionTempSample
  repeat' (first
    | with_reducible assumption
    | with_reducible exact hp.trans (.ofBool rfl)
    | with_reducible exact hp.mem rfl
    | with_reducible apply farrierAbandonAt_only
    | with_reducible apply hardLimit_only
    | with_reducible apply heatWatch_only
    | with_reducible apply noteStress_only
    | with_reducible apply tempDrop_only
    | with_reducible apply tempRelease_only
    | with_reducible apply Only.modRegion
    | with_reducible apply Only.iteTest
    | with_reducible apply ResOnly.next
    | with_reducible apply ResOnly.onUnit
    | with_reducible apply ResOnly.iteTest
    | split
    | dsimp only)

theorem execHeatDarkEnd_only {ps : List Part} {s t : State} (h : Only ps s t) (hp : Within [.fields] ps) (region : Nat) :
    ResOnly ps s (execHeatDarkEnd region t) := by
  unfold execHeatDarkEnd
  repeat' (first
    | with_reducible assumption
    | with_reducible exact hp.trans (.ofBool rfl)
    | with_reducible exact hp.mem rfl
    | with_reducible apply requestPower_only
    | with_reducible apply Only.iteTest
    | with_reducible apply ResOnly.next
    | with_reducible apply ResOnly.onUnit
    | with_reducible apply ResOnly.iteTest
    | split)

theorem sessionSwitchOff_only {ps : List Part} {s t : State} (h : Only ps s t) (hp : Within [.fields, .regions, .slots, .lnk, .na, .hst, .glb, .master, .spad, .before, .host, .badSpad] ps) (r : Nat) :
    Only ps s (sessionSwitchOff t r) := by
  unfold sessionSwitchOff
  repeat' (first
    | with_reducible assumption
    | with_reducible exact hp.trans (.ofBool rfl)
    | with_reducible exact hp.mem rfl
    | with_reducible apply leaveWeave_only
    | with_reducible apply publishEvent_only
    | with_reducible apply Only.modRegion)

theorem execOperationBoundarySwitchOff_only {ps : List Part} {s t : State} (h : Only ps s t) (hp : Within [.fields, .regions, .slots, .lnk, .na, .hst, .glb, .master, .spad, .before, .host, .badSpad] ps) (region : Nat) :
    ResOnly ps s (execOperationBoundarySwitchOff region t) := by
  unfold execOperationBoundarySwitchOff
  repeat' (first
    | with_reducible assumption
    | with_reducible exact hp.trans (.ofBool rfl)
    | with_reducible exact hp.mem rfl
    | with_reducible apply heatSwitchOff_only
    | with_reducible apply sessionSwitchOff_only
    | with_reducible apply Only.iteTest
    | with_reducible apply ResOnly.next
    | with_reducible apply ResOnly.onUnit
    | with_reducible apply ResOnly.iteTest
    | split)

theorem replacePre_only {ps : List Part} {s t : State} (h : Only ps s t) (hp : Within [.fields, .regions, .master] ps) :
    Only ps s (replacePre t) := by
  unfold replacePre
  repeat' (first
    | with_reducible assumption
    | with_reducible exact hp.trans (.ofBool rfl)
    | with_reducible exact hp.mem rfl
    | with_reducible apply keepTiles_only
    | with_reducible apply Only.modMaster)

theorem execCapPolicySwitchOff_only {ps : List Part} {s t : State} (h : Only ps s t) (hp : Within [.fields, .regions, .slots, .lnk, .na, .hst, .glb, .master, .farrier, .spad, .before, .host, .badSpad] ps) (region : Nat) :
    ResOnly ps s (execCapPolicySwitchOff region t) := by
  unfold execCapPolicySwitchOff
  repeat' (first
    | with_reducible assumption
    | with_reducible exact hp.trans (.ofBool rfl)
    | with_reducible exact hp.mem rfl
    | with_reducible apply farrierAbandonAt_only
    | with_reducible apply leaveWeave_only
    | with_reducible apply publishEvent_only
    | with_reducible apply replacePre_only
    | with_reducible apply updAllBanks_only
    | with_reducible apply Only.iteTest
    | with_reducible apply ResOnly.next
    | with_reducible apply ResOnly.onUnit
    | with_reducible apply ResOnly.iteTest
    | split)

theorem execDieThermalTrip_only {ps : List Part} {s t : State} (h : Only ps s t) (hp : Within [.pwr, .fields, .regions, .slots, .memStacks, .lnk, .na, .hst, .glb, .master, .farrier, .stud, .spad, .before, .host, .badSpad, .free] ps) (die : Nat) :
    ResOnly ps s (execDieThermalTrip die t) := by
  unfold execDieThermalTrip
  repeat' (first
    | with_reducible assumption
    | with_reducible exact hp.trans (.ofBool rfl)
    | with_reducible exact hp.mem rfl
    | with_reducible intro _
    | with_reducible apply fieldLost_only
    | with_reducible apply Only.modRegion
    | with_reducible apply Only.foldl
    | with_reducible apply ResOnly.next
    | with_reducible apply ResOnly.onUnit
    | dsimp only)

theorem execCoolantAlarm_only {ps : List Part} {s t : State} (h : Only ps s t) (hp : Within [.pwr, .na, .hst, .host] ps) (inlet : Nat) (outlet : Nat) (spread : Nat) :
    ResOnly ps s (execCoolantAlarm inlet outlet spread t) := by
  unfold execCoolantAlarm
  repeat' (first
    | with_reducible assumption
    | with_reducible exact hp.trans (.ofBool rfl)
    | with_reducible exact hp.mem rfl
    | with_reducible apply postEvent_only
    | with_reducible apply Only.modPwr
    | with_reducible apply Only.iteTest
    | with_reducible apply ResOnly.next
    | with_reducible apply ResOnly.iteTest
    | split
    | dsimp only)

theorem execTrimCapHeld30Days_only {ps : List Part} {s t : State} (h : Only ps s t) (hp : Within [.na, .hst, .stud, .host] ps) (region : Nat) :
    ResOnly ps s (execTrimCapHeld30Days region t) := by
  unfold execTrimCapHeld30Days
  repeat' (first
    | with_reducible assumption
    | with_reducible exact hp.trans (.ofBool rfl)
    | with_reducible exact hp.mem rfl
    | with_reducible apply retireUnit_only
    | with_reducible apply Only.iteTest
    | with_reducible apply ResOnly.next
    | with_reducible apply ResOnly.onUnit
    | with_reducible apply ResOnly.iteTest
    | split)

/-! ### Machine/Clocks.lean -/

theorem execGaitDown_only {ps : List Part} {s t : State} (h : Only ps s t) (hp : Within [.fields] ps) (field : Nat) :
    ResOnly ps s (execGaitDown field t) := by
  unfold execGaitDown
  repeat' (first
    | with_reducible assumption
    | with_reducible exact hp.trans (.ofBool rfl)
    | with_reducible exact hp.mem rfl
    | with_reducible apply dropGait_only
    | with_reducible apply ResOnly.next
    | with_reducible apply ResOnly.onUnit)

theorem demoteEnd_only {ps : List Part} {s t : State} (h : Only ps s t) (hp : Within [.fields] ps) (f : Nat) :
    Only ps s (demoteEnd t f) := by
  unfold demoteEnd
  repeat' (first
    | with_reducible assumption
    | with_reducible exact hp.trans (.ofBool rfl)
    | with_reducible exact hp.mem rfl
    | with_reducible apply Only.modField
    | with_reducible apply Only.iteTest
    | split
    | dsimp only)

theorem execGaitUp_only {ps : List Part} {s t : State} (h : Only ps s t) (hp : Within [.fields] ps) (field : Nat) :
    ResOnly ps s (execGaitUp field t) := by
  unfold execGaitUp
  repeat' (first
    | with_reducible assumption
    | with_reducible exact hp.trans (.ofBool rfl)
    | with_reducible exact hp.mem rfl
    | with_reducible apply demoteEnd_only
    | with_reducible apply setGait_only
    | with_reducible apply Only.modField
    | with_reducible apply Only.iteTest
    | with_reducible apply ResOnly.next
    | with_reducible apply ResOnly.onUnit
    | with_reducible apply ResOnly.iteTest
    | split)

theorem execGrantedGaitRise_only {ps : List Part} {s t : State} (h : Only ps s t) (hp : Within [.fields] ps) (field : Nat) :
    ResOnly ps s (execGrantedGaitRise field t) := by
  unfold execGrantedGaitRise
  repeat' (first
    | with_reducible assumption
    | with_reducible exact hp.trans (.ofBool rfl)
    | with_reducible exact hp.mem rfl
    | with_reducible apply startRise_only
    | with_reducible apply ResOnly.next
    | with_reducible apply ResOnly.onUnit)

theorem execIdleWalk_only {ps : List Part} {s t : State} (h : Only ps s t) (hp : Within [.fields] ps) (field : Nat) :
    ResOnly ps s (execIdleWalk field t) := by
  unfold execIdleWalk
  repeat' (first
    | with_reducible assumption
    | with_reducible exact hp.trans (.ofBool rfl)
    | with_reducible exact hp.mem rfl
    | with_reducible apply dropGait_only
    | with_reducible apply Only.modField
    | with_reducible apply Only.iteTest
    | with_reducible apply ResOnly.next
    | with_reducible apply ResOnly.onUnit
    | with_reducible apply ResOnly.iteTest
    | split)

theorem noteOccupancy_only {ps : List Part} {s t : State} (h : Only ps s t) (hp : Within [.fields] ps) (f : Nat) (d : Nat) :
    Only ps s (noteOccupancy t f d) := by
  unfold noteOccupancy
  repeat' (first
    | with_reducible assumption
    | with_reducible exact hp.trans (.ofBool rfl)
    | with_reducible exact hp.mem rfl
    | with_reducible intro _
    | with_reducible apply Only.modEdge
    | with_reducible apply Only.foldl
    | with_reducible apply Only.iteTest
    | split)

theorem noteCrossings_only {ps : List Part} {s t : State} (h : Only ps s t) (hp : Within [.fields] ps) (f : Nat) :
    Only ps s (noteCrossings t f) := by
  unfold noteCrossings
  repeat' (first
    | with_reducible assumption
    | with_reducible exact hp.trans (.ofBool rfl)
    | with_reducible exact hp.mem rfl
    | with_reducible intro _
    | with_reducible apply noteOccupancy_only
    | with_reducible apply Only.foldl
    | split)

theorem stretch_only {ps : List Part} {s t : State} (h : Only ps s t) (hp : Within [.fields] ps) (f : Nat) :
    Only ps s (stretch t f) := by
  unfold stretch
  repeat' (first
    | with_reducible assumption
    | with_reducible exact hp.trans (.ofBool rfl)
    | with_reducible exact hp.mem rfl
    | with_reducible apply noteCrossings_only
    | with_reducible apply Only.modField)

theorem execDroopTrip_only {ps : List Part} {s t : State} (h : Only ps s t) (hp : Within [.fields, .regions, .free] ps) (region : Nat) (samePeriod : Bool := false) (vcore : Nat := 1024) :
    ResOnly ps s (execDroopTrip region t samePeriod vcore) := by
  unfold execDroopTrip
  repeat' (first
    | with_reducible assumption
    | with_reducible exact hp.trans (.ofBool rfl)
    | with_reducible exact hp.mem rfl
    | with_reducible apply noteRail_only
    | with_reducible apply stretch_only
    | with_reducible apply Only.modField
    | with_reducible apply Only.iteTest
    | with_reducible apply ResOnly.next
    | with_reducible apply ResOnly.onUnit
    | with_reducible apply ResOnly.iteTest
    | split
    | dsimp only)

theorem execReinEcho_only {ps : List Part} {s t : State} (h : Only ps s t) (hp : Within [.fields] ps) (field : Nat) (samePeriod : Bool := false) :
    ResOnly ps s (execReinEcho field t samePeriod) := by
  unfold execReinEcho
  repeat' (first
    | with_reducible assumption
    | with_reducible exact hp.trans (.ofBool rfl)
    | with_reducible exact hp.mem rfl
    | with_reducible apply stretch_only
    | with_reducible apply Only.iteTest
    | with_reducible apply ResOnly.next
    | with_reducible apply ResOnly.onUnit
    | with_reducible apply ResOnly.iteTest
    | split)

theorem demote_only {ps : List Part} {s t : State} (h : Only ps s t) (hp : Within [.fields, .na, .hst, .host] ps) (f : Nat) (own : Nat) :
    Only ps s (demote t f own) := by
  unfold demote
  repeat' (first
    | with_reducible assumption
    | with_reducible exact hp.trans (.ofBool rfl)
    | with_reducible exact hp.mem rfl
    | with_reducible apply dropGait_only
    | with_reducible apply postEvent_only
    | with_reducible apply Only.modField
    | with_reducible apply Only.iteTest
    | split)

theorem quietMs_only {ps : List Part} {s t : State} (h : Only ps s t) (hp : Within [.fields] ps) (f : Nat) :
    Only ps s (quietMs t f) := by
  unfold quietMs
  repeat' (first
    | with_reducible assumption
    | with_reducible exact hp.trans (.ofBool rfl)
    | with_reducible exact hp.mem rfl
    | with_reducible apply demoteEnd_only
    | with_reducible apply startRise_only
    | with_reducible apply Only.modField
    | with_reducible apply Only.iteTest
    | split
    | dsimp only)

theorem execDemotionCheck_only {ps : List Part} {s t : State} (h : Only ps s t) (hp : Within [.fields, .na, .hst, .host] ps) (field : Nat) (beats : Nat) :
    ResOnly ps s (execDemotionCheck field beats t) := by
  unfold execDemotionCheck
  repeat' (first
    | with_reducible assumption
    | with_reducible exact hp.trans (.ofBool rfl)
    | with_reducible exact hp.mem rfl
    | with_reducible apply demote_only
    | with_reducible apply quietMs_only
    | with_reducible apply Only.modField
    | with_reducible apply Only.iteTest
    | with_reducible apply ResOnly.next
    | with_reducible apply ResOnly.onUnit
    | with_reducible apply ResOnly.iteTest
    | split
    | dsimp only)

theorem execPllLock_only {ps : List Part} {s t : State} (h : Only ps s t) (hp : Within [.fields] ps) (field : Nat) :
    ResOnly ps s (execPllLock field t) := by
  unfold execPllLock
  repeat' (first
    | with_reducible assumption
    | with_reducible exact hp.trans (.ofBool rfl)
    | with_reducible exact hp.mem rfl
    | with_reducible apply changeCrossings_only
    | with_reducible apply Only.modField
    | with_reducible apply Only.iteTest
    | with_reducible apply ResOnly.next
    | with_reducible apply ResOnly.onUnit
    | with_reducible apply ResOnly.iteTest
    | split)

theorem execPllLossOfLock_only {ps : List Part} {s t : State} (h : Only ps s t) (hp : Within [.fields, .na, .hst, .host, .free] ps) (field : Nat) :
    ResOnly ps s (execPllLossOfLock field t) := by
  unfold execPllLossOfLock
  repeat' (first
    | with_reducible assumption
    | with_reducible exact hp.trans (.ofBool rfl)
    | with_reducible exact hp.mem rfl
    | with_reducible apply postFieldEvent_only
    | with_reducible apply Only.modField
    | with_reducible apply Only.iteTest
    | with_reducible apply ResOnly.next
    | with_reducible apply ResOnly.onUnit
    | with_reducible apply ResOnly.iteTest
    | split)

theorem modCrossing_only {ps : List Part} {s t : State} (h : Only ps s t) (hp : Within [.fields] ps) (f : Nat) (d : Nat) (g : Edge → Edge) :
    Only ps s (modCrossing t f d g) := by
  unfold modCrossing
  repeat' (first
    | with_reducible assumption
    | with_reducible exact hp.trans (.ofBool rfl)
    | with_reducible exact hp.mem rfl
    | with_reducible apply Only.modEdge
    | split)

theorem countReplay_only {ps : List Part} {s t : State} (h : Only ps s t) (hp : Within [.fields] ps) (f : Nat) (d : Nat) :
    Only ps s (countReplay t f d) := by
  unfold countReplay
  repeat' (first
    | with_reducible assumption
    | with_reducible exact hp.trans (.ofBool rfl)
    | with_reducible exact hp.mem rfl
    | with_reducible apply Only.modEdge)

theorem joinReplay_only {ps : List Part} {s t : State} (h : Only ps s t) (hp : Within [.fields, .regions, .lnk, .na, .hst, .glb, .master, .stud, .spad, .before, .host, .badSpad, .free] ps) (f : Nat) (d : Nat) (k : Nat) (third : Bool) :
    Only ps s (joinReplay t f d k third) := by
  unfold joinReplay
  repeat' (first
    | with_reducible assumption
    | with_reducible exact hp.trans (.ofBool rfl)
    | with_reducible exact hp.mem rfl
    | with_reducible apply countReplay_only
    | with_reducible apply disableSubLink_only
    | with_reducible apply joinCheck_only
    | with_reducible apply postFieldEvent_only
    | with_reducible apply Only.iteTest
    | split
    | dsimp only)

theorem landingReplay_only {ps : List Part} {s t : State} (h : Only ps s t) (hp : Within [.pwr, .fields, .regions, .lnk, .na, .hst, .glb, .master, .stud, .spad, .before, .host, .badSpad, .free] ps) (f : Nat) (d : Nat) (c : Nat) (h' : Nat) (k : Nat) (third : Bool) :
    Only ps s (landingReplay t f d c h' k third) := by
  unfold landingReplay
  repeat' (first
    | with_reducible assumption
    | with_reducible exact hp.trans (.ofBool rfl)
    | with_reducible exact hp.mem rfl
    | with_reducible apply countReplay_only
    | with_reducible apply disableLanding_only
    | with_reducible apply landingCheck_only
    | with_reducible apply postFieldEvent_only
    | with_reducible apply Only.iteTest
    | split
    | dsimp only)

theorem execCrossingFlitParityReplay_only {ps : List Part} {s t : State} (h : Only ps s t) (hp : Within [.pwr, .fields, .regions, .lnk, .na, .hst, .glb, .master, .stud, .spad, .before, .host, .badSpad, .free] ps) (field : Nat) (edge : Nat) (subLink : Nat) (thirdFailure : Bool) :
    ResOnly ps s (execCrossingFlitParityReplay field edge subLink thirdFailure t) := by
  unfold execCrossingFlitParityReplay
  repeat' (first
    | with_reducible assumption
    | with_reducible exact hp.trans (.ofBool rfl)
    | with_reducible exact hp.mem rfl
    | with_reducible apply countReplay_only
    | with_reducible apply joinReplay_only
    | with_reducible apply landingReplay_only
    | with_reducible apply Only.iteTest
    | with_reducible apply ResOnly.next
    | with_reducible apply ResOnly.onUnit
    | with_reducible apply ResOnly.iteTest
    | split)

theorem enterMeso_only {ps : List Part} {s t : State} (h : Only ps s t) (hp : Within [.fields, .free] ps) (f : Nat) (d : Nat) (leaving : List Nat) (entering : List Nat) :
    Only ps s (enterMeso t f d leaving entering) := by
  unfold enterMeso
  repeat' (first
    | with_reducible assumption
    | with_reducible exact hp.trans (.ofBool rfl)
    | with_reducible exact hp.mem rfl
    | with_reducible intro _
    | with_reducible apply bumpFree_only
    | with_reducible apply Only.modEdge
    | with_reducible apply Only.foldl
    | split
    | dsimp only)

theorem execCrossingAlignEnd_only {ps : List Part} {s t : State} (h : Only ps s t) (hp : Within [.fields, .regions, .lnk, .na, .hst, .glb, .master, .stud, .spad, .before, .host, .badSpad, .free] ps) (field : Nat) (edge : Nat) (leaving : List Nat) (entering : List Nat) :
    ResOnly ps s (execCrossingAlignEnd field edge leaving entering t) := by
  unfold execCrossingAlignEnd
  repeat' (first
    | with_reducible assumption
    | with_reducible exact hp.trans (.ofBool rfl)
    | with_reducible exact hp.mem rfl
    | with_reducible intro _
    | with_reducible apply disableSubLink_only
    | with_reducible apply enterMeso_only
    | with_reducible apply joinCheck_only
    | with_reducible apply Only.foldl
    | with_reducible apply Only.iteTest
    | with_reducible apply ResOnly.next
    | with_reducible apply ResOnly.onUnit
    | with_reducible apply ResOnly.iteTest
    | split
    | dsimp only)

theorem noteSlip_only {ps : List Part} {s t : State} (h : Only ps s t) (hp : Within [.fields] ps) (f : Nat) (d : Nat) (leaving : Bool) (full : Bool) :
    Only ps s (noteSlip t f d leaving full) := by
  unfold noteSlip
  repeat' (first
    | with_reducible assumption
    | with_reducible exact hp.trans (.ofBool rfl)
    | with_reducible exact hp.mem rfl
    | with_reducible apply Only.modEdge
    | with_reducible apply Only.iteTest
    | split
    | dsimp only)

theorem execCrossingSlip_only {ps : List Part} {s t : State} (h : Only ps s t) (hp : Within [.fields, .na, .hst, .host, .free] ps) (field : Nat) (edge : Nat) (leaving : Bool := true) (full : Bool := true) :
    ResOnly ps s (execCrossingSlip field edge t leaving full) := by
  unfold execCrossingSlip
  repeat' (first
    | with_reducible assumption
    | with_reducible exact hp.trans (.ofBool rfl)
    | with_reducible exact hp.mem rfl
    | with_reducible apply countReplay_only
    | with_reducible apply modCrossing_only
    | with_reducible apply noteSlip_only
    | with_reducible apply postFieldEvent_only
    | with_reducible apply Only.iteTest
    | with_reducible apply ResOnly.next
    | with_reducible apply ResOnly.onUnit
    | with_reducible apply ResOnly.iteTest
    | split
    | dsimp only)

theorem execCrossingFifoDrained_only {ps : List Part} {s t : State} (h : Only ps s t) (hp : Within [.fields] ps) (field : Nat) (edge : Nat) :
    ResOnly ps s (execCrossingFifoDrained field edge t) := by
  unfold execCrossingFifoDrained
  repeat' (first
    | with_reducible assumption
    | with_reducible exact hp.trans (.ofBool rfl)
    | with_reducible exact hp.mem rfl
    | with_reducible apply modCrossing_only
    | with_reducible apply Only.iteTest
    | with_reducible apply ResOnly.next
    | with_reducible apply ResOnly.onUnit
    | with_reducible apply ResOnly.iteTest
    | split)

theorem execSleepEnter_only {ps : List Part} {s t : State} (h : Only ps s t) (hp : Within [.clk, .fields, .regions, .memStacks, .spad, .before, .badSpad] ps) :
    ResOnly ps s (execSleepEnter t) := by
  unfold execSleepEnter
  have h1 := Only.setStacks (l := t.memStacks.map (fun x => if x.live && !x.failed then { x with selfRefresh := true } else x)) h (hp.mem rfl)
  have h2 := updAllBanks_only h1 (hp.trans (.ofBool rfl))
  exact .next (Only.iteTest (Only.modClk (Only.setFields h2 (hp.mem rfl)) (hp.mem rfl)) h)

theorem execGtcTimeCode_only {ps : List Part} {s t : State} (h : Only ps s t) (hp : Within [.clk, .fields, .farrier] ps) (codes : Nat) :
    ResOnly ps s (execGtcTimeCode codes t) := by
  unfold execGtcTimeCode
  repeat' (first
    | with_reducible assumption
    | with_reducible exact hp.trans (.ofBool rfl)
    | with_reducible exact hp.mem rfl
    | with_reducible apply copyGtc_only
    | with_reducible apply noteStress_only
    | with_reducible apply Only.modClk
    | with_reducible apply Only.iteTest
    | with_reducible apply ResOnly.next
    | with_reducible apply ResOnly.iteTest
    | split)

theorem execFollowerContactLost_only {ps : List Part} {s t : State} (h : Only ps s t) (hp : Within [.clk, .na, .hst, .host] ps) :
    ResOnly ps s (execFollowerContactLost t) := by
  unfold execFollowerContactLost
  repeat' (first
    | with_reducible assumption
    | with_reducible exact hp.trans (.ofBool rfl)
    | with_reducible exact hp.mem rfl
    | with_reducible apply postEvent_only
    | with_reducible apply Only.modClk
    | with_reducible apply Only.iteTest
    | with_reducible apply ResOnly.next
    | with_reducible apply ResOnly.iteTest
    | split)

theorem setFar_only {ps : List Part} {s t : State} (h : Only ps s t) (hp : Within [.clk, .na, .hst, .host] ps) (d : Int) :
    Only ps s (setFar t d) := by
  unfold setFar
  repeat' (first
    | with_reducible assumption
    | with_reducible exact hp.trans (.ofBool rfl)
    | with_reducible exact hp.mem rfl
    | with_reducible apply postEvent_only
    | with_reducible apply Only.modClk
    | with_reducible apply Only.iteTest
    | split
    | dsimp only)

theorem execPpsEdge_only {ps : List Part} {s t : State} (h : Only ps s t) (hp : Within [.clk, .na, .hst, .host] ps) :
    ResOnly ps s (execPpsEdge t) := by
  unfold execPpsEdge
  repeat' (first
    | with_reducible assumption
    | with_reducible exact hp.trans (.ofBool rfl)
    | with_reducible exact hp.mem rfl
    | with_reducible apply setFar_only
    | with_reducible apply Only.modClk
    | with_reducible apply Only.iteTest
    | with_reducible apply ResOnly.next
    | with_reducible apply ResOnly.iteTest
    | split
    | dsimp only)

theorem execPpsLost_only {ps : List Part} {s t : State} (h : Only ps s t) (hp : Within [.clk, .na, .hst, .host] ps) :
    ResOnly ps s (execPpsLost t) := by
  unfold execPpsLost
  repeat' (first
    | with_reducible assumption
    | with_reducible exact hp.trans (.ofBool rfl)
    | with_reducible exact hp.mem rfl
    | with_reducible apply postEvent_only
    | with_reducible apply Only.modClk
    | with_reducible apply Only.iteTest
    | with_reducible apply ResOnly.next
    | with_reducible apply ResOnly.iteTest
    | split)

/-! ### Machine/RegWrite.lean -/

theorem guardKey_only {ps : List Part} {s t : State} (h : Only ps s t) (hp : Within [.blocks] ps) (b : Blk) (loc : Nat) (v : Word)
    (a : Access) {f : State → State} (hf : ∀ u, Only ps s u → Only ps s (f u)) : Only ps s (guardKey t b loc v a f) := by
  unfold guardKey
  split
  · exact h
  · split
    · exact hf t h
    · split
      · exact h
      · exact h.modCtl (hp.mem rfl)

theorem guardPair_only {ps : List Part} {s t : State} (h : Only ps s t) (hp : Within [.blocks] ps) (b : Blk) (loc : Nat) (v : Word)
    (a : Access) {f : State → State} (hf : ∀ u, Only ps s u → Only ps s (f u)) : Only ps s (guardPair t b loc v a f) := by
  unfold guardPair
  split
  · exact hf t h
  · split
    · exact h.modCtl (hp.mem rfl)
    · exact h

theorem keyErr_only {ps : List Part} {s t : State} (h : Only ps s t) (hp : Within [.blocks] ps) (b : Blk) :
    Only ps s (keyErr t b) := by
  unfold keyErr
  repeat' (first
    | with_reducible assumption
    | with_reducible exact hp.trans (.ofBool rfl)
    | with_reducible exact hp.mem rfl
    | with_reducible apply Only.modCtl)

theorem pairErr_only {ps : List Part} {s t : State} (h : Only ps s t) (hp : Within [.blocks] ps) (b : Blk) :
    Only ps s (pairErr t b) := by
  unfold pairErr
  repeat' (first
    | with_reducible assumption
    | with_reducible exact hp.trans (.ofBool rfl)
    | with_reducible exact hp.mem rfl
    | with_reducible apply Only.modCtl)

theorem cinchErr_only {ps : List Part} {s t : State} (h : Only ps s t) (hp : Within [.blocks] ps) (b : Blk) :
    Only ps s (cinchErr t b) := by
  unfold cinchErr
  repeat' (first
    | with_reducible assumption
    | with_reducible exact hp.trans (.ofBool rfl)
    | with_reducible exact hp.mem rfl
    | with_reducible apply Only.modCtl)

theorem writeFld_only {ps : List Part} {s t : State} (h : Only ps s t) (hp : Within [.glb] ps) (loc : Nat) (v : Word) :
    Only ps s (writeFld t loc v) := by
  unfold writeFld
  repeat' (first
    | with_reducible assumption
    | with_reducible exact hp.trans (.ofBool rfl)
    | with_reducible exact hp.mem rfl
    | with_reducible apply Only.modGlb
    | split)

theorem writeRgn_only {ps : List Part} {s t : State} (h : Only ps s t) (hp : Within [.blocks, .glb] ps) (loc : Nat) (v : Word) (a : Access) :
    Only ps s (writeRgn t loc v a) := by
  unfold writeRgn
  repeat' (first
    | with_reducible assumption
    | with_reducible exact hp.trans (.ofBool rfl)
    | with_reducible exact hp.mem rfl
    | with_reducible intro _
    | with_reducible apply guardPair_only
    | with_reducible apply Only.modGlb
    | with_reducible apply Only.iteTest
    | split)

theorem writeMem_only {ps : List Part} {s t : State} (h : Only ps s t) (hp : Within [.memStacks, .blocks, .glb] ps) (loc : Nat) (v : Word) (a : Access) :
    Only ps s (writeMem t loc v a) := by
  unfold writeMem
  repeat' (first
    | with_reducible assumption
    | with_reducible exact hp.trans (.ofBool rfl)
    | with_reducible exact hp.mem rfl
    | with_reducible intro _
    | with_reducible apply guardKey_only
    | with_reducible apply queueRetrain_only
    | with_reducible apply Only.modStack
    | with_reducible apply Only.modGlb
    | with_reducible apply Only.iteTest
    | split)

theorem writeLnk_only {ps : List Part} {s t : State} (h : Only ps s t) (hp : Within [.lnk, .blocks] ps) (loc : Nat) (v : Word) (a : Access) :
    Only ps s (writeLnk t loc v a) := by
  unfold writeLnk
  repeat' (first
    | with_reducible assumption
    | with_reducible exact hp.trans (.ofBool rfl)
    | with_reducible exact hp.mem rfl
    | with_reducible intro _
    | with_reducible apply guardKey_only
    | with_reducible apply Only.modLnk
    | with_reducible apply Only.iteTest
    | split)

theorem clearVmin_only {ps : List Part} {s t : State} (h : Only ps s t) (hp : Within [.regions] ps) :
    Only ps s (clearVmin t) := by
  unfold clearVmin
  repeat' (first
    | with_reducible assumption
    | with_reducible exact hp.trans (.ofBool rfl)
    | with_reducible exact hp.mem rfl
    | with_reducible apply Only.modRegion)

theorem uncap_only {ps : List Part} {s t : State} (h : Only ps s t) (hp : Within [.fields] ps) :
    Only ps s (uncap t) := by
  unfold uncap
  repeat' (first
    | with_reducible assumption
    | with_reducible exact hp.trans (.ofBool rfl)
    | with_reducible exact hp.mem rfl
    | with_reducible apply Only.iteTest
    | split
    | exact Only.to (qs := [.fields]) h (hp.trans (.ofBool rfl)) fun p hn => by cases p <;> first | rfl | exact absurd (by decide) hn)

theorem writePwr_only {ps : List Part} {s t : State} (h : Only ps s t) (hp : Within [.pwr, .fields, .regions, .blocks] ps) (loc : Nat) (v : Word) (a : Access) :
    Only ps s (writePwr t loc v a) := by
  unfold writePwr
  repeat' (first
    | with_reducible assumption
    | with_reducible exact hp.trans (.ofBool rfl)
    | with_reducible exact hp.mem rfl
    | with_reducible intro _
    | with_reducible apply clearVmin_only
    | with_reducible apply dropAll_only
    | with_reducible apply guardKey_only
    | with_reducible apply uncap_only
    | with_reducible apply Only.modPwr
    | with_reducible apply Only.iteTest
    | split
    | dsimp only)

theorem dropUnaccepted_only {ps : List Part} {s t : State} (h : Only ps s t) (hp : Within [.master] ps) :
    Only ps s (dropUnaccepted t) := by
  unfold dropUnaccepted
  repeat' (first
    | with_reducible assumption
    | with_reducible exact hp.trans (.ofBool rfl)
    | with_reducible exact hp.mem rfl
    | with_reducible apply Only.modMaster
    | with_reducible apply Only.iteTest
    | split)

theorem sleepRequest_only {ps : List Part} {s t : State} (h : Only ps s t) (hp : Within [.clk, .fields, .regions, .master, .spad, .before, .badSpad] ps) :
    Only ps s (sleepRequest t) := by
  unfold sleepRequest
  repeat' (first
    | with_reducible assumption
    | with_reducible exact hp.trans (.ofBool rfl)
    | with_reducible exact hp.mem rfl
    | with_reducible apply dropPreSel_only
    | with_reducible apply dropUnaccepted_only
    | with_reducible apply updAllBanks_only
    | with_reducible apply Only.modClk
    | with_reducible apply Only.iteTest
    | split)

theorem syncCommand_only {ps : List Part} {s t : State} (h : Only ps s t) (hp : Within [.hst, .sync, .held] ps) (o : Nat) (set : Bool) (v : Word64) :
    Only ps s (syncCommand t o set v) := by
  unfold syncCommand
  repeat' (first
    | with_reducible assumption
    | with_reducible exact hp.trans (.ofBool rfl)
    | with_reducible exact hp.mem rfl
    | with_reducible apply syncApply_only
    | with_reducible apply Only.iteTest
    | split
    | exact Only.to (qs := [.held]) h (hp.trans (.ofBool rfl)) fun p hn => by cases p <;> first | rfl | exact absurd (by decide) hn)

theorem peerAddNow_only {ps : List Part} {s t : State} (h : Only ps s t) (hp : Within [.na, .hst, .sync, .host] ps) (o : Nat) (v : Word64) :
    Only ps s (peerAddNow t o v) := by
  unfold peerAddNow
  repeat' (first
    | with_reducible assumption
    | with_reducible exact hp.trans (.ofBool rfl)
    | with_reducible exact hp.mem rfl
    | with_reducible apply postEvent_only
    | with_reducible apply syncApply_only
    | with_reducible apply Only.iteTest
    | split)

theorem peerAdd_only {ps : List Part} {s t : State} (h : Only ps s t) (hp : Within [.na, .hst, .sync, .held, .host] ps) (o : Nat) (v : Word64) :
    Only ps s (peerAdd t o v) := by
  unfold peerAdd
  repeat' (first
    | with_reducible assumption
    | with_reducible exact hp.trans (.ofBool rfl)
    | with_reducible exact hp.mem rfl
    | with_reducible apply peerAddNow_only
    | with_reducible apply Only.iteTest
    | split
    | exact Only.to (qs := [.held]) h (hp.trans (.ofBool rfl)) fun p hn => by cases p <;> first | rfl | exact absurd (by decide) hn)

theorem applyOneHeld_only {ps : List Part} {s t : State} (h : Only ps s t) (hp : Within [.na, .hst, .sync, .host] ps) (h' : HeldSync) :
    Only ps s (applyOneHeld t h') := by
  unfold applyOneHeld
  repeat' (first
    | with_reducible assumption
    | with_reducible exact hp.trans (.ofBool rfl)
    | with_reducible exact hp.mem rfl
    | with_reducible apply peerAddNow_only
    | with_reducible apply syncApply_only
    | with_reducible apply Only.iteTest
    | split)

theorem applyHeld_only {ps : List Part} {s t : State} (h : Only ps s t) (hp : Within [.na, .hst, .sync, .held, .host] ps) :
    Only ps s (applyHeld t) := by
  unfold applyHeld
  repeat' (first
    | with_reducible assumption
    | with_reducible exact hp.trans (.ofBool rfl)
    | with_reducible exact hp.mem rfl
    | with_reducible intro _
    | with_reducible apply applyOneHeld_only
    | with_reducible apply Only.foldl
    | exact Only.to (qs := [.held]) h (hp.trans (.ofBool rfl)) fun p hn => by cases p <;> first | rfl | exact absurd (by decide) hn)

theorem realign_only {ps : List Part} {s t : State} (h : Only ps s t) (hp : Within [.fields] ps) :
    Only ps s (realign t) := by
  unfold realign
  repeat' (first
    | with_reducible assumption
    | with_reducible exact hp.trans (.ofBool rfl)
    | with_reducible exact hp.mem rfl
    | with_reducible intro _
    | with_reducible apply changeCrossing_only
    | with_reducible apply Only.foldl)

theorem leaveSleep_only {ps : List Part} {s t : State} (h : Only ps s t) (hp : Within [.fields, .memStacks] ps) :
    Only ps s (leaveSleep t) := by
  unfold leaveSleep
  repeat' (first
    | with_reducible assumption
    | with_reducible exact hp.trans (.ofBool rfl)
    | with_reducible exact hp.mem rfl
    | exact Only.to (qs := [.fields, .memStacks]) h (hp.trans (.ofBool rfl)) fun p hn => by cases p <;> first | rfl | exact absurd (by decide) hn)

theorem limitGaits_only {ps : List Part} {s t : State} (h : Only ps s t) (hp : Within [.fields] ps) :
    Only ps s (limitGaits t) := by
  unfold limitGaits
  repeat' (first
    | with_reducible assumption
    | with_reducible exact hp.trans (.ofBool rfl)
    | with_reducible exact hp.mem rfl
    | with_reducible apply curbWalk_only
    | with_reducible apply dropAll_only
    | with_reducible apply Only.iteTest
    | split)

theorem expireWaits_only {ps : List Part} {s t : State} (h : Only ps s t) (hp : Within [.fields, .regions, .lnk, .na, .hst, .glb, .master, .spad, .before, .host, .badSpad] ps) :
    Only ps s (expireWaits t) := by
  unfold expireWaits
  repeat' (first
    | with_reducible assumption
    | with_reducible exact hp.trans (.ofBool rfl)
    | with_reducible exact hp.mem rfl
    | with_reducible intro _
    | with_reducible apply expireWait_only
    | with_reducible apply Only.foldl)

theorem wakeRequest_only {ps : List Part} {s t : State} (h : Only ps s t) (hp : Within [.clk, .fields, .regions, .memStacks, .lnk, .na, .hst, .glb, .master, .sync, .held, .spad, .before, .host, .badSpad] ps) :
    Only ps s (wakeRequest t) := by
  unfold wakeRequest
  repeat' (first
    | with_reducible assumption
    | with_reducible exact hp.trans (.ofBool rfl)
    | with_reducible exact hp.mem rfl
    | with_reducible apply applyHeld_only
    | with_reducible apply expireWaits_only
    | with_reducible apply leaveSleep_only
    | with_reducible apply limitGaits_only
    | with_reducible apply realign_only
    | with_reducible apply updAllBanks_only
    | with_reducible apply Only.modClk
    | with_reducible apply Only.iteTest
    | split)

theorem writeClk_only {ps : List Part} {s t : State} (h : Only ps s t) (hp : Within [.clk, .fields, .regions, .memStacks, .lnk, .na, .hst, .blocks, .glb, .master, .sync, .held, .spad, .before, .host, .badSpad] ps) (loc : Nat) (v : Word) (a : Access) :
    Only ps s (writeClk t loc v a) := by
  unfold writeClk
  repeat' (first
    | with_reducible assumption
    | with_reducible exact hp.trans (.ofBool rfl)
    | with_reducible exact hp.mem rfl
    | with_reducible intro _
    | with_reducible apply guardKey_only
    | with_reducible apply guardPair_only
    | with_reducible apply sleepRequest_only
    | with_reducible apply wakeRequest_only
    | with_reducible apply Only.modClk
    | with_reducible apply Only.iteTest
    | split
    | dsimp only)

theorem refusePair_only {ps : List Part} {s t : State} (h : Only ps s t) (hp : Within [.clk, .glb] ps) (b : Blk) :
    Only ps s (refusePair t b) := by
  unfold refusePair
  repeat' (first
    | with_reducible assumption
    | with_reducible exact hp.trans (.ofBool rfl)
    | with_reducible exact hp.mem rfl
    | with_reducible apply Only.modGlb
    | with_reducible apply Only.modClk
    | split)

theorem closeCinch_only {ps : List Part} {s t : State} (h : Only ps s t) (hp : Within [.blocks] ps) (b : Blk) (last : CinchLast) :
    Only ps s (closeCinch t b last) := by
  unfold closeCinch
  repeat' (first
    | with_reducible assumption
    | with_reducible exact hp.trans (.ofBool rfl)
    | with_reducible exact hp.mem rfl
    | with_reducible apply Only.modCtl)

theorem setGtc_only {ps : List Part} {s t : State} (h : Only ps s t) (hp : Within [.clk, .fields] ps) :
    Only ps s (setGtc t) := by
  unfold setGtc
  repeat' (first
    | with_reducible assumption
    | with_reducible exact hp.trans (.ofBool rfl)
    | with_reducible exact hp.mem rfl
    | with_reducible apply copyGtc_only
    | with_reducible apply Only.modClk)

theorem pairApplied_only {ps : List Part} {s t : State} (h : Only ps s t) (hp : Within [.clk, .fields, .regions, .spad, .before, .badSpad] ps) (b : Blk) :
    Only ps s (pairApplied t b) := by
  unfold pairApplied
  repeat' (first
    | with_reducible assumption
    | with_reducible exact hp.trans (.ofBool rfl)
    | with_reducible exact hp.mem rfl
    | with_reducible apply setGtc_only
    | with_reducible apply updAllBanks_only
    | split)

theorem applyCommit_only {ps : List Part} {s t : State} (h : Only ps s t)
    (hp : Within [.clk, .fields, .regions, .blocks, .glb, .spad, .before, .badSpad] ps) (b : Blk) {write : State → Nat → Word → Access → State}
    (hw : ∀ u n v a, Only ps s u → Only ps s (write u n v a)) : Only ps s (applyCommit t b write) := by
  unfold applyCommit
  dsimp only
  split
  · exact refusePair_only (closeCinch_only h (hp.trans (.ofBool rfl)) _ _) (hp.trans (.ofBool rfl)) _
  · have ht := Only.foldl (f := fun u (w : Staged) => write u w.offset w.value (stagedAccess w)) (ctlAt t b).staged
      (fun v x k => hw v _ _ _ k) (closeCinch_only h (hp.trans (.ofBool rfl)) b .applied)
    split
    · exact pairApplied_only ht (hp.trans (.ofBool rfl)) _
    · exact ht

theorem applyPending_only {ps : List Part} {s t : State} (h : Only ps s t) (hp : Within [.clk, .fields, .regions, .memStacks, .lnk, .na, .hst, .blocks, .glb, .master, .sync, .held, .spad, .before, .host, .badSpad] ps) (b : Blk) :
    Only ps s (applyPending t b) := by
  unfold applyPending
  repeat' (first
    | with_reducible assumption
    | with_reducible exact hp.trans (.ofBool rfl)
    | with_reducible exact hp.mem rfl
    | with_reducible intro _
    | with_reducible apply applyCommit_only
    | with_reducible apply writeClk_only
    | with_reducible apply writeRgn_only
    | with_reducible apply Only.iteTest
    | split)

/-! ### Machine/HalterOps.lean -/

theorem startHalted_only {ps : List Part} {s t : State} (h : Only ps s t) (hp : Within [.clk, .fields, .memStacks] ps) :
    Only ps s (startHalted t) := by
  unfold startHalted
  repeat' (first
    | with_reducible assumption
    | with_reducible exact hp.trans (.ofBool rfl)
    | with_reducible exact hp.mem rfl
    | with_reducible intro _
    | with_reducible apply leaveSleep_only
    | with_reducible apply setGait_only
    | with_reducible apply Only.modClk
    | with_reducible apply Only.foldl
    | with_reducible apply Only.iteTest
    | split
    | dsimp only)

theorem clearZeroed_only {ps : List Part} {s t : State} (h : Only ps s t) (hp : Within [.regions, .master, .sync, .held, .spad, .before, .badSpad] ps) :
    Only ps s (clearZeroed t) := by
  unfold clearZeroed
  dsimp only
  split
  · exact Only.to (qs := [.master, .held]) h (hp.trans (.ofBool rfl)) fun p hn => by cases p <;> first | rfl | exact absurd (by decide) hn
  · exact Only.to (qs := [.regions, .master, .sync, .held, .spad, .before, .badSpad]) h (hp.trans (.ofBool rfl)) fun p hn => by cases p <;> first | rfl | exact absurd (by decide) hn

theorem zeroStart_only {ps : List Part} {s t : State} (h : Only ps s t) (hp : Within [.clk, .fields, .regions, .memStacks, .glb, .master, .sync, .held, .spad, .before, .badSpad] ps) :
    Only ps s (zeroStart t) := by
  unfold zeroStart
  repeat' (first
    | with_reducible assumption
    | with_reducible exact hp.trans (.ofBool rfl)
    | with_reducible exact hp.mem rfl
    | with_reducible apply clearZeroed_only
    | with_reducible apply startHalted_only
    | with_reducible apply Only.modGlb)

theorem zeroEnd_only {ps : List Part} {s t : State} (h : Only ps s t) (hp : Within [.fields, .regions, .slots, .lnk, .na, .hst, .glb, .master, .spad, .before, .host, .badSpad] ps) :
    Only ps s (zeroEnd t) := by
  unfold zeroEnd
  have hm := Only.modMaster (g := fun m => { m with stale := [], staleFull := false })
    (Only.modGlb (g := fun g => { g with zeroing := false }) h (hp.mem rfl)) (hp.mem rfl)
  exact updateHeads_only (Only.modHst (updAllBanks_only (Only.setSlots hm (hp.mem rfl)) (hp.trans (.ofBool rfl))) (hp.mem rfl))
    (hp.trans (.ofBool rfl))

theorem stopBoot_only {ps : List Part} {s t : State} (h : Only ps s t) (hp : Within [.lnk, .boot] ps) :
    Only ps s (stopBoot t) := by
  unfold stopBoot
  repeat' (first
    | with_reducible assumption
    | with_reducible exact hp.trans (.ofBool rfl)
    | with_reducible exact hp.mem rfl
    | with_reducible apply Only.modBoot
    | with_reducible apply Only.modLnk
    | with_reducible apply Only.iteTest
    | split
    | dsimp only)

theorem endVotes_only {ps : List Part} {s t : State} (h : Only ps s t) (hp : Within [.na, .hst, .glb, .host] ps) :
    Only ps s (endVotes t) := by
  unfold endVotes
  repeat' (first
    | with_reducible assumption
    | with_reducible exact hp.trans (.ofBool rfl)
    | with_reducible exact hp.mem rfl
    | with_reducible intro _
    | with_reducible apply dupRecord_only
    | with_reducible apply Only.foldl)

theorem discardWork_only {ps : List Part} {s t : State} (h : Only ps s t) (hp : Within [.fields, .regions, .lnk, .master] ps) :
    Only ps s (discardWork t) := by
  unfold discardWork
  repeat' (first
    | with_reducible assumption
    | with_reducible exact hp.trans (.ofBool rfl)
    | with_reducible exact hp.mem rfl
    | with_reducible apply clearQueues_only
    | with_reducible apply keepTiles_only
    | with_reducible apply Only.modMaster
    | with_reducible apply Only.modLnk
    | dsimp only)

theorem disableOpRings_only {ps : List Part} {s t : State} (h : Only ps s t) (hp : Within [.hst] ps) :
    Only ps s (disableOpRings t) := by
  unfold disableOpRings
  repeat' (first
    | with_reducible assumption
    | with_reducible exact hp.trans (.ofBool rfl)
    | with_reducible exact hp.mem rfl
    | with_reducible apply Only.modHst
    | with_reducible apply Only.iteTest
    | split)

theorem pauseUpdate_only {ps : List Part} {s t : State} (h : Only ps s t) (hp : Within [.sec] ps) :
    Only ps s (pauseUpdate t) := by
  unfold pauseUpdate
  repeat' (first
    | with_reducible assumption
    | with_reducible exact hp.trans (.ofBool rfl)
    | with_reducible exact hp.mem rfl
    | with_reducible apply Only.modSec
    | split)

theorem haltSequence_only {ps : List Part} {s t : State} (h : Only ps s t) (hp : Within [.clk, .fields, .regions, .memStacks, .lnk, .na, .hst, .blocks, .boot, .glb, .sec, .master, .farrier, .sync, .held, .spad, .before, .host, .badSpad] ps) (cause : Nat) (seq : BitVec 16) :
    Only ps s (haltSequence t cause seq) := by
  unfold haltSequence
  repeat' (first
    | with_reducible assumption
    | with_reducible exact hp.trans (.ofBool rfl)
    | with_reducible exact hp.mem rfl
    | with_reducible apply applyPending_only
    | with_reducible apply clearZeroed_only
    | with_reducible apply disableOpRings_only
    | with_reducible apply discardWork_only
    | with_reducible apply endVotes_only
    | with_reducible apply farrierAbandon_only
    | with_reducible apply pauseUpdate_only
    | with_reducible apply stopBoot_only
    | with_reducible apply zeroStart_only
    | with_reducible apply Only.modClk
    | with_reducible apply Only.modHst
    | with_reducible apply Only.iteTest
    | split
    | dsimp only)

theorem writeHalterRecord_only {ps : List Part} {s t : State} (h : Only ps s t) (hp : Within [.na, .host] ps) (bytes : List Byte) :
    Only ps s (writeHalterRecord t bytes) := by
  unfold writeHalterRecord
  repeat' (first
    | with_reducible assumption
    | with_reducible exact hp.trans (.ofBool rfl)
    | with_reducible exact hp.mem rfl
    | with_reducible apply hostWrite_only
    | with_reducible apply raiseMsix_only)

theorem postOwed_only {ps : List Part} {s t : State} (h : Only ps s t) (hp : Within [.na, .hst, .host] ps) (x : HalterOwed) :
    Only ps s (postOwed t x) := by
  unfold postOwed
  repeat' (first
    | with_reducible assumption
    | with_reducible exact hp.trans (.ofBool rfl)
    | with_reducible exact hp.mem rfl
    | with_reducible apply postCompletion_only)

theorem haltPost_only {ps : List Part} {s t : State} (h : Only ps s t) (hp : Within [.na, .hst, .side, .host] ps) :
    Only ps s (haltPost t) := by
  unfold haltPost
  repeat' (first
    | with_reducible assumption
    | with_reducible exact hp.trans (.ofBool rfl)
    | with_reducible exact hp.mem rfl
    | with_reducible intro _
    | with_reducible apply postOwed_only
    | with_reducible apply writeHalterRecord_only
    | with_reducible apply Only.modHst
    | with_reducible apply Only.modSide
    | with_reducible apply Only.foldl
    | with_reducible apply Only.iteTest
    | split
    | dsimp only)

theorem haltWhole_only {ps : List Part} {s t : State} (h : Only ps s t) (hp : Within [.clk, .fields, .regions, .slots, .memStacks, .lnk, .na, .hst, .blocks, .boot, .glb, .sec, .side, .master, .farrier, .sync, .held, .spad, .before, .host, .badSpad] ps) (cause : Nat) :
    Only ps s (haltWhole t cause) := by
  unfold haltWhole
  repeat' (first
    | with_reducible assumption
    | with_reducible exact hp.trans (.ofBool rfl)
    | with_reducible exact hp.mem rfl
    | with_reducible apply haltPost_only
    | with_reducible apply haltSequence_only
    | with_reducible apply zeroEnd_only
    | with_reducible apply Only.iteTest
    | split
    | dsimp only)

theorem resetRegisters_only {ps : List Part} {s t : State} (h : Only ps s t) (hp : Within [.pwr, .clk, .memStacks, .lnk, .hst, .blocks, .glb, .sec, .farrier] ps) :
    Only ps s (resetRegisters t) := by
  unfold resetRegisters
  repeat' (first
    | with_reducible assumption
    | with_reducible exact hp.trans (.ofBool rfl)
    | with_reducible exact hp.mem rfl
    | exact Only.to (qs := [.pwr, .clk, .memStacks, .lnk, .hst, .blocks, .glb, .sec, .farrier]) h (hp.trans (.ofBool rfl)) fun p hn => by cases p <;> first | rfl | exact absurd (by decide) hn)

theorem fieldsOff_only {ps : List Part} {s t : State} (h : Only ps s t) (hp : Within [.fields, .free] ps) :
    Only ps s (fieldsOff t) := by
  unfold fieldsOff
  exact bumpFree_only (Only.setFields h (hp.mem rfl)) (hp.trans (.ofBool rfl))

theorem warmRest_only {ps : List Part} {s t : State} (h : Only ps s t) (hp : Within [.pwr, .clk, .fields, .regions, .slots, .memStacks, .lnk, .hst, .blocks, .boot, .glb, .sec, .master, .farrier, .held, .spad, .before, .badSpad, .free] ps) :
    Only ps s (warmRest t) := by
  unfold warmRest fieldsOff bumpFree resetRegisters
  exact Only.to (qs := [.pwr, .clk, .fields, .regions, .slots, .memStacks, .lnk, .hst, .blocks, .boot, .glb, .sec, .master, .farrier, .held, .spad, .before, .badSpad, .free]) h (hp.trans (.ofBool rfl)) fun p hn => by cases p <;> first | rfl | exact absurd (by decide) hn

theorem warmReset_only {ps : List Part} {s t : State} (h : Only ps s t) (hp : Within [.pwr, .clk, .fields, .regions, .slots, .memStacks, .lnk, .na, .hst, .blocks, .boot, .glb, .sec, .side, .master, .farrier, .sync, .held, .spad, .before, .host, .badSpad, .free] ps) :
    Only ps s (warmReset t) := by
  unfold warmReset
  repeat' (first
    | with_reducible assumption
    | with_reducible exact hp.trans (.ofBool rfl)
    | with_reducible exact hp.mem rfl
    | with_reducible apply haltWhole_only
    | with_reducible apply warmRest_only
    | with_reducible apply Only.modSec
    | with_reducible apply Only.iteTest
    | split
    | dsimp only)

theorem nolotDown_only {ps : List Part} {s t : State} (h : Only ps s t) (hp : Within [.na] ps) :
    Only ps s (nolotDown t) := by
  unfold nolotDown
  repeat' (first
    | with_reducible assumption
    | with_reducible exact hp.trans (.ofBool rfl)
    | with_reducible exact hp.mem rfl
    | with_reducible apply raiseMsix_only
    | with_reducible apply Only.modNa
    | with_reducible apply Only.iteTest
    | split)

theorem coldState_only {ps : List Part} {s t : State} (h : Only ps s t) (hp : Within [.pwr, .clk, .fields, .regions, .slots, .memStacks, .lnk, .hst, .blocks, .boot, .glb, .sec, .side, .master, .farrier, .sync, .held, .dram, .spad, .before, .badSpad, .badDram] ps) :
    Only ps s (coldState t) := by
  unfold coldState
  repeat' (first
    | with_reducible assumption
    | with_reducible exact hp.trans (.ofBool rfl)
    | with_reducible exact hp.mem rfl
    | exact Only.to (qs := [.pwr, .clk, .fields, .regions, .slots, .memStacks, .lnk, .hst, .blocks, .boot, .glb, .sec, .side, .master, .farrier, .sync, .held, .dram, .spad, .badSpad, .badDram, .before]) h (hp.trans (.ofBool rfl)) fun p hn => by cases p <;> first | rfl | exact absurd (by decide) hn)

/-! ### Machine/Halter.lean -/

theorem execHalter_only {ps : List Part} {s t : State} (h : Only ps s t) (hp : Within [.clk, .fields, .regions, .memStacks, .lnk, .na, .hst, .blocks, .boot, .glb, .sec, .master, .farrier, .sync, .held, .spad, .before, .host, .badSpad] ps) :
    ResOnly ps s (execHalter t) := by
  unfold execHalter
  repeat' (first
    | with_reducible assumption
    | with_reducible exact hp.trans (.ofBool rfl)
    | with_reducible exact hp.mem rfl
    | with_reducible apply haltSequence_only
    | with_reducible apply Only.iteTest
    | with_reducible apply ResOnly.next
    | with_reducible apply ResOnly.iteTest
    | split)

theorem execHalterRecordPost_only {ps : List Part} {s t : State} (h : Only ps s t) (hp : Within [.na, .hst, .side, .host] ps) :
    ResOnly ps s (execHalterRecordPost t) := by
  unfold execHalterRecordPost
  repeat' (first
    | with_reducible assumption
    | with_reducible exact hp.trans (.ofBool rfl)
    | with_reducible exact hp.mem rfl
    | with_reducible apply haltPost_only
    | with_reducible apply Only.iteTest
    | with_reducible apply ResOnly.next
    | with_reducible apply ResOnly.iteTest
    | split)

theorem execLinkDownSelfHalter_only {ps : List Part} {s t : State} (h : Only ps s t) (hp : Within [.na, .hst] ps) :
    ResOnly ps s (execLinkDownSelfHalter t) := by
  unfold execLinkDownSelfHalter
  repeat' (first
    | with_reducible assumption
    | with_reducible exact hp.trans (.ofBool rfl)
    | with_reducible exact hp.mem rfl
    | with_reducible apply Only.modHst
    | with_reducible apply Only.modNa
    | with_reducible apply Only.iteTest
    | with_reducible apply ResOnly.next
    | with_reducible apply ResOnly.iteTest
    | split
    | dsimp only)

theorem execZeroingStart_only {ps : List Part} {s t : State} (h : Only ps s t) (hp : Within [.clk, .fields, .regions, .memStacks, .glb, .master, .sync, .held, .spad, .before, .badSpad] ps) :
    ResOnly ps s (execZeroingStart t) := by
  unfold execZeroingStart
  repeat' (first
    | with_reducible assumption
    | with_reducible exact hp.trans (.ofBool rfl)
    | with_reducible exact hp.mem rfl
    | with_reducible apply zeroStart_only
    | with_reducible apply Only.iteTest
    | with_reducible apply ResOnly.next
    | with_reducible apply ResOnly.iteTest
    | split)

theorem execZeroingEnd_only {ps : List Part} {s t : State} (h : Only ps s t) (hp : Within [.fields, .regions, .slots, .lnk, .na, .hst, .glb, .master, .spad, .before, .host, .badSpad] ps) :
    ResOnly ps s (execZeroingEnd t) := by
  unfold execZeroingEnd
  repeat' (first
    | with_reducible assumption
    | with_reducible exact hp.trans (.ofBool rfl)
    | with_reducible exact hp.mem rfl
    | with_reducible apply zeroEnd_only
    | with_reducible apply Only.iteTest
    | with_reducible apply ResOnly.next
    | with_reducible apply ResOnly.iteTest
    | split)

theorem railEnter_only {ps : List Part} {s t : State} (h : Only ps s t) (hp : Within [.pwr, .clk, .sec] ps) (blades : List Nat) :
    Only ps s (railEnter t blades) := by
  unfold railEnter
  repeat' (first
    | with_reducible assumption
    | with_reducible exact hp.trans (.ofBool rfl)
    | with_reducible exact hp.mem rfl
    | with_reducible apply Only.modPwr
    | with_reducible apply Only.modClk
    | with_reducible apply Only.modSec
    | dsimp only)

theorem execRailEnterWindow_only {ps : List Part} {s t : State} (h : Only ps s t) (hp : Within [.pwr, .clk, .sec] ps) (blades : List Nat := [54000, 54000, 54000, 54000]) :
    ResOnly ps s (execRailEnterWindow t blades) := by
  unfold execRailEnterWindow
  repeat' (first
    | with_reducible assumption
    | with_reducible exact hp.trans (.ofBool rfl)
    | with_reducible exact hp.mem rfl
    | with_reducible apply railEnter_only
    | with_reducible apply Only.iteTest
    | with_reducible apply ResOnly.next
    | with_reducible apply ResOnly.iteTest
    | split)

theorem execRailLeaveWindow_only {ps : List Part} {s t : State} (h : Only ps s t) (hp : Within [.pwr, .clk, .fields, .regions, .slots, .memStacks, .lnk, .na, .hst, .blocks, .boot, .glb, .sec, .side, .master, .farrier, .sync, .held, .dram, .spad, .before, .badSpad, .badDram] ps) (durationUs : Nat) (minMv : Nat) (maxMv : Nat) (blades : List Nat := []) :
    ResOnly ps s (execRailLeaveWindow durationUs minMv maxMv t blades) := by
  unfold execRailLeaveWindow
  repeat' (first
    | with_reducible assumption
    | with_reducible exact hp.trans (.ofBool rfl)
    | with_reducible exact hp.mem rfl
    | with_reducible apply coldState_only
    | with_reducible apply nolotDown_only
    | with_reducible apply Only.iteTest
    | with_reducible apply ResOnly.next
    | with_reducible apply ResOnly.iteTest
    | split)

theorem execRomModeEntry_only {ps : List Part} {s t : State} (h : Only ps s t) (hp : Within [.pwr] ps) :
    ResOnly ps s (execRomModeEntry t) := by
  unfold execRomModeEntry
  repeat' (first
    | with_reducible assumption
    | with_reducible exact hp.trans (.ofBool rfl)
    | with_reducible exact hp.mem rfl
    | with_reducible apply Only.modPwr
    | with_reducible apply Only.iteTest
    | with_reducible apply ResOnly.next
    | with_reducible apply ResOnly.iteTest
    | split)

theorem execModresetNAssert_only {ps : List Part} {s t : State} (h : Only ps s t) (hp : Within [.pwr, .clk, .fields, .regions, .slots, .memStacks, .lnk, .na, .hst, .blocks, .boot, .glb, .sec, .side, .master, .farrier, .sync, .held, .spad, .before, .host, .badSpad, .free] ps) (lowNs : Nat) :
    ResOnly ps s (execModresetNAssert lowNs t) := by
  unfold execModresetNAssert
  repeat' (first
    | with_reducible assumption
    | with_reducible exact hp.trans (.ofBool rfl)
    | with_reducible exact hp.mem rfl
    | with_reducible apply warmReset_only
    | with_reducible apply Only.modPwr
    | with_reducible apply Only.iteTest
    | with_reducible apply ResOnly.next
    | with_reducible apply ResOnly.iteTest
    | split
    | dsimp only)

theorem execModresetNRelease_only {ps : List Part} {s t : State} (h : Only ps s t) (hp : Within [.pwr] ps) :
    ResOnly ps s (execModresetNRelease t) := by
  unfold execModresetNRelease
  repeat' (first
    | with_reducible assumption
    | with_reducible exact hp.trans (.ofBool rfl)
    | with_reducible exact hp.mem rfl
    | with_reducible apply Only.modPwr
    | with_reducible apply ResOnly.next)

end Sys2Proof.Machine
end

