-- ==== Sys2Proof/Laws/OnlyBoot.lean ====
section
/-!
SUPPORT. One lemma for each operation of bring-up, the weave record, firmware and SPDM: the parts of the
state it touches (Laws/Only.lean).
-/
namespace Sys2Proof.Machine

/-! ### Machine/Weave.lean -/

theorem excludeField_only {ps : List Part} {s t : State} (h : Only ps s t) (hp : Within [.pwr, .fields, .regions, .spad, .before, .badSpad] ps) (f : Nat) (reason : Byte) :
    Only ps s (excludeField t f reason) := by
  unfold excludeField
  repeat' (first
    | with_reducible assumption
    | with_reducible exact hp.trans (.ofBool rfl)
    | with_reducible exact hp.mem rfl
    | with_reducible intro _
    | with_reducible apply edgeDown_only
    | with_reducible apply regionOff_only
    | with_reducible apply setLanding_only
    | with_reducible apply Only.modField
    | with_reducible apply Only.modPwr
    | with_reducible apply Only.foldl
    | split
    | dsimp only)

theorem excludeUntil_only {ps : List Part} {s t : State} (h : Only ps s t) (hp : Within [.pwr, .fields, .regions, .spad, .before, .badSpad] ps)
    (n : Nat) : Only ps s (excludeUntil n t) := by
  induction n generalizing t with
  | zero => exact h
  | succ n ih =>
    unfold excludeUntil
    split
    · exact h
    · split
      · exact ih (excludeField_only h (hp.trans (.ofBool rfl)) _ _)
      · exact h

theorem setRoutes_only {ps : List Part} {s t : State} (h : Only ps s t) (hp : Within [.glb] ps) :
    Only ps s (setRoutes t) := by
  unfold setRoutes
  repeat' (first
    | with_reducible assumption
    | with_reducible exact hp.trans (.ofBool rfl)
    | with_reducible exact hp.mem rfl
    | with_reducible apply Only.modGlb
    | dsimp only)

theorem settleRegion_only {ps : List Part} {s t : State} (h : Only ps s t) (hp : Within [.regions, .spad, .before, .badSpad] ps) (r : Nat) :
    Only ps s (settleRegion t r) := by
  unfold settleRegion
  repeat' (first
    | with_reducible assumption
    | with_reducible exact hp.trans (.ofBool rfl)
    | with_reducible exact hp.mem rfl
    | with_reducible apply regionOff_only
    | with_reducible apply Only.modRegion
    | with_reducible apply Only.iteTest
    | split
    | dsimp only)

theorem settleStack_only {ps : List Part} {s t : State} (h : Only ps s t) (hp : Within [.memStacks] ps) (m : Nat) :
    Only ps s (settleStack t m) := by
  unfold settleStack
  repeat' (first
    | with_reducible assumption
    | with_reducible exact hp.trans (.ofBool rfl)
    | with_reducible exact hp.mem rfl
    | with_reducible apply Only.modStack
    | dsimp only)

theorem settleLink_only {ps : List Part} {s t : State} (h : Only ps s t) (hp : Within [.lnk] ps) (l : Nat) :
    Only ps s (settleLink t l) := by
  unfold settleLink
  repeat' (first
    | with_reducible assumption
    | with_reducible exact hp.trans (.ofBool rfl)
    | with_reducible exact hp.mem rfl
    | with_reducible apply Only.modLink
    | with_reducible apply Only.iteTest
    | split
    | dsimp only)

theorem postUnreadable_only {ps : List Part} {s t : State} (h : Only ps s t) (hp : Within [.na, .hst, .host] ps) :
    Only ps s (postUnreadable t) := by
  unfold postUnreadable
  repeat' (first
    | with_reducible assumption
    | with_reducible exact hp.trans (.ofBool rfl)
    | with_reducible exact hp.mem rfl
    | with_reducible intro _
    | with_reducible apply postEvent_only
    | with_reducible apply Only.foldl)

theorem fastFields_only {ps : List Part} {s t : State} (h : Only ps s t) (hp : Within [.pwr, .fields, .regions, .spad, .before, .badSpad] ps) :
    Only ps s (fastFields t) := by
  unfold fastFields
  repeat' (first
    | with_reducible assumption
    | with_reducible exact hp.trans (.ofBool rfl)
    | with_reducible exact hp.mem rfl
    | with_reducible intro _
    | with_reducible apply excludeField_only
    | with_reducible apply Only.foldl
    | with_reducible apply Only.iteTest
    | split)

theorem dramLost_only {ps : List Part} {s t : State} (h : Only ps s t) (hp : Within [.dram, .badDram] ps) :
    Only ps s { t with dram := [], badDram := [] } :=
  Only.to (qs := [.dram, .badDram]) h hp fun p hn => by cases p <;> first | rfl | exact absurd (by decide) hn

theorem settleDram_only {ps : List Part} {s t : State} (h : Only ps s t) (hp : Within [.memStacks, .dram, .badDram] ps) :
    Only ps s (settleDram t) := by
  unfold settleDram
  have ht := Only.foldl (f := settleStack) (List.range 16) (fun v m k => settleStack_only k (hp.trans (.ofBool rfl)) m) h
  dsimp only
  split
  · exact ht
  · exact dramLost_only ht (hp.trans (.ofBool rfl))

theorem assembleWeave_only {ps : List Part} {s t : State} (h : Only ps s t) (hp : Within [.pwr, .fields, .regions, .slots, .memStacks, .lnk, .na, .hst, .boot, .glb, .dram, .spad, .before, .host, .badSpad, .badDram] ps) :
    Only ps s (assembleWeave t) := by
  unfold assembleWeave
  have ht := setRoutes_only (excludeUntil_only (fastFields_only (postUnreadable_only h (hp.trans (.ofBool rfl))) (hp.trans (.ofBool rfl)))
    (hp.trans (.ofBool rfl)) 16) (hp.trans (.ofBool rfl))
  have hu := Only.foldl (f := settleLink) (List.range 96) (fun v l k => settleLink_only k (hp.trans (.ofBool rfl)) l)
    (settleDram_only (Only.foldl (f := settleRegion) (List.range 96) (fun v r k => settleRegion_only k (hp.trans (.ofBool rfl)) r) ht)
      (hp.trans (.ofBool rfl)))
  exact dropAll_only (updAllBanks_only (Only.modBoot (Only.modGlb (Only.setSlots hu (hp.mem rfl)) (hp.mem rfl)) (hp.mem rfl))
    (hp.trans (.ofBool rfl))) (hp.trans (.ofBool rfl))

theorem copyRecord_only {ps : List Part} {s t : State} (h : Only ps s t) (hp : Within [.host] ps) :
    Only ps s (copyRecord t) := by
  unfold copyRecord
  repeat' (first
    | with_reducible assumption
    | with_reducible exact hp.trans (.ofBool rfl)
    | with_reducible exact hp.mem rfl
    | with_reducible apply hostWrite_only
    | with_reducible apply Only.iteTest
    | split)

theorem publishRecord_only {ps : List Part} {s t : State} (h : Only ps s t) (hp : Within [.regions, .boot, .glb, .host] ps) (m : Mem) :
    Only ps s (publishRecord t m) := by
  unfold publishRecord
  repeat' (first
    | with_reducible assumption
    | with_reducible exact hp.trans (.ofBool rfl)
    | with_reducible exact hp.mem rfl
    | with_reducible apply copyRecord_only
    | with_reducible apply publishWeave_only
    | with_reducible apply Only.modGlb
    | with_reducible apply Only.modBoot
    | dsimp only)

theorem publishStep_only {ps : List Part} {s t : State} (h : Only ps s t) (hp : Within [.regions, .boot, .glb, .host] ps) (flashOk : Bool) :
    Only ps s (publishStep t flashOk) := by
  unfold publishStep
  repeat' (first
    | with_reducible assumption
    | with_reducible exact hp.trans (.ofBool rfl)
    | with_reducible exact hp.mem rfl
    | with_reducible apply publishRecord_only
    | with_reducible apply Only.modBoot
    | with_reducible apply Only.iteTest
    | split)

/-! ### Machine/Boot.lean -/

theorem bootErr_only {ps : List Part} {s t : State} (h : Only ps s t) (hp : Within [.boot] ps) (code : Byte) (step : Nat) :
    Only ps s (bootErr t code step) := by
  unfold bootErr
  repeat' (first
    | with_reducible assumption
    | with_reducible exact hp.trans (.ofBool rfl)
    | with_reducible exact hp.mem rfl
    | with_reducible apply Only.modBoot)

theorem bootRefuse_only {ps : List Part} {s t : State} (h : Only ps s t) (hp : Within [.boot] ps) (n : Nat) :
    Only ps s (bootRefuse t n) := by
  unfold bootRefuse
  repeat' (first
    | with_reducible assumption
    | with_reducible exact hp.trans (.ofBool rfl)
    | with_reducible exact hp.mem rfl
    | with_reducible apply bootErr_only
    | with_reducible apply Only.iteTest
    | split)

theorem bootBegin_only {ps : List Part} {s t : State} (h : Only ps s t) (hp : Within [.boot] ps) (n : Nat) (fast : Bool) :
    Only ps s (bootBegin t n fast) := by
  unfold bootBegin
  repeat' (first
    | with_reducible assumption
    | with_reducible exact hp.trans (.ofBool rfl)
    | with_reducible exact hp.mem rfl
    | with_reducible apply Only.modBoot
    | with_reducible apply Only.iteTest
    | split)

theorem runStep_only {ps : List Part} {s t : State} (h : Only ps s t) (hp : Within [.boot] ps) (n : Nat) (fast : Bool)
    {work : State → State} (hw : ∀ u, Only ps s u → Only ps s (work u)) : Only ps s (runStep t n fast work) := by
  unfold runStep
  dsimp only
  split
  · exact hw _ h
  · split
    · exact h
    · split
      · split
        · exact bootBegin_only h hp _ _
        · exact hw _ (bootBegin_only h hp _ _)
      · exact bootRefuse_only h hp _

theorem stepResult_only {ps : List Part} {s t : State} (h : Only ps s t) (hp : Within [.boot] ps) (err : Byte) :
    Only ps s (stepResult t err) := by
  unfold stepResult
  repeat' (first
    | with_reducible assumption
    | with_reducible exact hp.trans (.ofBool rfl)
    | with_reducible exact hp.mem rfl
    | with_reducible apply Only.modBoot)

theorem notePhases_only {ps : List Part} {s t : State} (h : Only ps s t) (hp : Within [.fields] ps) (failed : List (Nat × Nat)) :
    Only ps s (notePhases t failed) := by
  unfold notePhases
  repeat' (first
    | with_reducible assumption
    | with_reducible exact hp.trans (.ofBool rfl)
    | with_reducible exact hp.mem rfl
    | with_reducible intro _
    | with_reducible apply Only.modField
    | with_reducible apply Only.foldl)

theorem powerEntry_only {ps : List Part} {s t : State} (h : Only ps s t) (hp : Within [.pwr, .fields, .boot, .glb] ps) (vin : Nat) (inlet : Nat) (outlet : Nat) (lidOk : Bool) (failed : List (Nat × Nat)) (blades : List Nat) :
    Only ps s (powerEntry t vin inlet outlet lidOk failed blades) := by
  unfold powerEntry
  repeat' (first
    | with_reducible assumption
    | with_reducible exact hp.trans (.ofBool rfl)
    | with_reducible exact hp.mem rfl
    | with_reducible apply notePhases_only
    | with_reducible apply stepResult_only
    | with_reducible apply Only.modGlb
    | with_reducible apply Only.modPwr
    | with_reducible apply Only.iteTest
    | split
    | dsimp only)

theorem readStud_only {ps : List Part} {s t : State} (h : Only ps s t) (hp : Within [.fields, .regions] ps) :
    Only ps s (readStud t) := by
  unfold readStud
  repeat' (first
    | with_reducible assumption
    | with_reducible exact hp.trans (.ofBool rfl)
    | with_reducible exact hp.mem rfl
    | exact Only.to (qs := [.fields, .regions]) h (hp.trans (.ofBool rfl)) fun p hn => by cases p <;> first | rfl | exact absurd (by decide) hn)

theorem noteCopies_only {ps : List Part} {s t : State} (h : Only ps s t) (hp : Within [.stud] ps) (p : UnitKind × Nat × Bool × Bool) :
    Only ps s (noteCopies t p) := by
  unfold noteCopies
  repeat' (first
    | with_reducible assumption
    | with_reducible exact hp.trans (.ofBool rfl)
    | with_reducible exact hp.mem rfl
    | with_reducible apply unitPut_only)

theorem noteFlash_only {ps : List Part} {s t : State} (h : Only ps s t) (hp : Within [.glb, .stud] ps) (found : FlashFindings) :
    Only ps s (noteFlash t found) := by
  unfold noteFlash
  repeat' (first
    | with_reducible assumption
    | with_reducible exact hp.trans (.ofBool rfl)
    | with_reducible exact hp.mem rfl
    | with_reducible intro _
    | with_reducible apply noteCopies_only
    | with_reducible apply Only.modGlb
    | with_reducible apply Only.foldl)

theorem startImage_only {ps : List Part} {s t : State} (h : Only ps s t) (hp : Within [.fields, .regions, .boot, .glb, .sec, .stud, .fuses] ps) (flash : FlashFindings) :
    Only ps s (startImage t flash) := by
  unfold startImage
  dsimp only
  exact readStud_only (noteFlash_only (Only.modBoot (Only.modSec (Only.setFuses h (hp.mem rfl)) (hp.mem rfl)) (hp.mem rfl))
    (hp.trans (.ofBool rfl)) _) (hp.trans (.ofBool rfl))

theorem testLandings_only {ps : List Part} {s t : State} (h : Only ps s t) (hp : Within [.pwr, .fields] ps) (landing1 : Bool) (landing4 : Bool) :
    Only ps s (testLandings t landing1 landing4) := by
  unfold testLandings
  repeat' (first
    | with_reducible assumption
    | with_reducible exact hp.trans (.ofBool rfl)
    | with_reducible exact hp.mem rfl
    | with_reducible apply Only.modField
    | with_reducible apply Only.modPwr
    | with_reducible apply Only.iteTest
    | split
    | dsimp only)

theorem kBootWork_only {ps : List Part} {s t : State} (h : Only ps s t) (hp : Within [.pwr, .fields, .regions, .boot, .glb, .sec, .stud, .fuses] ps) (landing1 : Bool) (landing4 : Bool) (flash : FlashFindings) :
    Only ps s (kBootWork t landing1 landing4 flash) := by
  unfold kBootWork
  repeat' (first
    | with_reducible assumption
    | with_reducible exact hp.trans (.ofBool rfl)
    | with_reducible exact hp.mem rfl
    | with_reducible apply startImage_only
    | with_reducible apply stepResult_only
    | with_reducible apply testLandings_only
    | with_reducible apply Only.modPwr
    | with_reducible apply Only.modSec
    | with_reducible apply Only.modBoot
    | with_reducible apply Only.iteTest
    | split
    | dsimp only)

theorem clearFindings_only {ps : List Part} {s t : State} (h : Only ps s t) (hp : Within [.pwr, .fields, .regions, .memStacks] ps) :
    Only ps s (clearFindings t) := by
  unfold clearFindings
  repeat' (first
    | with_reducible assumption
    | with_reducible exact hp.trans (.ofBool rfl)
    | with_reducible exact hp.mem rfl
    | exact Only.to (qs := [.pwr, .fields, .regions, .memStacks]) h (hp.trans (.ofBool rfl)) fun p hn => by cases p <;> first | rfl | exact absurd (by decide) hn)

theorem raiseRails_only {ps : List Part} {s t : State} (h : Only ps s t) (hp : Within [.pwr, .clk] ps) (silent : List Nat) :
    Only ps s (raiseRails t silent) := by
  unfold raiseRails
  repeat' (first
    | with_reducible assumption
    | with_reducible exact hp.trans (.ofBool rfl)
    | with_reducible exact hp.mem rfl
    | with_reducible apply Only.modPwr
    | with_reducible apply Only.modClk
    | with_reducible apply Only.iteTest
    | split
    | dsimp only)

theorem notePower_only {ps : List Part} {s t : State} (h : Only ps s t) (hp : Within [.pwr, .fields] ps) (found : PowerUpFindings) :
    Only ps s (notePower t found) := by
  unfold notePower
  have h1 := Only.foldl (f := fun u (p : Nat × Nat) => modField u p.1 (fun x => { x with spineIvrLost := max x.spineIvrLost p.2 }))
    found.spineIvrLost (fun v x k => Only.modField k (hp.mem rfl)) h
  exact Only.setFields (Only.modPwr h1 (hp.mem rfl)) (hp.mem rfl)

theorem phaseFails_only {ps : List Part} {s t : State} (h : Only ps s t) (hp : Within [.na, .hst, .stud, .host] ps) (r : Nat) (j : Nat) :
    Only ps s (phaseFails t r j) := by
  unfold phaseFails
  repeat' (first
    | with_reducible assumption
    | with_reducible exact hp.trans (.ofBool rfl)
    | with_reducible exact hp.mem rfl
    | with_reducible apply recordFault_only
    | with_reducible apply retireUnit_only
    | with_reducible apply Only.iteTest
    | split)

theorem bootEfuse_only {ps : List Part} {s t : State} (h : Only ps s t) (hp : Within [.regions, .na, .hst, .stud, .spad, .before, .host, .badSpad] ps) (r : Nat) :
    Only ps s (bootEfuse t r) := by
  unfold bootEfuse
  repeat' (first
    | with_reducible assumption
    | with_reducible exact hp.trans (.ofBool rfl)
    | with_reducible exact hp.mem rfl
    | with_reducible apply blowFuse_only
    | with_reducible apply noteOpening_only
    | with_reducible apply postEvent_only
    | with_reducible apply regionOff_only
    | with_reducible apply Only.modRegion
    | dsimp only)

theorem regionUp_only {ps : List Part} {s t : State} (h : Only ps s t) (hp : Within [.fields, .regions, .na, .hst, .stud, .spad, .before, .host, .badSpad, .free] ps) (found : PowerUpFindings) (r : Nat) :
    Only ps s (regionUp t found r) := by
  unfold regionUp
  repeat' (first
    | with_reducible assumption
    | with_reducible exact hp.trans (.ofBool rfl)
    | with_reducible exact hp.mem rfl
    | with_reducible intro _
    | with_reducible apply bootEfuse_only
    | with_reducible apply noteRail_only
    | with_reducible apply phaseFails_only
    | with_reducible apply updBanks_only
    | with_reducible apply Only.modRegion
    | with_reducible apply Only.foldl
    | with_reducible apply Only.iteTest
    | split
    | dsimp only)

theorem takeField_only {ps : List Part} {s t : State} (h : Only ps s t) (hp : Within [.pwr, .fields, .regions, .na, .hst, .stud, .spad, .before, .host, .badSpad, .free] ps) (found : PowerUpFindings) (f : Nat) :
    Only ps s (takeField t found f) := by
  unfold takeField
  repeat' (first
    | with_reducible assumption
    | with_reducible exact hp.trans (.ofBool rfl)
    | with_reducible exact hp.mem rfl
    | with_reducible intro _
    | with_reducible apply excludeField_only
    | with_reducible apply regionUp_only
    | with_reducible apply Only.modField
    | with_reducible apply Only.modPwr
    | with_reducible apply Only.foldl
    | with_reducible apply Only.iteTest
    | split
    | dsimp only)

theorem noteRepair_only {ps : List Part} {s t : State} (h : Only ps s t) (hp : Within [.stud] ps) (i : Nat) (wires : Nat) :
    Only ps s (noteRepair t i wires) := by
  unfold noteRepair
  repeat' (first
    | with_reducible assumption
    | with_reducible exact hp.trans (.ofBool rfl)
    | with_reducible exact hp.mem rfl
    | with_reducible apply noteRepairs_only
    | with_reducible apply Only.iteTest
    | split)

theorem noteSubLink_only {ps : List Part} {s t : State} (h : Only ps s t) (hp : Within [.na, .hst, .stud, .host] ps) (found : PowerUpFindings) (f : Nat) (d : Nat) (n : Nat) (k : Nat) :
    Only ps s (noteSubLink t found f d n k) := by
  unfold noteSubLink
  repeat' (first
    | with_reducible assumption
    | with_reducible exact hp.trans (.ofBool rfl)
    | with_reducible exact hp.mem rfl
    | with_reducible apply noteRepair_only
    | with_reducible apply recordFault_only
    | with_reducible apply Only.iteTest
    | split
    | dsimp only)

theorem trainJoin_only {ps : List Part} {s t : State} (h : Only ps s t) (hp : Within [.fields, .na, .hst, .stud, .host, .free] ps) (found : PowerUpFindings) (f : Nat) (d : Nat) :
    Only ps s (trainJoin t found f d) := by
  unfold trainJoin
  repeat' (first
    | with_reducible assumption
    | with_reducible exact hp.trans (.ofBool rfl)
    | with_reducible exact hp.mem rfl
    | with_reducible intro _
    | with_reducible apply bumpFree_only
    | with_reducible apply edgeDown_only
    | with_reducible apply noteSubLink_only
    | with_reducible apply Only.modEdge
    | with_reducible apply Only.foldl
    | with_reducible apply Only.iteTest
    | split
    | dsimp only)

theorem noteLanding_only {ps : List Part} {s t : State} (h : Only ps s t) (hp : Within [.na, .hst, .stud, .host] ps) (found : PowerUpFindings) (f : Nat) (c : Nat) (h' : Nat) (k : Nat) :
    Only ps s (noteLanding t found f c h' k) := by
  unfold noteLanding
  repeat' (first
    | with_reducible assumption
    | with_reducible exact hp.trans (.ofBool rfl)
    | with_reducible exact hp.mem rfl
    | with_reducible apply noteRepair_only
    | with_reducible apply recordFault_only
    | with_reducible apply Only.iteTest
    | split
    | dsimp only)

theorem trainLanding_only {ps : List Part} {s t : State} (h : Only ps s t) (hp : Within [.pwr, .na, .hst, .stud, .host] ps) (found : PowerUpFindings) (f : Nat) :
    Only ps s (trainLanding t found f) := by
  unfold trainLanding
  repeat' (first
    | with_reducible assumption
    | with_reducible exact hp.trans (.ofBool rfl)
    | with_reducible exact hp.mem rfl
    | with_reducible intro _
    | with_reducible apply noteLanding_only
    | with_reducible apply setLanding_only
    | with_reducible apply Only.foldl
    | with_reducible apply Only.iteTest
    | split)

theorem trainLandings_only {ps : List Part} {s t : State} (h : Only ps s t) (hp : Within [.pwr, .na, .hst, .stud, .host] ps) (found : PowerUpFindings) :
    Only ps s (trainLandings t found) := by
  unfold trainLandings
  repeat' (first
    | with_reducible assumption
    | with_reducible exact hp.trans (.ofBool rfl)
    | with_reducible exact hp.mem rfl
    | with_reducible intro _
    | with_reducible apply trainLanding_only
    | with_reducible apply Only.foldl)

theorem fieldPowerUpWork_only {ps : List Part} {s t : State} (h : Only ps s t) (hp : Within [.pwr, .clk, .fields, .regions, .memStacks, .na, .hst, .boot, .stud, .spad, .before, .host, .badSpad, .free] ps) (found : PowerUpFindings) :
    Only ps s (fieldPowerUpWork t found) := by
  unfold fieldPowerUpWork
  repeat' (first
    | with_reducible assumption
    | with_reducible exact hp.trans (.ofBool rfl)
    | with_reducible exact hp.mem rfl
    | with_reducible intro _
    | with_reducible apply clearFindings_only
    | with_reducible apply notePower_only
    | with_reducible apply raiseRails_only
    | with_reducible apply stepResult_only
    | with_reducible apply takeField_only
    | with_reducible apply trainJoin_only
    | with_reducible apply trainLandings_only
    | with_reducible apply Only.foldl
    | with_reducible apply Only.iteTest
    | split
    | dsimp only)

theorem coreOff_only {ps : List Part} {s t : State} (h : Only ps s t) (hp : Within [.pwr, .lnk] ps) (c : Nat) :
    Only ps s (coreOff t c) := by
  unfold coreOff
  repeat' (first
    | with_reducible assumption
    | with_reducible exact hp.trans (.ofBool rfl)
    | with_reducible exact hp.mem rfl
    | with_reducible apply dieLinksOff_only
    | with_reducible apply Only.modPwr
    | dsimp only)

theorem Only.elim {α : Type} {ps : List Part} {s a : State} {o : Option α} {f : α → State} (ha : Only ps s a)
    (hf : ∀ x, Only ps s (f x)) : Only ps s (o.elim a f) := by
  cases o with
  | none => exact ha
  | some x => exact hf x

theorem markNow_joinRecount_only {ps : List Part} {s t : State} (h : Only ps s t) (hp : Within [.pwr, .fields] ps) (i : Nat) :
    Only ps s (markNow.joinRecount t i) := by
  unfold markNow.joinRecount
  repeat' (first
    | with_reducible assumption
    | with_reducible exact hp.trans (.ofBool rfl)
    | with_reducible exact hp.mem rfl
    | with_reducible refine Only.elim ?_ fun _ => ?_
    | with_reducible apply edgeDown_only
    | with_reducible apply setLanding_only
    | with_reducible apply Only.modEdge
    | with_reducible apply Only.iteTest
    | split
    | dsimp only)

theorem markNow_only {ps : List Part} {s t : State} (h : Only ps s t) (hp : Within [.pwr, .fields, .regions, .memStacks, .lnk, .spad, .before, .badSpad] ps) (k : UnitKind) (i : Nat) :
    Only ps s (markNow t k i) := by
  unfold markNow
  repeat' (first
    | with_reducible assumption
    | with_reducible exact hp.trans (.ofBool rfl)
    | with_reducible exact hp.mem rfl
    | with_reducible apply coreOff_only
    | with_reducible apply excludeField_only
    | with_reducible apply markNow_joinRecount_only
    | with_reducible apply Only.modRegion
    | with_reducible apply Only.modStack
    | with_reducible apply Only.modEdge
    | with_reducible apply Only.iteTest
    | split)

theorem testUnit_only {ps : List Part} {s t : State} (h : Only ps s t) (hp : Within [.pwr, .fields, .regions, .memStacks, .lnk, .na, .hst, .stud, .spad, .before, .host, .badSpad] ps) (x : TestFinding) :
    Only ps s (testUnit t x) := by
  unfold testUnit
  repeat' (first
    | with_reducible assumption
    | with_reducible exact hp.trans (.ofBool rfl)
    | with_reducible exact hp.mem rfl
    | with_reducible apply markNow_only
    | with_reducible apply recordFault_only
    | with_reducible apply retireUnit_only
    | with_reducible apply Only.iteTest
    | split)

theorem startUpTestsWork_only {ps : List Part} {s t : State} (h : Only ps s t) (hp : Within [.pwr, .fields, .regions, .memStacks, .lnk, .na, .hst, .boot, .stud, .spad, .before, .host, .badSpad] ps) (found : List TestFinding) (efuseOpen : List Nat) :
    Only ps s (startUpTestsWork t found efuseOpen) := by
  unfold startUpTestsWork
  repeat' (first
    | with_reducible assumption
    | with_reducible exact hp.trans (.ofBool rfl)
    | with_reducible exact hp.mem rfl
    | with_reducible intro _
    | with_reducible apply bootEfuse_only
    | with_reducible apply stepResult_only
    | with_reducible apply testUnit_only
    | with_reducible apply Only.foldl
    | with_reducible apply Only.iteTest
    | split
    | dsimp only)

theorem trainStack_only {ps : List Part} {s t : State} (h : Only ps s t) (hp : Within [.memStacks, .stud] ps) (x : StackFinding) :
    Only ps s (trainStack t x) := by
  unfold trainStack
  repeat' (first
    | with_reducible assumption
    | with_reducible exact hp.trans (.ofBool rfl)
    | with_reducible exact hp.mem rfl
    | with_reducible apply noteLanes_only
    | with_reducible apply trainedStack_only
    | with_reducible apply Only.modStack
    | with_reducible apply Only.iteTest
    | split)

theorem dramTrainingWork_only {ps : List Part} {s t : State} (h : Only ps s t) (hp : Within [.memStacks, .boot, .stud] ps) (found : List StackFinding) :
    Only ps s (dramTrainingWork t found) := by
  unfold dramTrainingWork
  repeat' (first
    | with_reducible assumption
    | with_reducible exact hp.trans (.ofBool rfl)
    | with_reducible exact hp.mem rfl
    | with_reducible intro _
    | with_reducible apply stepResult_only
    | with_reducible apply trainStack_only
    | with_reducible apply Only.foldl
    | dsimp only)

theorem linkTrainingWork_only {ps : List Part} {s t : State} (h : Only ps s t) (hp : Within [.pwr, .lnk] ps) :
    Only ps s (linkTrainingWork t) := by
  unfold linkTrainingWork
  repeat' (first
    | with_reducible assumption
    | with_reducible exact hp.trans (.ofBool rfl)
    | with_reducible exact hp.mem rfl
    | with_reducible intro _
    | with_reducible apply Only.modLink
    | with_reducible apply Only.modPwr
    | with_reducible apply Only.foldl
    | with_reducible apply Only.iteTest
    | split
    | dsimp only)

theorem planeMismatch_only {ps : List Part} {s t : State} (h : Only ps s t) (hp : Within [.na, .hst, .stud, .host] ps) (l : Nat) (peerPlane : Nat) :
    Only ps s (planeMismatch t l peerPlane) := by
  unfold planeMismatch
  exact postEvent_only (Only.setStud h (hp.mem rfl)) (hp.trans (.ofBool rfl)) _ _ _ _

theorem laneFaults_only {ps : List Part} {s t : State} (h : Only ps s t) (hp : Within [.na, .hst, .stud, .host] ps) (l : Nat) (passed : BitVec 2) :
    Only ps s (laneFaults t l passed) := by
  unfold laneFaults
  repeat' (first
    | with_reducible assumption
    | with_reducible exact hp.trans (.ofBool rfl)
    | with_reducible exact hp.mem rfl
    | with_reducible intro _
    | with_reducible apply recordFault_only
    | with_reducible apply Only.foldl
    | with_reducible apply Only.iteTest
    | split)

theorem linkSettles_only {ps : List Part} {s t : State} (h : Only ps s t) (hp : Within [.lnk, .na, .hst, .stud, .host] ps) (l : Nat) (lanes : BitVec 2) (passed : BitVec 2) :
    Only ps s (linkSettles t l lanes passed) := by
  unfold linkSettles
  repeat' (first
    | with_reducible assumption
    | with_reducible exact hp.trans (.ofBool rfl)
    | with_reducible exact hp.mem rfl
    | with_reducible apply laneFaults_only
    | with_reducible apply recordFault_only
    | with_reducible apply Only.modLink
    | with_reducible apply Only.iteTest
    | split
    | dsimp only)

theorem attemptEnd_only {ps : List Part} {s t : State} (h : Only ps s t) (hp : Within [.lnk, .na, .hst, .side, .stud, .host] ps) (l : Nat) (lanes : BitVec 2) (peer : BitVec 48) (peerPlane : Nat) :
    Only ps s (attemptEnd t l lanes peer peerPlane) := by
  unfold attemptEnd
  repeat' (first
    | with_reducible assumption
    | with_reducible exact hp.trans (.ofBool rfl)
    | with_reducible exact hp.mem rfl
    | with_reducible apply linkSettles_only
    | with_reducible apply planeMismatch_only
    | with_reducible apply putFlits_only
    | with_reducible apply Only.modLink
    | with_reducible apply Only.iteTest
    | split
    | dsimp only)

theorem ringEnableWork_only {ps : List Part} {s t : State} (h : Only ps s t) (hp : Within [.boot, .glb, .master, .sync] ps) :
    Only ps s (ringEnableWork t) := by
  unfold ringEnableWork
  exact stepResult_only (Only.modGlb (Only.modMaster (Only.setSync h (hp.mem rfl)) (hp.mem rfl)) (hp.mem rfl))
    (hp.trans (.ofBool rfl)) _

theorem bootCommand_only {ps : List Part} {s t : State} (h : Only ps s t) (hp : Within [.pwr, .fields, .regions, .slots, .memStacks, .lnk, .na, .hst, .boot, .glb, .master, .sync, .dram, .spad, .before, .host, .badSpad, .badDram] ps) (n : Nat) (fast : Bool) :
    Only ps s (bootCommand t n fast) := by
  unfold bootCommand
  repeat' (first
    | with_reducible assumption
    | with_reducible exact hp.trans (.ofBool rfl)
    | with_reducible exact hp.mem rfl
    | with_reducible apply assembleWeave_only
    | with_reducible apply bootBegin_only
    | with_reducible apply bootRefuse_only
    | with_reducible apply linkTrainingWork_only
    | with_reducible apply ringEnableWork_only
    | with_reducible apply Only.iteTest
    | split
    | dsimp only)

theorem stepFails_only {ps : List Part} {s t : State} (h : Only ps s t) (hp : Within [.boot] ps) (n : Nat) :
    Only ps s (stepFails t n) := by
  unfold stepFails
  repeat' (first
    | with_reducible assumption
    | with_reducible exact hp.trans (.ofBool rfl)
    | with_reducible exact hp.mem rfl
    | with_reducible apply Only.modBoot)

theorem stepEnds_only {ps : List Part} {s t : State} (h : Only ps s t) (hp : Within [.pwr, .boot, .glb] ps) (n : Nat) :
    Only ps s (stepEnds t n) := by
  unfold stepEnds
  repeat' (first
    | with_reducible assumption
    | with_reducible exact hp.trans (.ofBool rfl)
    | with_reducible exact hp.mem rfl
    | with_reducible apply Only.modGlb
    | with_reducible apply Only.modPwr
    | with_reducible apply Only.modBoot
    | with_reducible apply Only.iteTest
    | split
    | dsimp only)

theorem linkStepEnds_only {ps : List Part} {s t : State} (h : Only ps s t) (hp : Within [.pwr, .fields, .regions, .slots, .memStacks, .lnk, .na, .hst, .boot, .glb, .dram, .spad, .before, .host, .badSpad, .badDram] ps) :
    Only ps s (linkStepEnds t) := by
  unfold linkStepEnds
  repeat' (first
    | with_reducible assumption
    | with_reducible exact hp.trans (.ofBool rfl)
    | with_reducible exact hp.mem rfl
    | with_reducible apply assembleWeave_only
    | with_reducible apply Only.modBoot
    | with_reducible apply Only.iteTest
    | split
    | dsimp only)

theorem bootComplete_only {ps : List Part} {s t : State} (h : Only ps s t) (hp : Within [.pwr, .fields, .regions, .slots, .memStacks, .lnk, .na, .hst, .boot, .glb, .dram, .spad, .before, .host, .badSpad, .badDram] ps) (n : Nat) :
    Only ps s (bootComplete t n) := by
  unfold bootComplete
  repeat' (first
    | with_reducible assumption
    | with_reducible exact hp.trans (.ofBool rfl)
    | with_reducible exact hp.mem rfl
    | with_reducible apply linkStepEnds_only
    | with_reducible apply stepEnds_only
    | with_reducible apply stepFails_only
    | with_reducible apply Only.iteTest
    | split)

/-! ### Machine/BootRows.lean -/

theorem execPowerEntryChecks_only {ps : List Part} {s t : State} (h : Only ps s t) (hp : Within [.pwr, .fields, .boot, .glb] ps) (vin : Nat) (inlet : Nat) (outlet : Nat) (lidOk : Bool) (stageFailed : List (Nat × Nat)) (blades : List Nat := []) :
    ResOnly ps s (execPowerEntryChecks vin inlet outlet lidOk stageFailed t blades) := by
  unfold execPowerEntryChecks
  repeat' (first
    | with_reducible assumption
    | with_reducible exact hp.trans (.ofBool rfl)
    | with_reducible exact hp.mem rfl
    | with_reducible intro _
    | with_reducible apply powerEntry_only
    | with_reducible apply runStep_only
    | with_reducible apply ResOnly.next
    | dsimp only)

theorem execKBoot_only {ps : List Part} {s t : State} (h : Only ps s t) (hp : Within [.pwr, .fields, .regions, .boot, .glb, .sec, .stud, .fuses] ps) (landing1 : Bool) (landing4 : Bool) (flash : FlashFindings := FlashFindings.clean) :
    ResOnly ps s (execKBoot landing1 landing4 t flash) := by
  unfold execKBoot
  repeat' (first
    | with_reducible assumption
    | with_reducible exact hp.trans (.ofBool rfl)
    | with_reducible exact hp.mem rfl
    | with_reducible intro _
    | with_reducible apply kBootWork_only
    | with_reducible apply runStep_only
    | with_reducible apply ResOnly.next)

theorem execFieldPowerUp_only {ps : List Part} {s t : State} (h : Only ps s t) (hp : Within [.pwr, .clk, .fields, .regions, .memStacks, .na, .hst, .boot, .stud, .spad, .before, .host, .badSpad, .free] ps) (found : PowerUpFindings) :
    ResOnly ps s (execFieldPowerUp found t) := by
  unfold execFieldPowerUp
  repeat' (first
    | with_reducible assumption
    | with_reducible exact hp.trans (.ofBool rfl)
    | with_reducible exact hp.mem rfl
    | with_reducible intro _
    | with_reducible apply fieldPowerUpWork_only
    | with_reducible apply runStep_only
    | with_reducible apply ResOnly.next)

theorem execFieldPowerUpFast_only {ps : List Part} {s t : State} (h : Only ps s t) (hp : Within [.pwr, .clk, .fields, .regions, .memStacks, .na, .hst, .boot, .stud, .spad, .before, .host, .badSpad, .free] ps) (found : PowerUpFindings) :
    ResOnly ps s (execFieldPowerUpFast found t) := by
  unfold execFieldPowerUpFast
  repeat' (first
    | with_reducible assumption
    | with_reducible exact hp.trans (.ofBool rfl)
    | with_reducible exact hp.mem rfl
    | with_reducible intro _
    | with_reducible apply fieldPowerUpWork_only
    | with_reducible apply runStep_only
    | with_reducible apply ResOnly.next)

theorem execStartUpTests_only {ps : List Part} {s t : State} (h : Only ps s t) (hp : Within [.pwr, .fields, .regions, .memStacks, .lnk, .na, .hst, .boot, .stud, .spad, .before, .host, .badSpad] ps) (found : List TestFinding) (efuseOpen : List Nat) :
    ResOnly ps s (execStartUpTests found efuseOpen t) := by
  unfold execStartUpTests
  repeat' (first
    | with_reducible assumption
    | with_reducible exact hp.trans (.ofBool rfl)
    | with_reducible exact hp.mem rfl
    | with_reducible intro _
    | with_reducible apply runStep_only
    | with_reducible apply startUpTestsWork_only
    | with_reducible apply ResOnly.next)

theorem execDramTraining_only {ps : List Part} {s t : State} (h : Only ps s t) (hp : Within [.memStacks, .boot, .stud] ps) (found : List StackFinding) :
    ResOnly ps s (execDramTraining found t) := by
  unfold execDramTraining
  repeat' (first
    | with_reducible assumption
    | with_reducible exact hp.trans (.ofBool rfl)
    | with_reducible exact hp.mem rfl
    | with_reducible intro _
    | with_reducible apply dramTrainingWork_only
    | with_reducible apply runStep_only
    | with_reducible apply ResOnly.next)

theorem execLinkTraining_only {ps : List Part} {s t : State} (h : Only ps s t) (hp : Within [.pwr, .lnk, .boot] ps) :
    ResOnly ps s (execLinkTraining t) := by
  unfold execLinkTraining
  repeat' (first
    | with_reducible assumption
    | with_reducible exact hp.trans (.ofBool rfl)
    | with_reducible exact hp.mem rfl
    | with_reducible intro _
    | with_reducible apply linkTrainingWork_only
    | with_reducible apply runStep_only
    | with_reducible apply ResOnly.next)

theorem execLinkTrainingAttemptEnd_only {ps : List Part} {s t : State} (h : Only ps s t) (hp : Within [.lnk, .na, .hst, .side, .stud, .host] ps) (link : Nat) (lanes : BitVec 2) (peer : BitVec 48) (peerPlane : Nat) :
    ResOnly ps s (execLinkTrainingAttemptEnd link lanes peer peerPlane t) := by
  unfold execLinkTrainingAttemptEnd
  repeat' (first
    | with_reducible assumption
    | with_reducible exact hp.trans (.ofBool rfl)
    | with_reducible exact hp.mem rfl
    | with_reducible apply attemptEnd_only
    | with_reducible apply Only.iteTest
    | with_reducible apply ResOnly.next
    | with_reducible apply ResOnly.onUnit
    | with_reducible apply ResOnly.iteTest
    | split)

theorem execWeaveAssembly_only {ps : List Part} {s t : State} (h : Only ps s t) (hp : Within [.pwr, .fields, .regions, .slots, .memStacks, .lnk, .na, .hst, .boot, .glb, .dram, .spad, .before, .host, .badSpad, .badDram] ps) :
    ResOnly ps s (execWeaveAssembly t) := by
  unfold execWeaveAssembly
  repeat' (first
    | with_reducible assumption
    | with_reducible exact hp.trans (.ofBool rfl)
    | with_reducible exact hp.mem rfl
    | with_reducible intro _
    | with_reducible apply assembleWeave_only
    | with_reducible apply runStep_only
    | with_reducible apply ResOnly.next)

theorem execWeavePublication_only {ps : List Part} {s t : State} (h : Only ps s t) (hp : Within [.regions, .boot, .glb, .host] ps) (flashOk : Bool) :
    ResOnly ps s (execWeavePublication flashOk t) := by
  unfold execWeavePublication
  repeat' (first
    | with_reducible assumption
    | with_reducible exact hp.trans (.ofBool rfl)
    | with_reducible exact hp.mem rfl
    | with_reducible intro _
    | with_reducible apply publishStep_only
    | with_reducible apply runStep_only
    | with_reducible apply ResOnly.next)

theorem execRingEnableStep_only {ps : List Part} {s t : State} (h : Only ps s t) (hp : Within [.boot, .glb, .master, .sync] ps) :
    ResOnly ps s (execRingEnableStep t) := by
  unfold execRingEnableStep
  repeat' (first
    | with_reducible assumption
    | with_reducible exact hp.trans (.ofBool rfl)
    | with_reducible exact hp.mem rfl
    | with_reducible intro _
    | with_reducible apply ringEnableWork_only
    | with_reducible apply runStep_only
    | with_reducible apply ResOnly.next)

theorem execBootStepComplete_only {ps : List Part} {s t : State} (h : Only ps s t) (hp : Within [.pwr, .fields, .regions, .slots, .memStacks, .lnk, .na, .hst, .boot, .glb, .dram, .spad, .before, .host, .badSpad, .badDram] ps) (step : Nat) :
    ResOnly ps s (execBootStepComplete step t) := by
  unfold execBootStepComplete
  repeat' (first
    | with_reducible assumption
    | with_reducible exact hp.trans (.ofBool rfl)
    | with_reducible exact hp.mem rfl
    | with_reducible apply bootComplete_only
    | with_reducible apply Only.iteTest
    | with_reducible apply ResOnly.next
    | with_reducible apply ResOnly.iteTest
    | exact ResOnly.fault _
    | split)

/-! ### Machine/Security.lean -/

theorem setResult_only {ps : List Part} {s t : State} (h : Only ps s t) (hp : Within [.sec] ps) (code : Byte) :
    Only ps s (setResult t code) := by
  unfold setResult
  repeat' (first
    | with_reducible assumption
    | with_reducible exact hp.trans (.ofBool rfl)
    | with_reducible exact hp.mem rfl
    | with_reducible apply Only.modSec)

theorem beginPass2_only {ps : List Part} {s t : State} (h : Only ps s t) (hp : Within [.sec, .free] ps) :
    Only ps s (beginPass2 t) := by
  unfold beginPass2
  repeat' (first
    | with_reducible assumption
    | with_reducible exact hp.trans (.ofBool rfl)
    | with_reducible exact hp.mem rfl
    | with_reducible apply bumpFree_only
    | with_reducible apply Only.modSec)

theorem updateStart_only {ps : List Part} {s t : State} (h : Only ps s t) (hp : Within [.sec, .free] ps) :
    Only ps s (updateStart t) := by
  unfold updateStart
  repeat' (first
    | with_reducible assumption
    | with_reducible exact hp.trans (.ofBool rfl)
    | with_reducible exact hp.mem rfl
    | with_reducible apply beginPass2_only
    | with_reducible apply setResult_only
    | with_reducible apply Only.iteTest
    | split)

theorem updateEnds_only {ps : List Part} {s t : State} (h : Only ps s t) (hp : Within [.pwr, .clk, .fields, .regions, .slots, .memStacks, .lnk, .hst, .blocks, .boot, .glb, .sec, .master, .farrier, .held, .spad, .before, .badSpad, .free] ps) (code : Byte) :
    Only ps s (updateEnds t code) := by
  unfold updateEnds
  repeat' (first
    | with_reducible assumption
    | with_reducible exact hp.trans (.ofBool rfl)
    | with_reducible exact hp.mem rfl
    | with_reducible apply warmRest_only
    | with_reducible apply Only.modSec
    | with_reducible apply Only.iteTest
    | split
    | dsimp only)

theorem updateFinish_only {ps : List Part} {s t : State} (h : Only ps s t) (hp : Within [.pwr, .clk, .fields, .regions, .slots, .memStacks, .lnk, .hst, .blocks, .boot, .glb, .sec, .master, .farrier, .held, .spad, .before, .badSpad, .free] ps) (flashOk : Bool) (readBack : List (Nat × Byte)) :
    Only ps s (updateFinish t flashOk readBack) := by
  unfold updateFinish
  repeat' (first
    | with_reducible assumption
    | with_reducible exact hp.trans (.ofBool rfl)
    | with_reducible exact hp.mem rfl
    | with_reducible apply updateEnds_only
    | with_reducible apply Only.modSec
    | with_reducible apply Only.iteTest
    | split
    | dsimp only)

theorem faTry_only {ps : List Part} {s t : State} (h : Only ps s t) (hp : Within [.sec] ps) :
    Only ps s (faTry t) := by
  unfold faTry
  repeat' (first
    | with_reducible assumption
    | with_reducible exact hp.trans (.ofBool rfl)
    | with_reducible exact hp.mem rfl
    | with_reducible apply setResult_only
    | with_reducible apply Only.modSec
    | with_reducible apply Only.iteTest
    | split
    | dsimp only)

theorem faShut_only {ps : List Part} {s t : State} (h : Only ps s t) (hp : Within [.sec] ps) :
    Only ps s (faShut t) := by
  unfold faShut
  repeat' (first
    | with_reducible assumption
    | with_reducible exact hp.trans (.ofBool rfl)
    | with_reducible exact hp.mem rfl
    | with_reducible apply Only.modSec)

theorem spdmAnswer_only {ps : List Part} {s t : State} (h : Only ps s t) (hp : Within [.side] ps) (request : List Byte) (response : List Byte) :
    Only ps s (spdmAnswer t request response) := by
  unfold spdmAnswer
  repeat' (first
    | with_reducible assumption
    | with_reducible exact hp.trans (.ofBool rfl)
    | with_reducible exact hp.mem rfl
    | with_reducible apply Only.modSide)

theorem spdmRefuse_only {ps : List Part} {s t : State} (h : Only ps s t) (hp : Within [.side] ps) (code : Nat) (data : Nat) :
    Only ps s (spdmRefuse t code data) := by
  unfold spdmRefuse
  repeat' (first
    | with_reducible assumption
    | with_reducible exact hp.trans (.ofBool rfl)
    | with_reducible exact hp.mem rfl
    | with_reducible apply Only.modSide)

theorem signLater_only {ps : List Part} {s t : State} (h : Only ps s t) (hp : Within [.side, .free] ps) (challenge : Bool) (request : List Byte) (body : List Byte) :
    Only ps s (signLater t challenge request body) := by
  unfold signLater
  repeat' (first
    | with_reducible assumption
    | with_reducible exact hp.trans (.ofBool rfl)
    | with_reducible exact hp.mem rfl
    | with_reducible apply bumpFree_only
    | with_reducible apply Only.modSide)

/-! ### Machine/SecRows.lean -/

theorem onEndpoint_only {ps : List Part} {s t : State} (h : Only ps s t) (hp : Within [] ps) {f : State → State}
    (hf : ∀ u, Only ps s u → Only ps s (f u)) : ResOnly ps s (onEndpoint t f) := by
  unfold onEndpoint
  exact .next (.iteTest (hf t h) h)

theorem execGetVersion_only {ps : List Part} {s t : State} (h : Only ps s t) (hp : Within [.side] ps) :
    ResOnly ps s (execGetVersion t) := by
  unfold execGetVersion
  repeat' (first
    | with_reducible assumption
    | with_reducible exact hp.trans (.ofBool rfl)
    | with_reducible exact hp.mem rfl
    | with_reducible intro _
    | with_reducible apply onEndpoint_only
    | with_reducible apply spdmAnswer_only
    | with_reducible apply Only.modSide
    | with_reducible apply ResOnly.next)

theorem execGetCapabilities_only {ps : List Part} {s t : State} (h : Only ps s t) (hp : Within [.side] ps) :
    ResOnly ps s (execGetCapabilities t) := by
  unfold execGetCapabilities
  repeat' (first
    | with_reducible assumption
    | with_reducible exact hp.trans (.ofBool rfl)
    | with_reducible exact hp.mem rfl
    | with_reducible intro _
    | with_reducible apply onEndpoint_only
    | with_reducible apply spdmAnswer_only
    | with_reducible apply ResOnly.next)

theorem execNegotiateAlgorithms_only {ps : List Part} {s t : State} (h : Only ps s t) (hp : Within [.side] ps) (extAsym : Bool) (extHash : Bool) :
    ResOnly ps s (execNegotiateAlgorithms extAsym extHash t) := by
  unfold execNegotiateAlgorithms
  repeat' (first
    | with_reducible assumption
    | with_reducible exact hp.trans (.ofBool rfl)
    | with_reducible exact hp.mem rfl
    | with_reducible intro _
    | with_reducible apply onEndpoint_only
    | with_reducible apply spdmAnswer_only
    | with_reducible apply spdmRefuse_only
    | with_reducible apply Only.iteTest
    | with_reducible apply ResOnly.next
    | with_reducible apply ResOnly.iteTest
    | split)

theorem execGetDigests_only {ps : List Part} {s t : State} (h : Only ps s t) (hp : Within [.side] ps) :
    ResOnly ps s (execGetDigests t) := by
  unfold execGetDigests
  repeat' (first
    | with_reducible assumption
    | with_reducible exact hp.trans (.ofBool rfl)
    | with_reducible exact hp.mem rfl
    | with_reducible intro _
    | with_reducible apply onEndpoint_only
    | with_reducible apply spdmAnswer_only
    | with_reducible apply ResOnly.next)

theorem execGetCertificate_only {ps : List Part} {s t : State} (h : Only ps s t) (hp : Within [.side] ps) (slot : Nat) (offset : Nat) (length : Nat) :
    ResOnly ps s (execGetCertificate slot offset length t) := by
  unfold execGetCertificate
  repeat' (first
    | with_reducible assumption
    | with_reducible exact hp.trans (.ofBool rfl)
    | with_reducible exact hp.mem rfl
    | with_reducible intro _
    | with_reducible apply onEndpoint_only
    | with_reducible apply spdmAnswer_only
    | with_reducible apply spdmRefuse_only
    | with_reducible apply Only.iteTest
    | with_reducible apply ResOnly.next
    | with_reducible apply ResOnly.iteTest
    | split)

theorem execChallenge_only {ps : List Part} {s t : State} (h : Only ps s t) (hp : Within [.side, .free] ps) (slot : Nat) (nonce : List Byte) :
    ResOnly ps s (execChallenge slot nonce t) := by
  unfold execChallenge
  repeat' (first
    | with_reducible assumption
    | with_reducible exact hp.trans (.ofBool rfl)
    | with_reducible exact hp.mem rfl
    | with_reducible intro _
    | with_reducible apply onEndpoint_only
    | with_reducible apply signLater_only
    | with_reducible apply spdmRefuse_only
    | with_reducible apply Only.iteTest
    | with_reducible apply ResOnly.next
    | with_reducible apply ResOnly.iteTest
    | split)

theorem execGetMeasurements_only {ps : List Part} {s t : State} (h : Only ps s t) (hp : Within [.side, .free] ps) (index : Nat) (signed : Bool) (nonce : List Byte) :
    ResOnly ps s (execGetMeasurements index signed nonce t) := by
  unfold execGetMeasurements
  repeat' (first
    | with_reducible assumption
    | with_reducible exact hp.trans (.ofBool rfl)
    | with_reducible exact hp.mem rfl
    | with_reducible intro _
    | with_reducible apply bumpFree_only
    | with_reducible apply onEndpoint_only
    | with_reducible apply signLater_only
    | with_reducible apply spdmAnswer_only
    | with_reducible apply spdmRefuse_only
    | with_reducible apply Only.iteTest
    | with_reducible apply ResOnly.next
    | with_reducible apply ResOnly.iteTest
    | split)

theorem execSpdmUnsupportedRequest_only {ps : List Part} {s t : State} (h : Only ps s t) (hp : Within [.side] ps) (code : Byte) :
    ResOnly ps s (execSpdmUnsupportedRequest code t) := by
  unfold execSpdmUnsupportedRequest
  repeat' (first
    | with_reducible assumption
    | with_reducible exact hp.trans (.ofBool rfl)
    | with_reducible exact hp.mem rfl
    | with_reducible intro _
    | with_reducible apply onEndpoint_only
    | with_reducible apply spdmRefuse_only
    | with_reducible apply ResOnly.next)

theorem execSignatureComplete_only {ps : List Part} {s t : State} (h : Only ps s t) (hp : Within [.side] ps) :
    ResOnly ps s (execSignatureComplete t) := by
  unfold execSignatureComplete
  repeat' (first
    | with_reducible assumption
    | with_reducible exact hp.trans (.ofBool rfl)
    | with_reducible exact hp.mem rfl
    | with_reducible apply Only.modSide
    | with_reducible apply ResOnly.next
    | split)

theorem execFirmwareUpdateEnd_only {ps : List Part} {s t : State} (h : Only ps s t) (hp : Within [.pwr, .clk, .fields, .regions, .slots, .memStacks, .lnk, .hst, .blocks, .boot, .glb, .sec, .master, .farrier, .held, .spad, .before, .host, .badSpad, .free] ps) (host : List Host.Cell) (flashOk : Bool) (readBack : List (Nat × Byte) := []) :
    ResOnly ps s (execFirmwareUpdateEnd host flashOk t readBack) := by
  unfold execFirmwareUpdateEnd
  repeat' (first
    | with_reducible assumption
    | with_reducible exact hp.trans (.ofBool rfl)
    | with_reducible exact hp.mem rfl
    | with_reducible apply hostMerge_only
    | with_reducible apply updateFinish_only
    | with_reducible apply Only.iteTest
    | with_reducible apply ResOnly.next
    | with_reducible apply ResOnly.iteTest
    | split)

theorem execFirmwareUpdateResume_only {ps : List Part} {s t : State} (h : Only ps s t) (hp : Within [.sec] ps) :
    ResOnly ps s (execFirmwareUpdateResume t) := by
  unfold execFirmwareUpdateResume
  repeat' (first
    | with_reducible assumption
    | with_reducible exact hp.trans (.ofBool rfl)
    | with_reducible exact hp.mem rfl
    | with_reducible apply Only.modSec
    | with_reducible apply Only.iteTest
    | with_reducible apply ResOnly.next
    | with_reducible apply ResOnly.iteTest
    | split)

end Sys2Proof.Machine
end

