-- ==== Sys2Proof/Laws/OnlyPorts.lean ====
section
/-!
SUPPORT. One lemma for each operation of the host port, the register window, stacks, links, collectives, sideband and farrier commands: the parts of the
state it touches (Laws/Only.lean).
-/
namespace Sys2Proof.Machine

/-! ### Machine/HostOps.lean -/

theorem stopUnder405_only {ps : List Part} {s t : State} (h : Only ps s t) (hp : Within [.fields, .regions, .lnk, .hst, .master, .spad, .before, .badSpad] ps) (ring : Nat) (g : Ring → Ring) :
    Only ps s (stopUnder405 t ring g) := by
  unfold stopUnder405
  repeat' (first
    | with_reducible assumption
    | with_reducible exact hp.trans (.ofBool rfl)
    | with_reducible exact hp.mem rfl
    | with_reducible apply ringStops_only
    | with_reducible apply updAllBanks_only
    | with_reducible apply Only.modRing)

theorem dbStop_only {ps : List Part} {s t : State} (h : Only ps s t) (hp : Within [.fields, .regions, .lnk, .hst, .master, .spad, .before, .badSpad] ps) (ring : Nat) :
    Only ps s (dbStop t ring) := by
  unfold dbStop
  repeat' (first
    | with_reducible assumption
    | with_reducible exact hp.trans (.ofBool rfl)
    | with_reducible exact hp.mem rfl
    | with_reducible apply stopUnder405_only)

theorem fetchStop_only {ps : List Part} {s t : State} (h : Only ps s t) (hp : Within [.fields, .regions, .lnk, .hst, .master, .spad, .before, .badSpad] ps) (ring : Nat) :
    Only ps s (fetchStop t ring) := by
  unfold fetchStop
  repeat' (first
    | with_reducible assumption
    | with_reducible exact hp.trans (.ofBool rfl)
    | with_reducible exact hp.mem rfl
    | with_reducible apply stopUnder405_only)

theorem takeCounts_only {ps : List Part} {s t : State} (h : Only ps s t) (hp : Within [.fields, .regions, .lnk, .hst, .master, .spad, .before, .badSpad] ps) (line : Nat) (tail : Word) (head : Word) :
    Only ps s (takeCounts t line tail head) := by
  unfold takeCounts
  repeat' (first
    | with_reducible assumption
    | with_reducible exact hp.trans (.ofBool rfl)
    | with_reducible exact hp.mem rfl
    | with_reducible apply dbStop_only
    | with_reducible apply Only.modRing
    | with_reducible apply Only.iteTest
    | split
    | dsimp only)

theorem clearLine_only {ps : List Part} {s t : State} (h : Only ps s t) (hp : Within [.na] ps) (line : Nat) :
    Only ps s (clearLine t line) := by
  unfold clearLine
  repeat' (first
    | with_reducible assumption
    | with_reducible exact hp.trans (.ofBool rfl)
    | with_reducible exact hp.mem rfl
    | with_reducible apply Only.modNa)

theorem ringOn_only {ps : List Part} {s t : State} (h : Only ps s t) (hp : Within [.na, .hst] ps) (ring : Nat) :
    Only ps s (ringOn t ring) := by
  unfold ringOn
  repeat' (first
    | with_reducible assumption
    | with_reducible exact hp.trans (.ofBool rfl)
    | with_reducible exact hp.mem rfl
    | with_reducible apply clearLine_only
    | with_reducible apply Only.modRing
    | with_reducible apply Only.iteTest
    | split
    | dsimp only)

theorem ringOff_only {ps : List Part} {s t : State} (h : Only ps s t) (hp : Within [.fields, .regions, .lnk, .hst, .master, .spad, .before, .badSpad] ps) (ring : Nat) :
    Only ps s (ringOff t ring) := by
  unfold ringOff
  repeat' (first
    | with_reducible assumption
    | with_reducible exact hp.trans (.ofBool rfl)
    | with_reducible exact hp.mem rfl
    | with_reducible apply dropRing_only
    | with_reducible apply updAllBanks_only
    | with_reducible apply Only.modRing
    | with_reducible apply Only.iteTest
    | split
    | dsimp only)

theorem ringAgain_only {ps : List Part} {s t : State} (h : Only ps s t) (hp : Within [.fields, .regions, .lnk, .na, .hst, .master, .spad, .before, .host, .badSpad] ps) (ring : Nat) :
    Only ps s (ringAgain t ring) := by
  unfold ringAgain
  repeat' (first
    | with_reducible assumption
    | with_reducible exact hp.trans (.ofBool rfl)
    | with_reducible exact hp.mem rfl
    | with_reducible apply headUpdate_only
    | with_reducible apply takeCounts_only
    | with_reducible apply Only.modRing
    | with_reducible apply Only.iteTest
    | split
    | dsimp only)

theorem ringSizeWrite_only {ps : List Part} {s t : State} (h : Only ps s t) (hp : Within [.hst] ps) (ring : Nat) (v : Word) :
    Only ps s (ringSizeWrite t ring v) := by
  unfold ringSizeWrite
  repeat' (first
    | with_reducible assumption
    | with_reducible exact hp.trans (.ofBool rfl)
    | with_reducible exact hp.mem rfl
    | with_reducible apply Only.modRing
    | with_reducible apply Only.iteTest
    | split
    | dsimp only)

theorem ringEnWrite_only {ps : List Part} {s t : State} (h : Only ps s t) (hp : Within [.fields, .regions, .lnk, .na, .hst, .master, .spad, .before, .badSpad] ps) (ring : Nat) (v : Word) :
    Only ps s (ringEnWrite t ring v) := by
  unfold ringEnWrite
  repeat' (first
    | with_reducible assumption
    | with_reducible exact hp.trans (.ofBool rfl)
    | with_reducible exact hp.mem rfl
    | with_reducible apply ringOff_only
    | with_reducible apply ringOn_only
    | with_reducible apply Only.iteTest
    | split
    | dsimp only)

theorem ringCtrl_only {ps : List Part} {s t : State} (h : Only ps s t) (hp : Within [.fields, .regions, .lnk, .na, .hst, .master, .spad, .before, .host, .badSpad] ps) (ring : Nat) (v : Word) :
    Only ps s (ringCtrl t ring v) := by
  unfold ringCtrl
  repeat' (first
    | with_reducible assumption
    | with_reducible exact hp.trans (.ofBool rfl)
    | with_reducible exact hp.mem rfl
    | with_reducible apply ringAgain_only
    | with_reducible apply ringEnWrite_only
    | with_reducible apply ringSizeWrite_only
    | with_reducible apply Only.iteTest
    | split
    | dsimp only)

theorem ringBase_only {ps : List Part} {s t : State} (h : Only ps s t) (hp : Within [.hst] ps) (ring : Nat) (g : Ring → Ring) :
    Only ps s (ringBase t ring g) := by
  unfold ringBase
  repeat' (first
    | with_reducible assumption
    | with_reducible exact hp.trans (.ofBool rfl)
    | with_reducible exact hp.mem rfl
    | with_reducible apply Only.modRing
    | with_reducible apply Only.iteTest
    | split)

theorem jobEnds_only {ps : List Part} {s t : State} (h : Only ps s t) (hp : Within [.regions, .lnk, .na, .hst, .glb, .farrier, .spad, .before, .host, .badSpad] ps) :
    Only ps s (jobEnds t) := by
  unfold jobEnds
  repeat' (first
    | with_reducible assumption
    | with_reducible exact hp.trans (.ofBool rfl)
    | with_reducible exact hp.mem rfl
    | with_reducible apply farrierAbandon_only
    | with_reducible apply Only.modGlb
    | with_reducible apply Only.modHst
    | with_reducible apply Only.modLnk
    | with_reducible apply Only.iteTest
    | split)

theorem writeHst_only {ps : List Part} {s t : State} (h : Only ps s t) (hp : Within [.fields, .regions, .lnk, .na, .hst, .glb, .master, .farrier, .spad, .before, .host, .badSpad] ps) (loc : Nat) (v : Word) :
    Only ps s (writeHst t loc v) := by
  unfold writeHst
  repeat' (first
    | with_reducible assumption
    | with_reducible exact hp.trans (.ofBool rfl)
    | with_reducible exact hp.mem rfl
    | with_reducible apply jobEnds_only
    | with_reducible apply ringBase_only
    | with_reducible apply ringCtrl_only
    | with_reducible apply Only.modRing
    | with_reducible apply Only.modHst
    | with_reducible apply Only.iteTest
    | split
    | dsimp only)

theorem writeWaiting_only {ps : List Part} {s t : State} (h : Only ps s t) (hp : Within [.na, .hst, .host] ps) :
    Only ps s (writeWaiting t) := by
  unfold writeWaiting
  repeat' (first
    | with_reducible assumption
    | with_reducible exact hp.trans (.ofBool rfl)
    | with_reducible exact hp.mem rfl
    | with_reducible apply writeHalterRecord_only
    | with_reducible apply Only.modHst
    | split)

theorem linkUp_only {ps : List Part} {s t : State} (h : Only ps s t) (hp : Within [.na, .hst, .host] ps) (width : Nat) :
    Only ps s (linkUp t width) := by
  unfold linkUp
  repeat' (first
    | with_reducible assumption
    | with_reducible exact hp.trans (.ofBool rfl)
    | with_reducible exact hp.mem rfl
    | with_reducible apply raiseMsix_only
    | with_reducible apply writeWaiting_only
    | with_reducible apply Only.modNa
    | with_reducible apply Only.iteTest
    | split
    | dsimp only)

theorem nolotTrain_only {ps : List Part} {s t : State} (h : Only ps s t) (hp : Within [.na, .hst, .host] ps) (lanes : Nat) :
    Only ps s (nolotTrain t lanes) := by
  unfold nolotTrain
  repeat' (first
    | with_reducible assumption
    | with_reducible exact hp.trans (.ofBool rfl)
    | with_reducible exact hp.mem rfl
    | with_reducible apply linkUp_only
    | with_reducible apply Only.iteTest
    | split)

theorem naBaseLow_only {ps : List Part} {s t : State} (h : Only ps s t) (hp : Within [.na] ps) (v : Word) :
    Only ps s (naBaseLow t v) := by
  unfold naBaseLow
  repeat' (first
    | with_reducible assumption
    | with_reducible exact hp.trans (.ofBool rfl)
    | with_reducible exact hp.mem rfl
    | with_reducible apply Only.modNa
    | with_reducible apply Only.iteTest
    | split
    | dsimp only)

theorem naBaseHigh_only {ps : List Part} {s t : State} (h : Only ps s t) (hp : Within [.na] ps) (v : Word) :
    Only ps s (naBaseHigh t v) := by
  unfold naBaseHigh
  repeat' (first
    | with_reducible assumption
    | with_reducible exact hp.trans (.ofBool rfl)
    | with_reducible exact hp.mem rfl
    | with_reducible apply Only.modNa)

theorem writeNa_only {ps : List Part} {s t : State} (h : Only ps s t) (hp : Within [.na] ps) (off : Nat) (v : Word) :
    Only ps s (writeNa t off v) := by
  unfold writeNa
  repeat' (first
    | with_reducible assumption
    | with_reducible exact hp.trans (.ofBool rfl)
    | with_reducible exact hp.mem rfl
    | with_reducible apply naBaseHigh_only
    | with_reducible apply naBaseLow_only
    | split)

theorem pollLine_only {ps : List Part} {s t : State} (h : Only ps s t) (hp : Within [.na] ps) (line : Nat) :
    Only ps s (pollLine t line) := by
  unfold pollLine
  repeat' (first
    | with_reducible assumption
    | with_reducible exact hp.trans (.ofBool rfl)
    | with_reducible exact hp.mem rfl
    | with_reducible apply Only.modNa
    | with_reducible apply Only.iteTest
    | split
    | dsimp only)

theorem pollHalter_only {ps : List Part} {s t : State} (h : Only ps s t) (hp : Within [.na] ps) :
    Only ps s (pollHalter t) := by
  unfold pollHalter
  repeat' (first
    | with_reducible assumption
    | with_reducible exact hp.trans (.ofBool rfl)
    | with_reducible exact hp.mem rfl
    | with_reducible apply Only.modNa
    | with_reducible apply Only.iteTest
    | split
    | dsimp only)

theorem pollPage_only {ps : List Part} {s t : State} (h : Only ps s t) (hp : Within [.na] ps) :
    Only ps s (pollPage t) := by
  unfold pollPage
  repeat' (first
    | with_reducible assumption
    | with_reducible exact hp.trans (.ofBool rfl)
    | with_reducible exact hp.mem rfl
    | with_reducible intro _
    | with_reducible apply pollHalter_only
    | with_reducible apply pollLine_only
    | with_reducible apply Only.foldl)

theorem takeHalterWord_only {ps : List Part} {s t : State} (h : Only ps s t) (hp : Within [.hst] ps) (seq : BitVec 16) :
    Only ps s (takeHalterWord t seq) := by
  unfold takeHalterWord
  repeat' (first
    | with_reducible assumption
    | with_reducible exact hp.trans (.ofBool rfl)
    | with_reducible exact hp.mem rfl
    | with_reducible apply Only.modHst
    | split)

theorem forwardLine_only {ps : List Part} {s t : State} (h : Only ps s t) (hp : Within [.fields, .regions, .lnk, .na, .hst, .master, .spad, .before, .badSpad] ps) (line : Nat) :
    Only ps s (forwardLine t line) := by
  unfold forwardLine
  repeat' (first
    | with_reducible assumption
    | with_reducible exact hp.trans (.ofBool rfl)
    | with_reducible exact hp.mem rfl
    | with_reducible apply takeCounts_only
    | with_reducible apply Only.modNa
    | with_reducible apply Only.iteTest
    | split)

theorem forwardHalter_only {ps : List Part} {s t : State} (h : Only ps s t) (hp : Within [.na, .hst] ps) :
    Only ps s (forwardHalter t) := by
  unfold forwardHalter
  repeat' (first
    | with_reducible assumption
    | with_reducible exact hp.trans (.ofBool rfl)
    | with_reducible exact hp.mem rfl
    | with_reducible apply takeHalterWord_only
    | with_reducible apply Only.modNa
    | split)

theorem acceptHostError_only {ps : List Part} {s t : State} (h : Only ps s t) (hp : Within [.fields, .regions, .lnk, .na, .hst, .glb, .side, .master, .spad, .before, .host, .badSpad] ps) (sel : Selection) (e : Entry) (addr : Nat) (detail : Nat) :
    Only ps s (acceptHostError t sel e addr detail) := by
  unfold acceptHostError
  repeat' (first
    | with_reducible assumption
    | with_reducible exact hp.trans (.ofBool rfl)
    | with_reducible exact hp.mem rfl
    | with_reducible apply postError_only
    | with_reducible apply rejectAbort_only
    | with_reducible apply rejectMember_only
    | dsimp only)

theorem acceptIssues_only {ps : List Part} {s t u : State} {addr : Nat} {sel : Selection} {e : Entry} (h : Only ps s t)
    (hp : Within [.fields, .regions, .memStacks, .lnk, .na, .hst, .glb, .side, .master, .stud, .dram, .spad, .before, .host, .badSpad, .badDram] ps) (hi : acceptIssues t addr = some (u, sel, e)) : Only ps s u := by
  have hc := closeMember_only h (hp.trans (.ofBool rfl))
  unfold acceptIssues at hi
  dsimp only at hi
  split at hi
  · split at hi
    · split at hi
      · cases hi
        exact hc
      · cases hi
    · cases hi
  · cases hi

theorem operationHostError_only {ps : List Part} {s t : State} (h : Only ps s t) (hp : Within [.fields, .regions, .memStacks, .lnk, .na, .hst, .glb, .side, .master, .stud, .dram, .spad, .before, .host, .badSpad, .badDram] ps) (addr : Nat) (detail : Nat) :
    Only ps s (operationHostError t addr detail) := by
  unfold operationHostError
  repeat' (first
    | with_reducible assumption
    | with_reducible exact hp.trans (.ofBool rfl)
    | with_reducible exact hp.mem rfl
    | with_reducible exact acceptIssues_only h (hp.trans (.ofBool rfl)) ‹_›
    | with_reducible apply abandon_only
    | with_reducible apply acceptHostError_only
    | with_reducible apply endAside_only
    | with_reducible apply postError_only
    | split
    | dsimp only)

theorem fetchHostError_only {ps : List Part} {s t : State} (h : Only ps s t) (hp : Within [.fields, .regions, .lnk, .na, .hst, .glb, .master, .spad, .before, .host, .badSpad] ps) (ring : Nat) (addr : Nat) (detail : Nat) :
    Only ps s (fetchHostError t ring addr detail) := by
  unfold fetchHostError
  repeat' (first
    | with_reducible assumption
    | with_reducible exact hp.trans (.ofBool rfl)
    | with_reducible exact hp.mem rfl
    | with_reducible apply fetchStop_only
    | with_reducible apply postError_only
    | with_reducible apply Only.iteTest
    | split)

theorem firmwareHostError_only {ps : List Part} {s t : State} (h : Only ps s t) (hp : Within [.pwr, .clk, .fields, .regions, .slots, .memStacks, .lnk, .hst, .blocks, .boot, .glb, .sec, .master, .farrier, .held, .spad, .before, .badSpad, .free] ps) :
    Only ps s (firmwareHostError t) := by
  unfold firmwareHostError
  repeat' (first
    | with_reducible assumption
    | with_reducible exact hp.trans (.ofBool rfl)
    | with_reducible exact hp.mem rfl
    | with_reducible apply warmRest_only
    | with_reducible apply Only.modSec
    | with_reducible apply Only.iteTest
    | split
    | dsimp only)

theorem hostError399_only {ps : List Part} {s t : State} (h : Only ps s t) (hp : Within [.pwr, .clk, .fields, .regions, .slots, .memStacks, .lnk, .na, .hst, .blocks, .boot, .glb, .sec, .side, .master, .farrier, .stud, .held, .dram, .spad, .before, .host, .badSpad, .badDram, .free] ps) (who : HostReader) (detail : Nat) (addr : Nat) :
    Only ps s (hostError399 t who detail addr) := by
  unfold hostError399
  repeat' (first
    | with_reducible assumption
    | with_reducible exact hp.trans (.ofBool rfl)
    | with_reducible exact hp.mem rfl
    | with_reducible apply fetchHostError_only
    | with_reducible apply firmwareHostError_only
    | with_reducible apply operationHostError_only
    | with_reducible apply Only.iteTest
    | split)

/-! ### Machine/HostPort.lean -/

theorem execNolotLinkTraining_only {ps : List Part} {s t : State} (h : Only ps s t) (hp : Within [.na, .hst, .host] ps) (lanes : Nat) :
    ResOnly ps s (execNolotLinkTraining lanes t) := by
  unfold execNolotLinkTraining
  repeat' (first
    | with_reducible assumption
    | with_reducible exact hp.trans (.ofBool rfl)
    | with_reducible exact hp.mem rfl
    | with_reducible apply nolotTrain_only
    | with_reducible apply ResOnly.next)

theorem execNolotRetrainRetry_only {ps : List Part} {s t : State} (h : Only ps s t) (hp : Within [.na, .hst, .host] ps) (lanes : Nat) :
    ResOnly ps s (execNolotRetrainRetry lanes t) := by
  unfold execNolotRetrainRetry
  repeat' (first
    | with_reducible assumption
    | with_reducible exact hp.trans (.ofBool rfl)
    | with_reducible exact hp.mem rfl
    | with_reducible apply nolotTrain_only
    | with_reducible apply ResOnly.next)

theorem execNolotLinkDown_only {ps : List Part} {s t : State} (h : Only ps s t) (hp : Within [.na] ps) :
    ResOnly ps s (execNolotLinkDown t) := by
  unfold execNolotLinkDown
  repeat' (first
    | with_reducible assumption
    | with_reducible exact hp.trans (.ofBool rfl)
    | with_reducible exact hp.mem rfl
    | with_reducible apply nolotDown_only
    | with_reducible apply ResOnly.next)

theorem execNolotPacketRetry_only {ps : List Part} {s t : State} (h : Only ps s t) (hp : Within [] ps) :
    ResOnly ps s (execNolotPacketRetry t) := by
  unfold execNolotPacketRetry
  repeat' (first
    | with_reducible assumption
    | with_reducible exact hp.trans (.ofBool rfl)
    | with_reducible exact hp.mem rfl
    | with_reducible apply ResOnly.next)

theorem execDoorbellPoll_only {ps : List Part} {s t : State} (h : Only ps s t) (hp : Within [.na, .host] ps) (host : List Host.Cell) :
    ResOnly ps s (execDoorbellPoll host t) := by
  unfold execDoorbellPoll
  repeat' (first
    | with_reducible assumption
    | with_reducible exact hp.trans (.ofBool rfl)
    | with_reducible exact hp.mem rfl
    | with_reducible apply hostMerge_only
    | with_reducible apply pollPage_only
    | with_reducible apply Only.iteTest
    | with_reducible apply ResOnly.next
    | with_reducible apply ResOnly.iteTest
    | split
    | dsimp only)

theorem execDoorbellForward_only {ps : List Part} {s t : State} (h : Only ps s t) (hp : Within [.fields, .regions, .lnk, .na, .hst, .master, .spad, .before, .badSpad] ps) (line : Nat) :
    ResOnly ps s (execDoorbellForward line t) := by
  unfold execDoorbellForward
  repeat' (first
    | with_reducible assumption
    | with_reducible exact hp.trans (.ofBool rfl)
    | with_reducible exact hp.mem rfl
    | with_reducible apply forwardHalter_only
    | with_reducible apply forwardLine_only
    | with_reducible apply Only.iteTest
    | with_reducible apply ResOnly.next
    | with_reducible apply ResOnly.onUnit
    | with_reducible apply ResOnly.iteTest
    | split)

theorem execNaDbBaseEnable_only {ps : List Part} {s t : State} (h : Only ps s t) (hp : Within [.na, .host] ps) (value : Word) (host : List Host.Cell) :
    ResOnly ps s (execNaDbBaseEnable value host t) := by
  unfold execNaDbBaseEnable
  repeat' (first
    | with_reducible assumption
    | with_reducible exact hp.trans (.ofBool rfl)
    | with_reducible exact hp.mem rfl
    | with_reducible apply hostMerge_only
    | with_reducible apply naBaseLow_only
    | with_reducible apply ResOnly.next)

theorem execHostAccessFailure_only {ps : List Part} {s t : State} (h : Only ps s t) (hp : Within [.pwr, .clk, .fields, .regions, .slots, .memStacks, .lnk, .na, .hst, .blocks, .boot, .glb, .sec, .side, .master, .farrier, .stud, .held, .dram, .spad, .before, .host, .badSpad, .badDram, .free] ps) (who : HostReader) (cause : HostFailure) (addr : Nat) :
    ResOnly ps s (execHostAccessFailure who cause addr t) := by
  unfold execHostAccessFailure
  repeat' (first
    | with_reducible assumption
    | with_reducible exact hp.trans (.ofBool rfl)
    | with_reducible exact hp.mem rfl
    | with_reducible apply hostError399_only
    | with_reducible apply ResOnly.next)

theorem execHostAccessTimeout_only {ps : List Part} {s t : State} (h : Only ps s t) (hp : Within [.pwr, .clk, .fields, .regions, .slots, .memStacks, .lnk, .na, .hst, .blocks, .boot, .glb, .sec, .side, .master, .farrier, .stud, .held, .dram, .spad, .before, .host, .badSpad, .badDram, .free] ps) (who : HostReader) (addr : Nat) :
    ResOnly ps s (execHostAccessTimeout who addr t) := by
  unfold execHostAccessTimeout
  repeat' (first
    | with_reducible assumption
    | with_reducible exact hp.trans (.ofBool rfl)
    | with_reducible exact hp.mem rfl
    | with_reducible apply hostError399_only
    | with_reducible apply ResOnly.next)

theorem execAdapterConventionalReset_only {ps : List Part} {s t : State} (h : Only ps s t) (hp : Within [.na] ps) :
    ResOnly ps s (execAdapterConventionalReset t) := by
  unfold execAdapterConventionalReset
  repeat' (first
    | with_reducible assumption
    | with_reducible exact hp.trans (.ofBool rfl)
    | with_reducible exact hp.mem rfl
    | with_reducible apply Only.modNa
    | with_reducible apply ResOnly.next)

/-! ### Machine/Registers.lean -/

theorem latchPair_only {ps : List Part} {s t : State} (h : Only ps s t) (hp : Within [.glb, .clk, .lnk, .pwr] ps) (p : LatchedPair) :
    Only ps s (latchPair t p) := by
  cases p
  · exact Only.modGlb h (hp.mem rfl)
  · exact Only.modClk h (hp.mem rfl)
  · exact Only.modLnk h (hp.mem rfl)
  · exact Only.modLnk h (hp.mem rfl)
  · exact Only.modPwr h (hp.mem rfl)

theorem wordRead_only {ps : List Part} {s t : State} (h : Only ps s t) (hp : Within [.pwr, .clk, .lnk, .glb] ps) (off : Nat) :
    Only ps s (wordRead t off).1 := by
  unfold wordRead
  repeat' (first
    | with_reducible assumption
    | with_reducible exact hp.trans (.ofBool rfl)
    | with_reducible exact hp.mem rfl
    | with_reducible apply latchPair_only
    | with_reducible apply Only.iteTest
    | split
    | dsimp only)

theorem bar0Read_only {ps : List Part} {s t : State} (h : Only ps s t) (hp : Within [.pwr, .clk, .lnk, .glb] ps) (off : Nat) (bytes : Nat) :
    Only ps s (bar0Read t off bytes).1 := by
  unfold bar0Read
  repeat' (first
    | with_reducible assumption
    | with_reducible exact hp.trans (.ofBool rfl)
    | with_reducible exact hp.mem rfl
    | with_reducible apply wordRead_only
    | with_reducible apply Only.iteTest
    | split
    | dsimp only)

theorem hostRead_only {ps : List Part} {s t : State} (h : Only ps s t) (hp : Within [.pwr, .clk, .lnk, .glb, .side] ps) (off : Nat) (bytes : Nat) :
    Only ps s (hostRead t off bytes) := by
  unfold hostRead
  repeat' (first
    | with_reducible assumption
    | with_reducible exact hp.trans (.ofBool rfl)
    | with_reducible exact hp.mem rfl
    | with_reducible apply bar0Read_only
    | with_reducible apply Only.modSide
    | dsimp only)

theorem hostSync_only {ps : List Part} {s t : State} (h : Only ps s t) (hp : Within [.hst, .sync, .held] ps) (set : Bool) :
    Only ps s (hostSync t set) := by
  unfold hostSync
  repeat' (first
    | with_reducible assumption
    | with_reducible exact hp.trans (.ofBool rfl)
    | with_reducible exact hp.mem rfl
    | with_reducible apply syncCommand_only
    | with_reducible apply Only.iteTest
    | split)

theorem writeGlb_only {ps : List Part} {s t : State} (h : Only ps s t) (hp : Within [.pwr, .clk, .fields, .regions, .slots, .memStacks, .lnk, .na, .hst, .blocks, .boot, .glb, .sec, .side, .master, .farrier, .sync, .held, .dram, .spad, .before, .host, .badSpad, .badDram, .free] ps) (loc : Nat) (v : Word) (a : Access) :
    Only ps s (writeGlb t loc v a) := by
  unfold writeGlb
  repeat' (first
    | with_reducible assumption
    | with_reducible exact hp.trans (.ofBool rfl)
    | with_reducible exact hp.mem rfl
    | with_reducible intro _
    | with_reducible apply bootCommand_only
    | with_reducible apply guardKey_only
    | with_reducible apply hostSync_only
    | with_reducible apply warmReset_only
    | with_reducible apply Only.modGlb
    | with_reducible apply Only.modBoot
    | with_reducible apply Only.modFarrier
    | with_reducible apply Only.iteTest
    | split
    | dsimp only)

theorem writeSec_only {ps : List Part} {s t : State} (h : Only ps s t) (hp : Within [.blocks, .sec, .free] ps) (loc : Nat) (v : Word) (a : Access) :
    Only ps s (writeSec t loc v a) := by
  unfold writeSec
  repeat' (first
    | with_reducible assumption
    | with_reducible exact hp.trans (.ofBool rfl)
    | with_reducible exact hp.mem rfl
    | with_reducible intro _
    | with_reducible apply faShut_only
    | with_reducible apply faTry_only
    | with_reducible apply guardKey_only
    | with_reducible apply setResult_only
    | with_reducible apply updateStart_only
    | with_reducible apply Only.modSec
    | with_reducible apply Only.iteTest
    | split)

theorem writeBlock_only {ps : List Part} {s t : State} (h : Only ps s t) (hp : Within [.pwr, .clk, .fields, .regions, .slots, .memStacks, .lnk, .na, .hst, .blocks, .boot, .glb, .sec, .side, .master, .farrier, .sync, .held, .dram, .spad, .before, .host, .badSpad, .badDram, .free] ps) (b : Blk) (loc : Nat) (v : Word) (a : Access) :
    Only ps s (writeBlock b t loc v a) := by
  unfold writeBlock
  repeat' (first
    | with_reducible assumption
    | with_reducible exact hp.trans (.ofBool rfl)
    | with_reducible exact hp.mem rfl
    | with_reducible apply writeClk_only
    | with_reducible apply writeFld_only
    | with_reducible apply writeGlb_only
    | with_reducible apply writeHst_only
    | with_reducible apply writeLnk_only
    | with_reducible apply writeMem_only
    | with_reducible apply writePwr_only
    | with_reducible apply writeRgn_only
    | with_reducible apply writeSec_only
    | with_reducible apply Only.iteTest
    | split)

theorem keyWrite_only {ps : List Part} {s t : State} (h : Only ps s t) (hp : Within [.blocks] ps) (b : Blk) (v : Word) :
    Only ps s (keyWrite t b v) := by
  unfold keyWrite
  repeat' (first
    | with_reducible assumption
    | with_reducible exact hp.trans (.ofBool rfl)
    | with_reducible exact hp.mem rfl
    | with_reducible apply keyErr_only
    | with_reducible apply Only.modCtl
    | with_reducible apply Only.iteTest
    | split)

theorem openCinch_only {ps : List Part} {s t : State} (h : Only ps s t) (hp : Within [.blocks] ps) (b : Blk) :
    Only ps s (openCinch t b) := by
  unfold openCinch
  repeat' (first
    | with_reducible assumption
    | with_reducible exact hp.trans (.ofBool rfl)
    | with_reducible exact hp.mem rfl
    | with_reducible apply cinchErr_only
    | with_reducible apply Only.modCtl
    | with_reducible apply Only.iteTest
    | split)

theorem commitCinch_only {ps : List Part} {s t : State} (h : Only ps s t) (hp : Within [.pwr, .clk, .fields, .regions, .slots, .memStacks, .lnk, .na, .hst, .blocks, .boot, .glb, .sec, .side, .master, .farrier, .sync, .held, .dram, .spad, .before, .host, .badSpad, .badDram, .free] ps) (b : Blk) :
    Only ps s (commitCinch t b) := by
  unfold commitCinch
  repeat' (first
    | with_reducible assumption
    | with_reducible exact hp.trans (.ofBool rfl)
    | with_reducible exact hp.mem rfl
    | with_reducible intro _
    | with_reducible apply applyCommit_only
    | with_reducible apply cinchErr_only
    | with_reducible apply closeCinch_only
    | with_reducible apply writeBlock_only
    | with_reducible apply Only.modCtl
    | with_reducible apply Only.iteTest
    | split)

theorem abandonCinch_only {ps : List Part} {s t : State} (h : Only ps s t) (hp : Within [.blocks] ps) (b : Blk) :
    Only ps s (abandonCinch t b) := by
  unfold abandonCinch
  repeat' (first
    | with_reducible assumption
    | with_reducible exact hp.trans (.ofBool rfl)
    | with_reducible exact hp.mem rfl
    | with_reducible apply cinchErr_only
    | with_reducible apply closeCinch_only
    | with_reducible apply Only.iteTest
    | split)

theorem cinchWrite_only {ps : List Part} {s t : State} (h : Only ps s t) (hp : Within [.pwr, .clk, .fields, .regions, .slots, .memStacks, .lnk, .na, .hst, .blocks, .boot, .glb, .sec, .side, .master, .farrier, .sync, .held, .dram, .spad, .before, .host, .badSpad, .badDram, .free] ps) (b : Blk) (v : Word) :
    Only ps s (cinchWrite t b v) := by
  unfold cinchWrite
  repeat' (first
    | with_reducible assumption
    | with_reducible exact hp.trans (.ofBool rfl)
    | with_reducible exact hp.mem rfl
    | with_reducible apply abandonCinch_only
    | with_reducible apply commitCinch_only
    | with_reducible apply openCinch_only
    | split)

theorem accessWrite_only {ps : List Part} {s t : State} (h : Only ps s t) (hp : Within [.blocks] ps) (b : Blk) (v : Word) :
    Only ps s (accessWrite t b v) := by
  unfold accessWrite
  repeat' (first
    | with_reducible assumption
    | with_reducible exact hp.trans (.ofBool rfl)
    | with_reducible exact hp.mem rfl
    | with_reducible apply cinchErr_only
    | with_reducible apply keyErr_only
    | with_reducible apply pairErr_only
    | with_reducible apply Only.modCtl)

theorem stageWrite_only {ps : List Part} {s t : State} (h : Only ps s t) (hp : Within [.blocks] ps) (b : Blk) (loc : Nat) (v : Word) (keyed : Bool) :
    Only ps s (stageWrite t b loc v keyed) := by
  unfold stageWrite
  repeat' (first
    | with_reducible assumption
    | with_reducible exact hp.trans (.ofBool rfl)
    | with_reducible exact hp.mem rfl
    | with_reducible apply keyErr_only
    | with_reducible apply Only.modCtl
    | with_reducible apply Only.iteTest
    | split
    | dsimp only)

theorem keyedWrite_only {ps : List Part} {s t : State} (h : Only ps s t) (hp : Within [.pwr, .clk, .fields, .regions, .slots, .memStacks, .lnk, .na, .hst, .blocks, .boot, .glb, .sec, .side, .master, .farrier, .sync, .held, .dram, .spad, .before, .host, .badSpad, .badDram, .free] ps) (b : Blk) (loc : Nat) (v : Word) :
    Only ps s (keyedWrite t b loc v) := by
  unfold keyedWrite
  repeat' (first
    | with_reducible assumption
    | with_reducible exact hp.trans (.ofBool rfl)
    | with_reducible exact hp.mem rfl
    | with_reducible apply accessWrite_only
    | with_reducible apply cinchErr_only
    | with_reducible apply cinchWrite_only
    | with_reducible apply stageWrite_only
    | with_reducible apply writeBlock_only
    | with_reducible apply Only.modCtl
    | with_reducible apply Only.iteTest
    | split
    | dsimp only)

theorem wordWrite_only {ps : List Part} {s t : State} (h : Only ps s t) (hp : Within [.pwr, .clk, .fields, .regions, .slots, .memStacks, .lnk, .na, .hst, .blocks, .boot, .glb, .sec, .side, .master, .farrier, .sync, .held, .dram, .spad, .before, .host, .badSpad, .badDram, .free] ps) (off : Nat) (v : Word) :
    Only ps s (wordWrite t off v) := by
  unfold wordWrite
  repeat' (first
    | with_reducible assumption
    | with_reducible exact hp.trans (.ofBool rfl)
    | with_reducible exact hp.mem rfl
    | with_reducible apply keyWrite_only
    | with_reducible apply keyedWrite_only
    | with_reducible apply Only.iteTest
    | split)

theorem splitWrite_only {ps : List Part} {s t : State} (h : Only ps s t) (hp : Within [] ps) (off bytes : Nat) (v : Word64)
    {f : State → Nat → Word → State} (hf : ∀ u n w, Only ps s u → Only ps s (f u n w)) : Only ps s (splitWrite t off bytes v f) := by
  unfold splitWrite
  split
  · exact hf _ _ _ h
  · split
    · exact hf _ _ _ (hf _ _ _ h)
    · exact h

theorem bar0Write_only {ps : List Part} {s t : State} (h : Only ps s t) (hp : Within [.pwr, .clk, .fields, .regions, .slots, .memStacks, .lnk, .na, .hst, .blocks, .boot, .glb, .sec, .side, .master, .farrier, .sync, .held, .dram, .spad, .before, .host, .badSpad, .badDram, .free] ps) (off : Nat) (bytes : Nat) (v : Word64) :
    Only ps s (bar0Write t off bytes v) := by
  unfold bar0Write
  repeat' (first
    | with_reducible assumption
    | with_reducible exact hp.trans (.ofBool rfl)
    | with_reducible exact hp.mem rfl
    | with_reducible intro _
    | with_reducible apply splitWrite_only
    | with_reducible apply wordWrite_only
    | with_reducible apply Only.iteTest
    | split)

theorem bar2Write_only {ps : List Part} {s t : State} (h : Only ps s t) (hp : Within [.na] ps) (off : Nat) (bytes : Nat) (v : Word64) :
    Only ps s (bar2Write t off bytes v) := by
  unfold bar2Write
  repeat' (first
    | with_reducible assumption
    | with_reducible exact hp.trans (.ofBool rfl)
    | with_reducible exact hp.mem rfl
    | with_reducible intro _
    | with_reducible apply splitWrite_only
    | with_reducible apply writeNa_only)

theorem regWrite_only {ps : List Part} {s t : State} (h : Only ps s t) (hp : Within [.pwr, .clk, .fields, .regions, .slots, .memStacks, .lnk, .na, .hst, .blocks, .boot, .glb, .sec, .side, .master, .farrier, .sync, .held, .dram, .spad, .before, .host, .badSpad, .badDram, .free] ps) (b : Blk) (loc : Nat) (v : Word) :
    Only ps s (regWrite t b loc v) := by
  unfold regWrite
  repeat' (first
    | with_reducible assumption
    | with_reducible exact hp.trans (.ofBool rfl)
    | with_reducible exact hp.mem rfl
    | with_reducible apply wordWrite_only
    | with_reducible apply Only.iteTest
    | split)

/-! ### Machine/RegRows.lean -/

theorem execRegisterWrite_only {ps : List Part} {s t : State} (h : Only ps s t) (hp : Within [.pwr, .clk, .fields, .regions, .slots, .memStacks, .lnk, .na, .hst, .blocks, .boot, .glb, .sec, .side, .master, .farrier, .sync, .held, .dram, .spad, .before, .host, .badSpad, .badDram, .free] ps) (window : Window) (offset : Nat) (bytes : Nat) (value : Word64) :
    ResOnly ps s (execRegisterWrite window offset bytes value t) := by
  unfold execRegisterWrite
  repeat' (first
    | with_reducible assumption
    | with_reducible exact hp.trans (.ofBool rfl)
    | with_reducible exact hp.mem rfl
    | with_reducible apply bar0Write_only
    | with_reducible apply bar2Write_only
    | with_reducible apply ResOnly.next
    | split)

theorem execKeylockWrite_only {ps : List Part} {s t : State} (h : Only ps s t) (hp : Within [.pwr, .clk, .fields, .regions, .slots, .memStacks, .lnk, .na, .hst, .blocks, .boot, .glb, .sec, .side, .master, .farrier, .sync, .held, .dram, .spad, .before, .host, .badSpad, .badDram, .free] ps) (block : Blk) (value : Word) :
    ResOnly ps s (execKeylockWrite block value t) := by
  unfold execKeylockWrite
  repeat' (first
    | with_reducible assumption
    | with_reducible exact hp.trans (.ofBool rfl)
    | with_reducible exact hp.mem rfl
    | with_reducible apply regWrite_only
    | with_reducible apply ResOnly.next)

theorem execCinchOpen_only {ps : List Part} {s t : State} (h : Only ps s t) (hp : Within [.pwr, .clk, .fields, .regions, .slots, .memStacks, .lnk, .na, .hst, .blocks, .boot, .glb, .sec, .side, .master, .farrier, .sync, .held, .dram, .spad, .before, .host, .badSpad, .badDram, .free] ps) (block : Blk) :
    ResOnly ps s (execCinchOpen block t) := by
  unfold execCinchOpen
  repeat' (first
    | with_reducible assumption
    | with_reducible exact hp.trans (.ofBool rfl)
    | with_reducible exact hp.mem rfl
    | with_reducible apply regWrite_only
    | with_reducible apply ResOnly.next)

theorem execCinchCommit_only {ps : List Part} {s t : State} (h : Only ps s t) (hp : Within [.pwr, .clk, .fields, .regions, .slots, .memStacks, .lnk, .na, .hst, .blocks, .boot, .glb, .sec, .side, .master, .farrier, .sync, .held, .dram, .spad, .before, .host, .badSpad, .badDram, .free] ps) (block : Blk) :
    ResOnly ps s (execCinchCommit block t) := by
  unfold execCinchCommit
  repeat' (first
    | with_reducible assumption
    | with_reducible exact hp.trans (.ofBool rfl)
    | with_reducible exact hp.mem rfl
    | with_reducible apply regWrite_only
    | with_reducible apply ResOnly.next)

theorem execCinchCommitApply_only {ps : List Part} {s t : State} (h : Only ps s t) (hp : Within [.clk, .fields, .regions, .memStacks, .lnk, .na, .hst, .blocks, .glb, .master, .sync, .held, .spad, .before, .host, .badSpad] ps) (block : Blk) :
    ResOnly ps s (execCinchCommitApply block t) := by
  unfold execCinchCommitApply
  repeat' (first
    | with_reducible assumption
    | with_reducible exact hp.trans (.ofBool rfl)
    | with_reducible exact hp.mem rfl
    | with_reducible apply applyPending_only
    | with_reducible apply ResOnly.next)

theorem execCinchAbandon_only {ps : List Part} {s t : State} (h : Only ps s t) (hp : Within [.pwr, .clk, .fields, .regions, .slots, .memStacks, .lnk, .na, .hst, .blocks, .boot, .glb, .sec, .side, .master, .farrier, .sync, .held, .dram, .spad, .before, .host, .badSpad, .badDram, .free] ps) (block : Blk) :
    ResOnly ps s (execCinchAbandon block t) := by
  unfold execCinchAbandon
  repeat' (first
    | with_reducible assumption
    | with_reducible exact hp.trans (.ofBool rfl)
    | with_reducible exact hp.mem rfl
    | with_reducible apply regWrite_only
    | with_reducible apply ResOnly.next)

theorem execSyncSet_only {ps : List Part} {s t : State} (h : Only ps s t) (hp : Within [.pwr, .clk, .fields, .regions, .slots, .memStacks, .lnk, .na, .hst, .blocks, .boot, .glb, .sec, .side, .master, .farrier, .sync, .held, .dram, .spad, .before, .host, .badSpad, .badDram, .free] ps) :
    ResOnly ps s (execSyncSet t) := by
  unfold execSyncSet
  repeat' (first
    | with_reducible assumption
    | with_reducible exact hp.trans (.ofBool rfl)
    | with_reducible exact hp.mem rfl
    | with_reducible apply regWrite_only
    | with_reducible apply ResOnly.next)

theorem execSyncAdd_only {ps : List Part} {s t : State} (h : Only ps s t) (hp : Within [.pwr, .clk, .fields, .regions, .slots, .memStacks, .lnk, .na, .hst, .blocks, .boot, .glb, .sec, .side, .master, .farrier, .sync, .held, .dram, .spad, .before, .host, .badSpad, .badDram, .free] ps) :
    ResOnly ps s (execSyncAdd t) := by
  unfold execSyncAdd
  repeat' (first
    | with_reducible assumption
    | with_reducible exact hp.trans (.ofBool rfl)
    | with_reducible exact hp.mem rfl
    | with_reducible apply regWrite_only
    | with_reducible apply ResOnly.next)

theorem execLowWordReadLatch_only {ps : List Part} {s t : State} (h : Only ps s t) (hp : Within [.pwr, .clk, .lnk, .glb, .side] ps) (pair : LatchedPair) (start : Nat := 0) (bytes : Nat := 4) :
    ResOnly ps s (execLowWordReadLatch pair t start bytes) := by
  unfold execLowWordReadLatch
  repeat' (first
    | with_reducible assumption
    | with_reducible exact hp.trans (.ofBool rfl)
    | with_reducible exact hp.mem rfl
    | with_reducible apply hostRead_only
    | with_reducible apply ResOnly.next)

theorem execVminClear_only {ps : List Part} {s t : State} (h : Only ps s t) (hp : Within [.pwr, .clk, .fields, .regions, .slots, .memStacks, .lnk, .na, .hst, .blocks, .boot, .glb, .sec, .side, .master, .farrier, .sync, .held, .dram, .spad, .before, .host, .badSpad, .badDram, .free] ps) :
    ResOnly ps s (execVminClear t) := by
  unfold execVminClear
  repeat' (first
    | with_reducible assumption
    | with_reducible exact hp.trans (.ofBool rfl)
    | with_reducible exact hp.mem rfl
    | with_reducible apply regWrite_only
    | with_reducible apply ResOnly.next)

theorem execMemRetrainStart_only {ps : List Part} {s t : State} (h : Only ps s t) (hp : Within [.pwr, .clk, .fields, .regions, .slots, .memStacks, .lnk, .na, .hst, .blocks, .boot, .glb, .sec, .side, .master, .farrier, .sync, .held, .dram, .spad, .before, .host, .badSpad, .badDram, .free] ps) :
    ResOnly ps s (execMemRetrainStart t) := by
  unfold execMemRetrainStart
  repeat' (first
    | with_reducible assumption
    | with_reducible exact hp.trans (.ofBool rfl)
    | with_reducible exact hp.mem rfl
    | with_reducible apply regWrite_only
    | with_reducible apply ResOnly.next)

theorem execSleepRequest_only {ps : List Part} {s t : State} (h : Only ps s t) (hp : Within [.pwr, .clk, .fields, .regions, .slots, .memStacks, .lnk, .na, .hst, .blocks, .boot, .glb, .sec, .side, .master, .farrier, .sync, .held, .dram, .spad, .before, .host, .badSpad, .badDram, .free] ps) :
    ResOnly ps s (execSleepRequest t) := by
  unfold execSleepRequest
  repeat' (first
    | with_reducible assumption
    | with_reducible exact hp.trans (.ofBool rfl)
    | with_reducible exact hp.mem rfl
    | with_reducible apply regWrite_only
    | with_reducible apply ResOnly.next)

theorem execWake_only {ps : List Part} {s t : State} (h : Only ps s t) (hp : Within [.pwr, .clk, .fields, .regions, .slots, .memStacks, .lnk, .na, .hst, .blocks, .boot, .glb, .sec, .side, .master, .farrier, .sync, .held, .dram, .spad, .before, .host, .badSpad, .badDram, .free] ps) :
    ResOnly ps s (execWake t) := by
  unfold execWake
  repeat' (first
    | with_reducible assumption
    | with_reducible exact hp.trans (.ofBool rfl)
    | with_reducible exact hp.mem rfl
    | with_reducible apply regWrite_only
    | with_reducible apply ResOnly.next)

theorem execWarmReset_only {ps : List Part} {s t : State} (h : Only ps s t) (hp : Within [.pwr, .clk, .fields, .regions, .slots, .memStacks, .lnk, .na, .hst, .blocks, .boot, .glb, .sec, .side, .master, .farrier, .sync, .held, .dram, .spad, .before, .host, .badSpad, .badDram, .free] ps) :
    ResOnly ps s (execWarmReset t) := by
  unfold execWarmReset
  repeat' (first
    | with_reducible assumption
    | with_reducible exact hp.trans (.ofBool rfl)
    | with_reducible exact hp.mem rfl
    | with_reducible apply regWrite_only
    | with_reducible apply ResOnly.next)

theorem execRingEnable_only {ps : List Part} {s t : State} (h : Only ps s t) (hp : Within [.pwr, .clk, .fields, .regions, .slots, .memStacks, .lnk, .na, .hst, .blocks, .boot, .glb, .sec, .side, .master, .farrier, .sync, .held, .dram, .spad, .before, .host, .badSpad, .badDram, .free] ps) (value : Word) (host : List Host.Cell) :
    ResOnly ps s (execRingEnable value host t) := by
  unfold execRingEnable
  repeat' (first
    | with_reducible assumption
    | with_reducible exact hp.trans (.ofBool rfl)
    | with_reducible exact hp.mem rfl
    | with_reducible apply hostMerge_only
    | with_reducible apply regWrite_only
    | with_reducible apply ResOnly.next)

theorem execRingDisable_only {ps : List Part} {s t : State} (h : Only ps s t) (hp : Within [.pwr, .clk, .fields, .regions, .slots, .memStacks, .lnk, .na, .hst, .blocks, .boot, .glb, .sec, .side, .master, .farrier, .sync, .held, .dram, .spad, .before, .host, .badSpad, .badDram, .free] ps) (value : Word) :
    ResOnly ps s (execRingDisable value t) := by
  unfold execRingDisable
  repeat' (first
    | with_reducible assumption
    | with_reducible exact hp.trans (.ofBool rfl)
    | with_reducible exact hp.mem rfl
    | with_reducible apply regWrite_only
    | with_reducible apply ResOnly.next)

theorem execRingRestart_only {ps : List Part} {s t : State} (h : Only ps s t) (hp : Within [.pwr, .clk, .fields, .regions, .slots, .memStacks, .lnk, .na, .hst, .blocks, .boot, .glb, .sec, .side, .master, .farrier, .sync, .held, .dram, .spad, .before, .host, .badSpad, .badDram, .free] ps) (value : Word) (host : List Host.Cell) :
    ResOnly ps s (execRingRestart value host t) := by
  unfold execRingRestart
  repeat' (first
    | with_reducible assumption
    | with_reducible exact hp.trans (.ofBool rfl)
    | with_reducible exact hp.mem rfl
    | with_reducible apply hostMerge_only
    | with_reducible apply regWrite_only
    | with_reducible apply ResOnly.next)

theorem execJobEnd_only {ps : List Part} {s t : State} (h : Only ps s t) (hp : Within [.pwr, .clk, .fields, .regions, .slots, .memStacks, .lnk, .na, .hst, .blocks, .boot, .glb, .sec, .side, .master, .farrier, .sync, .held, .dram, .spad, .before, .host, .badSpad, .badDram, .free] ps) :
    ResOnly ps s (execJobEnd t) := by
  unfold execJobEnd
  repeat' (first
    | with_reducible assumption
    | with_reducible exact hp.trans (.ofBool rfl)
    | with_reducible exact hp.mem rfl
    | with_reducible apply regWrite_only
    | with_reducible apply ResOnly.next)

theorem execFirmwareUpdate_only {ps : List Part} {s t : State} (h : Only ps s t) (hp : Within [.pwr, .clk, .fields, .regions, .slots, .memStacks, .lnk, .na, .hst, .blocks, .boot, .glb, .sec, .side, .master, .farrier, .sync, .held, .dram, .spad, .before, .host, .badSpad, .badDram, .free] ps) (host : List Host.Cell) (readFails : Bool := false) :
    ResOnly ps s (execFirmwareUpdate host t readFails) := by
  unfold execFirmwareUpdate
  have hu := regWrite_only (hostMerge_only h (hp.trans (.ofBool rfl)) host) (hp.trans (.ofBool rfl)) .sec 0x04C 1
  exact .next (.iteTest (Only.to (qs := [.sec, .free]) hu (hp.trans (.ofBool rfl)) fun p hn => by
    cases p <;> first | rfl | exact absurd (by decide) hn) hu)

theorem execFaUnlock_only {ps : List Part} {s t : State} (h : Only ps s t) (hp : Within [.pwr, .clk, .fields, .regions, .slots, .memStacks, .lnk, .na, .hst, .blocks, .boot, .glb, .sec, .side, .master, .farrier, .sync, .held, .dram, .spad, .before, .host, .badSpad, .badDram, .free] ps) (host : List Host.Cell) :
    ResOnly ps s (execFaUnlock host t) := by
  unfold execFaUnlock
  repeat' (first
    | with_reducible assumption
    | with_reducible exact hp.trans (.ofBool rfl)
    | with_reducible exact hp.mem rfl
    | with_reducible apply hostMerge_only
    | with_reducible apply regWrite_only
    | with_reducible apply ResOnly.next)

theorem execFaClose_only {ps : List Part} {s t : State} (h : Only ps s t) (hp : Within [.pwr, .clk, .fields, .regions, .slots, .memStacks, .lnk, .na, .hst, .blocks, .boot, .glb, .sec, .side, .master, .farrier, .sync, .held, .dram, .spad, .before, .host, .badSpad, .badDram, .free] ps) :
    ResOnly ps s (execFaClose t) := by
  unfold execFaClose
  repeat' (first
    | with_reducible assumption
    | with_reducible exact hp.trans (.ofBool rfl)
    | with_reducible exact hp.mem rfl
    | with_reducible apply regWrite_only
    | with_reducible apply ResOnly.next)

/-! ### Machine/Stacks.lean -/

theorem execBankReady_only {ps : List Part} {s t : State} (h : Only ps s t) (hp : Within [.regions] ps) (region : Nat) (bank : Nat) :
    ResOnly ps s (execBankReady region bank t) := by
  unfold execBankReady
  repeat' (first
    | with_reducible assumption
    | with_reducible exact hp.trans (.ofBool rfl)
    | with_reducible exact hp.mem rfl
    | with_reducible apply Only.modRegion
    | with_reducible apply ResOnly.next
    | with_reducible apply ResOnly.onUnit)

theorem spadScrubBad_only {ps : List Part} {s t : State} (h : Only ps s t) (hp : Within [.regions, .na, .hst, .glb, .stud, .host, .badSpad, .free] ps) (p : Nat) :
    Only ps s (spadScrubBad t p) := by
  unfold spadScrubBad
  repeat' (first
    | with_reducible assumption
    | with_reducible exact hp.trans (.ofBool rfl)
    | with_reducible exact hp.mem rfl
    | with_reducible apply bankFault_only
    | with_reducible apply bumpFree_only
    | with_reducible apply postError_only
    | with_reducible apply Only.iteTest
    | split
    | dsimp only
    | exact Only.to (qs := [.badSpad]) h (hp.trans (.ofBool rfl)) fun p hn => by cases p <;> first | rfl | exact absurd (by decide) hn)

theorem execSpadScrub_only {ps : List Part} {s t : State} (h : Only ps s t) (hp : Within [.regions, .na, .hst, .glb, .stud, .host, .badSpad, .free] ps) (region : Nat) (line : Nat) (found : ScrubFinding) :
    ResOnly ps s (execSpadScrub region line found t) := by
  unfold execSpadScrub
  repeat' (first
    | with_reducible assumption
    | with_reducible exact hp.trans (.ofBool rfl)
    | with_reducible exact hp.mem rfl
    | with_reducible apply bankCorrected_only
    | with_reducible apply spadScrubBad_only
    | with_reducible apply Only.iteTest
    | with_reducible apply ResOnly.next
    | with_reducible apply ResOnly.onUnit
    | with_reducible apply ResOnly.iteTest
    | split
    | dsimp only)

theorem dramScrubBad_only {ps : List Part} {s t : State} (h : Only ps s t) (hp : Within [.memStacks, .na, .hst, .glb, .stud, .host, .badSpad, .badDram] ps) (a : Nat) :
    Only ps s (dramScrubBad t a) := by
  unfold dramScrubBad
  repeat' (first
    | with_reducible assumption
    | with_reducible exact hp.trans (.ofBool rfl)
    | with_reducible exact hp.mem rfl
    | with_reducible apply markBad_only
    | with_reducible apply postError_only
    | with_reducible apply stackUncorr_only
    | dsimp only)

theorem execDramPatrolScrub_only {ps : List Part} {s t : State} (h : Only ps s t) (hp : Within [.memStacks, .na, .hst, .glb, .stud, .host, .badSpad, .badDram] ps) (addr : Nat) (found : ScrubFinding) :
    ResOnly ps s (execDramPatrolScrub addr found t) := by
  unfold execDramPatrolScrub
  repeat' (first
    | with_reducible assumption
    | with_reducible exact hp.trans (.ofBool rfl)
    | with_reducible exact hp.mem rfl
    | with_reducible apply dramScrubBad_only
    | with_reducible apply stackCorr_only
    | with_reducible apply Only.iteTest
    | with_reducible apply ResOnly.next
    | with_reducible apply ResOnly.iteTest
    | split)

theorem execRefreshDue_only {ps : List Part} {s t : State} (h : Only ps s t) (hp : Within [.memStacks] ps) (stack : Nat) (pc : Nat) (postponed : Bool) :
    ResOnly ps s (execRefreshDue stack pc postponed t) := by
  unfold execRefreshDue
  repeat' (first
    | with_reducible assumption
    | with_reducible exact hp.trans (.ofBool rfl)
    | with_reducible exact hp.mem rfl
    | with_reducible apply Only.modStack
    | with_reducible apply Only.iteTest
    | with_reducible apply ResOnly.next
    | with_reducible apply ResOnly.onUnit
    | with_reducible apply ResOnly.iteTest
    | split)

theorem stackDrop_only {ps : List Part} {s t : State} (h : Only ps s t) (hp : Within [.fields] ps) (m : Nat) :
    Only ps s (stackDrop t m) := by
  unfold stackDrop
  repeat' (first
    | with_reducible assumption
    | with_reducible exact hp.trans (.ofBool rfl)
    | with_reducible exact hp.mem rfl
    | with_reducible apply dropGait_only
    | with_reducible apply Only.modField)

theorem stackRaise_only {ps : List Part} {s t : State} (h : Only ps s t) (hp : Within [.fields] ps) (m : Nat) :
    Only ps s (stackRaise t m) := by
  unfold stackRaise
  repeat' (first
    | with_reducible assumption
    | with_reducible exact hp.trans (.ofBool rfl)
    | with_reducible exact hp.mem rfl
    | with_reducible apply startRise_only
    | with_reducible apply Only.modField)

theorem stackReading_only {ps : List Part} {s t : State} (h : Only ps s t) (hp : Within [.fields, .glb] ps) (m : Nat) (before : Nat) :
    Only ps s (stackReading t m before) := by
  unfold stackReading
  repeat' (first
    | with_reducible assumption
    | with_reducible exact hp.trans (.ofBool rfl)
    | with_reducible exact hp.mem rfl
    | with_reducible apply queueRetrain_only
    | with_reducible apply stackDrop_only
    | with_reducible apply Only.iteTest
    | split
    | dsimp only)

theorem execStackTempSample_only {ps : List Part} {s t : State} (h : Only ps s t) (hp : Within [.fields, .memStacks, .glb] ps) (stack : Nat) (temp : Nat) :
    ResOnly ps s (execStackTempSample stack temp t) := by
  unfold execStackTempSample
  repeat' (first
    | with_reducible assumption
    | with_reducible exact hp.trans (.ofBool rfl)
    | with_reducible exact hp.mem rfl
    | with_reducible apply stackReading_only
    | with_reducible apply Only.modStack
    | with_reducible apply Only.iteTest
    | with_reducible apply ResOnly.next
    | with_reducible apply ResOnly.onUnit
    | with_reducible apply ResOnly.iteTest
    | split)

theorem execStackHotStep_only {ps : List Part} {s t : State} (h : Only ps s t) (hp : Within [.fields] ps) (stack : Nat) :
    ResOnly ps s (execStackHotStep stack t) := by
  unfold execStackHotStep
  repeat' (first
    | with_reducible assumption
    | with_reducible exact hp.trans (.ofBool rfl)
    | with_reducible exact hp.mem rfl
    | with_reducible apply stackDrop_only
    | with_reducible apply stackRaise_only
    | with_reducible apply Only.iteTest
    | with_reducible apply ResOnly.next
    | with_reducible apply ResOnly.onUnit
    | with_reducible apply ResOnly.iteTest
    | split)

theorem execStackHotSelfRefresh_only {ps : List Part} {s t : State} (h : Only ps s t) (hp : Within [.memStacks] ps) (stack : Nat) :
    ResOnly ps s (execStackHotSelfRefresh stack t) := by
  unfold execStackHotSelfRefresh
  repeat' (first
    | with_reducible assumption
    | with_reducible exact hp.trans (.ofBool rfl)
    | with_reducible exact hp.mem rfl
    | with_reducible apply Only.modStack
    | with_reducible apply Only.iteTest
    | with_reducible apply ResOnly.next
    | with_reducible apply ResOnly.onUnit
    | with_reducible apply ResOnly.iteTest
    | split)

theorem execStackHotTimeout_only {ps : List Part} {s t : State} (h : Only ps s t) (hp : Within [.fields, .regions, .memStacks, .lnk, .na, .hst, .glb, .master, .stud, .spad, .before, .host, .badSpad] ps) (stack : Nat) :
    ResOnly ps s (execStackHotTimeout stack t) := by
  unfold execStackHotTimeout
  repeat' (first
    | with_reducible assumption
    | with_reducible exact hp.trans (.ofBool rfl)
    | with_reducible exact hp.mem rfl
    | with_reducible apply stackFail_only
    | with_reducible apply Only.iteTest
    | with_reducible apply ResOnly.next
    | with_reducible apply ResOnly.onUnit
    | with_reducible apply ResOnly.iteTest
    | split)

theorem execRetrainBegin_only {ps : List Part} {s t : State} (h : Only ps s t) (hp : Within [.memStacks, .na, .hst, .glb, .host] ps) :
    ResOnly ps s (execRetrainBegin t) := by
  unfold execRetrainBegin
  repeat' (first
    | with_reducible assumption
    | with_reducible exact hp.trans (.ofBool rfl)
    | with_reducible exact hp.mem rfl
    | with_reducible apply postEvent_only
    | with_reducible apply Only.modStack
    | with_reducible apply Only.modGlb
    | with_reducible apply Only.iteTest
    | with_reducible apply ResOnly.next
    | with_reducible apply ResOnly.iteTest
    | split
    | dsimp only)

theorem retrainCentred_only {ps : List Part} {s t : State} (h : Only ps s t) (hp : Within [.fields, .regions, .memStacks, .lnk, .na, .hst, .glb, .master, .stud, .spad, .before, .host, .badSpad] ps) (m : Nat) (temp : Nat) (lanes : List (Nat × Nat)) :
    Only ps s (retrainCentred t m temp lanes) := by
  unfold retrainCentred
  repeat' (first
    | with_reducible assumption
    | with_reducible exact hp.trans (.ofBool rfl)
    | with_reducible exact hp.mem rfl
    | with_reducible apply noteLanes_only
    | with_reducible apply postEvent_only
    | with_reducible apply stackFail_only
    | with_reducible apply trainedStack_only
    | with_reducible apply Only.iteTest
    | split
    | dsimp only)

theorem retrainRestored_only {ps : List Part} {s t : State} (h : Only ps s t) (hp : Within [.memStacks, .na, .hst, .stud, .host] ps) (m : Nat) :
    Only ps s (retrainRestored t m) := by
  unfold retrainRestored
  repeat' (first
    | with_reducible assumption
    | with_reducible exact hp.trans (.ofBool rfl)
    | with_reducible exact hp.mem rfl
    | with_reducible apply postEvent_only
    | with_reducible apply recordFault_only
    | with_reducible apply Only.modStack
    | dsimp only)

theorem execRetrainEnd_only {ps : List Part} {s t : State} (h : Only ps s t) (hp : Within [.fields, .regions, .memStacks, .lnk, .na, .hst, .glb, .master, .stud, .spad, .before, .host, .badSpad] ps) (result : RetrainResult) :
    ResOnly ps s (execRetrainEnd result t) := by
  unfold execRetrainEnd
  repeat' (first
    | with_reducible assumption
    | with_reducible exact hp.trans (.ofBool rfl)
    | with_reducible exact hp.mem rfl
    | with_reducible apply retrainCentred_only
    | with_reducible apply retrainRestored_only
    | with_reducible apply ResOnly.next
    | split)

theorem execStackFailed_only {ps : List Part} {s t : State} (h : Only ps s t) (hp : Within [.fields, .regions, .memStacks, .lnk, .na, .hst, .glb, .master, .stud, .spad, .before, .host, .badSpad] ps) (stack : Nat) :
    ResOnly ps s (execStackFailed stack t) := by
  unfold execStackFailed
  repeat' (first
    | with_reducible assumption
    | with_reducible exact hp.trans (.ofBool rfl)
    | with_reducible exact hp.mem rfl
    | with_reducible apply stackFail_only
    | with_reducible apply ResOnly.next
    | with_reducible apply ResOnly.onUnit)

/-! ### Machine/Links.lean -/

theorem stallPlane_only {ps : List Part} {s t : State} (h : Only ps s t) (hp : Within [.master] ps) (p : Nat) :
    Only ps s (stallPlane t p) := by
  unfold stallPlane
  repeat' (first
    | with_reducible assumption
    | with_reducible exact hp.trans (.ofBool rfl)
    | with_reducible exact hp.mem rfl
    | with_reducible apply Only.modMaster)

theorem dropLink_only {ps : List Part} {s t : State} (h : Only ps s t) (hp : Within [.lnk, .master] ps) (l : Nat) :
    Only ps s (dropLink t l) := by
  unfold dropLink
  repeat' (first
    | with_reducible assumption
    | with_reducible exact hp.trans (.ofBool rfl)
    | with_reducible exact hp.mem rfl
    | with_reducible apply stallPlane_only
    | with_reducible apply Only.modLink
    | split
    | dsimp only)

theorem loseLink_only {ps : List Part} {s t : State} (h : Only ps s t) (hp : Within [.lnk, .na, .hst, .master, .host] ps) (l : Nat) :
    Only ps s (loseLink t l) := by
  unfold loseLink
  repeat' (first
    | with_reducible assumption
    | with_reducible exact hp.trans (.ofBool rfl)
    | with_reducible exact hp.mem rfl
    | with_reducible apply dropLink_only
    | with_reducible apply postEvent_only)

theorem planeNarrows_only {ps : List Part} {s t : State} (h : Only ps s t) (hp : Within [.lnk, .side, .master] ps) (p : Nat) (o : Op) :
    Only ps s (planeNarrows t p o) := by
  unfold planeNarrows
  repeat' (first
    | with_reducible assumption
    | with_reducible exact hp.trans (.ofBool rfl)
    | with_reducible exact hp.mem rfl
    | with_reducible apply adjustColl_only
    | with_reducible apply Only.iteTest
    | split)

theorem linkNarrows_only {ps : List Part} {s t : State} (h : Only ps s t) (hp : Within [.lnk, .side, .master] ps) (l : Nat) (rest : BitVec 2) :
    Only ps s (linkNarrows t l rest) := by
  unfold linkNarrows
  repeat' (first
    | with_reducible assumption
    | with_reducible exact hp.trans (.ofBool rfl)
    | with_reducible exact hp.mem rfl
    | with_reducible intro _
    | with_reducible apply planeNarrows_only
    | with_reducible apply Only.modLink
    | with_reducible apply Only.foldl
    | split
    | dsimp only)

theorem laneFails_only {ps : List Part} {s t : State} (h : Only ps s t) (hp : Within [.na, .hst, .stud, .host] ps) (l : Nat) (m : Nat) :
    Only ps s (laneFails t l m) := by
  unfold laneFails
  repeat' (first
    | with_reducible assumption
    | with_reducible exact hp.trans (.ofBool rfl)
    | with_reducible exact hp.mem rfl
    | with_reducible apply postEvent_only
    | with_reducible apply recordFault_only)

theorem execLaneLost_only {ps : List Part} {s t : State} (h : Only ps s t) (hp : Within [.lnk, .na, .hst, .side, .master, .stud, .host] ps) (link : Nat) (lane : Nat) :
    ResOnly ps s (execLaneLost link lane t) := by
  unfold execLaneLost
  repeat' (first
    | with_reducible assumption
    | with_reducible exact hp.trans (.ofBool rfl)
    | with_reducible exact hp.mem rfl
    | with_reducible apply laneFails_only
    | with_reducible apply linkNarrows_only
    | with_reducible apply loseLink_only
    | with_reducible apply Only.iteTest
    | with_reducible apply ResOnly.next
    | with_reducible apply ResOnly.onUnit
    | with_reducible apply ResOnly.iteTest
    | split
    | dsimp only)

theorem execLinkLost_only {ps : List Part} {s t : State} (h : Only ps s t) (hp : Within [.lnk, .na, .hst, .master, .host] ps) (link : Nat) :
    ResOnly ps s (execLinkLost link t) := by
  unfold execLinkLost
  repeat' (first
    | with_reducible assumption
    | with_reducible exact hp.trans (.ofBool rfl)
    | with_reducible exact hp.mem rfl
    | with_reducible apply loseLink_only
    | with_reducible apply Only.iteTest
    | with_reducible apply ResOnly.next
    | with_reducible apply ResOnly.onUnit
    | with_reducible apply ResOnly.iteTest
    | split)

theorem execFlitCrcRetry_only {ps : List Part} {s t : State} (h : Only ps s t) (hp : Within [.lnk, .na, .hst, .master, .host] ps) (link : Nat) (eighth : Bool) (codewords : Nat := 1) :
    ResOnly ps s (execFlitCrcRetry link eighth t codewords) := by
  unfold execFlitCrcRetry
  repeat' (first
    | with_reducible assumption
    | with_reducible exact hp.trans (.ofBool rfl)
    | with_reducible exact hp.mem rfl
    | with_reducible apply loseLink_only
    | with_reducible apply Only.modLink
    | with_reducible apply Only.iteTest
    | with_reducible apply ResOnly.next
    | with_reducible apply ResOnly.onUnit
    | with_reducible apply ResOnly.iteTest
    | split
    | dsimp only)

theorem linkCtrlIn_only {ps : List Part} {s t : State} (h : Only ps s t) (hp : Within [.lnk, .na, .hst, .master, .stud, .host] ps) (l : Nat) (f : Flit) :
    Only ps s (linkCtrlIn t l f) := by
  unfold linkCtrlIn
  repeat' (first
    | with_reducible assumption
    | with_reducible exact hp.trans (.ofBool rfl)
    | with_reducible exact hp.mem rfl
    | with_reducible apply dropLink_only
    | with_reducible apply planeMismatch_only
    | with_reducible apply Only.modLink
    | with_reducible apply Only.iteTest
    | split
    | dsimp only)

theorem execLinkCtrl_only {ps : List Part} {s t : State} (h : Only ps s t) (hp : Within [.lnk, .na, .hst, .master, .stud, .host] ps) (link : Nat) (flit : Flit) :
    ResOnly ps s (execLinkCtrl link flit t) := by
  unfold execLinkCtrl
  repeat' (first
    | with_reducible assumption
    | with_reducible exact hp.trans (.ofBool rfl)
    | with_reducible exact hp.mem rfl
    | with_reducible apply flitGate_only
    | with_reducible apply linkCtrlIn_only
    | with_reducible apply Only.iteTest
    | with_reducible apply ResOnly.next
    | with_reducible apply ResOnly.onUnit
    | with_reducible apply ResOnly.iteTest
    | split
    | dsimp only)

theorem execPeerSyncAdd_only {ps : List Part} {s t : State} (h : Only ps s t) (hp : Within [.lnk, .na, .hst, .sync, .held, .host] ps) (flit : Flit) :
    ResOnly ps s (execPeerSyncAdd flit t) := by
  unfold execPeerSyncAdd
  repeat' (first
    | with_reducible assumption
    | with_reducible exact hp.trans (.ofBool rfl)
    | with_reducible exact hp.mem rfl
    | with_reducible apply flitGate_only
    | with_reducible apply peerAdd_only
    | with_reducible apply Only.iteTest
    | with_reducible apply ResOnly.next
    | with_reducible apply ResOnly.iteTest
    | split
    | dsimp only)

theorem execTimeExchange_only {ps : List Part} {s t : State} (h : Only ps s t) (hp : Within [.clk, .lnk, .side] ps) :
    ResOnly ps s (execTimeExchange t) := by
  unfold execTimeExchange
  repeat' (first
    | with_reducible assumption
    | with_reducible exact hp.trans (.ofBool rfl)
    | with_reducible exact hp.mem rfl
    | with_reducible apply sendFlits_only
    | with_reducible apply Only.modClk
    | with_reducible apply Only.iteTest
    | with_reducible apply ResOnly.next
    | with_reducible apply ResOnly.iteTest
    | split)

theorem execTimeReq_only {ps : List Part} {s t : State} (h : Only ps s t) (hp : Within [.lnk, .side] ps) (flit : Flit) :
    ResOnly ps s (execTimeReq flit t) := by
  unfold execTimeReq
  repeat' (first
    | with_reducible assumption
    | with_reducible exact hp.trans (.ofBool rfl)
    | with_reducible exact hp.mem rfl
    | with_reducible apply flitGate_only
    | with_reducible apply sendFlits_only
    | with_reducible apply Only.iteTest
    | with_reducible apply ResOnly.next
    | with_reducible apply ResOnly.iteTest
    | split
    | dsimp only)

theorem takeOffset_only {ps : List Part} {s t : State} (h : Only ps s t) (hp : Within [.clk, .na, .hst, .host] ps) (d : Int) :
    Only ps s (takeOffset t d) := by
  unfold takeOffset
  repeat' (first
    | with_reducible assumption
    | with_reducible exact hp.trans (.ofBool rfl)
    | with_reducible exact hp.mem rfl
    | with_reducible apply setFar_only
    | with_reducible apply Only.modClk
    | with_reducible apply Only.iteTest
    | split)

theorem execTimeResp_only {ps : List Part} {s t : State} (h : Only ps s t) (hp : Within [.clk, .lnk, .na, .hst, .host] ps) (flit : Flit) :
    ResOnly ps s (execTimeResp flit t) := by
  unfold execTimeResp
  repeat' (first
    | with_reducible assumption
    | with_reducible exact hp.trans (.ofBool rfl)
    | with_reducible exact hp.mem rfl
    | with_reducible apply flitGate_only
    | with_reducible apply takeOffset_only
    | with_reducible apply Only.modClk
    | with_reducible apply Only.iteTest
    | with_reducible apply ResOnly.next
    | with_reducible apply ResOnly.iteTest
    | split
    | dsimp only)

/-! ### Machine/Collective.lean -/

theorem keepMail_only {ps : List Part} {s t : State} (h : Only ps s t) (hp : Within [.lnk] ps) (f : Flit) :
    Only ps s (keepMail t f) := by
  unfold keepMail
  repeat' (first
    | with_reducible assumption
    | with_reducible exact hp.trans (.ofBool rfl)
    | with_reducible exact hp.mem rfl
    | with_reducible apply Only.modLnk
    | with_reducible apply Only.iteTest
    | split)

theorem holdMail_only {ps : List Part} {s t : State} (h : Only ps s t) (hp : Within [.lnk] ps) (f : Flit) :
    Only ps s (holdMail t f) := by
  unfold holdMail
  repeat' (first
    | with_reducible assumption
    | with_reducible exact hp.trans (.ofBool rfl)
    | with_reducible exact hp.mem rfl
    | with_reducible apply Only.modLnk)

theorem execReady_only {ps : List Part} {s t : State} (h : Only ps s t) (hp : Within [.fields, .regions, .memStacks, .lnk, .na, .hst, .glb, .side, .master, .stud, .dram, .spad, .before, .host, .badSpad, .badDram] ps) (flit : Flit) (reads : ReadOutcome := ReadOutcome.clean) :
    ResOnly ps s (execReady flit t reads) := by
  unfold execReady
  repeat' (first
    | with_reducible assumption
    | with_reducible exact hp.trans (.ofBool rfl)
    | with_reducible exact hp.mem rfl
    | with_reducible apply collReady_only
    | with_reducible apply flitGate_only
    | with_reducible apply holdMail_only
    | with_reducible apply keepMail_only
    | with_reducible apply Only.iteTest
    | with_reducible apply ResOnly.next
    | with_reducible apply ResOnly.iteTest
    | split
    | dsimp only)

theorem execAbort_only {ps : List Part} {s t : State} (h : Only ps s t) (hp : Within [.fields, .regions, .lnk, .na, .hst, .glb, .side, .master, .spad, .before, .host, .badSpad] ps) (flit : Flit) :
    ResOnly ps s (execAbort flit t) := by
  unfold execAbort
  repeat' (first
    | with_reducible assumption
    | with_reducible exact hp.trans (.ofBool rfl)
    | with_reducible exact hp.mem rfl
    | with_reducible apply collAborted_only
    | with_reducible apply flitGate_only
    | with_reducible apply keepMail_only
    | with_reducible apply Only.iteTest
    | with_reducible apply ResOnly.next
    | with_reducible apply ResOnly.iteTest
    | split
    | dsimp only)

theorem execStart_only {ps : List Part} {s t : State} (h : Only ps s t) (hp : Within [.fields, .regions, .memStacks, .lnk, .na, .hst, .glb, .side, .master, .stud, .dram, .spad, .before, .host, .badSpad, .badDram] ps) (flit : Flit) (reads : ReadOutcome := ReadOutcome.clean) :
    ResOnly ps s (execStart flit t reads) := by
  unfold execStart
  repeat' (first
    | with_reducible assumption
    | with_reducible exact hp.trans (.ofBool rfl)
    | with_reducible exact hp.mem rfl
    | with_reducible apply collStart_only
    | with_reducible apply flitGate_only
    | with_reducible apply Only.iteTest
    | with_reducible apply ResOnly.next
    | with_reducible apply ResOnly.iteTest
    | split
    | dsimp only)

theorem laneError_only {ps : List Part} {s t : State} (h : Only ps s t) (hp : Within [.fields, .regions, .lnk, .na, .hst, .glb, .master, .spad, .before, .host, .badSpad] ps) (o : Op) (plane : Nat) :
    Only ps s (laneError t o plane) := by
  unfold laneError
  repeat' (first
    | with_reducible assumption
    | with_reducible exact hp.trans (.ofBool rfl)
    | with_reducible exact hp.mem rfl
    | with_reducible apply endColl_only
    | with_reducible apply postError_only
    | dsimp only)

theorem execData_only {ps : List Part} {s t : State} (h : Only ps s t) (hp : Within [.fields, .regions, .memStacks, .lnk, .na, .hst, .glb, .master, .stud, .dram, .spad, .before, .host, .badSpad, .badDram] ps) (flit : Flit) (laneMismatch : Bool) (merge : ReadOutcome := ReadOutcome.clean) :
    ResOnly ps s (execData flit laneMismatch t merge) := by
  unfold execData
  repeat' (first
    | with_reducible assumption
    | with_reducible exact hp.trans (.ofBool rfl)
    | with_reducible exact hp.mem rfl
    | with_reducible apply dataArrived_only
    | with_reducible apply flitGate_only
    | with_reducible apply laneError_only
    | with_reducible apply Only.iteTest
    | with_reducible apply ResOnly.next
    | with_reducible apply ResOnly.iteTest
    | split
    | dsimp only)

theorem execSendData_only {ps : List Part} {s t : State} (h : Only ps s t) (hp : Within [.fields, .regions, .memStacks, .lnk, .na, .hst, .glb, .side, .master, .stud, .dram, .spad, .before, .host, .badSpad, .badDram] ps) (flit : Flit) (merge : ReadOutcome := ReadOutcome.clean) :
    ResOnly ps s (execSendData flit t merge) := by
  unfold execSendData
  repeat' (first
    | with_reducible assumption
    | with_reducible exact hp.trans (.ofBool rfl)
    | with_reducible exact hp.mem rfl
    | with_reducible apply flitGate_only
    | with_reducible apply sendDataArrived_only
    | with_reducible apply Only.iteTest
    | with_reducible apply ResOnly.next
    | with_reducible apply ResOnly.iteTest
    | split
    | dsimp only)

theorem execSlotAdj_only {ps : List Part} {s t : State} (h : Only ps s t) (hp : Within [.lnk, .master] ps) (flit : Flit) :
    ResOnly ps s (execSlotAdj flit t) := by
  unfold execSlotAdj
  repeat' (first
    | with_reducible assumption
    | with_reducible exact hp.trans (.ofBool rfl)
    | with_reducible exact hp.mem rfl
    | with_reducible apply flitGate_only
    | with_reducible apply setOpOf_only
    | with_reducible apply Only.iteTest
    | with_reducible apply ResOnly.next
    | with_reducible apply ResOnly.iteTest
    | split
    | dsimp only)

theorem execCollectiveSlotStart_only {ps : List Part} {s t : State} (h : Only ps s t) (hp : Within [.fields, .regions, .memStacks, .lnk, .na, .hst, .glb, .side, .master, .stud, .dram, .spad, .before, .host, .badSpad, .badDram] ps) (reads : ReadOutcome := ReadOutcome.clean) :
    ResOnly ps s (execCollectiveSlotStart t reads) := by
  unfold execCollectiveSlotStart
  repeat' (first
    | with_reducible assumption
    | with_reducible exact hp.trans (.ofBool rfl)
    | with_reducible exact hp.mem rfl
    | with_reducible apply collKick_only
    | with_reducible apply sendSlot_only
    | with_reducible apply sendTail_only
    | with_reducible apply Only.iteTest
    | with_reducible apply ResOnly.next
    | with_reducible apply ResOnly.iteTest
    | split)

theorem execSendAcknowledged_only {ps : List Part} {s t : State} (h : Only ps s t) (hp : Within [.fields, .regions, .memStacks, .lnk, .na, .hst, .glb, .side, .master, .stud, .sync, .dram, .spad, .before, .host, .badSpad, .badDram] ps) (reads : ReadOutcome := ReadOutcome.clean) :
    ResOnly ps s (execSendAcknowledged t reads) := by
  unfold execSendAcknowledged
  repeat' (first
    | with_reducible assumption
    | with_reducible exact hp.trans (.ofBool rfl)
    | with_reducible exact hp.mem rfl
    | with_reducible apply commitOrEnd_only
    | with_reducible apply setOpOf_only
    | with_reducible apply Only.iteTest
    | with_reducible apply ResOnly.next
    | with_reducible apply ResOnly.iteTest
    | split)

/-! ### Machine/Sideband.lean -/

theorem respond_only {ps : List Part} {s t : State} (h : Only ps s t) (hp : Within [.side] ps) (code : Byte) (body : List Byte) :
    Only ps s (respond t code body) := by
  unfold respond
  repeat' (first
    | with_reducible assumption
    | with_reducible exact hp.trans (.ofBool rfl)
    | with_reducible exact hp.mem rfl
    | with_reducible apply Only.modSide)

theorem execSidebandEndpointReady_only {ps : List Part} {s t : State} (h : Only ps s t) (hp : Within [.side] ps) :
    ResOnly ps s (execSidebandEndpointReady t) := by
  unfold execSidebandEndpointReady
  repeat' (first
    | with_reducible assumption
    | with_reducible exact hp.trans (.ofBool rfl)
    | with_reducible exact hp.mem rfl
    | with_reducible apply Only.modSide
    | with_reducible apply Only.iteTest
    | with_reducible apply ResOnly.next
    | with_reducible apply ResOnly.iteTest
    | split)

theorem execEntdaa_only {ps : List Part} {s t : State} (h : Only ps s t) (hp : Within [.side] ps) (address : BitVec 7) :
    ResOnly ps s (execEntdaa address t) := by
  unfold execEntdaa
  repeat' (first
    | with_reducible assumption
    | with_reducible exact hp.trans (.ofBool rfl)
    | with_reducible exact hp.mem rfl
    | with_reducible apply Only.modSide
    | with_reducible apply Only.iteTest
    | with_reducible apply ResOnly.next
    | with_reducible apply ResOnly.iteTest
    | split)

theorem mctpAnswer_only {ps : List Part} {s t : State} (h : Only ps s t) (hp : Within [.side, .free] ps) (m : MctpControl) :
    Only ps s (mctpAnswer t m) := by
  have hs : Within [.side] ps := hp.trans (.ofBool rfl)
  have hf : Within [.free] ps := hp.trans (.ofBool rfl)
  cases m
  · exact respond_only (bumpFree_only (h.modSide (hp.mem rfl)) hf) hs _ _
  · exact respond_only (bumpFree_only h hf) hs _ _
  · exact respond_only (bumpFree_only h hf) hs _ _
  · exact respond_only h hs _ _
  · exact respond_only h hs _ _

theorem execMctpControl_only {ps : List Part} {s t : State} (h : Only ps s t) (hp : Within [.side, .free] ps) (message : MctpControl) :
    ResOnly ps s (execMctpControl message t) := by
  unfold execMctpControl
  repeat' (first
    | with_reducible assumption
    | with_reducible exact hp.trans (.ofBool rfl)
    | with_reducible exact hp.mem rfl
    | with_reducible apply mctpAnswer_only
    | with_reducible intro _
    | with_reducible apply onEndpoint_only
    | with_reducible apply ResOnly.next)

theorem execGetTelemetry_only {ps : List Part} {s t : State} (h : Only ps s t) (hp : Within [.side, .free] ps) (page : Nat) :
    ResOnly ps s (execGetTelemetry page t) := by
  unfold execGetTelemetry
  repeat' (first
    | with_reducible assumption
    | with_reducible exact hp.trans (.ofBool rfl)
    | with_reducible exact hp.mem rfl
    | with_reducible intro _
    | with_reducible apply bumpFree_only
    | with_reducible apply onEndpoint_only
    | with_reducible apply respond_only
    | with_reducible apply ResOnly.next
    | split)

theorem sendLinkCtrls_only {ps : List Part} {s t : State} (h : Only ps s t) (hp : Within [.lnk, .side] ps) :
    Only ps s (sendLinkCtrls t) := by
  unfold sendLinkCtrls
  repeat' (first
    | with_reducible assumption
    | with_reducible exact hp.trans (.ofBool rfl)
    | with_reducible exact hp.mem rfl
    | with_reducible apply putFlits_only)

theorem execSetCoord_only {ps : List Part} {s t : State} (h : Only ps s t) (hp : Within [.lnk, .side] ps) (address : BitVec 48) :
    ResOnly ps s (execSetCoord address t) := by
  unfold execSetCoord
  repeat' (first
    | with_reducible assumption
    | with_reducible exact hp.trans (.ofBool rfl)
    | with_reducible exact hp.mem rfl
    | with_reducible intro _
    | with_reducible apply onEndpoint_only
    | with_reducible apply respond_only
    | with_reducible apply sendLinkCtrls_only
    | with_reducible apply Only.modLnk
    | with_reducible apply Only.iteTest
    | with_reducible apply ResOnly.next
    | with_reducible apply ResOnly.iteTest
    | split)

theorem takePlanes_only {ps : List Part} {s t : State} (h : Only ps s t) (hp : Within [.lnk] ps) (planes : List Byte) :
    Only ps s (takePlanes t planes) := by
  unfold takePlanes
  repeat' (first
    | with_reducible assumption
    | with_reducible exact hp.trans (.ofBool rfl)
    | with_reducible exact hp.mem rfl
    | with_reducible apply Only.modLnk)

theorem execSetPlaneMap_only {ps : List Part} {s t : State} (h : Only ps s t) (hp : Within [.lnk, .side] ps) (planes : List Byte) :
    ResOnly ps s (execSetPlaneMap planes t) := by
  unfold execSetPlaneMap
  repeat' (first
    | with_reducible assumption
    | with_reducible exact hp.trans (.ofBool rfl)
    | with_reducible exact hp.mem rfl
    | with_reducible intro _
    | with_reducible apply onEndpoint_only
    | with_reducible apply respond_only
    | with_reducible apply sendLinkCtrls_only
    | with_reducible apply takePlanes_only
    | with_reducible apply Only.iteTest
    | with_reducible apply ResOnly.next
    | with_reducible apply ResOnly.iteTest
    | split)

theorem execSidebandHalter_only {ps : List Part} {s t : State} (h : Only ps s t) (hp : Within [.hst] ps) :
    ResOnly ps s (execSidebandHalter t) := by
  unfold execSidebandHalter
  repeat' (first
    | with_reducible assumption
    | with_reducible exact hp.trans (.ofBool rfl)
    | with_reducible exact hp.mem rfl
    | with_reducible intro _
    | with_reducible apply onEndpoint_only
    | with_reducible apply Only.modHst
    | with_reducible apply Only.iteTest
    | with_reducible apply ResOnly.next
    | with_reducible apply ResOnly.iteTest
    | split)

theorem execGetWeave_only {ps : List Part} {s t : State} (h : Only ps s t) (hp : Within [.side] ps) :
    ResOnly ps s (execGetWeave t) := by
  unfold execGetWeave
  repeat' (first
    | with_reducible assumption
    | with_reducible exact hp.trans (.ofBool rfl)
    | with_reducible exact hp.mem rfl
    | with_reducible intro _
    | with_reducible apply onEndpoint_only
    | with_reducible apply respond_only
    | with_reducible apply Only.iteTest
    | with_reducible apply ResOnly.next
    | with_reducible apply ResOnly.iteTest
    | split)

theorem execGetCoord_only {ps : List Part} {s t : State} (h : Only ps s t) (hp : Within [.side] ps) :
    ResOnly ps s (execGetCoord t) := by
  unfold execGetCoord
  repeat' (first
    | with_reducible assumption
    | with_reducible exact hp.trans (.ofBool rfl)
    | with_reducible exact hp.mem rfl
    | with_reducible intro _
    | with_reducible apply onEndpoint_only
    | with_reducible apply respond_only
    | with_reducible apply ResOnly.next)

theorem execUnknownVendorCommand_only {ps : List Part} {s t : State} (h : Only ps s t) (hp : Within [.side] ps) (code : Byte) :
    ResOnly ps s (execUnknownVendorCommand code t) := by
  unfold execUnknownVendorCommand
  repeat' (first
    | with_reducible assumption
    | with_reducible exact hp.trans (.ofBool rfl)
    | with_reducible exact hp.mem rfl
    | with_reducible intro _
    | with_reducible apply onEndpoint_only
    | with_reducible apply respond_only
    | with_reducible apply Only.iteTest
    | with_reducible apply ResOnly.next
    | with_reducible apply ResOnly.iteTest
    | split)

/-! ### Machine/FarrierCmds.lean -/

theorem takeSession_only {ps : List Part} {s t : State} (h : Only ps s t) (hp : Within [.fields, .farrier] ps) (r : Nat) (returning : Bool) :
    Only ps s (takeSession t r returning) := by
  unfold takeSession
  repeat' (first
    | with_reducible assumption
    | with_reducible exact hp.trans (.ofBool rfl)
    | with_reducible exact hp.mem rfl
    | with_reducible apply requestPower_only
    | with_reducible apply Only.modFarrier
    | with_reducible apply Only.iteTest
    | split
    | dsimp only)

theorem tryRolling_only {ps : List Part} {s t : State} (h : Only ps s t) (hp : Within [.fields, .farrier] ps) :
    Only ps s (tryRolling t) := by
  unfold tryRolling
  repeat' (first
    | with_reducible assumption
    | with_reducible exact hp.trans (.ofBool rfl)
    | with_reducible exact hp.mem rfl
    | with_reducible apply takeSession_only
    | with_reducible apply Only.modFarrier
    | with_reducible apply Only.iteTest
    | split)

theorem execFarrierRollingStart_only {ps : List Part} {s t : State} (h : Only ps s t) (hp : Within [.fields, .farrier] ps) :
    ResOnly ps s (execFarrierRollingStart t) := by
  unfold execFarrierRollingStart
  repeat' (first
    | with_reducible assumption
    | with_reducible exact hp.trans (.ofBool rfl)
    | with_reducible exact hp.mem rfl
    | with_reducible apply tryRolling_only
    | with_reducible apply Only.iteTest
    | with_reducible apply ResOnly.next
    | with_reducible apply ResOnly.iteTest
    | split)

theorem execFarrierReturnStart_only {ps : List Part} {s t : State} (h : Only ps s t) (hp : Within [.fields, .farrier] ps) :
    ResOnly ps s (execFarrierReturnStart t) := by
  unfold execFarrierReturnStart
  repeat' (first
    | with_reducible assumption
    | with_reducible exact hp.trans (.ofBool rfl)
    | with_reducible exact hp.mem rfl
    | with_reducible apply takeSession_only
    | with_reducible apply Only.iteTest
    | with_reducible apply ResOnly.next
    | with_reducible apply ResOnly.iteTest
    | split)

theorem execFarrierRetry_only {ps : List Part} {s t : State} (h : Only ps s t) (hp : Within [.fields, .farrier] ps) :
    ResOnly ps s (execFarrierRetry t) := by
  unfold execFarrierRetry
  repeat' (first
    | with_reducible assumption
    | with_reducible exact hp.trans (.ofBool rfl)
    | with_reducible exact hp.mem rfl
    | with_reducible apply takeSession_only
    | with_reducible apply tryRolling_only
    | with_reducible apply Only.iteTest
    | with_reducible apply ResOnly.next
    | with_reducible apply ResOnly.iteTest
    | split)

theorem execFarrierHold_only {ps : List Part} {s t : State} (h : Only ps s t) (hp : Within [.regions, .farrier, .spad, .before, .badSpad] ps) :
    ResOnly ps s (execFarrierHold t) := by
  unfold execFarrierHold
  repeat' (first
    | with_reducible assumption
    | with_reducible exact hp.trans (.ofBool rfl)
    | with_reducible exact hp.mem rfl
    | with_reducible apply updBanks_only
    | with_reducible apply Only.modFarrier
    | with_reducible apply Only.iteTest
    | with_reducible apply ResOnly.next
    | with_reducible apply ResOnly.iteTest
    | split)

theorem scanUnit_only {ps : List Part} {s t : State} (h : Only ps s t) (hp : Within [.na, .hst, .stud, .host] ps) (x : TestFinding) :
    Only ps s (scanUnit t x) := by
  unfold scanUnit
  repeat' (first
    | with_reducible assumption
    | with_reducible exact hp.trans (.ofBool rfl)
    | with_reducible exact hp.mem rfl
    | with_reducible apply recordFault_only
    | with_reducible apply retireUnit_only
    | with_reducible apply Only.iteTest
    | split)

theorem trimSession_only {ps : List Part} {s t : State} (h : Only ps s t) (hp : Within [.regions, .stud] ps) (r : Nat) (vPass : Nat) :
    Only ps s (trimSession t r vPass) := by
  unfold trimSession
  dsimp only
  split
  · exact h.modRegion (hp.mem rfl)
  · exact Only.setStud (h.modRegion (hp.mem rfl)) (hp.mem rfl)

theorem releaseRolling_only {ps : List Part} {s t : State} (h : Only ps s t) (hp : Within [.fields, .regions, .slots, .lnk, .na, .hst, .glb, .master, .spad, .before, .host, .badSpad] ps) (r : Nat) (out : Bool) :
    Only ps s (releaseRolling t r out) := by
  unfold releaseRolling
  repeat' (first
    | with_reducible assumption
    | with_reducible exact hp.trans (.ofBool rfl)
    | with_reducible exact hp.mem rfl
    | with_reducible apply leaveWeave_only
    | with_reducible apply publishEvent_only
    | with_reducible apply Only.modRegion
    | with_reducible apply Only.iteTest
    | split
    | dsimp only)

theorem releaseReturning_only {ps : List Part} {s t : State} (h : Only ps s t) (hp : Within [.regions, .na, .hst, .glb, .spad, .before, .host, .badSpad] ps) (r : Nat) (out : Bool) :
    Only ps s (releaseReturning t r out) := by
  unfold releaseReturning
  repeat' (first
    | with_reducible assumption
    | with_reducible exact hp.trans (.ofBool rfl)
    | with_reducible exact hp.mem rfl
    | with_reducible apply publishEvent_only
    | with_reducible apply regionOff_only
    | with_reducible apply Only.modRegion
    | with_reducible apply Only.iteTest
    | split)

theorem closeSession_only {ps : List Part} {s t : State} (h : Only ps s t) (hp : Within [.regions, .farrier] ps) (x : Session) (result : Nat) :
    Only ps s (closeSession t x result) := by
  unfold closeSession
  repeat' (first
    | with_reducible assumption
    | with_reducible exact hp.trans (.ofBool rfl)
    | with_reducible exact hp.mem rfl
    | with_reducible apply Only.modRegion
    | with_reducible apply Only.modFarrier
    | with_reducible apply Only.iteTest
    | split
    | dsimp only)

theorem execFarrierRelease_only {ps : List Part} {s t : State} (h : Only ps s t) (hp : Within [.fields, .regions, .slots, .lnk, .na, .hst, .glb, .master, .farrier, .stud, .spad, .before, .host, .badSpad] ps) (found : SessionFindings) :
    ResOnly ps s (execFarrierRelease found t) := by
  unfold execFarrierRelease
  repeat' (first
    | with_reducible assumption
    | with_reducible exact hp.trans (.ofBool rfl)
    | with_reducible exact hp.mem rfl
    | with_reducible intro _
    | with_reducible apply closeSession_only
    | with_reducible apply dropGait_only
    | with_reducible apply farrierAbandon_only
    | with_reducible apply postEvent_only
    | with_reducible apply releaseReturning_only
    | with_reducible apply releaseRolling_only
    | with_reducible apply scanUnit_only
    | with_reducible apply trimSession_only
    | with_reducible apply updBanks_only
    | with_reducible apply Only.foldl
    | with_reducible apply Only.iteTest
    | with_reducible apply ResOnly.next
    | with_reducible apply ResOnly.iteTest
    | split
    | dsimp only)

end Sys2Proof.Machine
end

