-- ==== Sys2Proof/Machine/Timing.lean ====
section
/-!
DEFINITION. The times, latencies and port arbitration the spec gives as formulas and tables, as functions of the state and of
an operation's share of the weave. No command waits on them: a command that names a time asserts that it has passed.
-/
namespace Sys2Proof.Machine

/-! ### Beats (R268, R269) -/

/-- The frequency of the field clock in kHz (Table 11-1). -/
def fieldClockKhz (g : Gait) : Nat := 3600000 / gaitDivider g

/-! ### The array (R102, R117, R118) -/

/-- Beats from row 0 to the foot (Table 4-2). -/
def footLatency : Rate → Nat
  | .quarter => 1059
  | _ => 1056

/-- Beats a tile streams for, given its rows (normal orientation) or columns (exchanged). -/
def streamBeats (c : Rate) (n : Nat) : Nat := if c = .quarter then 4 * n else n

/-- T of R117: first stationary load, then each tile for as long as it streams or its successor loads, then the chain. -/
def arrayBeats (c : Rate) (firstLoad : Nat) (tiles : List Nat) : Nat :=
  firstLoad + (tiles.map (fun n => max (streamBeats c n) 1024)).foldl (· + ·) 0 + footLatency c

/-- Multiply-accumulate operations of one region in a beat, times two (Table 4-9), times four for the quarter rate. -/
def quarterOpsPerBeat (c : Rate) (stakes : Nat) : Nat :=
  stakes * 1024 * 2 * (match c with | .twice => 8 | .once => 4 | .quarter => 1)

/-- Peak rate of so many live stakes in MFLOPS (R118). -/
def peakMflops (c : Rate) (stakes : Nat) (g : Gait) : Nat := quarterOpsPerBeat c stakes * (fieldClockKhz g / 1000) / 4

/-! ### Families off the array (R138) -/

/-- Beats of elements through an Epilogue or a Packer, and of bytes moved unchanged or cleared. -/
def elementBeats (elements : Nat) : Nat := ceilDiv elements 512
def byteBeats (bytes : Nat) : Nat := ceilDiv bytes 2048

/-! ### Paths over the grid (R15, R215, R252, R255, R256) -/

/-- Seams and bridges a sequence of fields crosses. -/
def crossingsOf : List Nat → Nat × Nat
  | a :: b :: l =>
    let r := crossingsOf (b :: l)
    if isSeam a b then (r.1 + 1, r.2) else (r.1, r.2 + 1)
  | _ => (0, 0)

/-- A shortest path ignoring the weave: along the row, then along the column. -/
def gridPath (a b : Nat) : List Nat :=
  let step (x y : Nat) : List Nat :=
    if x ≤ y then (List.range (y - x + 1)).map (fun i => x + i) else (List.range (x - y + 1)).map (fun i => x - i)
  (step (gridCol a) (gridCol b)).map (fieldAtGrid (gridRow a)) ++
    ((step (gridRow a) (gridRow b)).drop 1).map (fun r => fieldAtGrid r (gridCol b))

/-- The path traffic takes: the route in use where the weave has one (R252), else a shortest path. -/
def pathInUse (s : State) (a b : Nat) : List Nat := (routeOf s a b).getD (gridPath a b)

/-- Unloaded latency of a scratchpad access from another field or region (Table 8-7). -/
def spadLatency (path : List Nat) : Nat := 14 + 6 * (crossingsOf path).1 + 12 * (crossingsOf path).2

/-- Unloaded latency of a region's own pipeline to its own banks (Table 8-7). -/
def ownBankLatency : Nat := 6

/-- Unloaded one-way latency of a flit (R255). -/
def flitLatency (path : List Nat) : Nat := 4 + 3 * (crossingsOf path).1 + 6 * (crossingsOf path).2

/-- A class of traffic at a region's injection port, with its virtual channel (Table 7-4). -/
inductive FabricClass where
  | control | feed | loaderDma | collective | telemetry | farrier
deriving DecidableEq, Repr

/-- Worst-case injection blocking (Table 7-4) and blocking per router (Table 10-2), in beats. -/
def injectionBlocking : FabricClass → Nat
  | .control => 0 | .feed => 2 | .loaderDma => 18 | .collective => 28 | .telemetry => 30 | .farrier => 31
def routerBlocking : FabricClass → Nat
  | .control => 1 | .feed => 3 | .loaderDma => 19 | .collective => 19 | .telemetry => 30 | .farrier => 30

/-- The bound on a flit's one-way latency (R256). -/
def flitBound (c : FabricClass) (path : List Nat) : Nat :=
  flitLatency path + path.length * routerBlocking c + injectionBlocking c

/-- A Loader read of one codeword, in VCO periods: 100 ns in the controller and the DRAM, 12 beats in the field, and the
crossings (R233). -/
def dramReadVco (g : Gait) (path : List Nat) : Nat :=
  360 + vcoPeriods g (12 + 6 * (crossingsOf path).1 + 12 * (crossingsOf path).2)

/-! ### Landings and connectors (R275, R462) -/

/-- The crossings of a landing always run in ratio mode (R275). -/
def landingMode : CrossMode := .ratio

/-- Pair p of flyover connector FX<c>: its link, its lane, and whether it receives (R462). -/
def flyoverPair (c p : Nat) : Nat × Nat × Bool := (24 * c + p / 4, p / 2 % 2, decide (p % 2 = 1))

/-! ### The stress corner (R337, R365) -/

/-- Core setpoint of a region at the stress corner, in mV: 40 mV below its canter setpoint. -/
def stressSetpoint (delta : Int) : Int := coreSetpoint .canter delta - 40

/-- Clock of the stress corner, 8 % above canter, in kHz. -/
def stressClockKhz : Nat := fieldClockKhz .canter * 108 / 100

/-- A session's region runs at the stress corner. -/
def atStress (s : State) (r : Nat) : Bool := s.farrier.session.elim false (fun x => x.stressed && decide (x.region = r))

/-- The core setpoint a region has, the clock it runs on and the mode of its router port: those of its field's gait, or of the stress
corner with the session divider of its spine and its port in ratio mode (Table 15-5). -/
def regionSetpoint (s : State) (r : Nat) : Int :=
  let x := regionAt s r
  if atStress s r then stressSetpoint x.delta else coreSetpoint (fieldAt s (fieldOf r)).gait x.delta
def regionClockKhz (s : State) (r : Nat) : Nat := if atStress s r then stressClockKhz else fieldClockKhz (fieldAt s (fieldOf r)).gait
def regionPortMode (s : State) (r : Nat) : CrossMode := if atStress s r then .ratio else .meso

/-- What a retest of step 4 heats a region to from its temperature in the first pass. -/
def retestHeatTarget (first : Nat) : Nat := first + 15

/-! ### Banks (R219) -/

/-- Beats a bank clears itself in, after 1 us. -/
def bankClearBeats : Nat := 2048

/-! ### Arbitration (R185 to R188) -/

/-- The caps of the classes of a port in its window, in priority order; the lowest class has none. -/
def bankPortCaps : List (Option Nat) := [none, some 12, some 1, some 1, some 1, none]
def injectionCaps : List (Option Nat) := [some 2, some 16, some 10, some 2, some 1, none]
def routerCaps : List (Option Nat) := [some 2, some 16, some 12, none]

/-- Caps of a stack's pseudo-channels in ns of a window of 10 us (Table 7-5); Loader DMA has half while the stack is throttled
(R240). -/
def stackCapsNs (x : Stack) : List (Option Nat) := [some (if x.throttled then 4000 else 8000), some 500, some 1000, some 200, some 100, none]

/-- A class may be granted: it waits, and it has room in its cap or no lower class waits (R185). -/
def mayGrant (caps : List (Option Nat)) (taken : List Nat) (waits : List Bool) (i : Nat) : Bool :=
  waits.getD i false &&
    ((match caps.getD i none with | some c => decide (taken.getD i 0 < c) | none => true) || !((waits.drop (i + 1)).any (fun b => b)))

/-- The class an arbiter grants: the first that may be. -/
def granted (caps : List (Option Nat)) (taken : List Nat) (waits : List Bool) : Option Nat :=
  (List.range caps.length).find? (mayGrant caps taken waits)

end Sys2Proof.Machine
end

