-- ==== Sys2Proof/Tests/Base.lean ====
section
/-!
SUPPORT. The small states on which the tests and the witnesses of the statements stand: a module in service, and what is changed
in it for one of them. No value here is taken from a run: a state need not be one that a run reaches.
-/
namespace Sys2Proof.Tests

open Sys2Proof.Machine

def upEdge : Edge := { Edge.reset with live := BitVec.allOnes 32, up := true, mode := .meso, occMin := 4, occMax := 4 }

def upField : Field :=
  { Field.reset with
    spineOn := true, included := true, planeOn := true, pllLock := true, gait := .canter, headroom := true,
    edges := List.replicate 4 upEdge }

def upRegion : Region :=
  { Region.reset with
    powered := true, live := true, pubLive := true, temp := 60, bankOn := BitVec.allOnes 32, bankReady := BitVec.allOnes 32 }

def upStack : Stack := { Stack.reset with live := true, inMap := true, trained := true, trainOk := true, temp := 60, trainTemp := 60 }

def upLink : Link := { Link.reset with st := .live2, lanes := 3, plane := some 0, peer := 9 }

/-- A module in service: every step of bring-up done, nothing running, the GTC at 10 s. -/
def on : State :=
  { State.reset with
    pwr := { Power.reset with
      railIn := true, pwrgood := true, kMode := .firmware, vin := List.replicate 4 54000, d28On := List.replicate 4 true,
      vdramOn := List.replicate 4 true, vxioOn := List.replicate 4 true, ioCoreOn := List.replicate 4 true,
      ioGroupOn := List.replicate 24 true, ioLandingLive := List.replicate 4 [0xFFF, 0xFFF], kLandingOk := [true, true] }
    clk := { Clock.reset with gtc := 10000000000, upNs := 10000000000 }
    fields := List.replicate 16 upField
    regions := List.replicate 96 upRegion
    slots := (List.range 96).map Slot.mapped
    memStacks := List.replicate 16 upStack
    lnk := { Lnk.reset with links := List.replicate 96 upLink, coord := 5, coordValid := true, jobTag := 7 }
    na := { Adapter.reset with up := true, width := 4, trained := true }
    boot := { Boot.reset with done := 0x3FE, found := true }
    glb := { Glb.reset with fuseKnown := true, liveRegions := 96, liveStakes := 49152 }
    side := { Side.reset with ready := true } }

/-- The module in bring-up with steps 1 to n done. -/
def bring (n : Nat) : State :=
  { on with
    pwr := { on.pwr with kMode := if n < 2 then .rom else .firmware }
    boot := { Boot.reset with done := BitVec.ofNat 10 (2 ^ (n + 1) - 2) } }

def putPwr (s : State) (f : Power → Power) : State := { s with pwr := f s.pwr }
def putClk (s : State) (f : Clock → Clock) : State := { s with clk := f s.clk }
def putLnk (s : State) (f : Lnk → Lnk) : State := { s with lnk := f s.lnk }
def putNa (s : State) (f : Adapter → Adapter) : State := { s with na := f s.na }
def putHst (s : State) (f : Hst → Hst) : State := { s with hst := f s.hst }
def putBoot (s : State) (f : Boot → Boot) : State := { s with boot := f s.boot }
def putGlb (s : State) (f : Glb → Glb) : State := { s with glb := f s.glb }
def putSec (s : State) (f : Sec → Sec) : State := { s with sec := f s.sec }
def putSide (s : State) (f : Side → Side) : State := { s with side := f s.side }
def putMaster (s : State) (f : Master → Master) : State := { s with master := f s.master }
def putFarrier (s : State) (f : Farrier → Farrier) : State := { s with farrier := f s.farrier }

/-- The key of a block is open; a cinch is open with these writes staged. -/
def keyed (s : State) (b : Blk) : State := modCtl s b (fun c => { c with keyOpen := true })
def cinched (s : State) (b : Blk) (st : CinchState) (ws : List Staged) : State :=
  modCtl s b (fun c => { c with cinch := st, staged := ws })

/-! ### Rings, operations and tiles -/

/-- A SWEEP of 64 bytes of DRAM from 0x2000; its output is the tensor at 0x1000. -/
def sweepWords : List Word := [11, 77] ++ List.replicate 8 0 ++ [0x1001, 0] ++ List.replicate 20 0

/-- The same with a wait on an object for at least a threshold, with a timeout of 1 us. -/
def waitWords (obj threshold : Nat) : List Word :=
  [11 + 0x40000, 77] ++ List.replicate 8 0 ++ [0x1001, 0] ++ List.replicate 10 0 ++
    [BitVec.ofNat 32 obj, 1, BitVec.ofNat 32 threshold] ++ List.replicate 7 0

/-- The same with one signal: object 4096, add 3. -/
def signalWords : List Word := sweepWords.take 26 ++ [4096 + 0x10000, 3, 0, 0, 0, 0]

def entryOf (st : EntrySt) (words : List Word) : Entry :=
  { count := 0, st := st, words := words, since := 0, begun := decide (st = .waiting), satisfied := false, released := false, ended := none }

def upRing : Ring := { Ring.reset with base := hostBase, cqBase := hostBase + 65536, en := true, tail := 3, fetch := 1 }

def withRing (s : State) (k : Nat) (r : Ring) : State := modRing s k (fun _ => r)

def sweepTd : TD :=
  { TD.zero with addr := 0x1000, base := 0x2000, format := 6, rank := 1, dim0 := 64 }

def sweepOp : Op :=
  { ring := 0, count := 0, words := sweepWords, slots := [[], [], [], [sweepTd], []], orient := .bypass, trainable := [],
    advStats := [], advParts := [], frozenLeft := false, placed := true, dealt := true, share := [], tree := [], leaves := [], stats := [],
    pBlocks := [], rowMax := [], scores := [], unitRows := 0, scoresEx := false,
    colParts := [],
    replayed := false, dupChecks := 0, recount := 0, coll := none, capRecord := [] }

def sweepTile (st : TileSt) : Tile :=
  { id := 3, region := 0, run := 0, part := 0, wave := 0, out := 0, role := .original, kind := .bypass, unit := 0, st := st,
    arr := if st = .issued then .working else .outside, chunk := 0, batch := 0,
    row0 := 0x2000, rows := 64, col0 := 0, cols := 1, sampled := false, voting := false, buf := 0, statGen := 0, strmGen := 0,
    invalid := false, rewritten := false,
    statsSent := false, squash := 0, snap := [], inPlace := [], foot := [], arrived := false, checksum := none }

def selOf (words : List Word) (next : Nat) : Selection := { ring := 0, members := [entryOf .accepted words], next := next }

/-- An operation in flight, its entry accepted on ring 0, with these tiles. -/
def flying (o : Op) (ts : List Tile) : State :=
  putMaster (withRing on 0 { upRing with entries := [entryOf .accepted o.words] }) (fun m =>
    { m with sel := some (selOf o.words 1), op := some o, tiles := ts, nextTile := 9, nextRun := 5 })

/-! ### Flits and collectives -/

def flitOf (type : Byte) (comm slot : Nat) (payload : List Byte) : Flit :=
  { dest := 5, src := 6, type := type, plane := 0, comm := comm, slot := slot, jobTag := 7, index := 0, len := payload.length, payload := payload }

/-- An all-gather of two ranks on plane 0; this module is rank 1 and its peer 6 is rank 0. -/
def gather : Coll :=
  { variant := 1, comm := 2, num := 0, ranks := 2, rank := 1, planes := [0], list := [6, 5], ready := [], told := [], agreed := false, started := false, t0 := 0,
    widths := [2], begun := false, sched := [], slotNext := 1, early := [], slotsIn := [], got := [], ownDone := false, gathered := [], sent := false, stalled := false,
    done := false }

def collWords (variant : Nat) : List Word := [BitVec.ofNat 32 (12 + 256 * variant), 77] ++ List.replicate 30 0

def collOp (c : Coll) (slots : List (List TD)) : Op :=
  { sweepOp with words := collWords c.variant, slots := slots, coll := some c }

def three : Coll := { gather with ranks := 3, rank := 0, list := [5, 6, 8] }

/-- A recv and a send between this module, rank 1, and rank 0. -/
def receiver : Coll := { gather with variant := 5, started := true }
def sender : Coll := { gather with variant := 4, sent := true }

/-- A collective set aside while no operation is in flight. -/
def aside (o : Op) : State := putMaster on (fun m => { m with colls := [o] })

/-- The same with another operation's selection standing. -/
def withColl (o : Op) : State := putMaster (flying sweepOp []) (fun m => { m with colls := [o] })

/-! ### Single states -/

def deadModule : State := putBoot (bring 7) (fun b => { b with dead := true })
def svn64 : State := { on with fuses := { Fuses.reset with svn := 64 } }
def retired95 : State :=
  { on with stud := { StudBook.reset with
      units := [{ kind := .region, index := 95, retired := true, reason := 0x0D, retiredAt := 0, faults := [], life := 2, copiesBad := (false, false) }] } }
def halterRuns : State :=
  putHst on (fun h => { h with halterRun := some { cause := 2, seq := 0, step := 0, seen := 0, owed := [] } })
def linkDown : State := putNa on (fun n => { n with up := false })
def capped : State := putPwr on (fun p => { p with cap := 1 })
def mayComeBack : State := modRegion on 95 (fun x => { x with powered := false, live := false, quarantined := true })
def nothingFound : PowerUpFindings :=
  { pllNoLock := [], spineIvrLost := [], d28Lost := [], phasesFailed := [], efuseOpen := [], badWires := [], occupancy := [],
    landingWires := [], vcore := [], ioDieSilent := [] }
def staged (loc : Nat) (v : Word) : Staged := { offset := loc, value := v, keyed := false, dropped := false }

/-- The SWEEP selected and not accepted, its output's descriptor in DRAM at 0x1000. -/
def selected (words : List Word) : State :=
  { putMaster (withRing on 0 { upRing with entries := [entryOf .fetched words] })
      (fun m => { m with sel := some (selOf words 0) }) with
    dram := [(0x1001, 0x20), (0x1006, 6), (0x1008, 64), (0x100C, 1), (0x1010, 1), (0x1014, 1)] }

/-- A descriptor of an opcode the module does not have. -/
def badWords : List Word := [200] ++ List.replicate 31 0

/-- The status and DETAIL with which the first member of a group is refused. -/
def verdictOf (words : List Word) : Byte × Word :=
  match acceptVerdict (openMember (selected words) 0) 0 [entryOf .accepted words] 0 (entryOf .accepted words) [] [] true with
  | .reject status detail => (status, detail)
  | .ok => (0, 0)
  | .bad _ => (0, 0)

def origTile : Tile := { sweepTile .drained with sampled := true }
def dupTile (id : Nat) (c : Option Word64) : Tile :=
  { sweepTile .drained with id := id, region := 6, role := .duplicate 3, checksum := c }
def oddTile : Tile := { origTile with checksum := some 9 }
def onceOp : Op := { sweepOp with words := [11 + 0x10000, 77] ++ sweepWords.drop 2 }
def voteTile : Tile := { sweepTile .drained with id := 5, region := 12, role := .vote 3 }
def againTile (id which : Nat) (c : Option Word64) : Tile :=
  { sweepTile .drained with id := id, region := 6, role := .again 3 which, checksum := c }
def copyTile : Tile := { sweepTile .emitted with role := .duplicate 2 }

/-- A COPY of 64 elements of DRAM to 0x2000. -/
def copyWords : List Word := [10, 77, 0, 0, 0x1041, 0] ++ List.replicate 4 0 ++ [0x1001, 0] ++ List.replicate 20 0
def copyOp : Op :=
  { sweepOp with words := copyWords, slots := [[{ sweepTd with addr := 0x1040, base := 0x3000 }], [], [], [sweepTd], []] }
def spanTile (base : Nat) (st : TileSt) : Tile := { sweepTile st with row0 := base, rows := 128 }
def rowTile (st : TileSt) : Tile := spanTile 0x2000 st

/-- A GEMM with statistics; a tile of the first pass of an ATTN. -/
def statOp : Op :=
  { sweepOp with words := [1, 77] ++ List.replicate 8 0 ++ [0x1001, 0, 0x1041, 0] ++ List.replicate 18 0 }
def attnTile : Tile := { sweepTile .emitted with kind := .attn1, row0 := 0, rows := 1 }

/-- A group of two, its first member accepted and run, its second one of an opcode the module does not have. -/
def groupWords : List Word := [11 + 0x20000, 77] ++ sweepWords.drop 2
def laterSel : Selection :=
  { ring := 0, members := [entryOf .accepted groupWords, { entryOf .fetched badWords with count := 1 }], next := 1 }
def laterMember : State :=
  putMaster (withRing on 0 { upRing with entries := laterSel.members }) (fun m =>
    { m with sel := some laterSel, done := [{ sweepOp with words := groupWords }] })

/-- Spine f is off; every stack has the same change. -/
def withoutSpine (s : State) (f : Nat) : State := modField s f (fun x => { x with spineOn := false })
def eachStack (s : State) (f : Stack → Stack) : State := { s with memStacks := s.memStacks.map f }

/-- A COLLECTIVE of ring 15 in its readiness exchange, its entry with a timeout of 1 us. -/
def exchangeOp : Op := { collOp gather [] with ring := 15 }
def exchangingOn : State :=
  putMaster (withRing on 15 { upRing with entries := [entryOf .accepted (waitWords 0 1)] }) (fun m => { m with colls := [exchangeOp] })

/-- The SWEEP with a signal to the last object of the last spine. -/
def farWords : List Word := sweepWords.take 26 ++ [65535 + 0x10000, 3, 0, 0, 0, 0]

/-- A GEMM of one product: A and B at 0x3000 and 0x3040, D at 0x2000. -/
def gemmWords : List Word := [1, 77, 0, 0, 0x1041, 0, 0x1081, 0, 0, 0, 0x1001, 0] ++ List.replicate 20 0
def oneTd (addr base : Nat) : TD := { sweepTd with addr := addr, base := base, rank := 2, dim0 := 1, dim1 := 1, dim2 := 1, dim3 := 1 }
def gemmOp : Op :=
  { sweepOp with
    words := gemmWords, orient := .normal
    slots := [[oneTd 0x1040 0x3000], [oneTd 0x1080 0x3040], [], [oneTd 0x1000 0x2000], []] }
def statGemm : Op :=
  { gemmOp with
    words := [1, 77, 0, 0, 0x1041, 0, 0x1081, 0, 0, 0, 0x1001, 0, 0x10C1, 0] ++ List.replicate 18 0
    tree := [{ out := 0, batch := 0, m := 0, n := 0, nodes := [{ level := 0, idx := 0, val := .f32 0 }] }] }
def arrayTile (st : TileSt) : Tile := { sweepTile st with kind := .array, row0 := 0, rows := 1 }

/-- The GEMM with a mask that trains no row; an ATTN whose first pass has formed the one block of its row. -/
def maskedOp : Op := { gemmOp with words := [1 + 256, 77] ++ gemmWords.drop 2, frozenLeft := true }
def attnOp : Op :=
  { sweepOp with
    words := [3, 77] ++ sweepWords.drop 2
    share := [{ region := 0, kind := .attn1, unit := 0, wave := 0, out := 0, batch := 0, part := 0, lo := 0, n := 1, run := 0 }]
    pBlocks := [{ batch := 0, i := 0, blk := 0, codes := List.replicate 32 0, scale := 127, mb := 0, rewritten := false }] }

/-- COPY tasks whose output, or whose input, runs out of the task range of slot 0; a SWEEP span that does. -/
def farCopy : Op :=
  { copyOp with slots := [[{ sweepTd with addr := 0x1040, base := 0x3000 }], [], [], [{ sweepTd with base := spadBase + 0x1FFFFC0 }], []] }
def outCopy : Op := { copyOp with slots := [[{ sweepTd with addr := 0x1040, base := spadBase + 0x1FFFFC0 }], [], [], [sweepTd], []] }
def farSpan : Tile := { sweepTile .emitted with row0 := spadBase + 0x1FFFFE0 }

/-- A GATHER of one row by a table of no rows. -/
def gatherOp : Op :=
  { copyOp with
    words := [7, 77] ++ copyWords.drop 2
    slots := [[{ sweepTd with addr := 0x1040, base := 0x3000, dim0 := 0, dim1 := 0 }],
      [{ sweepTd with addr := 0x1080, base := 0x4000, format := 8, dim0 := 1 }], [], [sweepTd], []] }

/-- A pre-selected COPY whose tile loads. -/
def preLoading : State :=
  putMaster (flying sweepOp []) (fun m => { m with pre := some copyOp, preTiles := [rowTile .loading] })

/-- The bytes of a descriptor as the entry that ring 15 fetches next. -/
def postedCells (ws : List Word) : List Host.Cell :=
  ((ws.flatMap (fun w => natBytes 4 w.toNat)).zipIdx.map (fun p => (hostBase + 128 + p.2, p.1))).filter (fun p => p.2 ≠ 0)
def capWords : List Word := [15, 77] ++ sweepWords.drop 2

/-- The SWEEP in flight and dealt, an entry ready on ring 15, its output's descriptor in DRAM at 0x1000. -/
def readyBeside (words : List Word) : State :=
  { modRing (flying sweepOp [sweepTile .assigned]) 15 (fun _ => { upRing with entries := [entryOf .fetched words] }) with
    dram := [(0x1001, 0x20), (0x1006, 6), (0x1008, 64), (0x100C, 1), (0x1010, 1), (0x1014, 1)] }

/-- No region but 0 and 6 is live. -/
def aloneWith (s : State) : State :=
  { s with regions := s.regions.zipIdx.map (fun p => if p.2 = 0 ∨ p.2 = 6 then p.1 else { p.1 with live := false }) }

/-- Rank 0 of the all-gather; a send that has its go-ahead; the READY body of an operation. -/
def first : Coll := { gather with rank := 0, list := [5, 6] }
def sending : Coll := { gather with variant := 4, started := true }
def readyOf (o : Op) (c : Coll) : List Byte := readyBody on o c

/-- The COPY with its input in host memory; a SWEEP whose output's descriptor stands in host memory, selected. -/
def hostCopy : Op := { copyOp with slots := [[{ sweepTd with addr := 0x1040, base := hostBase }], [], [], [sweepTd], []] }
def hostWords : List Word := [11, 77] ++ List.replicate 8 0 ++ [1, 0x8000] ++ List.replicate 20 0
def hostSelected : State :=
  putMaster (withRing on 0 { upRing with entries := [entryOf .accepted hostWords] }) (fun m => { m with sel := some (selOf hostWords 0) })

/-- A send to rank 0 of communicator 2, selected, and the words of an all-gather of it: its entry at 0x8080 and its rank list at 0x9000, x at 0x3000. -/
def sendWords : List Word := [12 + 256 * 4, 77, 0, 0, 0x1041, 0] ++ List.replicate 8 0 ++ [2] ++ List.replicate 17 0
def gatherWords : List Word := [12 + 256, 77, 0, 0, 0x1041, 0, 0, 0, 0, 0, 0x1001, 0, 0, 0, 2] ++ List.replicate 17 0
def collSelected : State :=
  { putLnk (putMaster (withRing on 0 { upRing with entries := [entryOf .accepted sendWords] })
      (fun m => { m with sel := some (selOf sendWords 0) })) (fun l => { l with commEn := true, commBase := 0x8000 }) with
    dram := [(0x1041, 0x30), (0x1046, 6), (0x1048, 64), (0x104C, 1), (0x1050, 1), (0x1054, 1), (0x8080, 2), (0x8084, 1), (0x8088, 1),
      (0x8099, 0x90), (0x9000, 6), (0x9008, 5)] }

/-- The COPY with its unfenced input in the slot of region 0; a pre-selected GEMM whose first tile is resident; a SWEEP with an
advisor entry at 0x8000. -/
def inPlaceCopy : Op :=
  { copyOp with
    words := [10, 77, 0, 0, 0x1045, 0] ++ copyWords.drop 6
    slots := [[{ sweepTd with addr := 0x1040, base := spadBase }], [], [], [sweepTd], []] }
def preResident : State :=
  putMaster (flying sweepOp []) (fun m => { m with pre := some gemmOp, preTiles := [arrayTile .resident] })
def advOp : Op := { sweepOp with advStats := [{ slot := 128, run := 0, fmt := 6, amax := 0, count := 1, nf := 0, bins := [] }] }

theorem not_failed {x : AccessEnd} (h : x = .ok ∨ x = .waits ∨ x = .bound ∨ ∃ a, x = .bad a) : ∀ m, x ≠ .failed m := by
  intro m hm
  subst hm
  rcases h with h | h | h | ⟨a, h⟩ <;> cases h

theorem aside_alone (o : Op) (P : Op → Prop) : ∀ x ∈ (aside o).master.op.toList ++ (aside o).master.colls, x ≠ o → P x := by
  intro x hx hn
  simp [aside, putMaster, on, State.reset, Master.reset] at hx
  exact absurd hx hn

end Sys2Proof.Tests
end

