-- ==== Sys2Proof/Tests/Slice0.lean ====
section
/-!
SUPPORT. Tests: ill-formed commands are refused by `Instr.wf`; worked examples and tables of the spec, computed by the model.
Every expected value below stands in the spec, in the place the docstring names, or is worked out by hand from it.
-/

namespace Sys2Proof.Tests

set_option Elab.async false

open Sys2Proof Sys2Proof.Machine

/-- A value read from the state a command answers; none where it answers no state. -/
def after {α : Type} (r : Host.Outcome State Fault Refusal) (f : State → α) : Option α :=
  match r with
  | .next t => some (f t)
  | _ => none

/-! ### Well-formed commands -/

/-- One ill-formed command for each check: a unit just past the last, or a value past its width. -/
def illFormed : List Instr :=
  [.bootStepComplete 0, .bootStepComplete 10, .powerEntryChecks 54000 30 35 true [(16, 1)],
   .fieldPowerUp { nothingFound with pllNoLock := [16] }, .fieldPowerUp { nothingFound with spineIvrLost := [(16, 1)] },
   .fieldPowerUp { nothingFound with d28Lost := [(4, 1)] }, .fieldPowerUp { nothingFound with phasesFailed := [(96, 1)] },
   .fieldPowerUp { nothingFound with efuseOpen := [96] }, .fieldPowerUp { nothingFound with badWires := [(0, 4, 0, 1)] },
   .fieldPowerUp { nothingFound with badWires := [(0, 0, 32, 1)] }, .fieldPowerUpFast { nothingFound with occupancy := [(0, 0, 32, 3)] },
   .fieldPowerUpFast { nothingFound with landingWires := [(0, 0, 2, 0, 1)] }, .fieldPowerUp { nothingFound with landingWires := [(0, 0, 0, 12, 1)] },
   .fieldPowerUpFast { nothingFound with ioDieSilent := [4] },
   .fieldPowerUp { nothingFound with landingWires := [(0, 2, 0, 0, 1)] }, .fieldPowerUp { nothingFound with vcore := [(96, 700)] },
   .startUpTests [] [96], .dramTraining [{ stack := 16, eyes := true, savedVerify := true, lanes := [], temp := 60 }],
   .dramTraining [{ stack := 15, eyes := true, savedVerify := true, lanes := [(64, 1)], temp := 60 }], .retrainEnd (.centred 60 [(64, 1)]),
   .linkTrainingAttemptEnd 96 3 0 0, .doorbellForward 19, .descriptorFetch 16 [], .hostAccessTimeout (.fetch 16) 0,
   .lowWordReadLatch .clkGtc 4 1, .lowWordReadLatch .clkGtc 0 9, .waitSatisfied 16, .waitTimeoutExpiry 16, .spineOffLearnt 16, .regionHeartbeat 96 700 5, .heartbeatCheck 16,
   .regionFlitParityError 96, .operationBoundarySwitchOff 96, .capPolicySwitchOff 96, .registerWrite .bar0 16777216 4 0,
   .registerWrite .bar2 4096 4 0, .registerWrite .bar0 0 9 0, .bankReady 96 0, .bankReady 0 32, .spadScrub 96 0 .clean,
   .spadScrub 0 524288 .clean, .refreshDue 16 0 false, .refreshDue 0 64 false, .stackTempSample 16 60, .stackHotStep 16,
   .stackHotSelfRefresh 16, .stackHotTimeout 16, .stackFailed 16, .crossingAlignEnd 0 0 (List.replicate 33 4) [], .crossingAlignEnd 0 0 [] (List.replicate 33 4),
   .crossingAlignEnd 0 4 [] [], .crossingFlitParityReplay 0 0 32 false, .crossingSlip 0 4 true false,
   .crossingFifoDrained 16 0, .droopTrip 96 false 700, .reinEcho 16 false, .demotionCheck 16 600, .gaitDown 16, .gaitUp 16, .grantedGaitRise 16, .idleWalk 16,
   .pllLock 16, .pllLossOfLock 16, .stagePhaseFailure 16, .planeSenseLost 16, .planeLow 16, .planeCollapse 16,
   .planeAbove30sRating 16, .stageAbove125c 16, .ivrPhaseLost 96 0, .ivrPhaseLost 0 12, .spineIvrLoss true 16 1,
   .spineIvrLoss false 4 1, .efuseOpening 96, .regionPowerUpRequest 96, .softStartBegin 16, .softStartSlow 16,
   .softStartEnd 16 700 60, .regionTempSample 96 60 true, .heatDarkEnd 96, .trimCapHeld30Days 96, .dieThermalTrip 4,
   .laneLost 96 0, .laneLost 0 2, .linkLost 96, .gallopLimitUpdate 0 (List.replicate 15 0)]

theorem test_ill_formed_commands_are_refused : illFormed.all (fun c => !c.wf) = true := by decide +kernel

/-- The last unit of each kind is well formed (Tables 0-1 and 0-4). -/
theorem test_last_units_are_well_formed :
    [Instr.bootStepComplete 9, .linkTrainingAttemptEnd 95 3 0 0, .doorbellForward 18, .descriptorFetch 15 [],
      .registerWrite .bar0 16777215 8 0, .registerWrite .bar2 4095 4 0, .bankReady 95 31, .spadScrub 95 524287 .clean,
      .refreshDue 15 63 false, .crossingSlip 15 3 true false, .retrainEnd (.centred 60 [(63, 1)]), .ivrPhaseLost 95 11, .laneLost 95 1, .dieThermalTrip 3,
      .gallopLimitUpdate 0 (List.replicate 16 0)].all Instr.wf = true := by decide +kernel

/-! ### The queue -/

/-- The command sent first runs first; an empty queue leaves the state (log entry 1). -/
theorem test_queue_is_first_in_first_out :
    after (step { on with pending := [.bankReady 0 1, .warmReset] }) (·.pending) = some [.warmReset] ∧
      after (step on) (·.pending) = some [] := by decide +kernel

/-- No row of the table gives bits: no word spells a command. -/
theorem test_no_word_spells_a_command (s : State) (n w : Nat) : decodeTableWord n w = none ∧ s.withFetchWord n w = s :=
  ⟨rfl, rfl⟩

/-! ### Formats (03) -/

/-- Example 3-1: the FP32 values 2.6, 2.5, -0.2, 9.0, 300, 70,000, -130.5 and NaN in their target formats. -/
theorem test_example_3_1 :
    encodeVal 0 .rne (f32Val 0x40266666) = (0x5, false) ∧ encodeVal 0 .rne (f32Val 0x40200000) = (0x4, false) ∧
      encodeVal 0 .rtz (f32Val 0x40266666) = (0x4, false) ∧ encodeVal 2 .rne (f32Val 0xBE4CCCCD) = (0x22, false) ∧
      encodeVal 2 .rne (f32Val 0x41100000) = (0x1F, false) ∧ encodeVal 3 .rne (f32Val 0x43960000) = (0x79, false) ∧
      encodeVal 4 .rne (f32Val 0x4788B800) = (0x7B, false) ∧ encodeVal 5 .rne (f32Val 0xC3028000) = (0x80, false) ∧
      encodeVal 1 .rne (f32Val 0x7FC00000) = (0, true) := by decide +kernel

/-- Example 3-1, stochastic: 2.6 goes to 3 below r = 2,576,979,968 and to 2 from there on. -/
theorem test_example_3_1_stochastic :
    encodeVal 0 (.stoch 2576979967) (f32Val 0x40266666) = (0x5, false) ∧
      encodeVal 0 (.stoch 2576979968) (f32Val 0x40266666) = (0x4, false) := by decide +kernel

/-- Example 3-2: 13.7, 6.0, -0.05 and 0.0001 packed into one E4M3 block, and 13.7 into FP4. -/
theorem test_example_3_2 :
    packBlock 3 ([0x415B3333, 0x40C00000, 0xBD4CCCCD, 0x38D1B717].map (fun x => (f32Val x, .rne))) =
        (0x7A, [0x7E, 0x74, 0xBD, 0x02], 0) ∧
      packBlock 0 [(f32Val 0x415B3333, .rne)] = (0x80, [0x7], 0) := by decide +kernel

/-- Example 3-3: the tree of 2^24, 1 and 1 gives 2^24; chunk 2 of 3,000 holds blocks 64 to 93. -/
theorem test_example_3_3 :
    treeSum [0x4B800000, 0x3F800000, 0x3F800000] = 0x4B800000 ∧ chunkBlocks 3000 1024 2 = (List.range 30).map (· + 64) := by
  decide +kernel

/-! ### The grid (04) -/

/-- The widths of Example 4-1; the spec does not place its nine regions of 511 stakes, here F10.0 to F11.2. -/
def takers93 : List Taker :=
  ((List.range 96).filter (fun r => r ≠ 32 && r ≠ 58 && r ≠ 78)).map (fun r =>
    { region := r, w := if r = 13 ∨ r = 47 ∨ r = 69 then 509 else if r = 86 then 497 else if 60 ≤ r ∧ r ≤ 68 then 511 else 512 })

/-- Example 4-1 and Example 7-1: F3.4 holds groups 1,344 to 1,407 of panel 0 and 550 to 585 of panel 2. -/
theorem test_example_4_1 :
    ((dealNormal (plainWork .array) takers93 8 ((List.range 3).map (fun p => { batch := 0, panel := p, groups := List.range 3072 }))).filter
        (fun x => x.region = 22)).map (fun x => (x.part, x.lo, x.n)) = [(0, 1344, 64), (2, 550, 36)] := by decide +kernel

/-- The map of 04 with bits 7, 300 and 301 set gives w = 509. -/
theorem test_width_of_a_map :
    widthOf { Region.reset with pubMap := BitVec.ofNat 512 (2 ^ 7 + 2 ^ 300 + 2 ^ 301) } = 509 := by decide +kernel

/-! ### Advisor (06) -/

def statOf (fmt l4 l5 : Nat) : AdvStat :=
  { slot := 0, run := 0, fmt := fmt, amax := 0, count := 1000000, nf := 0, bins := List.replicate 9 0 ++ [l4 - l5] ++ List.replicate 5 0 ++ [l5] }

/-- Example 6-1: E4M3 stays, gives way to E5M2, and E5M2 stays although fewer values would be lost. -/
theorem test_example_6_1 :
    advDecide 3 0 3 (statOf 3 200 0) = 3 ∧ advDecide 3 0 3 (statOf 3 300 0) = 4 ∧ advDecide 4 0 4 (statOf 4 100 0) = 4 := by
  decide +kernel

/-! ### Addresses (08, 09) -/

/-- The weave of Example 4-1 in its slots, with the task range of Example 8-1. -/
def weave93 : State :=
  { putGlb on (fun g => { g with taskBase := 0x040, taskBound := 0x1C0 }) with
    slots := ((List.range 96).filter (fun r => r ≠ 32 && r ≠ 58 && r ≠ 78)).map Slot.mapped ++ List.replicate 3 .unmapped }

/-- Example 8-1: the address lies in slot 6, F1.0, at 0x80_1080; F14 to F1 is 50 beats; slot 92 is the donor. -/
theorem test_example_8_1 :
    spadPlace weave93 0x400018401080 = some (6 * 2 ^ 26 + 0x801080) ∧ inTask weave93 0x400018401080 = true ∧
      spadLatency (gridPath 14 1) = 50 ∧ leaveSlots weave93 6 = [6, 92] := by decide +kernel

def gx21 : State :=
  { on with memStacks := (List.range 16).map (fun m => { upStack with inMap := [0, 2, 3, 4, 5, 7, 8, 10, 11, 12, 13, 15].contains m }) }

/-- Example 9-1: one page on sixteen stacks and on twelve. -/
theorem test_example_9_1 :
    dramPlace on 0x12345000 = (12, 52) ∧ stackAddress on 0x12345000 = 0x1234000 ∧
      dramPlace gx21 0x12345000 = (10, 5) ∧ stackAddress gx21 0x12345000 = 0x1845000 := by decide +kernel

/-! ### Clocks (11) -/

def reins5 : State := { on with fields := on.fields.map (fun f => { f with rein := 5 }) }

/-- Example 11-1, beat 100: F1's own trip makes its rein 6 and no other. -/
theorem test_example_11_1_trip :
    after (exec (.droopTrip 6 false 700) reins5) (fun t => (List.range 4).map (fun f => (fieldAt t f).rein)) = some [5, 6, 5, 5] := by
  decide +kernel

/-- Example 11-1, beat 102: with F1 at 7, F0 echoes one of its two reins. -/
theorem test_example_11_1_echo :
    after (exec (.reinEcho 0 false) { reins5 with fields := reins5.fields.modify 1 (fun f => { f with rein := 7 }) })
      (fun t => (List.range 4).map (fun f => (fieldAt t f).rein)) = some [6, 7, 5, 5] := by decide +kernel

/-- Tables 11-1 and 4-9: the field clocks, and 60.4 PFLOPS of the full weave at canter in the 1x class. -/
theorem test_tables_11_1_and_4_9 :
    [Gait.walk, .trot, .canter, .gallop].map fieldClockKhz = [300000, 450000, 600000, 720000] ∧
      peakMflops .once 49152 .canter / 100000000 = 603 ∧ peakMflops .twice 49152 .gallop / 100000000 = 1449 := by
  decide +kernel

/-! ### Registers (19) -/

/-- The example under R449: 0x7 to PWR_GAIT_CTRL without the key sets IDLE_WALK, leaves MAX_GAIT at canter, sets KEY_ERR. -/
theorem test_r449_example :
    after (exec (hostWriteReg .pwr 0x064 7) (putPwr on (fun p => { p with maxGait := 2, idleWalkEn := false })))
      (fun t => (t.pwr.idleWalkEn, t.pwr.maxGait, (ctlAt t .pwr).keyErr)) = some (true, 2, true) := by decide +kernel

def jobA : State := putGlb on (fun g => { g with taskBase := 0x280, taskBound := 0x380 })

/-- Example 19-1, order 1: outside a cinch BASE does not change, and RGN_ACCESS reads 0x0000_0002. -/
theorem test_example_19_1_outside :
    after (exec (hostWriteReg .rgn 0x100 0x00400000) jobA) (fun t => (regRead t .rgn 0x100, regRead t .rgn 0x00C)) =
      some (0x02800000, 2) := by decide +kernel

/-- Example 19-1, orders 5 and 6: the second write is staged, RGN_CINCH reads 0x0000_0024, and BASE reads its old value. -/
theorem test_example_19_1_staged :
    after (exec (hostWriteReg .rgn 0x100 0x00400000) (cinched jobA .rgn .opened [staged 0x104 0x01C00000]))
      (fun t => (regRead t .rgn 0x008, regRead t .rgn 0x100)) = some (0x24, 0x02800000) := by decide +kernel

/-- Example 19-1, order 7: with ring 0 enabled the commit waits, and RGN_CINCH reads 0x0000_0028. -/
theorem test_example_19_1_waits :
    after (exec (.cinchCommit .rgn)
        (withRing (cinched jobA .rgn .opened [staged 0x104 0x01C00000, staged 0x100 0x00400000]) 0 { upRing with tail := 0, fetch := 0 }))
      (fun t => regRead t .rgn 0x008) = some 0x28 := by decide +kernel

/-- Example 19-1, orders 9 and 10: with no ring enabled both writes are applied, and RGN_CINCH reads 0x0000_0400. -/
theorem test_example_19_1_commits :
    after (exec (.cinchCommit .rgn) (cinched jobA .rgn .opened [staged 0x104 0x01C00000, staged 0x100 0x00400000]))
      (fun t => (regRead t .rgn 0x008, regRead t .rgn 0x100, regRead t .rgn 0x104)) = some (0x400, 0x00400000, 0x01C00000) := by
  decide +kernel

end Sys2Proof.Tests
end

