-- ==== Sys2Proof/Tests/Witness.lean ====
section
/-!
SUPPORT. For every statement with hypotheses, a state and operands that meet the hypotheses of each of its clauses together, at
the ends of the ranges they name. Theorem hypotheses_<Statement> takes the clauses of that statement in their order.
-/

namespace Sys2Proof.Tests

set_option Elab.async false
set_option linter.unusedVariables false

open Sys2Proof Sys2Proof.Machine

theorem hypotheses_StepRunsFrontCommand :
    (∃ (c : Instr) (rest : List Instr) (s : State), (s.pending = c :: rest)) ∧
    (∃ (s : State), (s.pending = [])) :=
  ⟨⟨.warmReset, [], { on with pending := [.warmReset] }, by decide +kernel⟩,
    ⟨on, by decide +kernel⟩⟩

theorem hypotheses_CommandsCompleteAndLeaveQueue :
    (∃ (c : Instr) (s : State), (c.wf = true)) ∧
    (∃ (c : Instr) (s t : State), (exec c s = .next t)) :=
  ⟨⟨.gaitDown 15, on, by decide +kernel⟩,
    ⟨.nolotPacketRetry, on, on, rfl⟩⟩

theorem hypotheses_StepKeepsInvariant :
    (∃ (s t : State), (Inv s) ∧ (step s = .next t)) :=
  ⟨on, on, inv_of_test (by decide +kernel), rfl⟩

theorem hypotheses_TileNumbersStayApart :
    (∃ (s t : State), (TilesNumbered s) ∧ (step s = .next t)) :=
  ⟨flying sweepOp [sweepTile .dealt], flying sweepOp [sweepTile .dealt], by decide +kernel, rfl⟩

theorem hypotheses_PermanentRecordsStay :
    (∃ (c : Instr) (s t : State) (k : UnitKind) (i : Nat), (exec c s = .next t) ∧ (isRetired s k i = true)) ∧
    (∃ (c : Instr) (s t : State), (s.fuses.svn ≤ 64) ∧ (exec c s = .next t)) ∧
    (∃ (c : Instr) (s t : State), (exec c s = .next t) ∧ (s.boot.dead = true) ∧ ((∀ d lo hi blades, c ≠ .railLeaveWindow d lo hi blades))) :=
  ⟨⟨.nolotPacketRetry, retired95, retired95, .region, 95, rfl, by decide +kernel⟩,
    ⟨.nolotPacketRetry, svn64, svn64, by decide +kernel, rfl⟩,
    ⟨.nolotPacketRetry, deadModule, deadModule, rfl, by decide +kernel, (fun _ _ _ _ h => by cases h)⟩⟩

theorem hypotheses_RailAndRomMode :
    (∃ (blades : List Nat) (s : State), (s.pwr.railIn = false) ∧ (bladesIn blades = true)) ∧
    (∃ (blades : List Nat) (s : State), (s.pwr.railIn = false) ∧ (bladesIn blades = false)) ∧
    (∃ (s : State), (s.pwr.kMode = .held) ∧ (s.pwr.modresetLow = false)) ∧
    (∃ (d lo hi : Nat) (blades : List Nat) (s : State), (s.pwr.railIn = true) ∧ (d < 20 ∧ 44000 ≤ lo ∧ hi ≤ 62000 ∨ bladesIn blades = true)) ∧
    (∃ (d lo hi : Nat) (blades : List Nat) (s : State), (s.pwr.railIn = true) ∧ ((20 ≤ d ∨ lo < 44000 ∨ 62000 < hi)) ∧ (bladesIn blades = false)) :=
  ⟨⟨List.replicate 4 48000, State.reset, by decide +kernel⟩,
    ⟨[48000, 58001, 48000, 48000], State.reset, by decide +kernel⟩,
    ⟨putPwr on (fun p => { p with kMode := .held }), by decide +kernel⟩,
    ⟨19, 44000, 62000, [], on, by decide +kernel⟩,
    ⟨20, 44000, 62000, [], on, by decide +kernel⟩⟩

theorem hypotheses_WarmResetStartsBringUpAnew :
    (∃ (s : State), (RegisterOpen s .glb 0x048) ∧ ((ctlAt s .glb).keyOpen = true) ∧ (s.sec.update = .idle) ∧ (s.sec.resetWaits = false)) ∧
    (∃ (n : Nat) (s : State), (10000 ≤ n) ∧ (s.pwr.railIn = true) ∧ (s.sec.update = .idle) ∧ (s.sec.resetWaits = false)) ∧
    (∃ (n : Nat) (s : State), (10000 ≤ n) ∧ (s.pwr.railIn = false)) ∧
    (∃ (n : Nat) (s : State), (n < 10000)) :=
  ⟨⟨keyed on .glb, by decide +kernel⟩,
    ⟨10000, on, by decide +kernel⟩,
    ⟨10000, State.reset, by decide +kernel⟩,
    ⟨9999, on, by decide +kernel⟩⟩

theorem hypotheses_HalterDiscardsWorkAndReports :
    (∃ (s : State) (q : HalterReq), (s.hst.halterReq = some q) ∧ (s.hst.halterRun = none) ∧ ((ctlAt s .rgn).cinch ≠ .waiting) ∧ ((ctlAt s .clk).cinch ≠ .waiting)) ∧
    (∃ (s : State) (r : HalterRun), (Inv s) ∧ (s.glb.zeroing = false) ∧ (s.hst.halterRun = some r) ∧ (s.na.up = true)) :=
  ⟨⟨putHst on (fun h => { h with halterReq := some { cause := 1, seq := 4 } }), { cause := 1, seq := 4 }, by decide +kernel⟩,
    ⟨halterRuns, { cause := 2, seq := 0, step := 0, seen := 0, owed := [] }, inv_of_test (by decide +kernel), by decide +kernel⟩⟩

theorem hypotheses_JobEndZeroes :
    (∃ (s : State), (RegisterOpen s .hst 0x060) ∧ (anyRingEn s = true)) ∧
    (∃ (s : State), (RegisterOpen s .hst 0x060) ∧ (anyRingEn s = false) ∧ (s.hst.halterRun ≠ none ∨ s.glb.zeroing = true)) ∧
    (∃ (s : State), (RegisterOpen s .hst 0x060) ∧ (anyRingEn s = false) ∧ (s.hst.halterRun = none) ∧ (s.glb.zeroing = false)) ∧
    (∃ (s : State), (s.glb.zeroDue = true) ∧ (s.glb.zeroing = false)) ∧
    (∃ (s : State), (s.glb.zeroing = true)) :=
  ⟨⟨withRing on 15 upRing, by decide +kernel⟩,
    ⟨putGlb on (fun g => { g with zeroing := true }), by decide +kernel⟩,
    ⟨on, by decide +kernel⟩,
    ⟨putGlb on (fun g => { g with zeroDue := true }), by decide +kernel⟩,
    ⟨putGlb on (fun g => { g with zeroing := true }), by decide +kernel⟩⟩

theorem hypotheses_NolotLinkAndAdapter :
    (∃ (c : Instr) (n : Nat) (s : State), (c = .nolotLinkTraining n ∨ c = .nolotRetrainRetry n) ∧ (s.pwr.railIn = true) ∧ (s.na.up = false) ∧ (0 < n)) ∧
    (∃ (s : State), (s.na.up = true)) ∧
    (∃ (s : State), (s.pwr.railIn = true) ∧ (s.na.up = false) ∧ (selfHaltered s = false) ∧ (s.hst.halterReq = none) ∧ (s.hst.halterRun = none)) ∧
    (∃ (v : Word) (host : List Host.Cell) (s : State), (v.getLsbD 0 = true) ∧ (s.na.en = false)) :=
  ⟨⟨.nolotLinkTraining 1, 1, linkDown, by decide +kernel⟩,
    ⟨on, by decide +kernel⟩,
    ⟨linkDown, by decide +kernel⟩,
    ⟨1, [], on, by decide +kernel⟩⟩

theorem hypotheses_DoorbellsReachRings :
    (∃ (host : List Host.Cell) (s : State), (Inv s) ∧ (s.na.en = true)) ∧
    (∃ (line : Nat) (s : State), (line < 19) ∧ (s.na.up = false)) ∧
    (∃ (r : Nat) (s : State), (Inv s) ∧ (r < 16) ∧ (s.na.up = true) ∧ (r ∈ s.na.forwards) ∧ ((ringAt s r).en = true)) ∧
    (∃ (r : Nat) (s : State), (Inv s) ∧ (r < 18) ∧ (s.na.up = true) ∧ (r ∈ s.na.forwards) ∧ ((ringAt s r).en = false ∨ 16 ≤ r)) ∧
    (∃ (q : BitVec 16) (s : State), (s.na.up = true) ∧ (s.na.haltWord = some q)) ∧
    (∃ (r : Nat) (s : State), (Inv s) ∧ (r < 16) ∧ (s.na.up = true) ∧ (r ∈ s.na.forwards) ∧ ((ringAt s r).en = true) ∧ (lineBroken (ringAt s r) (s.na.pageTail.getD r 0) (s.na.pageHead.getD r 0) = false)) ∧
    (∃ (r : Nat) (s : State), (Inv s) ∧ (r < 16) ∧ (s.na.up = true) ∧ (r ∈ s.na.forwards) ∧ ((ringAt s r).en = true) ∧ (lineBroken (ringAt s r) (s.na.pageTail.getD r 0) (s.na.pageHead.getD r 0) = true) ∧ ((ringAt s r).stopped = false)) ∧
    (∃ (r : Nat) (s : State), (Inv s) ∧ (r < 16) ∧ (s.na.up = true) ∧ (r ∈ s.na.forwards) ∧ ((ringAt s r).en = true) ∧ (lineBroken (ringAt s r) (s.na.pageTail.getD r 0) (s.na.pageHead.getD r 0) = true) ∧ ((ringAt s r).stopped = true)) ∧
    (∃ (r : Nat) (s : State), (Inv s) ∧ (r < 18) ∧ (s.na.up = true) ∧ (r ∈ s.na.forwards) ∧ ((ringAt s r).en = false ∨ 16 ≤ r) ∧ ((ringAt s r).en = false)) ∧
    (∃ (r : Nat) (s : State), (Inv s) ∧ (r < 18) ∧ (s.na.up = true) ∧ (r ∈ s.na.forwards) ∧ ((ringAt s r).en = false ∨ 16 ≤ r) ∧ ((ringAt s r).en = true)) :=
  ⟨⟨[], putNa on (fun n => { n with en := true }), inv_of_test (by decide +kernel), by decide +kernel⟩,
    ⟨18, linkDown, by decide +kernel⟩,
    ⟨15, putNa (withRing on 15 upRing) (fun n => { n with forwards := [15] }), inv_of_test (by decide +kernel), by decide +kernel⟩,
    ⟨17, putNa (withRing on 17 upRing) (fun n => { n with forwards := [17] }), inv_of_test (by decide +kernel), by decide +kernel⟩,
    ⟨4, putNa on (fun n => { n with haltWord := some 4 }), by decide +kernel⟩,
    ⟨15, putNa (withRing on 15 upRing) (fun n => { n with forwards := [15], pageTail := List.replicate 18 2 }), inv_of_test (by decide +kernel), by decide +kernel⟩,
    ⟨15, putNa (withRing on 15 upRing) (fun n => { n with forwards := [15] }), inv_of_test (by decide +kernel), by decide +kernel⟩,
    ⟨15, putNa (withRing on 15 { upRing with stopped := true, stopStatus := 9 }) (fun n => { n with forwards := [15] }), inv_of_test (by decide +kernel), by decide +kernel⟩,
    ⟨15, putNa (on) (fun n => { n with forwards := [15] }), inv_of_test (by decide +kernel), by decide +kernel⟩,
    ⟨17, putNa (withRing on 17 upRing) (fun n => { n with forwards := [17] }), inv_of_test (by decide +kernel), by decide +kernel⟩⟩

theorem hypotheses_HostAccessFailureEndsReader :
    (∃ (c : Instr) (k : HostFailure) (a : Nat) (s : State) (o : Op) (x : Selection), (c = .hostAccessFailure .operation k a ∨ c = .hostAccessTimeout .operation a) ∧ (s.na.up = true) ∧ (isHost a = true) ∧ (acceptIssues s a = none) ∧ (opIssues a o = true) ∧ (s.master.op = some o) ∧ (s.master.sel = some x) ∧ (x.ring < s.hst.rings.length)) ∧
    (∃ (c : Instr) (k : HostFailure) (a : Nat) (s : State) (x : Selection) (e : Entry), (c = .hostAccessFailure .operation k a ∨ c = .hostAccessTimeout .operation a) ∧ (s.na.up = true) ∧ (isHost a = true) ∧ (s.master.op = none) ∧ (acceptIssues s a = some (s, x, e)) ∧ (x.next = 0) ∧ (AtFront s x.ring e) ∧ (x.ring < 16) ∧ (Inv s)) ∧
    (∃ (c : Instr) (k : HostFailure) (r a : Nat) (s : State), (c = .hostAccessFailure (.fetch r) k a ∨ c = .hostAccessTimeout (.fetch r) a) ∧ (s.na.up = true) ∧ (isHost a = true) ∧ (mayFetch s r = true) ∧ (r < 16) ∧ (r < s.hst.rings.length)) ∧
    (∃ (c : Instr) (k : HostFailure) (a : Nat) (s : State), (c = .hostAccessFailure .firmware k a ∨ c = .hostAccessTimeout .firmware a) ∧ (s.na.up = true) ∧ (isHost a = true) ∧ (s.sec.update = .running) ∧ (s.sec.resetWaits = false)) :=
  ⟨⟨.hostAccessTimeout .operation hostBase, .timeout, hostBase, flying hostCopy [], hostCopy, selOf copyWords 1, by decide +kernel⟩,
    ⟨.hostAccessTimeout .operation hostBase, .timeout, hostBase, hostSelected, selOf hostWords 0, entryOf .accepted hostWords, by decide +kernel, by decide +kernel, by decide +kernel, by decide +kernel, by decide +kernel, by decide +kernel, by unfold AtFront; decide +kernel, by decide +kernel, inv_of_test (by decide +kernel)⟩,
    ⟨.hostAccessTimeout (.fetch 15) (2 ^ 48 - 1), .timeout, 15, 2 ^ 48 - 1, withRing on 15 upRing, by decide +kernel⟩,
    ⟨.hostAccessTimeout .firmware hostBase, .timeout, hostBase, putSec on (fun x => { x with update := .running }), by decide +kernel⟩⟩

theorem hypotheses_BringUpCommandAcceptedOrRefused :
    (∃ (c : Instr) (n : Nat) (fast : Bool) (s : State), (StepCommand c n fast) ∧ (kListens s = true) ∧ (stepOpen s n = false) ∧ (s.boot.dead = true)) ∧
    (∃ (c : Instr) (n : Nat) (fast : Bool) (s : State), (StepCommand c n fast) ∧ (kListens s = true) ∧ (stepOpen s n = false) ∧ (s.boot.dead = false) ∧ (¬ StepAllowed s n)) ∧
    (∃ (c : Instr) (n : Nat) (fast : Bool) (s : State), (StepCommand c n fast) ∧ (kListens s = true) ∧ (stepOpen s n = false) ∧ (s.boot.dead = false) ∧ (StepAllowed s n) ∧ (n = 3) ∧ (fast = true) ∧ (s.boot.fastOk = false)) ∧
    (∃ (c : Instr) (n : Nat) (fast : Bool) (s : State), (StepCommand c n fast) ∧ (kListens s = true) ∧ (stepOpen s n = false) ∧ (s.boot.dead = false) ∧ (StepAllowed s n) ∧ (¬ (n = 3 ∧ fast = true ∧ s.boot.fastOk = false))) :=
  ⟨⟨.ringEnableStep, 9, false, deadModule, .ringEnableStep, by decide +kernel⟩,
    ⟨.ringEnableStep, 9, false, bring 7, .ringEnableStep, by decide +kernel⟩,
    ⟨.fieldPowerUpFast nothingFound, 3, true, bring 2, .fieldPowerUpFast nothingFound, by decide +kernel⟩,
    ⟨.linkTraining, 6, false, bring 5, .linkTraining, by decide +kernel⟩⟩

theorem hypotheses_PowerEntryAndKBoot :
    (∃ (vin inlet outlet : Nat) (lidOk : Bool) (failed : List (Nat × Nat)) (blades : List Nat) (s : State), (CommandReady s 1 false)) ∧
    (∃ (landing1 landing4 : Bool) (flash : FlashFindings) (s : State), (CommandReady s 2 false)) :=
  ⟨⟨48000, 45, 50, true, [(15, 9), (15, 2)], [], bring 0, by decide +kernel⟩,
    ⟨true, false, FlashFindings.clean, bring 1, by decide +kernel⟩⟩

theorem hypotheses_FieldPowerUpTakesFields :
    (∃ (c : Instr) (fast : Bool) (found : PowerUpFindings) (s : State), (Inv s) ∧ (c = (if fast then .fieldPowerUpFast found else .fieldPowerUp found)) ∧ (CommandReady s 3 fast)) :=
  ⟨.fieldPowerUp nothingFound, false, nothingFound, bring 2, inv_of_test (by decide +kernel), rfl, by decide +kernel⟩

theorem hypotheses_StartUpTestsAndDramTraining :
    (∃ (found : List TestFinding) (efuseOpen : List Nat) (s : State), (CommandReady s 4 false) ∧ (s.boot.fastUsed = true)) ∧
    (∃ (found : List TestFinding) (efuseOpen : List Nat) (s : State), (CommandReady s 4 false) ∧ (s.boot.fastUsed = false)) ∧
    (∃ (x : TestFinding) (s : State), (CommandReady s 4 false) ∧ (s.boot.fastUsed = false) ∧ (testedUnit s x.kind x.index = true)) ∧
    (∃ (found : List StackFinding) (s : State), (Inv s) ∧ (CommandReady s 5 false)) :=
  ⟨⟨[], [], putBoot (bring 3) (fun b => { b with fastUsed := true }), by decide +kernel⟩,
    ⟨[], [], bring 3, by decide +kernel⟩,
    ⟨{ kind := .region, index := 95, retestPass := true }, bring 3, by decide +kernel⟩,
    ⟨[], bring 4, inv_of_test (by decide +kernel), by decide +kernel⟩⟩

theorem hypotheses_LinkTrainingBeginsAndSettles :
    (∃ (s : State), (Inv s) ∧ (CommandReady s 6 false)) ∧
    (∃ (l peerPlane : Nat) (lanes : BitVec 2) (peer : BitVec 48) (s : State), (Inv s) ∧ (l < 96) ∧ ((linkAt s l).training = true)) :=
  ⟨⟨bring 5, inv_of_test (by decide +kernel), by decide +kernel⟩,
    ⟨95, 0, 3, 9, modLink (bring 5) 95 (fun l => { l with training := true }), inv_of_test (by decide +kernel), by decide +kernel⟩⟩

theorem hypotheses_WeaveAssemblySettlesUnits :
    (∃ (s : State), (Inv s) ∧ (CommandReady s 7 false) ∧ (s.boot.linkBusy = false)) ∧
    (∃ (s : State), (CommandReady s 7 false) ∧ (s.boot.linkBusy = true)) :=
  ⟨⟨bring 6, inv_of_test (by decide +kernel), by decide +kernel⟩,
    ⟨putBoot (bring 5) (fun b => { b with linkBusy := true }), by decide +kernel⟩⟩

theorem hypotheses_WeavePublicationAndRingEnable :
    (∃ (flashOk : Bool) (s : State), (CommandReady s 8 false)) ∧
    (∃ (s : State), (CommandReady s 9 false)) :=
  ⟨⟨true, bring 7, by decide +kernel⟩,
    ⟨bring 8, by decide +kernel⟩⟩

theorem hypotheses_BootStepCompletes :
    (∃ (n : Nat) (s : State), (1 ≤ n) ∧ (n ≤ 9) ∧ (n ≠ 6) ∧ (s.boot.running = some n) ∧ (s.boot.found = true) ∧ (s.boot.pendErr = 0)) ∧
    (∃ (n : Nat) (s : State), (1 ≤ n) ∧ (n ≤ 9) ∧ (n ≠ 6) ∧ (s.boot.running = some n) ∧ (s.boot.found = true) ∧ (s.boot.pendErr ≠ 0)) ∧
    (∃ (s : State), (s.boot.linkBusy = true) ∧ (s.boot.waitLinks = false) ∧ ((∀ l ∈ s.lnk.links, l.training = false))) ∧
    (∃ (n : Nat) (s : State), (1 ≤ n) ∧ (n ≤ 9) ∧ (n ≠ 6) ∧ (s.boot.running ≠ some n ∨ s.boot.found = false)) :=
  ⟨⟨9, putBoot (bring 8) (fun b => { b with running := some 9, found := true }), by decide +kernel⟩,
    ⟨1, putBoot (bring 0) (fun b => { b with running := some 1, found := true, pendErr := 2 }), by decide +kernel⟩,
    ⟨putBoot (bring 5) (fun b => { b with linkBusy := true }), by decide +kernel⟩,
    ⟨9, on, by decide +kernel⟩⟩

theorem hypotheses_WindowWritesAndReads :
    (∃ (off n : Nat) (v : Word64) (s : State), (¬ (n = 4 ∧ off % 4 = 0)) ∧ (¬ (n = 8 ∧ off % 8 = 0))) ∧
    (∃ (off : Nat) (v : Word64) (s : State), (off % 8 = 0)) ∧
    (∃ (off n : Nat) (v : Word64) (s : State), (kListens s = false)) ∧
    (∃ (off : Nat) (v : Word64) (s : State), (off = 0x000 ∨ off = 0x004)) ∧
    (∃ (b : Blk) (loc : Nat) (mask : Word) (p : Part) (v : Word) (s : State), (Inv s) ∧ ((b, loc, mask, p) ∈ plainRegisters) ∧ (RegisterOpen s b loc)) :=
  ⟨⟨4, 8, 1, on, by decide +kernel⟩,
    ⟨8, 1, on, by decide +kernel⟩,
    ⟨0, 4, 1, State.reset, by decide +kernel⟩,
    ⟨0x004, 1, on, by decide +kernel⟩,
    ⟨.sec, 0x048, 0xFFFFFFFF, .sec, 5, on, inv_of_test (by decide +kernel), by decide +kernel⟩⟩

theorem hypotheses_KeyOpensAndCloses :
    (∃ (b : Blk) (v : Word) (s : State), (kListens s = true) ∧ (answers s b 0x004 = true) ∧ (v &&& 0xFFFF = 0x4C6B)) ∧
    (∃ (b : Blk) (v : Word) (s : State), (Inv s) ∧ (kListens s = true) ∧ (answers s b 0x004 = true) ∧ (v &&& 0xFFFF = 0x4C6B)) ∧
    (∃ (b : Blk) (v : Word) (s : State), (kListens s = true) ∧ (answers s b 0x004 = true) ∧ (v &&& 0xFFFF ≠ 0x4C6B)) ∧
    (∃ (b : Blk) (loc : Nat) (v : Word) (s : State), (loc < 4096) ∧ (loc % 4 = 0) ∧ (loc ≠ 0x004) ∧ (kListens s = true) ∧ (answers s b loc = true)) ∧
    (∃ (b : Blk) (loc : Nat) (v : Word) (s : State), (Inv s) ∧ ((b, loc) ∈ keyedRegisters) ∧ (RegisterOpen s b loc) ∧ ((ctlAt s b).keyOpen = true)) :=
  ⟨⟨.sec, 0x14C6B, on, by decide +kernel⟩,
    ⟨.sec, 0x14C6B, on, inv_of_test (by decide +kernel), by decide +kernel⟩,
    ⟨.sec, 0x4C6A, on, by decide +kernel⟩,
    ⟨.sec, 0xFFC, 1, on, by decide +kernel⟩,
    ⟨.pwr, 0x064, 7, keyed on .pwr, inv_of_test (by decide +kernel), by decide +kernel⟩⟩

theorem hypotheses_KeyedFieldsKeepWithoutKey :
    (∃ (b : Blk) (loc : Nat) (v : Word) (s : State), (Inv s) ∧ ((b, loc) ∈ keyedRegisters) ∧ (RegisterOpen s b loc) ∧ ((ctlAt s b).keyOpen = false)) :=
  ⟨.pwr, 0x064, 7, on, inv_of_test (by decide +kernel), by decide +kernel⟩

theorem hypotheses_CinchStagesAndCommits :
    (∃ (b : Blk) (s : State), (Inv s) ∧ (kListens s = true) ∧ (answers s b 0x008 = true) ∧ ((ctlAt s b).cinch = .closed)) ∧
    (∃ (b : Blk) (loc : Nat) (v : Word) (s : State), (Inv s) ∧ (OwnLocation loc) ∧ (kListens s = true) ∧ (answers s b loc = true) ∧ ((ctlAt s b).cinch = .opened) ∧ ((ctlAt s b).staged.length < 16)) ∧
    (∃ (b : Blk) (loc : Nat) (v : Word) (s : State), (Inv s) ∧ (OwnLocation loc) ∧ (kListens s = true) ∧ (answers s b loc = true) ∧ ((ctlAt s b).cinch = .opened) ∧ ((ctlAt s b).staged.length = 16)) ∧
    (∃ (b : Blk) (s : State), (Inv s) ∧ (kListens s = true) ∧ (answers s b 0x008 = true) ∧ ((ctlAt s b).cinch ≠ .closed)) ∧
    (∃ (b : Blk) (c : Instr) (s : State), (kListens s = true) ∧ (answers s b 0x008 = true) ∧ ((c = .cinchOpen b ∧ (ctlAt s b).cinch ≠ .closed) ∨ (c = .cinchCommit b ∧ (ctlAt s b).cinch = .closed) ∨ (c = .cinchAbandon b ∧ (ctlAt s b).cinch = .closed) ∨ (c = .cinchCommit b ∧ (ctlAt s b).cinch = .waiting) ∨ ((ctlAt s b).cinch = .waiting ∧ ∃ loc v, OwnLocation loc ∧ answers s b loc = true ∧ c = hostWriteReg b loc v))) ∧
    (∃ (b : Blk) (s : State), (Inv s) ∧ (kListens s = true) ∧ (answers s b 0x008 = true) ∧ ((ctlAt s b).cinch = .opened) ∧ ((ctlAt s b).overflow = true)) ∧
    (∃ (b : Blk) (s : State), (kListens s = true) ∧ (answers s b 0x008 = true) ∧ ((ctlAt s b).cinch = .opened) ∧ ((ctlAt s b).overflow = false) ∧ (stagesPair b (ctlAt s b).staged = false)) ∧
    (∃ (b : Blk) (s : State), (Inv s) ∧ (kListens s = true) ∧ (answers s b 0x008 = true) ∧ ((ctlAt s b).cinch = .opened) ∧ ((ctlAt s b).overflow = false) ∧ (stagesPair b (ctlAt s b).staged = true) ∧ (safePoint s b = false)) ∧
    (∃ (c : Instr) (b : Blk) (s : State), (Inv s) ∧ (safePoint s b = true) ∧ (stagesPair b (ctlAt s b).staged = true) ∧ ((c = .cinchCommit b ∧ kListens s = true ∧ answers s b 0x008 = true ∧ (ctlAt s b).cinch = .opened ∧ (ctlAt s b).overflow = false) ∨ (c = .cinchCommitApply b ∧ (ctlAt s b).cinch = .waiting)) ∧ (pairOk s b (ctlAt s b).staged = false)) ∧
    (∃ (c : Instr) (b : Blk) (s : State), (Inv s) ∧ (safePoint s b = true) ∧ (stagesPair b (ctlAt s b).staged = true) ∧ ((c = .cinchCommit b ∧ kListens s = true ∧ answers s b 0x008 = true ∧ (ctlAt s b).cinch = .opened ∧ (ctlAt s b).overflow = false) ∨ (c = .cinchCommitApply b ∧ (ctlAt s b).cinch = .waiting)) ∧ (pairOk s b (ctlAt s b).staged = true) ∧ (b = .rgn) ∧ (answers s .rgn 0x100 = true)) ∧
    (∃ (c : Instr) (b : Blk) (s : State), (Inv s) ∧ (safePoint s b = true) ∧ (stagesPair b (ctlAt s b).staged = true) ∧ ((c = .cinchCommit b ∧ kListens s = true ∧ answers s b 0x008 = true ∧ (ctlAt s b).cinch = .opened ∧ (ctlAt s b).overflow = false) ∨ (c = .cinchCommitApply b ∧ (ctlAt s b).cinch = .waiting)) ∧ (pairOk s b (ctlAt s b).staged = true) ∧ (b = .clk) ∧ (answers s .clk 0x060 = true)) :=
  ⟨⟨.sec, on, inv_of_test (by decide +kernel), by decide +kernel⟩,
    ⟨.rgn, 0x100, 0, cinched on .rgn .opened (List.replicate 15 (staged 0x040 1)), inv_of_test (by decide +kernel), by decide +kernel⟩,
    ⟨.rgn, 0x100, 0, cinched on .rgn .opened (List.replicate 16 (staged 0x040 1)), inv_of_test (by decide +kernel), by decide +kernel⟩,
    ⟨.rgn, cinched on .rgn .waiting [], inv_of_test (by decide +kernel), by decide +kernel⟩,
    ⟨.rgn, .cinchOpen .rgn, cinched on .rgn .opened [], by decide +kernel, by decide +kernel, Or.inl ⟨rfl, by decide +kernel⟩⟩,
    ⟨.rgn, modCtl (cinched on .rgn .opened (List.replicate 16 (staged 0x040 1))) .rgn (fun c => { c with overflow := true }), inv_of_test (by decide +kernel), by decide +kernel⟩,
    ⟨.rgn, cinched on .rgn .opened [staged 0x040 1], by decide +kernel⟩,
    ⟨.rgn, cinched (withRing on 0 upRing) .rgn .opened [staged 0x100 0], inv_of_test (by decide +kernel), by decide +kernel⟩,
    ⟨.cinchCommitApply .rgn, .rgn, cinched on .rgn .waiting [staged 0x100 0x2000000], inv_of_test (by decide +kernel), by decide +kernel⟩,
    ⟨.cinchCommitApply .rgn, .rgn, cinched on .rgn .waiting [staged 0x100 0x1FF0000, staged 0x104 0x4000000], inv_of_test (by decide +kernel), by decide +kernel⟩,
    ⟨.cinchCommitApply .clk, .clk, cinched on .clk .waiting [staged 0x064 16], inv_of_test (by decide +kernel), by decide +kernel⟩⟩

theorem hypotheses_LowWordReadsLatch :
    (∃ (p : LatchedPair) (start bytes : Nat) (s : State), (start < 4) ∧ (alignedPart start bytes = true) ∧ (kListens s = true) ∧ (answers s (pairRegister p).1 (pairRegister p).2 = true)) ∧
    (∃ (s : State), (kListens s = true) ∧ (answers s .clk 0x050 = true) ∧ (answers s .clk 0x054 = true)) ∧
    (∃ (s : State), (kListens s = true) ∧ (answers s .lnk 0x048 = true) ∧ (answers s .lnk 0x04C = true)) ∧
    (∃ (p : LatchedPair) (start bytes : Nat) (s : State), (start < 4) ∧ (alignedPart start bytes = false) ∧ (bytes ≠ 8)) ∧
    (∃ (b : Blk) (loc : Nat) (v : Word) (s : State), (Inv s) ∧ ((b, loc) ∈ [(Blk.glb, 0x1C0), (Blk.lnk, 0x040), (Blk.pwr, 0x040), (Blk.clk, 0x040)]) ∧ (RegisterOpen s b loc)) ∧
    (∃  (c : _) (k : _), ((c, k) ∈ [(Blk.glb, 0x1C8), (Blk.clk, 0x054), (Blk.lnk, 0x04C), (Blk.lnk, 0x064), (Blk.pwr, 0x058), (Blk.pwr, 0x05C)])) :=
  ⟨⟨.pwrVmin, 3, 1, putPwr on (fun p => { p with selRegion := 95 }), by decide +kernel⟩,
    ⟨on, by decide +kernel⟩,
    ⟨on, by decide +kernel⟩,
    ⟨.clkGtc, 3, 3, on, by decide +kernel⟩,
    ⟨.clk, 0x040, 63, on, inv_of_test (by decide +kernel), by decide +kernel⟩,
    ⟨.pwr, 0x05C, by decide +kernel⟩⟩

theorem hypotheses_SyncCommandsTakeEffect :
    (∃ (c : Instr) (s : State), (Inv s) ∧ (c = .syncSet ∨ c = .syncAdd) ∧ (RegisterOpen s .glb 0x1D4) ∧ (s.clk.asleep = false) ∧ (kCutOff s = false) ∧ (syncAvailable s s.glb.syncSel.toNat = true)) ∧
    (∃ (c : Instr) (s : State), (c = .syncSet ∨ c = .syncAdd) ∧ (RegisterOpen s .glb 0x1D4) ∧ (s.clk.asleep = true) ∧ (kCutOff s = false) ∧ (syncAvailable s s.glb.syncSel.toNat = true)) ∧
    (∃ (c : Instr) (s : State), (c = .syncSet ∨ c = .syncAdd) ∧ (RegisterOpen s .glb 0x1D4) ∧ (syncAvailable s s.glb.syncSel.toNat = false ∨ kCutOff s = true)) :=
  ⟨⟨.syncAdd, putGlb on (fun g => { g with syncSel := 65535 }), inv_of_test (by decide +kernel), by decide +kernel⟩,
    ⟨.syncSet, putClk on (fun c => { c with asleep := true }), by decide +kernel⟩,
    ⟨.syncSet, modField on 0 (fun x => { x with spineOn := false }), by decide +kernel⟩⟩

theorem hypotheses_RingsStartStopAndResume :
    (∃ (v : Word) (host : List Host.Cell) (k : Nat) (s : State), (Inv s) ∧ (RegisterOpen s .hst 0x054) ∧ (ringSetupOpen s = true) ∧ (s.hst.ringSel.toNat = k) ∧ (k < 18) ∧ ((ringAt s k).en = false) ∧ (v.getLsbD 8 = true)) ∧
    (∃ (v : Word) (k : Nat) (s : State), (Inv s) ∧ (RegisterOpen s .hst 0x054) ∧ (ringSetupOpen s = true) ∧ (s.hst.ringSel.toNat = k) ∧ (k < 18) ∧ ((ringAt s k).en = true) ∧ (v.getLsbD 8 = false) ∧ (v.getLsbD 9 = false) ∧ (v.setWidth 5 = (ringAt s k).sizeLog2)) ∧
    (∃ (v : Word) (host : List Host.Cell) (k : Nat) (s : State), (Inv s) ∧ (RegisterOpen s .hst 0x054) ∧ (ringSetupOpen s = true) ∧ (s.hst.ringSel.toNat = k) ∧ (k < 16) ∧ ((ringAt s k).en = true) ∧ (v.getLsbD 8 = true) ∧ (v.getLsbD 9 = true) ∧ (v.setWidth 5 = (ringAt s k).sizeLog2)) ∧
    (∃ (v : Word) (host : List Host.Cell) (k : Nat) (s : State), (Inv s) ∧ (RegisterOpen s .hst 0x054) ∧ (ringSetupOpen s = true) ∧ (s.hst.ringSel.toNat = k) ∧ (k < 18) ∧ ((ringAt s k).en = false) ∧ (v.getLsbD 8 = true) ∧ (rebuildHalted s = true) ∧ (k < 16)) ∧
    (∃ (v : Word) (host : List Host.Cell) (k : Nat) (s : State), (Inv s) ∧ (RegisterOpen s .hst 0x054) ∧ (ringSetupOpen s = true) ∧ (s.hst.ringSel.toNat = k) ∧ (k < 18) ∧ ((ringAt s k).en = false) ∧ (v.getLsbD 8 = true) ∧ (rebuildHalted s = false) ∧ (pageLine (hostMerge s host) k = (0, 0))) ∧
    (∃ (v : Word) (host : List Host.Cell) (k : Nat) (s : State), (Inv s) ∧ (RegisterOpen s .hst 0x054) ∧ (ringSetupOpen s = true) ∧ (s.hst.ringSel.toNat = k) ∧ (k < 16) ∧ ((ringAt s k).en = true) ∧ (v.getLsbD 8 = true) ∧ (v.getLsbD 9 = true) ∧ (v.setWidth 5 = (ringAt s k).sizeLog2) ∧ ((ringAt s k).stopped = true) ∧ (s.master.staleFull = false) ∧ (kCutOff s = false) ∧ ((ringAt s k).stopDb = true ∧ lineBroken (ringAt s k) (pageLine (hostMerge s host) k).1 (pageLine (hostMerge s host) k).2 = true)) ∧
    (∃ (v : Word) (host : List Host.Cell) (k : Nat) (s : State), (Inv s) ∧ (RegisterOpen s .hst 0x054) ∧ (ringSetupOpen s = true) ∧ (s.hst.ringSel.toNat = k) ∧ (k < 16) ∧ ((ringAt s k).en = true) ∧ (v.getLsbD 8 = true) ∧ (v.getLsbD 9 = true) ∧ (v.setWidth 5 = (ringAt s k).sizeLog2) ∧ ((ringAt s k).stopped = true) ∧ (s.master.staleFull = false) ∧ (kCutOff s = false) ∧ ((ringAt s k).stopDb = false ∧ lineBroken (ringAt s k) (pageLine (hostMerge s host) k).1 (pageLine (hostMerge s host) k).2 = true)) ∧
    (∃ (v : Word) (host : List Host.Cell) (k : Nat) (s : State), (Inv s) ∧ (RegisterOpen s .hst 0x054) ∧ (ringSetupOpen s = true) ∧ (s.hst.ringSel.toNat = k) ∧ (k < 16) ∧ ((ringAt s k).en = true) ∧ (v.getLsbD 8 = true) ∧ (v.getLsbD 9 = true) ∧ (v.setWidth 5 = (ringAt s k).sizeLog2) ∧ ((ringAt s k).stopped = true) ∧ (s.master.staleFull = false) ∧ (kCutOff s = false) ∧ (lineBroken (ringAt s k) (pageLine (hostMerge s host) k).1 (pageLine (hostMerge s host) k).2 = false)) ∧
    (∃ (v : Word) (host : List Host.Cell) (k : Nat) (s : State), (Inv s) ∧ (RegisterOpen s .hst 0x054) ∧ (ringSetupOpen s = true) ∧ (s.hst.ringSel.toNat = k) ∧ (k < 16) ∧ ((ringAt s k).en = true) ∧ (v.getLsbD 8 = true) ∧ (v.getLsbD 9 = true) ∧ (v.setWidth 5 = (ringAt s k).sizeLog2) ∧ ((ringAt s k).stopped = true) ∧ (s.master.staleFull = true ∨ kCutOff s = true)) :=
  ⟨⟨0x106, [], 17, putHst on (fun h => { h with ringSel := 17 }), inv_of_test (by decide +kernel), by decide +kernel⟩,
    ⟨6, 17, putHst (withRing on 17 upRing) (fun h => { h with ringSel := 17 }), inv_of_test (by decide +kernel), by decide +kernel⟩,
    ⟨0x306, [], 15, putHst (withRing on 15 { upRing with stopped := true }) (fun h => { h with ringSel := 15 }), inv_of_test (by decide +kernel), by decide +kernel⟩,
    ⟨0x106, [], 15, putHst (putMaster on (fun m => { m with recovery := some { failed := [95], runs := [], copies := [], halted := true } })) (fun h => { h with ringSel := 15 }), inv_of_test (by decide +kernel), by decide +kernel⟩,
    ⟨0x106, [], 17, putHst on (fun h => { h with ringSel := 17 }), inv_of_test (by decide +kernel), by decide +kernel⟩,
    ⟨0x306, [], 15, putHst (withRing on 15 { upRing with stopped := true, stopDb := true }) (fun h => { h with ringSel := 15 }), inv_of_test (by decide +kernel), by decide +kernel⟩,
    ⟨0x306, [], 15, putHst (withRing on 15 { upRing with stopped := true }) (fun h => { h with ringSel := 15 }), inv_of_test (by decide +kernel), by decide +kernel⟩,
    ⟨0x306, [], 15, putHst (withRing on 15 { upRing with stopped := true, tail := 0, fetch := 0 }) (fun h => { h with ringSel := 15 }), inv_of_test (by decide +kernel), by decide +kernel⟩,
    ⟨0x306, [], 15, putPwr (putHst (withRing on 15 { upRing with stopped := true }) (fun h => { h with ringSel := 15 })) (fun p => { p with kLandingOk := [false, false] }), inv_of_test (by decide +kernel), by decide +kernel⟩⟩

theorem hypotheses_DeepSleepEntersAndEnds :
    (∃ (s : State), (RegisterOpen s .clk 0x068) ∧ (s.boot.done.getLsbD 9 = true) ∧ (s.hst.halterReq = none) ∧ (s.hst.halterRun = none) ∧ (s.clk.entering = false) ∧ (s.clk.asleep = false)) ∧
    (∃ (s : State), (RegisterOpen s .clk 0x068) ∧ (s.boot.done.getLsbD 9 = false ∨ s.hst.halterReq ≠ none ∨ s.hst.halterRun ≠ none ∨ s.clk.entering = true ∨ s.clk.asleep = true)) ∧
    (∃ (s : State), (s.clk.entering = true) ∧ (nothingInFlight s = true)) ∧
    (∃ (s : State), (RegisterOpen s .clk 0x068) ∧ (s.clk.asleep = true)) ∧
    (∃ (s : State), (RegisterOpen s .clk 0x068) ∧ (s.clk.asleep = false)) :=
  ⟨⟨on, by decide +kernel⟩,
    ⟨putClk on (fun c => { c with asleep := true }), by decide +kernel⟩,
    ⟨putClk on (fun c => { c with entering := true }), by decide +kernel⟩,
    ⟨putClk on (fun c => { c with asleep := true }), by decide +kernel⟩,
    ⟨on, by decide +kernel⟩⟩

theorem hypotheses_FirmwareUpdates :
    (∃ (host : List Host.Cell) (s : State), (RegisterOpen s .sec 0x04C) ∧ ((ctlAt s .sec).keyOpen = true) ∧ (s.sec.update = .idle)) ∧
    (∃ (host : List Host.Cell) (s : State), (RegisterOpen s .sec 0x04C) ∧ ((ctlAt s .sec).keyOpen = true) ∧ (s.sec.update ≠ .idle)) ∧
    (∃ (host : List Host.Cell) (s : State), (RegisterOpen s .sec 0x04C) ∧ ((ctlAt s .sec).keyOpen = true) ∧ (s.sec.update = .idle) ∧ (updateBusy s = false) ∧ (imageInHost s = true)) ∧
    (∃ (host : List Host.Cell) (s : State), (s.sec.update ≠ .idle ∨ updateBusy s = true ∨ imageInHost s = false)) ∧
    (∃ (host : List Host.Cell) (s : State), (Inv s) ∧ (RegisterOpen s .sec 0x04C) ∧ ((ctlAt s .sec).keyOpen = false)) ∧
    (∃ (host : List Host.Cell) (flashOk : Bool) (readBack : List (Nat × Byte)) (s : State), (s.sec.update = .running) ∧ (s.sec.resetWaits = false)) ∧
    (∃ (s : State), (s.sec.update = .paused) ∧ (s.hst.halterRun = none)) ∧
    (∃ (s : State), (s.hst.halterRun ≠ none ∨ s.sec.update ≠ .paused)) :=
  ⟨⟨[], keyed on .sec, by decide +kernel⟩,
    ⟨[], keyed (putSec on (fun x => { x with update := .running })) .sec, by decide +kernel⟩,
    ⟨[], keyed (putSec on (fun x => { x with imgAddr := hostBase })) .sec, by decide +kernel⟩,
    ⟨[], on, by decide +kernel⟩,
    ⟨[], on, inv_of_test (by decide +kernel), by decide +kernel⟩,
    ⟨[], true, [], putSec on (fun x => { x with update := .running }), by decide +kernel⟩,
    ⟨putSec on (fun x => { x with update := .paused }), by decide +kernel⟩,
    ⟨on, by decide +kernel⟩⟩

theorem hypotheses_TokensAndSpdm :
    (∃ (host : List Host.Cell) (s : State), (RegisterOpen s .sec 0x050) ∧ ((ctlAt s .sec).keyOpen = true)) ∧
    (∃ (s : State), (RegisterOpen s .sec 0x050) ∧ ((ctlAt s .sec).keyOpen = true)) ∧
    (∃ (s : State), (s.side.ready = true)) ∧
    (∃ (s : State), (s.side.ready = true)) ∧
    (∃ (s : State)  (a : _) (h : _), (s.side.ready = true) ∧ ((a || h) = true)) ∧
    (∃ (s : State), (s.side.ready = true)) ∧
    (∃ (s : State), (s.side.ready = true)) ∧
    (∃ (s : State)  (slot : Nat) (offset : Nat) (length : Nat), (s.side.ready = true)) ∧
    (∃ (s : State)  (code : Byte), (s.side.ready = true)) ∧
    (∃ (nonce : List Byte) (c : Instr) (i : Nat) (s : State), (s.side.ready = true) ∧ (measIndexOk i = true) ∧ (signingBusy s = false) ∧ (c = .challenge 0 nonce ∨ c = .getMeasurements i true nonce)) ∧
    (∃ (nonce : List Byte) (c : Instr) (i : Nat) (s : State), (s.side.ready = true) ∧ (measIndexOk i = true) ∧ (signingBusy s = true) ∧ (c = .challenge 0 nonce ∨ c = .getMeasurements i true nonce)) ∧
    (∃ (nonce : List Byte) (i : Nat) (s : State), (s.side.ready = true) ∧ (i ≤ 6)) ∧
    (∃ (nonce : List Byte) (i slot : Nat) (sgn : Bool) (c : Instr) (s : State), (s.side.ready = true) ∧ ((c = .challenge slot nonce ∧ slot ≠ 0) ∨ (c = .getMeasurements i sgn nonce ∧ measIndexOk i = false))) ∧
    (∃ (j : SignJob) (s : State), (s.side.signing = some j)) :=
  ⟨⟨[], keyed on .sec, by decide +kernel⟩,
    ⟨keyed on .sec, by decide +kernel⟩,
    ⟨on, by decide +kernel⟩,
    ⟨on, by decide +kernel⟩,
    ⟨on, true, false, by decide +kernel⟩,
    ⟨on, by decide +kernel⟩,
    ⟨on, by decide +kernel⟩,
    ⟨on, 0, 0, 1, by decide +kernel⟩,
    ⟨on, 0, by decide +kernel⟩,
    ⟨[], .getMeasurements 0xFF true [], 0xFF, on, by decide +kernel⟩,
    ⟨[], .challenge 0 [], 6, putSide on (fun d => { d with signing := some { challenge := true, body := [] } }), by decide +kernel⟩,
    ⟨[], 6, on, by decide +kernel⟩,
    ⟨[], 7, 0, true, .getMeasurements 7 true [], on, by decide +kernel⟩,
    ⟨{ challenge := true, body := [] }, putSide on (fun d => { d with signing := some { challenge := true, body := [] } }), by decide +kernel⟩⟩

theorem hypotheses_SidebandAnswers :
    (∃ (s : State), (s.pwr.railIn = true)) ∧
    (∃ (a : BitVec 7) (s : State), (s.pwr.railIn = true)) ∧
    (∃ (m : MctpControl) (s : State), (s.side.ready = true)) ∧
    (∃ (c : Instr) (s : State), (s.side.ready = false) ∧ ((c = .getWeave ∨ c = .getCoord ∨ c = .sidebandHalter ∨ c = .getVersion ∨ (∃ a, c = .setCoord a) ∨ (∃ l, c = .setPlaneMap l) ∨ (∃ p, c = .getTelemetry p) ∨ (∃ m, c = .mctpControl m) ∨ ∃ k, c = .unknownVendorCommand k))) ∧
    (∃ (p : Nat) (s : State), (s.side.ready = true)) ∧
    (∃ (s : State), (s.side.ready = true)) ∧
    (∃ (s : State), (s.side.ready = true)) ∧
    (∃ (k : Byte) (s : State), (s.side.ready = true) ∧ (k = 0 ∨ 6 < k.toNat)) ∧
    (∃ (a : BitVec 48) (s : State), (s.side.ready = true) ∧ (anyRingEn s = false)) ∧
    (∃ (ps : List Byte) (s : State), (s.side.ready = true) ∧ (anyRingEn s = false) ∧ (planeMapOk ps = true) ∧ (s.lnk.links.length = 96)) ∧
    (∃ (ps : List Byte) (s : State), (s.side.ready = true) ∧ (anyRingEn s = false) ∧ (planeMapOk ps = false)) ∧
    (∃ (c : Instr) (a : BitVec 48) (ps : List Byte) (s : State), (s.side.ready = true) ∧ (anyRingEn s = true) ∧ (c = .setCoord a ∨ c = .setPlaneMap ps)) ∧
    (∃ (s : State), (s.side.ready = true)) :=
  ⟨⟨on, by decide +kernel⟩,
    ⟨0x7F, on, by decide +kernel⟩,
    ⟨.getEndpointId, on, by decide +kernel⟩,
    ⟨.getWeave, State.reset, by decide +kernel, Or.inl rfl⟩,
    ⟨3, on, by decide +kernel⟩,
    ⟨on, by decide +kernel⟩,
    ⟨on, by decide +kernel⟩,
    ⟨7, on, by decide +kernel⟩,
    ⟨1, on, by decide +kernel⟩,
    ⟨List.replicate 96 0, on, by decide +kernel⟩,
    ⟨[], on, by decide +kernel⟩,
    ⟨.setCoord 0, 0, [], withRing on 15 upRing, by decide +kernel⟩,
    ⟨on, by decide +kernel⟩⟩

theorem hypotheses_RecordsAndFaults :
    (∃ (s : State) (code detail unit : Nat) (k : UnitKind), (Inv s) ∧ ((ringAt s 17).en = true) ∧ (recordRingFull (ringAt s 17) = false)) ∧
    (∃ (s : State), ((ringAt s 17).en = false ∨ recordRingFull (ringAt s 17) = true)) ∧
    (∃ (s : State) (e : ErrRec), (Inv s) ∧ ((ringAt s 16).en = true) ∧ (recordRingFull (ringAt s 16) = false)) ∧
    (∃ (s : State), ((ringAt s 16).en = false ∨ recordRingFull (ringAt s 16) = true)) ∧
    (∃ (s : State) (k : UnitKind) (i : Nat), (isRetired s k i = false)) :=
  ⟨⟨withRing on 17 upRing, 0, 0, 0, .none, inv_of_test (by decide +kernel), by decide +kernel⟩,
    ⟨on, by decide +kernel⟩,
    ⟨withRing on 16 upRing, readErr on 0 none false, inv_of_test (by decide +kernel), by decide +kernel⟩,
    ⟨on, by decide +kernel⟩,
    ⟨on, .region, 95, by decide +kernel⟩⟩

theorem hypotheses_BanksAndScrubs :
    (∃ (r b : Nat) (s : State), (Inv s) ∧ (r < 96) ∧ (b < 32)) ∧
    (∃ (r line : Nat) (found : ScrubFinding) (s : State), (Inv s) ∧ (r < 96) ∧ (line < 524288) ∧ ((regionAt s r).powered = true) ∧ (((regionAt s r).bankOn &&& (regionAt s r).bankReady).getLsbD (line / 16384) = true)) ∧
    (∃ (a : Nat) (found : ScrubFinding) (s : State), (Inv s) ∧ (isDram s a = true) ∧ (stackServes (stackAt s (dramPlace s a).1) = true)) :=
  ⟨⟨95, 31, on, inv_of_test (by decide +kernel), by decide +kernel⟩,
    ⟨95, 524287, .uncorrectable, on, inv_of_test (by decide +kernel), by decide +kernel⟩,
    ⟨2 ^ 41 - 1, .correctable, on, inv_of_test (by decide +kernel), by decide +kernel⟩⟩

theorem hypotheses_RefreshAndHeatOfStacks :
    (∃ (m pc : Nat) (late : Bool) (s : State), (Inv s) ∧ (m < 16) ∧ (pc < 64) ∧ (stackServes (stackAt s m) = true) ∧ ((stackAt s m).owed.Pairwise (fun p q => p.1 < q.1))) ∧
    (∃ (m temp : Nat) (s : State), (Inv s) ∧ (m < 16) ∧ (stackFitted s.fuses.orderCode m = true) ∧ ((fieldAt s m).spineOn = true)) ∧
    (∃ (m : Nat) (s : State), (Inv s) ∧ (m < 16) ∧ (stackFitted s.fuses.orderCode m = true) ∧ ((fieldAt s m).spineOn = true)) ∧
    (∃ (m : Nat) (s : State), (Inv s) ∧ (m < 16) ∧ (stackServes (stackAt s m) = true) ∧ (95 ≤ (stackAt s m).temp) ∧ ((fieldAt s m).gait = .walk)) :=
  ⟨⟨15, 63, true, modStack on 15 (fun x => { x with owed := [(0, 1), (63, 7)] }), inv_of_test (by decide +kernel), by decide +kernel⟩,
    ⟨15, 93, on, inv_of_test (by decide +kernel), by decide +kernel⟩,
    ⟨15, modStack on 15 (fun x => { x with temp := 93 }), inv_of_test (by decide +kernel), by decide +kernel⟩,
    ⟨15, modField (modStack on 15 (fun x => { x with temp := 95 })) 15 (fun x => { x with gait := .walk }), inv_of_test (by decide +kernel), by decide +kernel⟩⟩

theorem hypotheses_RetrainingAndStackFailure :
    (∃ (m : Nat) (rest : List Nat) (s : State), (Inv s) ∧ (s.glb.retrainQueue = m :: rest) ∧ (retrainingStack s = none) ∧ (stackServes (stackAt s m) = true) ∧ (kCutOff s = false)) ∧
    (∃ (s : State), (kCutOff s = true)) ∧
    (∃ (m temp : Nat) (lanes : List (Nat × Nat)) (s : State), (Inv s) ∧ (retrainingStack s = some m) ∧ (lanesFit ((stackAt s m).spareLanes ++ lanes) = true)) ∧
    (∃ (m : Nat) (s : State), (Inv s) ∧ (retrainingStack s = some m)) ∧
    (∃ (s : State), (RegisterOpen s .mem 0x054) ∧ ((ctlAt s .mem).keyOpen = true) ∧ (stackFitted s.fuses.orderCode s.glb.memSel.toNat = true) ∧ ((stackAt s s.glb.memSel.toNat).live = true) ∧ ((stackAt s s.glb.memSel.toNat).failed = false)) ∧
    (∃ (c : Instr) (m : Nat) (s : State), (Inv s) ∧ (m < 16) ∧ ((stackAt s m).live = true) ∧ ((stackAt s m).failed = false) ∧ (c = .stackFailed m ∨ (c = .stackHotTimeout m ∧ (stackAt s m).hotSelfRefresh = true ∧ 90 < (stackAt s m).temp) ∨ (∃ temp lanes, c = .retrainEnd (.centred temp lanes) ∧ retrainingStack s = some m ∧ lanesFit ((stackAt s m).spareLanes ++ lanes) = false))) :=
  ⟨⟨15, [], putGlb on (fun g => { g with retrainQueue := [15] }), inv_of_test (by decide +kernel), by decide +kernel⟩,
    ⟨putPwr on (fun p => { p with kLandingOk := [false, false] }), by decide +kernel⟩,
    ⟨15, 60, [(63, 4)], modStack on 15 (fun x => { x with retraining := true }), inv_of_test (by decide +kernel), by decide +kernel⟩,
    ⟨15, modStack on 15 (fun x => { x with retraining := true }), inv_of_test (by decide +kernel), by decide +kernel⟩,
    ⟨putGlb (keyed on .mem) (fun g => { g with memSel := 15 }), by decide +kernel⟩,
    ⟨.stackFailed 15, 15, on, inv_of_test (by decide +kernel), by decide +kernel, by decide +kernel, by decide +kernel, Or.inl rfl⟩⟩

theorem hypotheses_GaitsAndReins :
    (∃ (f : Nat) (s : State), (Inv s) ∧ (f < 16)) ∧
    (∃ (f : Nat) (g : Gait) (s : State), (Inv s) ∧ (f < 16) ∧ ((fieldAt s f).halted = false) ∧ ((fieldAt s f).rising = some g)) ∧
    (∃ (f : Nat) (s : State), (Inv s) ∧ (f < 16)) ∧
    (∃ (f : Nat) (s : State), (Inv s) ∧ (f < 16) ∧ (s.pwr.idleWalkEn = true) ∧ ((∀ r ∈ regionsOf f, (regionAt s r).queue = []))) ∧
    (∃ (r vcore : Nat) (same : Bool) (s : State), (Inv s) ∧ (r < 96) ∧ ((regionAt s r).powered = true) ∧ (fieldRuns s (fieldOf r) = true)) ∧
    (∃ (f : Nat) (s : State), (f < 16)) ∧
    (∃ (f : Nat) (s : State), (Inv s) ∧ (f < 16) ∧ (fieldRuns s f = true)) ∧
    (∃ (f beats : Nat) (s : State), (Inv s) ∧ (f < 16)) :=
  ⟨⟨15, on, inv_of_test (by decide +kernel), by decide +kernel⟩,
    ⟨15, .gallop, modField on 15 (fun x => { x with rising := some .gallop }), inv_of_test (by decide +kernel), by decide +kernel⟩,
    ⟨15, on, inv_of_test (by decide +kernel), by decide +kernel⟩,
    ⟨15, putPwr on (fun p => { p with idleWalkEn := true }), inv_of_test (by decide +kernel), by decide +kernel⟩,
    ⟨95, 700, false, on, inv_of_test (by decide +kernel), by decide +kernel⟩,
    ⟨15, on, by decide +kernel⟩,
    ⟨15, on, inv_of_test (by decide +kernel), by decide +kernel⟩,
    ⟨15, 1999, modField on 15 (fun x => { x with ownRun := 100 }), inv_of_test (by decide +kernel), by decide +kernel⟩⟩

theorem hypotheses_LocksCrossingsAndJoins :
    (∃ (f : Nat) (s : State), (Inv s) ∧ (f < 16) ∧ ((fieldAt s f).spineOn = true) ∧ ((fieldAt s f).pllLock = false)) ∧
    (∃ (f : Nat) (s : State), (Inv s) ∧ (f < 16) ∧ ((fieldAt s f).pllLock = true)) ∧
    (∃ (f d k n : Nat) (s : State), (Inv s) ∧ (f < 16) ∧ (d < 4) ∧ (k < 32) ∧ (neighbour f d = some n) ∧ ((edgeAt s f d).up = true) ∧ ((edgeAt s f d).draining = true ∨ (edgeAt s f d).mode = .meso ∨ (edgeAt s f d).mode = .ratio)) ∧
    (∃ (f d n : Nat) (leaving entering : List Nat) (s : State), (Inv s) ∧ (f < 16) ∧ (d < 4) ∧ (neighbour f d = some n) ∧ ((edgeAt s f d).mode = .aligning) ∧ ((edgeAt s f d).draining = false) ∧ (joinNeed f n ≤ liveSubLinks (edgeAt s f d)) ∧ ((∀ k, (edgeAt s f d).live.getLsbD k = true → 3 ≤ leaving.getD k 4 ∧ leaving.getD k 4 ≤ 5 ∧ 3 ≤ entering.getD k 4 ∧ entering.getD k 4 ≤ 5))) ∧
    (∃ (f d k n : Nat) (leaving entering : List Nat) (s : State), (Inv s) ∧ (f < 16) ∧ (d < 4) ∧ (neighbour f d = some n) ∧ ((edgeAt s f d).mode = .aligning) ∧ ((edgeAt s f d).draining = false) ∧ ((edgeAt s f d).live.getLsbD k = true) ∧ (leaving.getD k 4 < 3 ∨ 5 < leaving.getD k 4 ∨ entering.getD k 4 < 3 ∨ 5 < entering.getD k 4)) ∧
    (∃ (f d n : Nat) (leaving full : Bool) (s : State), (Inv s) ∧ (f < 16) ∧ (d < 4) ∧ (neighbour f d = some n) ∧ ((edgeAt s f d).mode = .meso)) ∧
    (∃ (f d n : Nat) (s : State), (Inv s) ∧ (f < 16) ∧ (d < 4) ∧ (neighbour f d = some n)) ∧
    (∃ (f d k n : Nat) (s : State), (Inv s) ∧ (f < 16) ∧ (d < 4) ∧ (k < 32) ∧ (neighbour f d = some n) ∧ ((edgeAt s f d).up = true) ∧ ((edgeAt s f d).draining = true ∨ (edgeAt s f d).mode = .meso ∨ (edgeAt s f d).mode = .ratio) ∧ ((edgeAt s f d).live.getLsbD k = true)) :=
  ⟨⟨15, modField on 15 (fun x => { x with pllLock := false }), inv_of_test (by decide +kernel), by decide +kernel⟩,
    ⟨15, on, inv_of_test (by decide +kernel), by decide +kernel⟩,
    ⟨15, 0, 31, (neighbour 15 0).getD 0, on, inv_of_test (by decide +kernel), by decide +kernel⟩,
    ⟨15, 0, (neighbour 15 0).getD 0, [], [], modEdge on 15 0 (fun e => { e with mode := .aligning }), inv_of_test (by decide +kernel), by decide +kernel, by decide +kernel, by decide +kernel, by decide +kernel, by decide +kernel, by decide +kernel, (fun k _ => by simp)⟩,
    ⟨15, 0, 31, (neighbour 15 0).getD 0, List.replicate 32 2, [], modEdge on 15 0 (fun e => { e with mode := .aligning }), inv_of_test (by decide +kernel), by decide +kernel⟩,
    ⟨15, 0, (neighbour 15 0).getD 0, true, false, on, inv_of_test (by decide +kernel), by decide +kernel⟩,
    ⟨15, 0, (neighbour 15 0).getD 0, on, inv_of_test (by decide +kernel), by decide +kernel⟩,
    ⟨15, 0, 31, (neighbour 15 0).getD 0, on, inv_of_test (by decide +kernel), by decide +kernel⟩⟩

theorem hypotheses_TimeAdvancesAndSlews :
    (∃ (n : Nat) (s : State), (s.pwr.railIn = true)) ∧
    (∃ (n : Nat) (s : State), (s.pwr.railIn = false)) ∧
    (∃ (s : State), (Inv s) ∧ (s.clk.syncRole = 2)) ∧
    (∃ (s : State), (s.clk.syncRole ≠ 2)) ∧
    (∃ (s : State), (Inv s) ∧ (s.clk.ppsEn = true) ∧ (s.clk.syncRole ≠ 2)) ∧
    (∃ (s : State), (Inv s) ∧ (s.clk.ppsEn = true) ∧ (s.clk.syncRole ≠ 2)) ∧
    (∃ (c : Instr) (s : State), ((c = .ppsEdge ∨ c = .ppsLost) ∧ (s.clk.ppsEn = false ∨ s.clk.syncRole = 2))) :=
  ⟨⟨1, on, by decide +kernel⟩,
    ⟨1, State.reset, by decide +kernel⟩,
    ⟨putClk on (fun c => { c with syncRole := 2 }), inv_of_test (by decide +kernel), by decide +kernel⟩,
    ⟨on, by decide +kernel⟩,
    ⟨putClk on (fun c => { c with ppsEn := true }), inv_of_test (by decide +kernel), by decide +kernel⟩,
    ⟨putClk on (fun c => { c with ppsEn := true }), inv_of_test (by decide +kernel), by decide +kernel⟩,
    ⟨.ppsEdge, on, by decide +kernel⟩⟩

theorem hypotheses_CurbDrivenAndAsserted :
    (∃ (c : Instr) (f : Nat) (s : State), (f < 16) ∧ (c = .inputOvercurrent ∨ c = .planeLow f ∨ c = .planeAbove30sRating f ∨ c = .stageAbove125c f)) ∧
    (∃ (own : Bool) (s : State), (Inv s)) ∧
    (∃ (s : State), (Inv s) ∧ (curbLow s = false)) ∧
    (∃ (s : State), (curbLow s = true)) :=
  ⟨⟨.planeLow 15, 15, on, by decide +kernel⟩,
    ⟨true, on, inv_of_test (by decide +kernel)⟩,
    ⟨on, inv_of_test (by decide +kernel), by decide +kernel⟩,
    ⟨putPwr on (fun p => { p with curbExt := true }), by decide +kernel⟩⟩

theorem hypotheses_PlanesAndFieldsLost :
    (∃ (f : Nat) (s : State), (Inv s) ∧ (f < 16)) ∧
    (∃ (f : Nat) (s : State), (Inv s) ∧ (f < 16) ∧ ((fieldAt s f).localSense = false)) ∧
    (∃ (f n : Nat) (s : State), (Inv s) ∧ (f < 16) ∧ (n ≤ 2)) ∧
    (∃ (c n : Nat) (s : State), (c < 4) ∧ (n ≤ 1)) ∧
    (∃ (c n : Nat) (s : State), (c < 4) ∧ (1 < n) ∧ (s.pwr.d28On.getD c false = true)) ∧
    (∃ (c : Instr) (f : Nat) (s : State), (Inv s) ∧ (f < 16) ∧ ((fieldAt s f).spineOn = true) ∧ ((fieldAt s f).planeOff = false) ∧ (c = .planeCollapse f ∨ (c = .stagePhaseFailure f ∧ 1 ≤ (fieldAt s f).stageFailed) ∨ (∃ n, 2 < n ∧ c = .spineIvrLoss true f n))) :=
  ⟨⟨15, on, inv_of_test (by decide +kernel), by decide +kernel⟩,
    ⟨15, on, inv_of_test (by decide +kernel), by decide +kernel⟩,
    ⟨15, 2, on, inv_of_test (by decide +kernel), by decide +kernel⟩,
    ⟨3, 1, on, by decide +kernel⟩,
    ⟨3, 2, on, by decide +kernel⟩,
    ⟨.planeCollapse 15, 15, on, inv_of_test (by decide +kernel), by decide +kernel, by decide +kernel, by decide +kernel, Or.inl rfl⟩⟩

theorem hypotheses_RegionPowerLossesAndReturn :
    (∃ (r p : Nat) (s : State), (Inv s) ∧ (r < 96) ∧ (p < 12) ∧ ((regionAt s r).powered = true) ∧ ((regionAt s r).phaseLost.getLsbD p = false)) ∧
    (∃ (r : Nat) (s : State), (Inv s) ∧ (r < 96)) ∧
    (∃ (r : Nat) (s : State), (Inv s) ∧ (r < 96) ∧ ((fieldAt s (fieldOf r)).spineOn = true) ∧ ((fieldAt s (fieldOf r)).planeOff = false) ∧ ((regionAt s r).fuseBlown = false) ∧ ((regionAt s r).powered = false) ∧ ((fieldAt s (fieldOf r)).softStart = none) ∧ (phasesLost (regionAt s r) < 3) ∧ ((regionAt s r).darkUntil.toNat ≤ (gtcNs s).toNat) ∧ ((regionAt s r).quarantined = false)) ∧
    (∃ (r : Nat) (s : State), (r < 96) ∧ ((regionAt s r).fuseBlown = true ∨ 3 ≤ phasesLost (regionAt s r) ∨ (gtcNs s).toNat < (regionAt s r).darkUntil.toNat ∨ (fieldAt s (fieldOf r)).lost = true ∧ (fieldAt s (fieldOf r)).spineOn = false ∨ (fieldAt s (fieldOf r)).reason ≠ 0 ∧ (fieldAt s (fieldOf r)).spineOn = false)) ∧
    (∃ (c : Instr) (f r : Nat) (q : List Nat) (s : State), (Inv s) ∧ (f < 16) ∧ (c = .softStartBegin f ∨ c = .softStartSlow f) ∧ ((fieldAt s f).softStart = none) ∧ ((fieldAt s f).planeOff = false) ∧ ((fieldAt s f).spineOn = true) ∧ (curbLow s = false) ∧ ((fieldAt s f).powerQueue = r :: q)) ∧
    (∃ (f vcore temp : Nat) (y : SoftStart) (s : State), (Inv s) ∧ (f < 16) ∧ ((fieldAt s f).softStart = some y) ∧ ((fieldAt s f).spineOn = false)) ∧
    (∃ (f vcore temp : Nat) (y : SoftStart) (s : State), (Inv s) ∧ (f < 16) ∧ (y.region < 96) ∧ ((fieldAt s f).softStart = some y) ∧ ((fieldAt s f).spineOn = true)) ∧
    (∃ (s : State), (RegisterOpen s .pwr 0x054)) :=
  ⟨⟨95, 11, on, inv_of_test (by decide +kernel), by decide +kernel⟩,
    ⟨95, modRegion on 95 (fun x => { x with efuseOpenings := 2 }), inv_of_test (by decide +kernel), by decide +kernel⟩,
    ⟨95, modRegion on 95 (fun x => { x with powered := false, darkUntil := 10000000000 }), inv_of_test (by decide +kernel), by decide +kernel⟩,
    ⟨95, modRegion on 95 (fun x => { x with powered := false, phaseLost := 7 }), by decide +kernel⟩,
    ⟨.softStartBegin 15, 15, 95, [], modField on 15 (fun x => { x with powerQueue := [95] }), inv_of_test (by decide +kernel), by decide +kernel⟩,
    ⟨15, 700, 60, { region := 95, slow := false }, withoutSpine (modField on 15 (fun x => { x with softStart := some { region := 95, slow := false } })) 15, inv_of_test (by decide +kernel), by decide +kernel⟩,
    ⟨15, 700, 60, { region := 95, slow := false }, modField on 15 (fun x => { x with softStart := some { region := 95, slow := false } }), inv_of_test (by decide +kernel), by decide +kernel⟩,
    ⟨on, by decide +kernel⟩⟩

theorem hypotheses_GallopLimitsAndCredit :
    (∃ (p : Nat) (is : List Nat) (s : State), (Inv s)) ∧
    (∃ (s : State), (s.pwr.railIn = false ∨ s.boot.done.getLsbD 2 = false)) ∧
    (∃ (s : State), (s.pwr.railIn = true) ∧ (s.boot.done.getLsbD 2 = true)) ∧
    (∃ (p w : Nat) (s : State), (Inv s) ∧ (capInForce s.pwr = some w) ∧ (w < p) ∧ ((∃ f, f < 16 ∧ (fieldAt s f).spineOn = true ∧ (fieldAt s f).gait ≠ .walk))) ∧
    (∃ (p w : Nat) (s : State), (Inv s) ∧ (capInForce s.pwr = some w) ∧ (w < p) ∧ ((∀ f, f < 16 → (fieldAt s f).spineOn = true → (fieldAt s f).gait = .walk))) ∧
    (∃ (p : Nat) (s : State), (capInForce s.pwr = none ∨ (∃ w, capInForce s.pwr = some w ∧ p ≤ w))) ∧
    (∃ (p : Nat) (s : State), (Inv s) ∧ (capInForce s.pwr = none ∨ (∃ w, capInForce s.pwr = some w ∧ 100 * p ≤ 97 * w)) ∧ ((∃ f, f < 16 ∧ capBinds s f = true))) ∧
    (∃ (p : Nat) (s : State), ((∀ f, f < 16 → capBinds s f = false))) ∧
    (∃ (p w : Nat) (s : State), (capInForce s.pwr = some w) ∧ (97 * w < 100 * p)) :=
  ⟨⟨10801, [], on, inv_of_test (by decide +kernel)⟩,
    ⟨State.reset, by decide +kernel⟩,
    ⟨on, by decide +kernel⟩,
    ⟨(capInForce capped.pwr).getD 0 + 1, (capInForce capped.pwr).getD 0, capped, inv_of_test (by decide +kernel), by decide +kernel, by decide +kernel, ⟨15, by decide +kernel⟩⟩,
    ⟨(capInForce capped.pwr).getD 0 + 1, (capInForce capped.pwr).getD 0, { capped with fields := on.fields.map (fun x => { x with gait := .walk }) }, inv_of_test (by decide +kernel), by decide +kernel⟩,
    ⟨0, on, Or.inl (by decide +kernel)⟩,
    ⟨0, modField on 15 (fun x => { x with capLimit := .trot }), inv_of_test (by decide +kernel), Or.inl (by decide +kernel), ⟨15, by decide +kernel⟩⟩,
    ⟨0, on, by decide +kernel⟩,
    ⟨(capInForce capped.pwr).getD 0 + 1, (capInForce capped.pwr).getD 0, capped, by decide +kernel⟩⟩

theorem hypotheses_HeatActsOnRegionsAndModule :
    (∃ (r temp : Nat) (s : State), (Inv s) ∧ (r < 96) ∧ ((regionAt s r).live = true) ∧ (100 ≤ temp) ∧ (temp < 105)) ∧
    (∃ (r temp : Nat) (ok : Bool) (s : State), (Inv s) ∧ (r < 96) ∧ ((regionAt s r).live = true) ∧ (ok = false ∨ 105 ≤ temp)) ∧
    (∃ (r temp : Nat) (s : State), (Inv s) ∧ (r < 96) ∧ ((regionAt s r).live = true) ∧ (temp ≤ 95) ∧ ((∀ k ∈ regionsOf (fieldOf r), k ≠ r → (regionAt s k).live = true → (regionAt s k).temp ≤ 95))) ∧
    (∃ (r temp : Nat) (s : State), (Inv s) ∧ (r < 96) ∧ ((regionAt s r).live = false) ∧ (temp < 100)) ∧
    (∃ (r : Nat) (s : State), (Inv s) ∧ (r < 96) ∧ ((regionAt s r).live = true) ∧ (atBoundary s = true ∨ slotOfRegion s r = none) ∧ ((regionAt s r).leavePending = false) ∧ ((regionAt s r).heatPending = true) ∧ (placedWork s r = false)) ∧
    (∃ (r : Nat) (s : State), (Inv s) ∧ (r < 96) ∧ ((regionAt s r).live = true) ∧ (atBoundary s = true) ∧ ((regionAt s r).leavePending = true)) ∧
    (∃ (r : Nat) (s : State), (Inv s) ∧ (r < 96) ∧ (s.pwr.capPolicy = true) ∧ ((regionAt s r).live = true) ∧ (phasesLost (regionAt s r) = 2) ∧ (atBoundary s = true)) ∧
    (∃ (r : Nat) (s : State), (Inv s) ∧ (r < 96) ∧ ((regionAt s r).heatOff = true) ∧ ((regionAt s r).darkUntil.toNat ≤ (gtcNs s).toNat) ∧ ((fieldAt s (fieldOf r)).spineOn = true) ∧ ((fieldAt s (fieldOf r)).planeOff = false) ∧ ((regionAt s r).fuseBlown = false) ∧ ((regionAt s r).powered = false) ∧ ((fieldAt s (fieldOf r)).softStart = none) ∧ (phasesLost (regionAt s r) < 3) ∧ ((regionAt s r).quarantined = false)) ∧
    (∃ (c : Nat) (s : State), (Inv s) ∧ (c < 4)) ∧
    (∃ (a b d : Nat) (s : State), (Inv s)) ∧
    (∃ (r : Nat) (s : State), (r < 96) ∧ ((regionAt s r).trimCap = true) ∧ ((regionAt s r).trimCapSince + 30 * 86400 ≤ lifeTime s)) ∧
    (∃ (r : Nat) (s : State), (Inv s) ∧ (r < 96) ∧ ((regionAt s r).live = true) ∧ (atBoundary s = true ∨ slotOfRegion s r = none) ∧ ((regionAt s r).leavePending = false) ∧ ((regionAt s r).heatPending = true) ∧ (placedWork s r = false) ∧ (slotOfRegion s r = none) ∧ (atBoundary s = false)) :=
  ⟨⟨95, 104, on, inv_of_test (by decide +kernel), by decide +kernel⟩,
    ⟨95, 105, true, on, inv_of_test (by decide +kernel), by decide +kernel⟩,
    ⟨95, 95, on, inv_of_test (by decide +kernel), by decide +kernel⟩,
    ⟨95, 99, modRegion on 95 (fun x => { x with live := false }), inv_of_test (by decide +kernel), by decide +kernel⟩,
    ⟨95, modRegion on 95 (fun x => { x with heatPending := true }), inv_of_test (by decide +kernel), by decide +kernel⟩,
    ⟨95, modRegion on 95 (fun x => { x with leavePending := true }), inv_of_test (by decide +kernel), by decide +kernel⟩,
    ⟨95, putPwr (modRegion on 95 (fun x => { x with phaseLost := 3 })) (fun p => { p with capPolicy := true }), inv_of_test (by decide +kernel), by decide +kernel⟩,
    ⟨95, modRegion on 95 (fun x => { x with heatOff := true, powered := false, live := false, darkUntil := 10000000000 }), inv_of_test (by decide +kernel), by decide +kernel⟩,
    ⟨3, on, inv_of_test (by decide +kernel), by decide +kernel⟩,
    ⟨20, 40, 11, on, inv_of_test (by decide +kernel)⟩,
    ⟨95, putClk (modRegion on 95 (fun x => { x with trimCap := true })) (fun c => { c with lifeBase := 30 * 86400 }), by decide +kernel⟩,
    ⟨95, setSlot (modRegion (flying sweepOp [sweepTile .issued]) 95 (fun x => { x with heatPending := true })) 95 .unmapped, inv_of_test (by decide +kernel), by decide +kernel⟩⟩

theorem hypotheses_FarrierSessionsRun :
    (∃ (c : Instr) (r : Nat) (s : State), (maySession s = true) ∧ (returnNext s = some r) ∧ (c = .farrierReturnStart ∨ c = .farrierRetry ∨ (c = .farrierRollingStart ∧ s.farrier.en = true))) ∧
    (∃ (c : Instr) (r : Nat) (s : State), (maySession s = true) ∧ (returnNext s = none) ∧ (rollingNext s = some r) ∧ (s.farrier.en = true) ∧ (c = .farrierRollingStart ∨ (c = .farrierRetry ∧ s.farrier.waiting = true))) ∧
    (∃ (s : State), (maySession s = false) ∧ (s.farrier.en = true)) ∧
    (∃ (c : Instr) (s : State), (maySession s = false) ∧ (c = .farrierReturnStart ∨ c = .farrierRetry)) ∧
    (∃ (x : Session) (s : State), (Inv s) ∧ (s.farrier.session = some x) ∧ (x.held = false) ∧ (x.region < 96) ∧ (masterOn s = true) ∧ (s.glb.zeroing = false) ∧ (s.glb.zeroDue = false) ∧ ((regionAt s x.region).powered = true) ∧ ((x.returning = true ∨ unverifiedWork s x.region = false))) ∧
    (∃ (r v : Nat) (x : Session) (s : State), (Inv s) ∧ (s.farrier.session = some x) ∧ (x.region = r) ∧ (x.returning = false) ∧ (x.held = true) ∧ (masterOn s = true) ∧ (s.glb.zeroing = false) ∧ (s.glb.zeroDue = false) ∧ (r < 96) ∧ ((regionAt s r).powered = true)) :=
  ⟨⟨.farrierReturnStart, 95, mayComeBack, by decide +kernel⟩,
    ⟨.farrierRollingStart, 0, on, by decide +kernel⟩,
    ⟨putPwr on (fun p => { p with curbExt := true }), by decide +kernel⟩,
    ⟨.farrierRetry, putPwr on (fun p => { p with curbExt := true }), by decide +kernel⟩,
    ⟨{ region := 95, returning := false, held := false, taken := 0, heldAt := 0, stressed := false }, putFarrier on (fun x => { x with session := some { region := 95, returning := false, held := false, taken := 0, heldAt := 0, stressed := false } }), inv_of_test (by decide +kernel), by decide +kernel⟩,
    ⟨95, 600, { region := 95, returning := false, held := true, taken := 0, heldAt := 0, stressed := false }, putFarrier on (fun x => { x with session := some { region := 95, returning := false, held := true, taken := 0, heldAt := 0, stressed := false } }), inv_of_test (by decide +kernel), by decide +kernel⟩⟩

theorem hypotheses_HeadsWaitAndAreSelected :
    (∃ (reads : ReadOutcome) (s : State), (mayStart s = true) ∧ (s.master.sel = none) ∧ (s.master.op = none) ∧ (asideOps s = []) ∧ ((∀ o ∈ s.master.colls, ∀ c, o.coll = some c → c.agreed = true → c.started = true ∨ c.stalled = true))) ∧
    (∃ (ring : Nat) (s : State) (e : Entry), (waitingHead s ring = some e) ∧ (e.satisfied = true)) ∧
    (∃ (ring : Nat) (s : State)  (e : Entry) (l : List Entry), (Inv s) ∧ (ring < 16) ∧ (s.clk.asleep = false) ∧ ((∀ o, s.master.op = some o → collWaits o = false)) ∧ (exchanging s ring = none) ∧ (waitingHead s ring = some e) ∧ (headOf s ring = some l) ∧ (e.satisfied = false) ∧ (timeoutRun s e = true)) ∧
    (∃ (ring : Nat) (s : State)  (o : Op) (e : Entry), (Inv s) ∧ (ring < 16) ∧ (s.clk.asleep = false) ∧ ((∀ o, s.master.op = some o → collWaits o = false)) ∧ (exchanging s ring = some (o, e)) ∧ (timeoutRun s e = true) ∧ (inFlight s o = false)) ∧
    (∃ (ring : Nat) (s : State), (Inv s) ∧ (ring < 16) ∧ (s.clk.asleep = false) ∧ ((∀ o, s.master.op = some o → collWaits o = false)) ∧ (exchanging s ring = none) ∧ ((∀ e, waitingHead s ring = some e → e.satisfied = true ∨ timeoutRun s e = false))) ∧
    (∃ (ring : Nat) (s : State), (s.clk.asleep = true)) ∧
    (∃ (f : Nat) (s : State), (Inv s) ∧ (f < 16) ∧ ((fieldAt s f).spineOn = true)) ∧
    (∃ (f : Nat) (s : State), (Inv s) ∧ (f < 16) ∧ ((fieldAt s f).spineOn = false) ∧ (s.master.sel = none) ∧ (asideOps s = [])) ∧
    (∃ (f : Nat) (s : State)  (sel : Selection) (i : Nat), (Inv s) ∧ (f < 16) ∧ ((fieldAt s f).spineOn = false) ∧ (asideOps s = []) ∧ ((∀ r e es, r < 16 → freshEntries s r = e :: es → lostWait s e = false)) ∧ (s.master.sel = some sel) ∧ (signalLost s (acceptedMembers s sel) = some i)) ∧
    (∃ (ring : Nat) (s : State)  (e : Entry) (l : List Entry), (Inv s) ∧ (ring < 16) ∧ (s.clk.asleep = false) ∧ ((∀ o, s.master.op = some o → collWaits o = false)) ∧ (exchanging s ring = none) ∧ (waitingHead s ring = some e) ∧ (headOf s ring = some l) ∧ (e.satisfied = false) ∧ (timeoutRun s e = true) ∧ (AtFront s ring e) ∧ (l = [e])) ∧
    (∃ (ring : Nat) (s : State)  (e : Entry) (l : List Entry), (Inv s) ∧ (ring < 16) ∧ (s.clk.asleep = false) ∧ ((∀ o, s.master.op = some o → collWaits o = false)) ∧ (exchanging s ring = none) ∧ (waitingHead s ring = some e) ∧ (headOf s ring = some l) ∧ (e.satisfied = false) ∧ (timeoutRun s e = true) ∧ (¬ AtFront s ring e)) ∧
    (∃ (reads : ReadOutcome) (s : State), (mayStart s = true) ∧ (s.master.sel = none) ∧ (s.master.op = none) ∧ (asideOps s = []) ∧ ((∀ o ∈ s.master.colls, ∀ c, o.coll = some c → c.agreed = true → c.started = true ∨ c.stalled = true)) ∧ (s.master.preSel = none)) ∧
    (∃ (reads : ReadOutcome) (s : State) (p : Selection), (mayStart s = true) ∧ (s.master.sel = none) ∧ (s.master.op = none) ∧ (asideOps s = []) ∧ ((∀ o ∈ s.master.colls, ∀ c, o.coll = some c → c.agreed = true → c.started = true ∨ c.stalled = true)) ∧ (s.master.preSel = some p) ∧ (p.ring < 16)) ∧
    (∃ (reads : ReadOutcome) (s : State) (r : Nat) (e : Entry) (es : List Entry), (mayStart s = true) ∧ (s.master.sel = none) ∧ (s.master.op = none) ∧ (asideOps s = []) ∧ ((∀ o ∈ s.master.colls, ∀ c, o.coll = some c → c.agreed = true → c.started = true ∨ c.stalled = true)) ∧ (r < 16) ∧ (headOf s r = some (e :: es)) ∧ (dWaitEn e.words = true) ∧ (e.begun = false) ∧ (e.ended = none) ∧ (syncAvailable s (dWaitObj e.words) = true)) ∧
    (∃ (reads : ReadOutcome) (s : State) (r : Nat) (e : Entry) (es : List Entry), (mayStart s = true) ∧ (s.master.sel = none) ∧ (s.master.op = none) ∧ (asideOps s = []) ∧ ((∀ o ∈ s.master.colls, ∀ c, o.coll = some c → c.agreed = true → c.started = true ∨ c.stalled = true)) ∧ (r < 16) ∧ (headOf s r = some (e :: es)) ∧ (dWaitEn e.words = true) ∧ (e.begun = false) ∧ (e.ended = none) ∧ (syncAvailable s (dWaitObj e.words) = false)) ∧
    (∃ (f : Nat) (s : State) (r : Nat) (e : Entry) (es : List Entry), (Inv s) ∧ (f < 16) ∧ ((fieldAt s f).spineOn = false) ∧ (s.master.sel = none) ∧ (asideOps s = []) ∧ (r < 16) ∧ (freshEntries s r = e :: es) ∧ (lostWait s e = true)) :=
  ⟨⟨ReadOutcome.clean, on, by decide +kernel, by decide +kernel, by decide +kernel, by decide +kernel, (fun o h => by have h : o ∈ ([] : List Op) := h; cases h)⟩,
    ⟨15, withRing on 15 { upRing with entries := [{ entryOf .waiting (waitWords 0 1) with satisfied := true }] }, { entryOf .waiting (waitWords 0 1) with satisfied := true }, by decide +kernel⟩,
    ⟨15, withRing on 15 { upRing with entries := [entryOf .waiting (waitWords 0 1)] }, entryOf .waiting (waitWords 0 1), [entryOf .waiting (waitWords 0 1)], inv_of_test (by decide +kernel), by decide +kernel, by decide +kernel, (fun o h => by have h : none = some o := h; cases h), by decide +kernel⟩,
    ⟨15, exchangingOn, exchangeOp, entryOf .accepted (waitWords 0 1), inv_of_test (by decide +kernel), by decide +kernel, by decide +kernel, (fun o h => by have h : none = some o := h; cases h), by decide +kernel⟩,
    ⟨15, on, inv_of_test (by decide +kernel), by decide +kernel, by decide +kernel, (fun o h => by have h : none = some o := h; cases h), by decide +kernel, (fun e h => by rw [show waitingHead on 15 = none by decide +kernel] at h; cases h)⟩,
    ⟨15, putClk on (fun c => { c with asleep := true }), by decide +kernel⟩,
    ⟨15, on, inv_of_test (by decide +kernel), by decide +kernel⟩,
    ⟨15, withoutSpine (withRing on 15 { upRing with entries := [entryOf .waiting (waitWords 65535 1)] }) 15, inv_of_test (by decide +kernel), by decide +kernel⟩,
    ⟨15, withoutSpine (flying { sweepOp with words := farWords } []) 15, selOf farWords 1, 0, inv_of_test (by decide +kernel), by decide +kernel, by decide +kernel, by decide +kernel, (fun r e es hr h => by rw [show ∀ k < 16, freshEntries (withoutSpine (flying { sweepOp with words := farWords } []) 15) k = [] by decide +kernel] at h; cases h; exact hr), by decide +kernel⟩,
    ⟨15, withRing on 15 { upRing with entries := [entryOf .waiting (waitWords 0 1)] }, entryOf .waiting (waitWords 0 1), [entryOf .waiting (waitWords 0 1)], inv_of_test (by decide +kernel), by decide +kernel, by decide +kernel, (fun o h => by have h : none = some o := h; cases h), by decide +kernel, by decide +kernel, by decide +kernel, by decide +kernel, by decide +kernel, by unfold AtFront; decide +kernel, by decide +kernel⟩,
    ⟨15, withRing on 15 { upRing with entries := [{ entryOf .running sweepWords with count := 7 }, entryOf .waiting (waitWords 0 1)] }, entryOf .waiting (waitWords 0 1), [entryOf .waiting (waitWords 0 1)], inv_of_test (by decide +kernel), by decide +kernel, by decide +kernel, (fun o h => by have h : none = some o := h; cases h), by decide +kernel, by decide +kernel, by decide +kernel, by decide +kernel, by decide +kernel, by unfold AtFront; decide +kernel⟩,
    ⟨ReadOutcome.clean, on, by decide +kernel, by decide +kernel, by decide +kernel, by decide +kernel, (fun o h => by have h : o ∈ ([] : List Op) := h; cases h), by decide +kernel⟩,
    ⟨ReadOutcome.clean, putMaster on (fun m => { m with preSel := some (selOf sweepWords 0) }), selOf sweepWords 0, by decide +kernel, by decide +kernel, by decide +kernel, by decide +kernel, (fun o h => by have h : o ∈ ([] : List Op) := h; cases h), by decide +kernel⟩,
    ⟨ReadOutcome.clean, withRing on 15 { upRing with entries := [entryOf .fetched (waitWords 0 1)] }, 15, entryOf .fetched (waitWords 0 1), [], by decide +kernel, by decide +kernel, by decide +kernel, by decide +kernel, (fun o h => by have h : o ∈ ([] : List Op) := h; cases h), by decide +kernel⟩,
    ⟨ReadOutcome.clean, withoutSpine (withRing on 15 { upRing with entries := [entryOf .fetched (waitWords 65535 1)] }) 15, 15, entryOf .fetched (waitWords 65535 1), [], by decide +kernel, by decide +kernel, by decide +kernel, by decide +kernel, (fun o h => by have h : o ∈ ([] : List Op) := h; cases h), by decide +kernel⟩,
    ⟨15, withoutSpine (withRing on 15 { upRing with entries := [entryOf .waiting (waitWords 65535 1)] }) 15, 15, entryOf .waiting (waitWords 65535 1), [], inv_of_test (by decide +kernel), by decide +kernel⟩⟩

theorem hypotheses_DescriptorsFetchedAndAccepted :
    (∃ (ring : Nat) (host : List Host.Cell) (s : State) (e : Entry), (Inv s) ∧ (mayFetch (hostMerge s host) ring = true) ∧ (e = { noEntry with count := (ringAt s ring).fetch, words := wordsOf (descriptorAt (hostMerge s host) (ringAt s ring)) })) ∧
    (∃ (host : List Host.Cell) (reads : ReadOutcome) (s u w v : State) (sel : Selection) (e : Entry) (spans : List Interval)
      (bad : List Nat), (Inv s) ∧ (mayRun s = true) ∧ (u = closeMember (hostMerge s host)) ∧ (u.master.op = none) ∧ (u.master.sel = some sel) ∧ (sel.ring < 16) ∧ (sel.members[sel.next]? = some e) ∧ (mayAccept u sel = true) ∧ (w = openMember u sel.next) ∧ (v = seenState w reads) ∧ (spans = acceptReads v sel.ring sel.members sel.next e (earlierFoots w sel.next) true) ∧ (bad = (outcomeOf reads spans).uncorrectable) ∧ (readAccess w spans [] = .waits)) ∧
    (∃ (host : List Host.Cell) (reads : ReadOutcome) (s u w v : State) (sel : Selection) (e : Entry) (spans : List Interval)
      (bad : List Nat)  (m : Nat), (Inv s) ∧ (mayRun s = true) ∧ (u = closeMember (hostMerge s host)) ∧ (u.master.op = none) ∧ (u.master.sel = some sel) ∧ (sel.ring < 16) ∧ (sel.members[sel.next]? = some e) ∧ (mayAccept u sel = true) ∧ (w = openMember u sel.next) ∧ (v = seenState w reads) ∧ (spans = acceptReads v sel.ring sel.members sel.next e (earlierFoots w sel.next) true) ∧ (bad = (outcomeOf reads spans).uncorrectable) ∧ (readAccess w spans [] = .failed m) ∧ (sel.next = 0)) ∧
    (∃ (host : List Host.Cell) (reads : ReadOutcome) (s u w v : State) (sel : Selection) (e : Entry) (spans : List Interval)
      (bad : List Nat), (Inv s) ∧ (mayRun s = true) ∧ (u = closeMember (hostMerge s host)) ∧ (u.master.op = none) ∧ (u.master.sel = some sel) ∧ (sel.ring < 16) ∧ (sel.members[sel.next]? = some e) ∧ (mayAccept u sel = true) ∧ (w = openMember u sel.next) ∧ (v = seenState w reads) ∧ (spans = acceptReads v sel.ring sel.members sel.next e (earlierFoots w sel.next) true) ∧ (bad = (outcomeOf reads spans).uncorrectable) ∧ (readAccess w spans [] ≠ .waits) ∧ ((∀ m, readAccess w spans [] ≠ .failed m)) ∧ (acceptVerdict v sel.ring sel.members sel.next e (earlierFoots w sel.next) bad true = .ok) ∧ (dOpcode e.words ≠ 12)) ∧
    (∃ (host : List Host.Cell) (reads : ReadOutcome) (s u w v : State) (sel : Selection) (e : Entry) (spans : List Interval)
      (bad : List Nat)  (status : Byte) (detail : Word), (Inv s) ∧ (mayRun s = true) ∧ (u = closeMember (hostMerge s host)) ∧ (u.master.op = none) ∧ (u.master.sel = some sel) ∧ (sel.ring < 16) ∧ (sel.members[sel.next]? = some e) ∧ (mayAccept u sel = true) ∧ (w = openMember u sel.next) ∧ (v = seenState w reads) ∧ (spans = acceptReads v sel.ring sel.members sel.next e (earlierFoots w sel.next) true) ∧ (bad = (outcomeOf reads spans).uncorrectable) ∧ (readAccess w spans [] ≠ .waits) ∧ ((∀ m, readAccess w spans [] ≠ .failed m)) ∧ (sel.next = 0) ∧ (acceptVerdict v sel.ring sel.members sel.next e (earlierFoots w sel.next) bad true = .reject status detail)) ∧
    (∃ (host : List Host.Cell) (reads : ReadOutcome) (s u w v : State) (sel : Selection) (e : Entry) (spans : List Interval)
      (bad : List Nat)  (a : Nat), (Inv s) ∧ (mayRun s = true) ∧ (u = closeMember (hostMerge s host)) ∧ (u.master.op = none) ∧ (u.master.sel = some sel) ∧ (sel.ring < 16) ∧ (sel.members[sel.next]? = some e) ∧ (mayAccept u sel = true) ∧ (w = openMember u sel.next) ∧ (v = seenState w reads) ∧ (spans = acceptReads v sel.ring sel.members sel.next e (earlierFoots w sel.next) true) ∧ (bad = (outcomeOf reads spans).uncorrectable) ∧ (readAccess w spans [] ≠ .waits) ∧ ((∀ m, readAccess w spans [] ≠ .failed m)) ∧ (sel.next = 0) ∧ (acceptVerdict v sel.ring sel.members sel.next e (earlierFoots w sel.next) bad true = .bad a)) ∧
    (∃ (host : List Host.Cell) (reads : ReadOutcome) (s u w v : State) (sel : Selection) (e : Entry) (spans : List Interval)
      (bad : List Nat)  (status : Byte) (detail : Word), (Inv s) ∧ (mayRun s = true) ∧ (u = closeMember (hostMerge s host)) ∧ (u.master.op = none) ∧ (u.master.sel = some sel) ∧ (sel.ring < 16) ∧ (sel.members[sel.next]? = some e) ∧ (mayAccept u sel = true) ∧ (w = openMember u sel.next) ∧ (v = seenState w reads) ∧ (spans = acceptReads v sel.ring sel.members sel.next e (earlierFoots w sel.next) true) ∧ (bad = (outcomeOf reads spans).uncorrectable) ∧ (readAccess w spans [] ≠ .waits) ∧ ((∀ m, readAccess w spans [] ≠ .failed m)) ∧ (0 < sel.next) ∧ (acceptedOps u ≠ []) ∧ (acceptVerdict v sel.ring sel.members sel.next e (earlierFoots w sel.next) bad true = .reject status detail)) ∧
    (∃ (host : List Host.Cell) (s u v : State) (ring : Nat) (e : Entry) (c : Coll), (Inv s) ∧ (mayRun s = true) ∧ (u = closeMember (hostMerge s host)) ∧ (u.master.op = none) ∧ (u.master.sel = some { ring := ring, members := [e], next := 0 }) ∧ (ring < 16) ∧ ((ringAt u ring).entries = [e]) ∧ (mayAccept u { ring := ring, members := [e], next := 0 } = true) ∧ (u.master.colls = []) ∧ (u.master.pre = none) ∧ (u.master.preTiles = []) ∧ (v = openMember u 0) ∧ (dOpcode e.words = 12) ∧ (readAccess v (acceptReads v ring [e] 0 e [] true) [] = .ok) ∧ (acceptVerdict v ring [e] 0 e [] [] true = .ok) ∧ (c = newColl v e.words) ∧ ((∀ f ∈ s.lnk.mail, f.comm ≠ c.comm)) ∧ (c.variant = 4 ∨ c.variant = 5 ∨ c.rank ≠ 0 ∨ 1 < c.ranks)) ∧
    (∃ (host : List Host.Cell) (reads : ReadOutcome) (s u : State), (mayStart s = true) ∧ (allDealt s = true) ∧ (s.master.preSel = none) ∧ (u = updateHeads (hostMerge s host))) ∧
    (∃ (ring : Nat) (host : List Host.Cell) (s : State) (e : Entry), (Inv s) ∧ (mayFetch (hostMerge s host) ring = true) ∧ (e = { noEntry with count := (ringAt s ring).fetch, words := wordsOf (descriptorAt (hostMerge s host) (ringAt s ring)) }) ∧ (dWaitEn e.words = false) ∧ (∀ h ∈ freshEntries s ring, dWaitEn h.words = false ∨ h.begun = true)) ∧
    (∃ (ring : Nat) (host : List Host.Cell) (s : State) (e : Entry), (Inv s) ∧ (mayFetch (hostMerge s host) ring = true) ∧ (e = { noEntry with count := (ringAt s ring).fetch, words := wordsOf (descriptorAt (hostMerge s host) (ringAt s ring)) }) ∧ (dWaitEn e.words = true) ∧ (dGroupNext e.words = false) ∧ (freshEntries s ring = []) ∧ (s.master.sel = none) ∧ (s.glb.zeroDue = false) ∧ (s.glb.zeroing = false) ∧ (syncAvailable s (dWaitObj e.words) = true)) ∧
    (∃ (ring : Nat) (host : List Host.Cell) (s : State) (e : Entry), (Inv s) ∧ (mayFetch (hostMerge s host) ring = true) ∧ (e = { noEntry with count := (ringAt s ring).fetch, words := wordsOf (descriptorAt (hostMerge s host) (ringAt s ring)) }) ∧ (dWaitEn e.words = true) ∧ (dGroupNext e.words = false) ∧ (freshEntries s ring = []) ∧ (s.master.sel = none) ∧ (s.glb.zeroDue = false) ∧ (s.glb.zeroing = false) ∧ (syncAvailable s (dWaitObj e.words) = false) ∧ ((ringAt s ring).entries = [])) ∧
    (∃ (host : List Host.Cell) (reads : ReadOutcome) (s u w v : State) (sel : Selection) (e : Entry) (spans : List Interval)
      (bad : List Nat)  (status : Byte) (detail : Word), (Inv s) ∧ (mayRun s = true) ∧ (u = closeMember (hostMerge s host)) ∧ (u.master.op = none) ∧ (u.master.sel = some sel) ∧ (sel.ring < 16) ∧ (sel.members[sel.next]? = some e) ∧ (mayAccept u sel = true) ∧ (w = openMember u sel.next) ∧ (v = seenState w reads) ∧ (spans = acceptReads v sel.ring sel.members sel.next e (earlierFoots w sel.next) true) ∧ (bad = (outcomeOf reads spans).uncorrectable) ∧ (readAccess w spans [] ≠ .waits) ∧ ((∀ m, readAccess w spans [] ≠ .failed m)) ∧ (sel.next = 0) ∧ (acceptVerdict v sel.ring sel.members sel.next e (earlierFoots w sel.next) bad true = .reject status detail) ∧ (AtFront u sel.ring e) ∧ (sel.members = [e])) ∧
    (∃ (host : List Host.Cell) (reads : ReadOutcome) (s u w v : State) (sel : Selection) (e : Entry) (spans : List Interval)
      (bad : List Nat), (Inv s) ∧ (mayRun s = true) ∧ (u = closeMember (hostMerge s host)) ∧ (u.master.op = none) ∧ (u.master.sel = some sel) ∧ (sel.ring < 16) ∧ (sel.members[sel.next]? = some e) ∧ (mayAccept u sel = true) ∧ (w = openMember u sel.next) ∧ (v = seenState w reads) ∧ (spans = acceptReads v sel.ring sel.members sel.next e (earlierFoots w sel.next) true) ∧ (bad = (outcomeOf reads spans).uncorrectable) ∧ (readAccess w spans [] ≠ .waits) ∧ ((∀ m, readAccess w spans [] ≠ .failed m)) ∧ (acceptVerdict v sel.ring sel.members sel.next e (earlierFoots w sel.next) bad true = .ok) ∧ (dOpcode e.words ≠ 12) ∧ (dOpcode e.words = 15)) ∧
    (∃ (host : List Host.Cell) (reads : ReadOutcome) (s u : State), (mayStart s = true) ∧ (allDealt s = true) ∧ (s.master.preSel = none) ∧ (u = updateHeads (hostMerge s host)) ∧ (readyRing u = none)) ∧
    (∃ (host : List Host.Cell) (reads : ReadOutcome) (s u : State) (r : Nat) (e : Entry) (es : List Entry), (mayStart s = true) ∧ (allDealt s = true) ∧ (s.master.preSel = none) ∧ (u = updateHeads (hostMerge s host)) ∧ (readyRing u = some (r, e :: es)) ∧ (readAccess u (acceptReads (seenState (openPre u) reads) r (e :: es) 0 e [] false) [] ≠ .waits)) ∧
    (∃ (host : List Host.Cell) (reads : ReadOutcome) (s u : State) (r : Nat) (e : Entry) (es : List Entry), (mayStart s = true) ∧ (allDealt s = true) ∧ (s.master.preSel = none) ∧ (u = updateHeads (hostMerge s host)) ∧ (readyRing u = some (r, e :: es)) ∧ (readAccess u (acceptReads (seenState (openPre u) reads) r (e :: es) 0 e [] false) [] = .waits)) ∧
    (∃ (host : List Host.Cell) (s u v : State) (ring : Nat) (e : Entry) (c : Coll), (Inv s) ∧ (mayRun s = true) ∧ (u = closeMember (hostMerge s host)) ∧ (u.master.op = none) ∧ (u.master.sel = some { ring := ring, members := [e], next := 0 }) ∧ (ring < 16) ∧ ((ringAt u ring).entries = [e]) ∧ (mayAccept u { ring := ring, members := [e], next := 0 } = true) ∧ (u.master.colls = []) ∧ (u.master.pre = none) ∧ (u.master.preTiles = []) ∧ (v = openMember u 0) ∧ (dOpcode e.words = 12) ∧ (readAccess v (acceptReads v ring [e] 0 e [] true) [] = .ok) ∧ (acceptVerdict v ring [e] 0 e [] [] true = .ok) ∧ (c = newColl v e.words) ∧ ((∀ f ∈ s.lnk.mail, f.comm ≠ c.comm)) ∧ (c.variant = 4 ∨ c.variant = 5 ∨ c.rank ≠ 0 ∨ 1 < c.ranks) ∧ (c.variant ≤ 3)) :=
  ⟨⟨15, [], withRing on 15 upRing, _, inv_of_test (by decide +kernel), by decide +kernel, rfl⟩,
    ⟨[], ReadOutcome.clean, eachStack (selected sweepWords) (fun x => { x with retraining := true }), _, _, _, (selOf sweepWords 0), entryOf .accepted sweepWords, _, _, inv_of_test (by decide +kernel), by decide +kernel, rfl, by decide +kernel, by decide +kernel, by decide +kernel, by decide +kernel, by decide +kernel, rfl, rfl, rfl, rfl, by decide +kernel⟩,
    ⟨[], ReadOutcome.clean, eachStack (selected sweepWords) (fun x => { x with failed := true }), _, _, _, (selOf sweepWords 0), entryOf .accepted sweepWords, _, _, (dramPlace on 0x1000).1, inv_of_test (by decide +kernel), by decide +kernel, rfl, by decide +kernel, by decide +kernel, by decide +kernel, by decide +kernel, by decide +kernel, rfl, rfl, rfl, rfl, by decide +kernel⟩,
    ⟨[], ReadOutcome.clean, selected sweepWords, _, _, _, (selOf sweepWords 0), entryOf .accepted sweepWords, _, _, inv_of_test (by decide +kernel), by decide +kernel, rfl, by decide +kernel, by decide +kernel, by decide +kernel, by decide +kernel, by decide +kernel, rfl, rfl, rfl, rfl, by decide +kernel, not_failed (Or.inl (by decide +kernel)), by decide +kernel⟩,
    ⟨[], ReadOutcome.clean, selected badWords, _, _, _, (selOf badWords 0), entryOf .accepted badWords, _, _, (verdictOf badWords).1, (verdictOf badWords).2, inv_of_test (by decide +kernel), by decide +kernel, rfl, by decide +kernel, by decide +kernel, by decide +kernel, by decide +kernel, by decide +kernel, rfl, rfl, rfl, rfl, by decide +kernel, not_failed (Or.inl (by decide +kernel)), by decide +kernel⟩,
    ⟨[], { ReadOutcome.clean with uncorrectable := [0x1000] }, selected sweepWords, _, _, _, (selOf sweepWords 0), entryOf .accepted sweepWords, _, _, _, inv_of_test (by decide +kernel), by decide +kernel, rfl, by decide +kernel, by decide +kernel, by decide +kernel, by decide +kernel, by decide +kernel, rfl, rfl, rfl, rfl, by decide +kernel, not_failed (Or.inl (by decide +kernel)), by decide +kernel, rfl⟩,
    ⟨[], ReadOutcome.clean, laterMember, _, _, _, laterSel, { entryOf .fetched badWords with count := 1 }, _, _, (verdictOf badWords).1, (verdictOf badWords).2, inv_of_test (by decide +kernel), by decide +kernel, rfl, by decide +kernel, by decide +kernel, by decide +kernel, by decide +kernel, by decide +kernel, rfl, rfl, rfl, rfl, by decide +kernel, not_failed (Or.inl (by decide +kernel)), by decide +kernel⟩,
    ⟨[], collSelected, _, _, 0, entryOf .accepted sendWords, _, inv_of_test (by decide +kernel), by decide +kernel, rfl, by decide +kernel, by decide +kernel, by decide +kernel, by decide +kernel, by decide +kernel, by decide +kernel, by decide +kernel, by decide +kernel, rfl, by decide +kernel, by decide +kernel, by decide +kernel, rfl, (fun f h => by have h : f ∈ ([] : List Flit) := h; cases h), by decide +kernel⟩,
    ⟨[], ReadOutcome.clean, flying sweepOp [sweepTile .assigned], updateHeads (hostMerge (flying sweepOp [sweepTile .assigned]) []), by decide +kernel, by decide +kernel, by decide +kernel, rfl⟩,
    ⟨15, postedCells (sweepWords), withRing on 15 upRing, _, inv_of_test (by decide +kernel), by decide +kernel, rfl, by decide +kernel⟩,
    ⟨15, postedCells (waitWords 0 1), withRing on 15 upRing, _, inv_of_test (by decide +kernel), by decide +kernel, rfl, by decide +kernel⟩,
    ⟨15, postedCells (waitWords 65535 1), withoutSpine (withRing on 15 upRing) 15, _, inv_of_test (by decide +kernel), by decide +kernel, rfl, by decide +kernel⟩,
    ⟨[], ReadOutcome.clean, selected badWords, _, _, _, (selOf badWords 0), entryOf .accepted badWords, _, _, (verdictOf badWords).1, (verdictOf badWords).2, inv_of_test (by decide +kernel), by decide +kernel, rfl, by decide +kernel, by decide +kernel, by decide +kernel, by decide +kernel, by decide +kernel, rfl, rfl, rfl, rfl, by decide +kernel, not_failed (Or.inl (by decide +kernel)), by decide +kernel, by decide +kernel, by unfold AtFront; decide +kernel, by decide +kernel⟩,
    ⟨[], ReadOutcome.clean, { selected capWords with dram := [(0x1001, 0x20), (0x1006, 6), (0x1009, 1), (0x100C, 1), (0x1010, 1), (0x1014, 1)] }, _, _, _, (selOf capWords 0), entryOf .accepted capWords, _, _, inv_of_test (by decide +kernel), by decide +kernel, rfl, by decide +kernel, by decide +kernel, by decide +kernel, by decide +kernel, by decide +kernel, rfl, rfl, rfl, rfl, by decide +kernel, not_failed (Or.inl (by decide +kernel)), by decide +kernel⟩,
    ⟨[], ReadOutcome.clean, flying sweepOp [sweepTile .assigned], updateHeads (hostMerge (flying sweepOp [sweepTile .assigned]) []), by decide +kernel, by decide +kernel, by decide +kernel, rfl, by decide +kernel⟩,
    ⟨[], ReadOutcome.clean, readyBeside sweepWords, updateHeads (hostMerge (readyBeside sweepWords) []), 15, entryOf .fetched sweepWords, [], by decide +kernel, by decide +kernel, by decide +kernel, rfl, by decide +kernel⟩,
    ⟨[], ReadOutcome.clean, eachStack (readyBeside sweepWords) (fun m => { m with retraining := true }), updateHeads (hostMerge (eachStack (readyBeside sweepWords) (fun m => { m with retraining := true })) []), 15, entryOf .fetched sweepWords, [], by decide +kernel, by decide +kernel, by decide +kernel, rfl, by decide +kernel⟩,
    ⟨[], { collSelected with hst := (withRing on 0 { upRing with entries := [entryOf .accepted gatherWords] }).hst, master := { collSelected.master with sel := some (selOf gatherWords 0) }, dram := (0x1001, 0x20) :: (0x1006, 6) :: (0x1008, 128) :: (0x100C, 1) :: (0x1010, 1) :: (0x1014, 1) :: collSelected.dram }, _, _, 0, entryOf .accepted gatherWords, _, inv_of_test (by decide +kernel), by decide +kernel, rfl, by decide +kernel, by decide +kernel, by decide +kernel, by decide +kernel, by decide +kernel, by decide +kernel, by decide +kernel, by decide +kernel, rfl, by decide +kernel, by decide +kernel, by decide +kernel, rfl, (fun f h => by have h : f ∈ ([] : List Flit) := h; cases h), by decide +kernel⟩⟩

theorem hypotheses_FiniteCodesRoundTrip :
    (∃ (fmt code : Nat) (mode : RoundMode), (fmt < 8) ∧ (code < 2 ^ fmtBits fmt) ∧ (valFinite (decodeCode fmt code) = true)) :=
  ⟨7, 2, .rtz, by decide +kernel⟩

theorem hypotheses_ArrivalOrderDoesNotMatter :
    (∃ (n fuel : Nat) (v : Nat → FootVal) (order : List Nat), (0 < n) ∧ (n ≤ 2 ^ fuel) ∧ (order.Perm (List.range n))) :=
  ⟨3, 2, fun _ => .int 1, [2, 0, 1], by decide +kernel⟩

theorem hypotheses_TilesAreDealtAndLoaded :
    (∃ (merge : ReadOutcome) (s : State) (o : Op), (s.master.op = some o) ∧ (hasTiles o = true) ∧ (o.dealt = false) ∧ (stranded o = false) ∧ (o.frozenLeft = false) ∧ (masterOn s = true) ∧ (s.master.recovery = none)) ∧
    (∃ (merge : ReadOutcome) (s : State) (o q : Op), (s.master.op = some o) ∧ ((hasTiles o = false ∨ o.dealt = true)) ∧ (o.frozenLeft = false) ∧ (s.master.pre = some q) ∧ (q.dealt = false) ∧ (stranded q = false) ∧ (masterOn s = true) ∧ (s.master.recovery = none)) ∧
    (∃ (merge : ReadOutcome) (s : State) (o : Op) (cells : List Host.Cell) (bad : List Nat), (s.master.op = some o) ∧ (o.dealt = true) ∧ (o.frozenLeft = true) ∧ (s.master.pre = none) ∧ (masterOn s = true) ∧ (s.master.recovery = none) ∧ (cells = cellsOf (readByte s) (frozenWrites o)) ∧ (bad = (mergesOf merge cells).uncorrectable) ∧ (writeAccess s (cells.map (·.1)) bad = .ok) ∧ (merge.corrected = []) ∧ (merge.wrong = [])) ∧
    (∃ (merge : ReadOutcome) (s : State) (o : Op) (cells : List Host.Cell) (bad : List Nat), (s.master.op = some o) ∧ (o.dealt = true) ∧ (o.frozenLeft = true) ∧ (s.master.pre = none) ∧ (masterOn s = true) ∧ (s.master.recovery = none) ∧ (cells = cellsOf (readByte s) (frozenWrites o)) ∧ (bad = (mergesOf merge cells).uncorrectable) ∧ (writeAccess s (cells.map (·.1)) bad = .waits)) ∧
    (∃ (merge : ReadOutcome) (s : State) (o : Op) (cells : List Host.Cell) (bad : List Nat), (s.master.op = some o) ∧ (o.dealt = true) ∧ (o.frozenLeft = true) ∧ (s.master.pre = none) ∧ (masterOn s = true) ∧ (s.master.recovery = none) ∧ (cells = cellsOf (readByte s) (frozenWrites o)) ∧ (bad = (mergesOf merge cells).uncorrectable) ∧ ((∃ as, writeAccess s (cells.map (·.1)) bad = .bad as) ∨ (∃ m, writeAccess s (cells.map (·.1)) bad = .failed m))) ∧
    (∃ (n b : Nat) (s u : State) (x y : Tile) (o : Op), (tileAt s n = some x) ∧ (opOfTile s n = some o) ∧ (u = (if (freeBuf s x.region).isSome then s else advanceArray s x.region)) ∧ (mayTakeBuffers u x = true) ∧ ((isPre s n = false ∨ preMayLoad s o = true)) ∧ (s.master.recovery = none) ∧ (masterOn s = true) ∧ (freeBuf u x.region = some b) ∧ (tileAt u n = some y)) ∧
    (∃ (n : Nat) (reads out : ReadOutcome) (meets : List Nat) (host : List Host.Cell) (s u : State) (x : Tile) (o : Op), (Inv s) ∧ (out = { reads with met := meets ++ reads.met }) ∧ (u = countMeets (hostMerge s host) o out.met) ∧ (tileAt s n = some x) ∧ (opOfTile s n = some o) ∧ (x.st = .loading) ∧ (ownGens s x = true) ∧ (banksReady s x.region = true) ∧ (masterOn s = true) ∧ (reads.darkTarget = false)) ∧
    (∃ (n : Nat) (reads : ReadOutcome) (meets : List Nat) (host : List Host.Cell) (s : State) (x : Tile) (o : Op), (tileAt s n = some x) ∧ (opOfTile s n = some o) ∧ (x.st = .loading) ∧ (ownGens s x = true) ∧ (banksReady s x.region = true) ∧ (masterOn s = true) ∧ (reads.darkTarget = true)) ∧
    (∃ (merge : ReadOutcome) (s : State) (o : Op), (s.master.op = some o) ∧ (o.dealt = false) ∧ (stranded o = true) ∧ (masterOn s = true) ∧ (s.master.recovery = none)) ∧
    (∃ (n : Nat) (reads out : ReadOutcome) (meets : List Nat) (host : List Host.Cell) (s u : State) (x : Tile) (o : Op), (Inv s) ∧ (out = { reads with met := meets ++ reads.met }) ∧ (u = countMeets (hostMerge s host) o out.met) ∧ (tileAt s n = some x) ∧ (opOfTile s n = some o) ∧ (x.st = .loading) ∧ (ownGens s x = true) ∧ (banksReady s x.region = true) ∧ (masterOn s = true) ∧ (reads.darkTarget = false) ∧ (readAccess u (loaderReads u (readByte u) o x) reads.uncorrectable = .ok) ∧ (tileIndexBad (readByte u) o x = false) ∧ (isPre s n = false)) ∧
    (∃ (n : Nat) (reads out : ReadOutcome) (meets : List Nat) (host : List Host.Cell) (s u : State) (x : Tile) (o : Op), (Inv s) ∧ (out = { reads with met := meets ++ reads.met }) ∧ (u = countMeets (hostMerge s host) o out.met) ∧ (tileAt s n = some x) ∧ (opOfTile s n = some o) ∧ (x.st = .loading) ∧ (ownGens s x = true) ∧ (banksReady s x.region = true) ∧ (masterOn s = true) ∧ (reads.darkTarget = false) ∧ (readAccess u (loaderReads u (readByte u) o x) reads.uncorrectable = .waits)) ∧
    (∃ (n : Nat) (reads out : ReadOutcome) (meets : List Nat) (host : List Host.Cell) (s u : State) (x : Tile) (o : Op), (Inv s) ∧ (out = { reads with met := meets ++ reads.met }) ∧ (u = countMeets (hostMerge s host) o out.met) ∧ (tileAt s n = some x) ∧ (opOfTile s n = some o) ∧ (x.st = .loading) ∧ (ownGens s x = true) ∧ (banksReady s x.region = true) ∧ (masterOn s = true) ∧ (reads.darkTarget = false) ∧ (isPre s n = false) ∧ (∃ as, readAccess u (loaderReads u (readByte u) o x) reads.uncorrectable = .bad as)) ∧
    (∃ (n : Nat) (reads out : ReadOutcome) (meets : List Nat) (host : List Host.Cell) (s u : State) (x : Tile) (o : Op), (Inv s) ∧ (out = { reads with met := meets ++ reads.met }) ∧ (u = countMeets (hostMerge s host) o out.met) ∧ (tileAt s n = some x) ∧ (opOfTile s n = some o) ∧ (x.st = .loading) ∧ (ownGens s x = true) ∧ (banksReady s x.region = true) ∧ (masterOn s = true) ∧ (reads.darkTarget = false) ∧ (isPre s n = false) ∧ (∃ m, readAccess u (loaderReads u (readByte u) o x) reads.uncorrectable = .failed m)) ∧
    (∃ (n : Nat) (reads out : ReadOutcome) (meets : List Nat) (host : List Host.Cell) (s u : State) (x : Tile) (o : Op), (Inv s) ∧ (out = { reads with met := meets ++ reads.met }) ∧ (u = countMeets (hostMerge s host) o out.met) ∧ (tileAt s n = some x) ∧ (opOfTile s n = some o) ∧ (x.st = .loading) ∧ (ownGens s x = true) ∧ (banksReady s x.region = true) ∧ (masterOn s = true) ∧ (reads.darkTarget = false) ∧ (isPre s n = false) ∧ (readAccess u (loaderReads u (readByte u) o x) reads.uncorrectable = .bound)) ∧
    (∃ (n : Nat) (reads out : ReadOutcome) (meets : List Nat) (host : List Host.Cell) (s u : State) (x : Tile) (o : Op), (Inv s) ∧ (out = { reads with met := meets ++ reads.met }) ∧ (u = countMeets (hostMerge s host) o out.met) ∧ (tileAt s n = some x) ∧ (opOfTile s n = some o) ∧ (x.st = .loading) ∧ (ownGens s x = true) ∧ (banksReady s x.region = true) ∧ (masterOn s = true) ∧ (reads.darkTarget = false) ∧ (isPre s n = true) ∧ (readAccess u (loaderReads u (readByte u) o x) reads.uncorrectable ≠ .ok)) ∧
    (∃ (n : Nat) (reads out : ReadOutcome) (meets : List Nat) (host : List Host.Cell) (s u : State) (x : Tile) (o : Op), (Inv s) ∧ (out = { reads with met := meets ++ reads.met }) ∧ (u = countMeets (hostMerge s host) o out.met) ∧ (tileAt s n = some x) ∧ (opOfTile s n = some o) ∧ (x.st = .loading) ∧ (ownGens s x = true) ∧ (banksReady s x.region = true) ∧ (masterOn s = true) ∧ (reads.darkTarget = false) ∧ (isPre s n = false) ∧ (readAccess u (loaderReads u (readByte u) o x) reads.uncorrectable = .ok) ∧ (tileIndexBad (readByte u) o x = true)) :=
  ⟨⟨ReadOutcome.clean, flying { sweepOp with dealt := false, share := [{ region := 0, kind := .bypass, unit := 0, wave := 0, out := 0, batch := 0, part := 0, lo := 0, n := 1, run := 0 }] } [], { sweepOp with dealt := false, share := [{ region := 0, kind := .bypass, unit := 0, wave := 0, out := 0, batch := 0, part := 0, lo := 0, n := 1, run := 0 }] }, by decide +kernel⟩,
    ⟨ReadOutcome.clean, putMaster (flying sweepOp []) (fun m => { m with pre := some { copyOp with dealt := false, share := [{ region := 0, kind := .bypass, unit := 0, wave := 0, out := 0, batch := 0, part := 0, lo := 0, n := 1, run := 0 }] } }), sweepOp, { copyOp with dealt := false, share := [{ region := 0, kind := .bypass, unit := 0, wave := 0, out := 0, batch := 0, part := 0, lo := 0, n := 1, run := 0 }] }, by decide +kernel⟩,
    ⟨ReadOutcome.clean, flying maskedOp [], maskedOp, _, _, by decide +kernel, by decide +kernel, by decide +kernel, by decide +kernel, by decide +kernel, by decide +kernel, rfl, rfl, by decide +kernel⟩,
    ⟨ReadOutcome.clean, eachStack (flying maskedOp []) (fun m => { m with retraining := true }), maskedOp, _, _, by decide +kernel, by decide +kernel, by decide +kernel, by decide +kernel, by decide +kernel, by decide +kernel, rfl, rfl, by decide +kernel⟩,
    ⟨ReadOutcome.clean, eachStack (flying maskedOp []) (fun m => { m with failed := true }), maskedOp, _, _, by decide +kernel, by decide +kernel, by decide +kernel, by decide +kernel, by decide +kernel, by decide +kernel, rfl, rfl, Or.inr ⟨(dramPlace on 0x2000).1, by decide +kernel⟩⟩,
    ⟨3, 0, flying sweepOp [sweepTile .assigned], flying sweepOp [sweepTile .assigned], sweepTile .assigned, sweepTile .assigned, sweepOp, by decide +kernel⟩,
    ⟨3, ReadOutcome.clean, _, [], [], flying copyOp [rowTile .loading], _, rowTile .loading, copyOp, inv_of_test (by decide +kernel), rfl, rfl, by decide +kernel⟩,
    ⟨3, { ReadOutcome.clean with darkTarget := true }, [], [], flying copyOp [rowTile .loading], rowTile .loading, copyOp, by decide +kernel⟩,
    ⟨ReadOutcome.clean, flying { sweepOp with dealt := false } [], { sweepOp with dealt := false }, by decide +kernel⟩,
    ⟨3, ReadOutcome.clean, _, [], [], flying copyOp [rowTile .loading], _, rowTile .loading, copyOp, inv_of_test (by decide +kernel), rfl, rfl, by decide +kernel⟩,
    ⟨3, ReadOutcome.clean, _, [], [], eachStack (flying copyOp [rowTile .loading]) (fun m => { m with retraining := true }), _, rowTile .loading, copyOp, inv_of_test (by decide +kernel), rfl, rfl, by decide +kernel⟩,
    ⟨3, { ReadOutcome.clean with uncorrectable := [0x3000] }, _, [], [], flying copyOp [rowTile .loading], _, rowTile .loading, copyOp, inv_of_test (by decide +kernel), rfl, rfl, by decide +kernel, by decide +kernel, by decide +kernel, by decide +kernel, by decide +kernel, by decide +kernel, by decide +kernel, by decide +kernel, ⟨_, rfl⟩⟩,
    ⟨3, ReadOutcome.clean, _, [], [], eachStack (flying copyOp [rowTile .loading]) (fun m => { m with failed := true }), _, rowTile .loading, copyOp, inv_of_test (by decide +kernel), rfl, rfl, by decide +kernel, by decide +kernel, by decide +kernel, by decide +kernel, by decide +kernel, by decide +kernel, by decide +kernel, by decide +kernel, ⟨_, rfl⟩⟩,
    ⟨3, ReadOutcome.clean, _, [], [], flying outCopy [rowTile .loading], _, rowTile .loading, outCopy, inv_of_test (by decide +kernel), rfl, rfl, by decide +kernel⟩,
    ⟨3, { ReadOutcome.clean with uncorrectable := [0x3000] }, _, [], [], preLoading, _, rowTile .loading, copyOp, inv_of_test (by decide +kernel), rfl, rfl, by decide +kernel⟩,
    ⟨3, ReadOutcome.clean, _, [], [], flying gatherOp [rowTile .loading], _, rowTile .loading, gatherOp, inv_of_test (by decide +kernel), rfl, rfl, by decide +kernel⟩⟩

theorem hypotheses_TilesPassTheArray :
    (∃ (n : Nat) (reads : ReadOutcome) (s u w : State) (x : Tile) (o : Op), (TilesNumbered s) ∧ (tileAt s n = some x) ∧ (s.master.op = some o) ∧ (mayIssue s o x = true) ∧ (u = modEntry s o.ring o.count (fun e => { e with st := .running })) ∧ (w = countMeets (noteReads u reads) o reads.met) ∧ (x.kind ≠ .bypass) ∧ (x.arr = .outside ∨ x.arr = .shadow)) ∧
    (∃ (n : Nat) (reads : ReadOutcome) (s u w : State) (x : Tile) (o : Op), (TilesNumbered s) ∧ (tileAt s n = some x) ∧ (s.master.op = some o) ∧ (mayIssue s o x = true) ∧ (u = modEntry s o.ring o.count (fun e => { e with st := .running })) ∧ (w = countMeets (noteReads u reads) o reads.met) ∧ (x.kind = .bypass) ∧ (readAccess u (feederReads u (readByte u) o x) reads.uncorrectable = .ok)) ∧
    (∃ (n : Nat) (reads : ReadOutcome) (s u w : State) (x : Tile) (o : Op), (TilesNumbered s) ∧ (tileAt s n = some x) ∧ (s.master.op = some o) ∧ (mayIssue s o x = true) ∧ (u = modEntry s o.ring o.count (fun e => { e with st := .running })) ∧ (w = countMeets (noteReads u reads) o reads.met) ∧ (x.kind = .bypass) ∧ (readAccess u (feederReads u (readByte u) o x) reads.uncorrectable = .waits)) ∧
    (∃ (n : Nat) (reads : ReadOutcome) (s u w : State) (x : Tile) (o : Op), (TilesNumbered s) ∧ (tileAt s n = some x) ∧ (s.master.op = some o) ∧ (mayIssue s o x = true) ∧ (u = modEntry s o.ring o.count (fun e => { e with st := .running })) ∧ (w = countMeets (noteReads u reads) o reads.met) ∧ (x.kind = .bypass) ∧ ((∃ as, readAccess u (feederReads u (readByte u) o x) reads.uncorrectable = .bad as))) ∧
    (∃ (n : Nat) (reads : ReadOutcome) (s : State) (x : Tile) (o : Op), (TilesNumbered s) ∧ (isPre s n = true) ∧ (tileAt s n = some x) ∧ (s.master.pre = some o) ∧ (mayPreload s o x = true)) ∧
    (∃ (n : Nat) (upset : List (Nat × Word)) (early : List (Nat × Bool)) (reads : ReadOutcome) (s : State) (x y : Tile) (o : Op), (TilesNumbered s) ∧ (tileAt s n = some x) ∧ (s.master.op = some o) ∧ (isOldest s x = true) ∧ (masterOn s = true) ∧ (readAccess s (feederReads s (readByte s) o x) reads.uncorrectable = .ok) ∧ (y = { x with st := .emitted, arr := .outside, snap := feederSees (noteReads s reads) o x early reads, foot := upsetFoot (tileFoot (memGet (feederSees (noteReads s reads) o x early reads)) o x) upset, arrived := treeLocal o x })) ∧
    (∃ (n : Nat) (upset : List (Nat × Word)) (s : State) (x : Tile) (o : Op), (tileAt s n = some x) ∧ (s.master.op = some o) ∧ (hasLeft x = true) ∧ (x.role = .original) ∧ (masterOn s = true) ∧ (x.kind = .array) ∧ (o.orient = .exchanged) ∧ (x.arrived = false)) ∧
    (∃ (n : Nat) (upset : List (Nat × Word)) (s : State) (x : Tile) (o : Op), (tileAt s n = some x) ∧ (s.master.op = some o) ∧ (hasLeft x = true) ∧ (x.role = .original) ∧ (masterOn s = true) ∧ (x.arrived = true)) ∧
    (∃ (n : Nat) (upset : List (Nat × Word)) (s : State) (x : Tile) (o : Op), (tileAt s n = some x) ∧ (s.master.op = some o) ∧ (hasLeft x = true) ∧ (x.role = .original) ∧ (masterOn s = true) ∧ (o.isArray = true) ∧ (o.has 4 = true) ∧ (tileCompletes o x = true) ∧ (tileReady o x = true) ∧ (x.statsSent = false)) ∧
    (∃ (n : Nat) (upset : List (Nat × Word)) (s : State) (x : Tile) (o : Op), (tileAt s n = some x) ∧ (s.master.op = some o) ∧ (hasLeft x = true) ∧ (x.role = .original) ∧ (masterOn s = true) ∧ (x.statsSent = true)) ∧
    (∃ (n : Nat) (upset : List (Nat × Word)) (s : State), (masterOn s = false)) ∧
    (∃ (n : Nat) (s : State) (x : Tile) (o : Op), (Inv s) ∧ (tileAt s n = some x) ∧ (s.master.op = some o) ∧ (hasLeft x = true) ∧ (x.role = .original) ∧ (x.kind = .attn1) ∧ (o.variant = 0) ∧ (x.col0 = 0) ∧ (isDark s x.region = false) ∧ (masterOn s = true) ∧ ((∀ r, r < x.rows → rowBlocksIn o x (x.row0 + r) = true)) ∧ (x.rewritten = true)) ∧
    (∃ (n : Nat) (s : State) (x : Tile) (o : Op), (Inv s) ∧ (tileAt s n = some x) ∧ (s.master.op = some o) ∧ (hasLeft x = true) ∧ (x.role = .original) ∧ (x.kind = .attn1) ∧ (o.variant = 0) ∧ (x.col0 = 0) ∧ (isDark s x.region = false) ∧ (masterOn s = true) ∧ ((∀ r, r < x.rows → rowBlocksIn o x (x.row0 + r) = true)) ∧ (x.rewritten = false)) ∧
    (∃ (n : Nat) (reads : ReadOutcome) (s u w : State) (x : Tile) (o : Op), (TilesNumbered s) ∧ (tileAt s n = some x) ∧ (s.master.op = some o) ∧ (mayIssue s o x = true) ∧ (u = modEntry s o.ring o.count (fun e => { e with st := .running })) ∧ (w = countMeets (noteReads u reads) o reads.met) ∧ (x.kind ≠ .bypass) ∧ (x.arr = .outside ∨ x.arr = .shadow) ∧ (x.region < s.regions.length) ∧ ((regionAt s x.region).banks.length = 2) ∧ ((inPhase s x.region .working).isEmpty = true)) ∧
    (∃ (n : Nat) (reads : ReadOutcome) (s u w : State) (x : Tile) (o : Op), (TilesNumbered s) ∧ (tileAt s n = some x) ∧ (s.master.op = some o) ∧ (mayIssue s o x = true) ∧ (u = modEntry s o.ring o.count (fun e => { e with st := .running })) ∧ (w = countMeets (noteReads u reads) o reads.met) ∧ (x.kind ≠ .bypass) ∧ (x.arr = .outside ∨ x.arr = .shadow) ∧ ((inPhase s x.region .working).isEmpty = false)) :=
  ⟨⟨3, ReadOutcome.clean, flying gemmOp [arrayTile .resident], _, _, arrayTile .resident, gemmOp, by decide +kernel, by decide +kernel, by decide +kernel, by decide +kernel, rfl, rfl, by decide +kernel⟩,
    ⟨3, ReadOutcome.clean, flying copyOp [rowTile .resident], _, _, rowTile .resident, copyOp, by decide +kernel, by decide +kernel, by decide +kernel, by decide +kernel, rfl, rfl, by decide +kernel⟩,
    ⟨3, ReadOutcome.clean, modRegion (flying inPlaceCopy [rowTile .resident]) 0 (fun x => { x with bankReady := 0 }), _, _, rowTile .resident, inPlaceCopy, by decide +kernel, by decide +kernel, by decide +kernel, by decide +kernel, rfl, rfl, by decide +kernel⟩,
    ⟨3, { ReadOutcome.clean with uncorrectable := [spadBase + 64] }, flying inPlaceCopy [rowTile .resident], _, _, rowTile .resident, inPlaceCopy, by decide +kernel, by decide +kernel, by decide +kernel, by decide +kernel, rfl, rfl, by decide +kernel, ⟨[spadBase + 64], by decide +kernel⟩⟩,
    ⟨3, ReadOutcome.clean, preResident, arrayTile .resident, gemmOp, by decide +kernel⟩,
    ⟨3, [], [], ReadOutcome.clean, flying gemmOp [arrayTile .issued], arrayTile .issued, _, gemmOp, by decide +kernel, by decide +kernel, by decide +kernel, by decide +kernel, by decide +kernel, by decide +kernel, rfl⟩,
    ⟨3, [], flying { gemmOp with orient := .exchanged } [arrayTile .emitted], arrayTile .emitted, { gemmOp with orient := .exchanged }, by decide +kernel⟩,
    ⟨3, [], flying { gemmOp with orient := .exchanged } [{ arrayTile .emitted with arrived := true }], { arrayTile .emitted with arrived := true }, { gemmOp with orient := .exchanged }, by decide +kernel⟩,
    ⟨3, [], flying statGemm [arrayTile .verified], arrayTile .verified, statGemm, by decide +kernel⟩,
    ⟨3, [], flying statGemm [{ arrayTile .verified with statsSent := true }], { arrayTile .verified with statsSent := true }, statGemm, by decide +kernel⟩,
    ⟨3, [], halterRuns, by decide +kernel⟩,
    ⟨3, flying attnOp [{ attnTile with rewritten := true }], { attnTile with rewritten := true }, attnOp, inv_of_test (by decide +kernel), by decide +kernel, by decide +kernel, by decide +kernel, by decide +kernel, by decide +kernel, by decide +kernel, by decide +kernel, by decide +kernel, by decide +kernel, (fun r hr => by rw [show r = 0 by simpa [attnTile] using hr]; decide +kernel), by decide +kernel⟩,
    ⟨3, flying attnOp [attnTile], attnTile, attnOp, inv_of_test (by decide +kernel), by decide +kernel, by decide +kernel, by decide +kernel, by decide +kernel, by decide +kernel, by decide +kernel, by decide +kernel, by decide +kernel, by decide +kernel, (fun r hr => by rw [show r = 0 by simpa [attnTile] using hr]; decide +kernel), by decide +kernel⟩,
    ⟨3, ReadOutcome.clean, flying gemmOp [arrayTile .resident], _, _, arrayTile .resident, gemmOp, by decide +kernel, by decide +kernel, by decide +kernel, by decide +kernel, rfl, rfl, by decide +kernel⟩,
    ⟨3, ReadOutcome.clean, flying gemmOp [arrayTile .resident, { arrayTile .issued with id := 4 }], _, _, arrayTile .resident, gemmOp, by decide +kernel, by decide +kernel, by decide +kernel, by decide +kernel, rfl, rfl, by decide +kernel⟩⟩

theorem hypotheses_DrainWritesOutputs :
    (∃ (n : Nat) (upset : List (Nat × Nat)) (merge : ReadOutcome) (s : State) (x : Tile) (o : Op) (rows : List OutRow)
      (sum : Word64), (Inv s) ∧ (tileAt s n = some x) ∧ (s.master.op = some o) ∧ (x.st = .emitted) ∧ (isPre s n = false) ∧ (tileReady o x = true) ∧ (statsIn o x = true) ∧ (masterOn s = true) ∧ (rows = upsetRows upset 0 (withStats o x (tileOut (memGet x.snap) o x))) ∧ (sum = tileChecksum (memGet x.snap) o x (rows.take (tileOut (memGet x.snap) o x).length)) ∧ (x.role ≠ .original)) ∧
    (∃ (n : Nat) (upset : List (Nat × Nat)) (merge : ReadOutcome) (s : State) (x : Tile) (o : Op) (rows : List OutRow)
      (sum : Word64) (access : AccessEnd), (Inv s) ∧ (tileAt s n = some x) ∧ (s.master.op = some o) ∧ (x.st = .emitted) ∧ (isPre s n = false) ∧ (tileReady o x = true) ∧ (statsIn o x = true) ∧ (masterOn s = true) ∧ (rows = upsetRows upset 0 (withStats o x (tileOut (memGet x.snap) o x))) ∧ (sum = tileChecksum (memGet x.snap) o x (rows.take (tileOut (memGet x.snap) o x).length)) ∧ (x.role = .original) ∧ (o.opcode = 11) ∧ (access = accessOf s [tileSpan x] (merge.uncorrectable ++ (sweepBad s (tileSpan x)).filter (fun a => !merge.uncorrectable.contains a)) (spanInTask s (tileSpan x)))) ∧
    (∃ (n : Nat) (upset : List (Nat × Nat)) (merge : ReadOutcome) (s : State) (x : Tile) (o : Op) (rows : List OutRow)
      (sum : Word64) (cells : List Host.Cell) (access : AccessEnd), (Inv s) ∧ (tileAt s n = some x) ∧ (s.master.op = some o) ∧ (x.st = .emitted) ∧ (isPre s n = false) ∧ (tileReady o x = true) ∧ (statsIn o x = true) ∧ (masterOn s = true) ∧ (rows = upsetRows upset 0 (withStats o x (tileOut (memGet x.snap) o x))) ∧ (sum = tileChecksum (memGet x.snap) o x (rows.take (tileOut (memGet x.snap) o x).length)) ∧ (x.role = .original) ∧ (o.opcode ≠ 11) ∧ (cells = cellsOf (readByte s) (rowWrites rows)) ∧ (access = writeAccess s (cells.map (·.1)) (mergesOf merge cells).uncorrectable)) ∧
    (∃ (n : Nat) (upset : List (Nat × Nat)) (merge : ReadOutcome) (s : State) (x : Tile) (o : Op) (rows : List OutRow)
      (sum : Word64) (cells : List Host.Cell) (access : AccessEnd), (Inv s) ∧ (tileAt s n = some x) ∧ (s.master.op = some o) ∧ (x.st = .emitted) ∧ (isPre s n = false) ∧ (tileReady o x = true) ∧ (statsIn o x = true) ∧ (masterOn s = true) ∧ (rows = upsetRows upset 0 (withStats o x (tileOut (memGet x.snap) o x))) ∧ (sum = tileChecksum (memGet x.snap) o x (rows.take (tileOut (memGet x.snap) o x).length)) ∧ (x.role = .original) ∧ (o.opcode ≠ 11) ∧ (cells = cellsOf (readByte s) (rowWrites rows)) ∧ (access = writeAccess s (cells.map (·.1)) (mergesOf merge cells).uncorrectable) ∧ (access = .ok)) ∧
    (∃ (n : Nat) (upset : List (Nat × Nat)) (merge : ReadOutcome) (s : State) (x : Tile) (o : Op) (rows : List OutRow)
      (sum : Word64) (cells : List Host.Cell) (access : AccessEnd), (Inv s) ∧ (tileAt s n = some x) ∧ (s.master.op = some o) ∧ (x.st = .emitted) ∧ (isPre s n = false) ∧ (tileReady o x = true) ∧ (statsIn o x = true) ∧ (masterOn s = true) ∧ (rows = upsetRows upset 0 (withStats o x (tileOut (memGet x.snap) o x))) ∧ (sum = tileChecksum (memGet x.snap) o x (rows.take (tileOut (memGet x.snap) o x).length)) ∧ (x.role = .original) ∧ (o.opcode ≠ 11) ∧ (cells = cellsOf (readByte s) (rowWrites rows)) ∧ (access = writeAccess s (cells.map (·.1)) (mergesOf merge cells).uncorrectable) ∧ (access = .waits)) ∧
    (∃ (n : Nat) (upset : List (Nat × Nat)) (merge : ReadOutcome) (s : State) (x : Tile) (o : Op) (rows : List OutRow)
      (sum : Word64) (cells : List Host.Cell) (access : AccessEnd), (Inv s) ∧ (tileAt s n = some x) ∧ (s.master.op = some o) ∧ (x.st = .emitted) ∧ (isPre s n = false) ∧ (tileReady o x = true) ∧ (statsIn o x = true) ∧ (masterOn s = true) ∧ (rows = upsetRows upset 0 (withStats o x (tileOut (memGet x.snap) o x))) ∧ (sum = tileChecksum (memGet x.snap) o x (rows.take (tileOut (memGet x.snap) o x).length)) ∧ (x.role = .original) ∧ (o.opcode ≠ 11) ∧ (cells = cellsOf (readByte s) (rowWrites rows)) ∧ (access = writeAccess s (cells.map (·.1)) (mergesOf merge cells).uncorrectable) ∧ (∃ as, access = .bad as)) ∧
    (∃ (n : Nat) (upset : List (Nat × Nat)) (merge : ReadOutcome) (s : State) (x : Tile) (o : Op) (rows : List OutRow)
      (sum : Word64) (cells : List Host.Cell) (access : AccessEnd), (Inv s) ∧ (tileAt s n = some x) ∧ (s.master.op = some o) ∧ (x.st = .emitted) ∧ (isPre s n = false) ∧ (tileReady o x = true) ∧ (statsIn o x = true) ∧ (masterOn s = true) ∧ (rows = upsetRows upset 0 (withStats o x (tileOut (memGet x.snap) o x))) ∧ (sum = tileChecksum (memGet x.snap) o x (rows.take (tileOut (memGet x.snap) o x).length)) ∧ (x.role = .original) ∧ (o.opcode ≠ 11) ∧ (cells = cellsOf (readByte s) (rowWrites rows)) ∧ (access = writeAccess s (cells.map (·.1)) (mergesOf merge cells).uncorrectable) ∧ (∃ m, access = .failed m)) ∧
    (∃ (n : Nat) (upset : List (Nat × Nat)) (merge : ReadOutcome) (s : State) (x : Tile) (o : Op) (rows : List OutRow)
      (sum : Word64) (cells : List Host.Cell) (access : AccessEnd), (Inv s) ∧ (tileAt s n = some x) ∧ (s.master.op = some o) ∧ (x.st = .emitted) ∧ (isPre s n = false) ∧ (tileReady o x = true) ∧ (statsIn o x = true) ∧ (masterOn s = true) ∧ (rows = upsetRows upset 0 (withStats o x (tileOut (memGet x.snap) o x))) ∧ (sum = tileChecksum (memGet x.snap) o x (rows.take (tileOut (memGet x.snap) o x).length)) ∧ (x.role = .original) ∧ (o.opcode ≠ 11) ∧ (cells = cellsOf (readByte s) (rowWrites rows)) ∧ (access = writeAccess s (cells.map (·.1)) (mergesOf merge cells).uncorrectable) ∧ (access = .bound)) ∧
    (∃ (n : Nat) (upset : List (Nat × Nat)) (merge : ReadOutcome) (s : State) (x : Tile) (o : Op) (rows : List OutRow)
      (sum : Word64) (access : AccessEnd), (Inv s) ∧ (tileAt s n = some x) ∧ (s.master.op = some o) ∧ (x.st = .emitted) ∧ (isPre s n = false) ∧ (tileReady o x = true) ∧ (statsIn o x = true) ∧ (masterOn s = true) ∧ (rows = upsetRows upset 0 (withStats o x (tileOut (memGet x.snap) o x))) ∧ (sum = tileChecksum (memGet x.snap) o x (rows.take (tileOut (memGet x.snap) o x).length)) ∧ (x.role = .original) ∧ (o.opcode = 11) ∧ (access = accessOf s [tileSpan x] (merge.uncorrectable ++ (sweepBad s (tileSpan x)).filter (fun a => !merge.uncorrectable.contains a)) (spanInTask s (tileSpan x))) ∧ (access = .ok)) ∧
    (∃ (n : Nat) (upset : List (Nat × Nat)) (merge : ReadOutcome) (s : State) (x : Tile) (o : Op) (rows : List OutRow)
      (sum : Word64) (access : AccessEnd), (Inv s) ∧ (tileAt s n = some x) ∧ (s.master.op = some o) ∧ (x.st = .emitted) ∧ (isPre s n = false) ∧ (tileReady o x = true) ∧ (statsIn o x = true) ∧ (masterOn s = true) ∧ (rows = upsetRows upset 0 (withStats o x (tileOut (memGet x.snap) o x))) ∧ (sum = tileChecksum (memGet x.snap) o x (rows.take (tileOut (memGet x.snap) o x).length)) ∧ (x.role = .original) ∧ (o.opcode = 11) ∧ (access = accessOf s [tileSpan x] (merge.uncorrectable ++ (sweepBad s (tileSpan x)).filter (fun a => !merge.uncorrectable.contains a)) (spanInTask s (tileSpan x))) ∧ (access = .waits)) ∧
    (∃ (n : Nat) (upset : List (Nat × Nat)) (merge : ReadOutcome) (s : State) (x : Tile) (o : Op) (rows : List OutRow)
      (sum : Word64) (access : AccessEnd), (Inv s) ∧ (tileAt s n = some x) ∧ (s.master.op = some o) ∧ (x.st = .emitted) ∧ (isPre s n = false) ∧ (tileReady o x = true) ∧ (statsIn o x = true) ∧ (masterOn s = true) ∧ (rows = upsetRows upset 0 (withStats o x (tileOut (memGet x.snap) o x))) ∧ (sum = tileChecksum (memGet x.snap) o x (rows.take (tileOut (memGet x.snap) o x).length)) ∧ (x.role = .original) ∧ (o.opcode = 11) ∧ (access = accessOf s [tileSpan x] (merge.uncorrectable ++ (sweepBad s (tileSpan x)).filter (fun a => !merge.uncorrectable.contains a)) (spanInTask s (tileSpan x))) ∧ (∃ as, access = .bad as)) ∧
    (∃ (n : Nat) (upset : List (Nat × Nat)) (merge : ReadOutcome) (s : State) (x : Tile) (o : Op) (rows : List OutRow)
      (sum : Word64) (access : AccessEnd), (Inv s) ∧ (tileAt s n = some x) ∧ (s.master.op = some o) ∧ (x.st = .emitted) ∧ (isPre s n = false) ∧ (tileReady o x = true) ∧ (statsIn o x = true) ∧ (masterOn s = true) ∧ (rows = upsetRows upset 0 (withStats o x (tileOut (memGet x.snap) o x))) ∧ (sum = tileChecksum (memGet x.snap) o x (rows.take (tileOut (memGet x.snap) o x).length)) ∧ (x.role = .original) ∧ (o.opcode = 11) ∧ (access = accessOf s [tileSpan x] (merge.uncorrectable ++ (sweepBad s (tileSpan x)).filter (fun a => !merge.uncorrectable.contains a)) (spanInTask s (tileSpan x))) ∧ (∃ m, access = .failed m)) ∧
    (∃ (n : Nat) (upset : List (Nat × Nat)) (merge : ReadOutcome) (s : State) (x : Tile) (o : Op) (rows : List OutRow)
      (sum : Word64) (access : AccessEnd), (Inv s) ∧ (tileAt s n = some x) ∧ (s.master.op = some o) ∧ (x.st = .emitted) ∧ (isPre s n = false) ∧ (tileReady o x = true) ∧ (statsIn o x = true) ∧ (masterOn s = true) ∧ (rows = upsetRows upset 0 (withStats o x (tileOut (memGet x.snap) o x))) ∧ (sum = tileChecksum (memGet x.snap) o x (rows.take (tileOut (memGet x.snap) o x).length)) ∧ (x.role = .original) ∧ (o.opcode = 11) ∧ (access = accessOf s [tileSpan x] (merge.uncorrectable ++ (sweepBad s (tileSpan x)).filter (fun a => !merge.uncorrectable.contains a)) (spanInTask s (tileSpan x))) ∧ (access = .bound)) :=
  ⟨⟨3, [], ReadOutcome.clean, flying sweepOp [copyTile], copyTile, sweepOp, _, _, inv_of_test (by decide +kernel), by decide +kernel, by decide +kernel, by decide +kernel, by decide +kernel, by decide +kernel, by decide +kernel, by decide +kernel, rfl, rfl, by decide +kernel⟩,
    ⟨3, [], ReadOutcome.clean, flying sweepOp [sweepTile .emitted], sweepTile .emitted, sweepOp, _, _, _, inv_of_test (by decide +kernel), by decide +kernel, by decide +kernel, by decide +kernel, by decide +kernel, by decide +kernel, by decide +kernel, by decide +kernel, rfl, rfl, by decide +kernel, by decide +kernel, rfl⟩,
    ⟨3, [], ReadOutcome.clean, flying copyOp [rowTile .emitted], rowTile .emitted, copyOp, _, _, _, _, inv_of_test (by decide +kernel), by decide +kernel, by decide +kernel, by decide +kernel, by decide +kernel, by decide +kernel, by decide +kernel, by decide +kernel, rfl, rfl, by decide +kernel, by decide +kernel, rfl, rfl⟩,
    ⟨3, [], ReadOutcome.clean, flying copyOp [rowTile .emitted], rowTile .emitted, copyOp, _, _, _, _, inv_of_test (by decide +kernel), by decide +kernel, by decide +kernel, by decide +kernel, by decide +kernel, by decide +kernel, by decide +kernel, by decide +kernel, rfl, rfl, by decide +kernel, by decide +kernel, rfl, rfl, by decide +kernel⟩,
    ⟨3, [], ReadOutcome.clean, eachStack (flying copyOp [rowTile .emitted]) (fun m => { m with retraining := true }), rowTile .emitted, copyOp, _, _, _, _, inv_of_test (by decide +kernel), by decide +kernel, by decide +kernel, by decide +kernel, by decide +kernel, by decide +kernel, by decide +kernel, by decide +kernel, rfl, rfl, by decide +kernel, by decide +kernel, rfl, rfl, by decide +kernel⟩,
    ⟨3, [], { ReadOutcome.clean with uncorrectable := [0x2000] }, flying copyOp [rowTile .emitted], rowTile .emitted, copyOp, _, _, _, _, inv_of_test (by decide +kernel), by decide +kernel, by decide +kernel, by decide +kernel, by decide +kernel, by decide +kernel, by decide +kernel, by decide +kernel, rfl, rfl, by decide +kernel, by decide +kernel, rfl, rfl, ⟨[0x2000], by decide +kernel⟩⟩,
    ⟨3, [], ReadOutcome.clean, eachStack (flying copyOp [rowTile .emitted]) (fun m => { m with failed := true }), rowTile .emitted, copyOp, _, _, _, _, inv_of_test (by decide +kernel), by decide +kernel, by decide +kernel, by decide +kernel, by decide +kernel, by decide +kernel, by decide +kernel, by decide +kernel, rfl, rfl, by decide +kernel, by decide +kernel, rfl, rfl, ⟨(dramPlace on 0x2000).1, by decide +kernel⟩⟩,
    ⟨3, [], ReadOutcome.clean, flying farCopy [spanTile (spadBase + 0x1FFFFC0) .emitted], spanTile (spadBase + 0x1FFFFC0) .emitted, farCopy, _, _, _, _, inv_of_test (by decide +kernel), by decide +kernel, by decide +kernel, by decide +kernel, by decide +kernel, by decide +kernel, by decide +kernel, by decide +kernel, rfl, rfl, by decide +kernel, by decide +kernel, rfl, rfl, by decide +kernel⟩,
    ⟨3, [], ReadOutcome.clean, flying sweepOp [sweepTile .emitted], sweepTile .emitted, sweepOp, _, _, _, inv_of_test (by decide +kernel), by decide +kernel, by decide +kernel, by decide +kernel, by decide +kernel, by decide +kernel, by decide +kernel, by decide +kernel, rfl, rfl, by decide +kernel, by decide +kernel, rfl, by decide +kernel⟩,
    ⟨3, [], ReadOutcome.clean, eachStack (flying sweepOp [sweepTile .emitted]) (fun m => { m with retraining := true }), sweepTile .emitted, sweepOp, _, _, _, inv_of_test (by decide +kernel), by decide +kernel, by decide +kernel, by decide +kernel, by decide +kernel, by decide +kernel, by decide +kernel, by decide +kernel, rfl, rfl, by decide +kernel, by decide +kernel, rfl, by decide +kernel⟩,
    ⟨3, [], { ReadOutcome.clean with uncorrectable := [0x2000] }, flying sweepOp [sweepTile .emitted], sweepTile .emitted, sweepOp, _, _, _, inv_of_test (by decide +kernel), by decide +kernel, by decide +kernel, by decide +kernel, by decide +kernel, by decide +kernel, by decide +kernel, by decide +kernel, rfl, rfl, by decide +kernel, by decide +kernel, rfl, ⟨_, rfl⟩⟩,
    ⟨3, [], ReadOutcome.clean, eachStack (flying sweepOp [sweepTile .emitted]) (fun m => { m with failed := true }), sweepTile .emitted, sweepOp, _, _, _, inv_of_test (by decide +kernel), by decide +kernel, by decide +kernel, by decide +kernel, by decide +kernel, by decide +kernel, by decide +kernel, by decide +kernel, rfl, rfl, by decide +kernel, by decide +kernel, rfl, ⟨_, rfl⟩⟩,
    ⟨3, [], ReadOutcome.clean, flying sweepOp [farSpan], farSpan, sweepOp, _, _, _, inv_of_test (by decide +kernel), by decide +kernel, by decide +kernel, by decide +kernel, by decide +kernel, by decide +kernel, by decide +kernel, by decide +kernel, rfl, rfl, by decide +kernel, by decide +kernel, rfl, by decide +kernel⟩⟩

theorem hypotheses_CommitIsOneEvent :
    (∃ (reads own : ReadOutcome) (s u : State) (sel : Selection), (Inv s) ∧ (u = runRecord s) ∧ (readyToCommit u = true) ∧ (masterOn u = true) ∧ (u.master.sel = some sel) ∧ (sel.ring < 16) ∧ (own = outcomeOf reads (commitSpans u)) ∧ (signalLost u sel.members = none) ∧ (readAccess u (commitSpans u) own.uncorrectable = .waits)) ∧
    (∃ (reads own : ReadOutcome) (s u : State) (sel : Selection), (Inv s) ∧ (u = runRecord s) ∧ (readyToCommit u = true) ∧ (masterOn u = true) ∧ (u.master.sel = some sel) ∧ (sel.ring < 16) ∧ (own = outcomeOf reads (commitSpans u)) ∧ (signalLost u sel.members = none) ∧ ((∃ m, readAccess u (commitSpans u) own.uncorrectable = .failed m) ∨ (∃ as, readAccess u (commitSpans u) own.uncorrectable = .bad as))) ∧
    (∃ (reads own : ReadOutcome) (s u : State) (sel : Selection), (Inv s) ∧ (u = runRecord s) ∧ (readyToCommit u = true) ∧ (masterOn u = true) ∧ (u.master.sel = some sel) ∧ (sel.ring < 16) ∧ (own = outcomeOf reads (commitSpans u)) ∧ (signalLost u sel.members = none) ∧ (readAccess u (commitSpans u) own.uncorrectable = .ok)) ∧
    (∃ (reads own : ReadOutcome) (s u : State) (sel : Selection)  (i : Nat), (Inv s) ∧ (u = runRecord s) ∧ (readyToCommit u = true) ∧ (masterOn u = true) ∧ (u.master.sel = some sel) ∧ (sel.ring < 16) ∧ (own = outcomeOf reads (commitSpans u)) ∧ (signalLost u sel.members = some i)) ∧
    (∃ (reads own : ReadOutcome) (s u : State) (sel : Selection) (g : Signal), (Inv s) ∧ (u = runRecord s) ∧ (readyToCommit u = true) ∧ (masterOn u = true) ∧ (u.master.sel = some sel) ∧ (sel.ring < 16) ∧ (own = outcomeOf reads (commitSpans u)) ∧ (signalLost u sel.members = none) ∧ (readAccess u (commitSpans u) own.uncorrectable = .ok) ∧ (∀ e ∈ (ringAt u sel.ring).entries, e.ended = none) ∧ (sel.members.flatMap (fun e => dSignals e.words) = [g])) ∧
    (∃ (reads own : ReadOutcome) (s u : State) (sel : Selection), (Inv s) ∧ (u = runRecord s) ∧ (readyToCommit u = true) ∧ (masterOn u = true) ∧ (u.master.sel = some sel) ∧ (sel.ring < 16) ∧ (own = outcomeOf reads (commitSpans u)) ∧ (signalLost u sel.members = none) ∧ (readAccess u (commitSpans u) own.uncorrectable = .ok) ∧ (sel.members.flatMap (fun e => dSignals e.words) = []) ∧ (∀ o ∈ acceptedOps u, o.advStats = [])) ∧
    (∃ (reads own : ReadOutcome) (s u : State) (sel : Selection), (Inv s) ∧ (u = runRecord s) ∧ (readyToCommit u = true) ∧ (masterOn u = true) ∧ (u.master.sel = some sel) ∧ (sel.ring < 16) ∧ (own = outcomeOf reads (commitSpans u)) ∧ (signalLost u sel.members = none) ∧ (readAccess u (commitSpans u) own.uncorrectable = .ok) ∧ (own.corrected = [])) ∧
    (∃ (reads own : ReadOutcome) (s u : State) (sel : Selection), (Inv s) ∧ (u = runRecord s) ∧ (readyToCommit u = true) ∧ (masterOn u = true) ∧ (u.master.sel = some sel) ∧ (sel.ring < 16) ∧ (own = outcomeOf reads (commitSpans u)) ∧ (signalLost u sel.members = none) ∧ ((∃ m, readAccess u (commitSpans u) own.uncorrectable = .failed m) ∨ (∃ as, readAccess u (commitSpans u) own.uncorrectable = .bad as)) ∧ (∃ as, readAccess u (commitSpans u) own.uncorrectable = .bad as)) ∧
    (∃ (reads own : ReadOutcome) (s u : State) (sel : Selection) (e : Entry) (es : List Entry) (p : Byte × Word × Word64), (Inv s) ∧ (u = runRecord s) ∧ (readyToCommit u = true) ∧ (masterOn u = true) ∧ (u.master.sel = some sel) ∧ (sel.ring < 16) ∧ (own = outcomeOf reads (commitSpans u)) ∧ (signalLost u sel.members = none) ∧ (readAccess u (commitSpans u) own.uncorrectable = .ok) ∧ ((ringAt u sel.ring).entries.filter (fun x => sel.members.all (fun m => x.count ≠ m.count)) = e :: es) ∧ (e.ended = some p)) :=
  ⟨⟨ReadOutcome.clean, _, eachStack (flying advOp [sweepTile .verified]) (fun m => { m with retraining := true }), _, selOf sweepWords 1, inv_of_test (by decide +kernel), rfl, by decide +kernel, by decide +kernel, by decide +kernel, by decide +kernel, rfl, by decide +kernel⟩,
    ⟨ReadOutcome.clean, _, eachStack (flying advOp [sweepTile .verified]) (fun m => { m with failed := true }), _, selOf sweepWords 1, inv_of_test (by decide +kernel), rfl, by decide +kernel, by decide +kernel, by decide +kernel, by decide +kernel, rfl, by decide +kernel, Or.inl ⟨(dramPlace on 0x8000).1, by decide +kernel⟩⟩,
    ⟨ReadOutcome.clean, _, flying { sweepOp with words := signalWords } [sweepTile .verified], _, selOf signalWords 1, inv_of_test (by decide +kernel), rfl, by decide +kernel, by decide +kernel, by decide +kernel, by decide +kernel, rfl, by decide +kernel⟩,
    ⟨ReadOutcome.clean, _, withoutSpine (flying { sweepOp with words := farWords } [sweepTile .verified]) 15, _, selOf farWords 1, 0, inv_of_test (by decide +kernel), rfl, by decide +kernel, by decide +kernel, by decide +kernel, by decide +kernel, rfl, by decide +kernel⟩,
    ⟨ReadOutcome.clean, _, flying { sweepOp with words := signalWords } [sweepTile .verified], _, selOf signalWords 1, { enable := true, obj := 4096, set := false, value := 3 }, inv_of_test (by decide +kernel), rfl, by decide +kernel, by decide +kernel, by decide +kernel, by decide +kernel, rfl, by decide +kernel⟩,
    ⟨ReadOutcome.clean, _, flying sweepOp [sweepTile .verified], _, selOf sweepWords 1, inv_of_test (by decide +kernel), rfl, by decide +kernel, by decide +kernel, by decide +kernel, by decide +kernel, rfl, by decide +kernel⟩,
    ⟨ReadOutcome.clean, _, flying { sweepOp with words := signalWords } [sweepTile .verified], _, selOf signalWords 1, inv_of_test (by decide +kernel), rfl, by decide +kernel, by decide +kernel, by decide +kernel, by decide +kernel, rfl, by decide +kernel⟩,
    ⟨{ ReadOutcome.clean with uncorrectable := [0x8000] }, _, flying advOp [sweepTile .verified], _, selOf sweepWords 1, inv_of_test (by decide +kernel), rfl, by decide +kernel, by decide +kernel, by decide +kernel, by decide +kernel, rfl, by decide +kernel, Or.inr ⟨[0x8000], by decide +kernel⟩, ⟨[0x8000], by decide +kernel⟩⟩,
    ⟨ReadOutcome.clean, _, withRing (flying sweepOp [sweepTile .verified]) 0 { upRing with entries := [entryOf .accepted sweepWords, { entryOf .waiting (waitWords 0 1) with count := 1, ended := some (9, 0, 5) }] }, _, selOf sweepWords 1, { entryOf .waiting (waitWords 0 1) with count := 1, ended := some (9, 0, 5) }, [], (9, 0, 5), inv_of_test (by decide +kernel), rfl, by decide +kernel, by decide +kernel, by decide +kernel, by decide +kernel, rfl, by decide +kernel⟩⟩

theorem hypotheses_DuplicatesAndVotes :
    (∃ (n : Nat) (s : State) (x d : Tile) (o : Op), (Inv s) ∧ (TilesNumbered s) ∧ (comparePair s n = some (x, d)) ∧ (voteOf s n = none) ∧ (s.master.op = some o) ∧ (x.checksum = d.checksum)) ∧
    (∃ (n : Nat) (s : State) (x d : Tile) (o : Op), (Inv s) ∧ (TilesNumbered s) ∧ (comparePair s n = some (x, d)) ∧ (voteOf s n = none) ∧ (s.master.op = some o) ∧ (x.checksum ≠ d.checksum)) ∧
    (∃ (n : Nat) (s : State) (x d v : Tile) (named : List Nat), (Inv s) ∧ (comparePair s n = some (x, d)) ∧ (voteOf s n = some v) ∧ (v.st = .drained) ∧ (againOf s n 0 = none) ∧ (named = (if v.checksum = x.checksum then [d.region] else if v.checksum = d.checksum then [x.region] else [x.region, d.region]))) ∧
    (∃ (n : Nat) (s : State) (x d o2 d2 v : Tile) (named : List Nat), (Inv s) ∧ (comparePair s n = some (x, d)) ∧ (againOf s n 0 = some o2) ∧ (againOf s n 1 = some d2) ∧ (voteOf s n = some v) ∧ (o2.st = .drained) ∧ (d2.st = .drained) ∧ (v.st = .drained) ∧ (¬ (o2.checksum = d2.checksum ∧ d2.checksum = v.checksum)) ∧ (named = (if o2.checksum = d2.checksum then [v.region] else if o2.checksum = v.checksum then [d.region] else if d2.checksum = v.checksum then [x.region] else [x.region, d.region]))) ∧
    (∃ (n : Nat) (s : State) (x d o2 d2 v : Tile) (o : Op) (sel : Selection), (Inv s) ∧ (comparePair s n = some (x, d)) ∧ (againOf s n 0 = some o2) ∧ (againOf s n 1 = some d2) ∧ (voteOf s n = some v) ∧ (o2.st = .drained) ∧ (d2.st = .drained) ∧ (v.st = .drained) ∧ (o2.checksum = d2.checksum) ∧ (d2.checksum = v.checksum) ∧ (s.master.op = some o) ∧ (s.master.sel = some sel)) ∧
    (∃ (n : Nat) (s : State) (x d : Tile) (o : Op) (r : Nat), (Inv s) ∧ (TilesNumbered s) ∧ (comparePair s n = some (x, d)) ∧ (voteOf s n = none) ∧ (s.master.op = some o) ∧ (x.checksum ≠ d.checksum) ∧ (nextEligible s o x [fieldOf x.region, fieldOf d.region] = some r)) ∧
    (∃ (n : Nat) (s : State) (x d : Tile) (o : Op), (Inv s) ∧ (TilesNumbered s) ∧ (comparePair s n = some (x, d)) ∧ (voteOf s n = none) ∧ (s.master.op = some o) ∧ (x.checksum ≠ d.checksum) ∧ (s.master.repeatInForce = true) ∧ (againOf s n 0 = none) ∧ (againOf s n 1 = none) ∧ ((nextEligible s o x [fieldOf x.region, fieldOf d.region]).isSome = true)) ∧
    (∃ (n : Nat) (s : State) (x d : Tile) (o : Op), (Inv s) ∧ (TilesNumbered s) ∧ (comparePair s n = some (x, d)) ∧ (voteOf s n = none) ∧ (s.master.op = some o) ∧ (x.checksum ≠ d.checksum) ∧ (nextEligible s o x [fieldOf x.region, fieldOf d.region] = none)) ∧
    (∃ (n : Nat) (s : State) (x d o2 d2 v : Tile) (o : Op) (sel : Selection), (Inv s) ∧ (comparePair s n = some (x, d)) ∧ (againOf s n 0 = some o2) ∧ (againOf s n 1 = some d2) ∧ (voteOf s n = some v) ∧ (o2.st = .drained) ∧ (d2.st = .drained) ∧ (v.st = .drained) ∧ (o2.checksum = d2.checksum) ∧ (d2.checksum = v.checksum) ∧ (s.master.op = some o) ∧ (s.master.sel = some sel) ∧ (x.checksum = v.checksum)) ∧
    (∃ (n : Nat) (s : State) (x d o2 d2 v : Tile) (o : Op) (sel : Selection), (Inv s) ∧ (comparePair s n = some (x, d)) ∧ (againOf s n 0 = some o2) ∧ (againOf s n 1 = some d2) ∧ (voteOf s n = some v) ∧ (o2.st = .drained) ∧ (d2.st = .drained) ∧ (v.st = .drained) ∧ (o2.checksum = d2.checksum) ∧ (d2.checksum = v.checksum) ∧ (s.master.op = some o) ∧ (s.master.sel = some sel) ∧ (x.checksum ≠ v.checksum)) ∧
    (∃ (n : Nat) (s : State) (x d o2 d2 v : Tile) (o : Op) (sel : Selection), (Inv s) ∧ (comparePair s n = some (x, d)) ∧ (againOf s n 0 = some o2) ∧ (againOf s n 1 = some d2) ∧ (voteOf s n = some v) ∧ (o2.st = .drained) ∧ (d2.st = .drained) ∧ (v.st = .drained) ∧ (o2.checksum = d2.checksum) ∧ (d2.checksum = v.checksum) ∧ (s.master.op = some o) ∧ (s.master.sel = some sel) ∧ (x.checksum ≠ v.checksum) ∧ (dNonreplayable o.words = true)) :=
  ⟨⟨3, flying sweepOp [origTile, dupTile 4 none], origTile, dupTile 4 none, sweepOp, inv_of_test (by decide +kernel), by decide +kernel⟩,
    ⟨3, flying sweepOp [origTile, dupTile 4 (some 1)], origTile, dupTile 4 (some 1), sweepOp, inv_of_test (by decide +kernel), by decide +kernel⟩,
    ⟨3, flying sweepOp [origTile, dupTile 4 (some 1), voteTile], origTile, dupTile 4 (some 1), voteTile, [6], inv_of_test (by decide +kernel), by decide +kernel⟩,
    ⟨3, flying sweepOp [origTile, dupTile 4 (some 1), voteTile, againTile 6 0 none, againTile 7 1 (some 1)], origTile, dupTile 4 (some 1), againTile 6 0 none, againTile 7 1 (some 1), voteTile, [6], inv_of_test (by decide +kernel), by decide +kernel⟩,
    ⟨3, flying sweepOp [origTile, dupTile 4 (some 1), voteTile, againTile 6 0 none, againTile 7 1 none], origTile, dupTile 4 (some 1), againTile 6 0 none, againTile 7 1 none, voteTile, sweepOp, selOf sweepWords 1, inv_of_test (by decide +kernel), by decide +kernel⟩,
    ⟨3, flying sweepOp [origTile, dupTile 4 (some 1)], origTile, dupTile 4 (some 1), sweepOp, (nextEligible (flying sweepOp [origTile, dupTile 4 (some 1)]) sweepOp origTile [0, 1]).getD 0, inv_of_test (by decide +kernel), by decide +kernel⟩,
    ⟨3, putMaster (flying sweepOp [origTile, dupTile 4 (some 1)]) (fun m => { m with repeatInForce := true }), origTile, dupTile 4 (some 1), sweepOp, inv_of_test (by decide +kernel), by decide +kernel⟩,
    ⟨3, aloneWith (flying sweepOp [origTile, dupTile 4 (some 1)]), origTile, dupTile 4 (some 1), sweepOp, inv_of_test (by decide +kernel), by decide +kernel⟩,
    ⟨3, flying sweepOp [origTile, dupTile 4 (some 1), voteTile, againTile 6 0 none, againTile 7 1 none], origTile, dupTile 4 (some 1), againTile 6 0 none, againTile 7 1 none, voteTile, sweepOp, selOf sweepWords 1, inv_of_test (by decide +kernel), by decide +kernel⟩,
    ⟨3, flying sweepOp [oddTile, dupTile 4 (some 1), voteTile, againTile 6 0 none, againTile 7 1 none], oddTile, dupTile 4 (some 1), againTile 6 0 none, againTile 7 1 none, voteTile, sweepOp, selOf sweepWords 1, inv_of_test (by decide +kernel), by decide +kernel⟩,
    ⟨3, flying onceOp [oddTile, dupTile 4 (some 1), voteTile, againTile 6 0 none, againTile 7 1 none], oddTile, dupTile 4 (some 1), againTile 6 0 none, againTile 7 1 none, voteTile, onceOp, selOf onceOp.words 1, inv_of_test (by decide +kernel), by decide +kernel⟩⟩

theorem hypotheses_FailedRegionsLeaveTheWeave :
    (∃ (r vcore : Nat) (s : State), (Inv s) ∧ (r < 96) ∧ ((regionAt s r).powered = true) ∧ (fieldRuns s (fieldOf r) = true)) ∧
    (∃ (f : Nat) (s : State), (f < 16) ∧ ((fieldAt s f).spineOn = true) ∧ ((fieldAt s f).halted = false)) ∧
    (∃ (c : Instr) (r : Nat) (s : State), (Inv s) ∧ (r < 96) ∧ ((regionAt s r).live = true) ∧ ((c = .regionFlitParityError r ∨ ∃ k, c = .regionFailed r k))) ∧
    (∃ (s : State) (x : Recovery), (Inv s) ∧ (s.master.recovery = some x)) :=
  ⟨⟨95, 700, on, inv_of_test (by decide +kernel), by decide +kernel⟩,
    ⟨15, on, by decide +kernel⟩,
    ⟨.regionFlitParityError 95, 95, on, inv_of_test (by decide +kernel), by decide +kernel, by decide +kernel, Or.inl rfl⟩,
    ⟨putMaster on (fun m => { m with recovery := some { failed := [95], runs := [], copies := [], halted := false } }), { failed := [95], runs := [], copies := [], halted := false }, inv_of_test (by decide +kernel), by decide +kernel⟩⟩

theorem hypotheses_LinkAndLaneLosses :
    (∃ (l n : Nat) (eighth : Bool) (s : State), (Inv s) ∧ (l < 96) ∧ (isLiveLink (linkAt s l) = true)) ∧
    (∃ (l m : Nat) (s : State), (Inv s) ∧ (l < 96) ∧ (m < 2) ∧ (isLiveLink (linkAt s l) = true) ∧ ((linkAt s l).lanes.getLsbD m = true)) ∧
    (∃ (l : Nat) (s : State), (Inv s) ∧ (l < 96) ∧ (isLiveLink (linkAt s l) = true)) :=
  ⟨⟨95, 2, true, on, inv_of_test (by decide +kernel), by decide +kernel⟩,
    ⟨95, 1, on, inv_of_test (by decide +kernel), by decide +kernel⟩,
    ⟨95, on, inv_of_test (by decide +kernel), by decide +kernel⟩⟩

theorem hypotheses_StrayFlitsAreDropped :
    (∃ (c : Instr) (f : Flit) (s : State), (FlitCommand c f) ∧ (f.type ≠ ftLinkCtrl) ∧ (planeLink s f.plane = none)) ∧
    (∃ (c : Instr) (f : Flit) (s : State), (FlitCommand c f) ∧ (f.type = ftLinkCtrl ∨ (planeLink s f.plane).isSome = true) ∧ (knownType f.type = false)) ∧
    (∃ (c : Instr) (f : Flit) (s : State), (FlitCommand c f) ∧ (f.type = ftLinkCtrl ∨ (planeLink s f.plane).isSome = true) ∧ (knownType f.type = true) ∧ (taggedType f.type = true) ∧ (s.lnk.coordValid = false)) ∧
    (∃ (c : Instr) (f : Flit) (s : State), (FlitCommand c f) ∧ (f.type = ftLinkCtrl ∨ (planeLink s f.plane).isSome = true) ∧ (knownType f.type = true) ∧ (taggedType f.type = true) ∧ (s.lnk.coordValid = true) ∧ (s.lnk.jobTag = 0 ∨ f.jobTag ≠ s.lnk.jobTag)) :=
  ⟨⟨.ready (flitOf ftReady 0 0 []) ReadOutcome.clean, flitOf ftReady 0 0 [], { on with lnk := { on.lnk with links := List.replicate 96 { upLink with plane := some 1 } } }, .ready _ _, by decide +kernel⟩,
    ⟨.ready (flitOf 11 0 0 []) ReadOutcome.clean, flitOf 11 0 0 [], on, .ready _ _, Or.inr (by decide +kernel), by decide +kernel⟩,
    ⟨.ready (flitOf ftReady 0 0 []) ReadOutcome.clean, flitOf ftReady 0 0 [], putLnk on (fun l => { l with coordValid := false }), .ready _ _, Or.inr (by decide +kernel), by decide +kernel⟩,
    ⟨.ready (flitOf ftReady 0 0 []) ReadOutcome.clean, flitOf ftReady 0 0 [], putLnk on (fun l => { l with jobTag := 8 }), .ready _ _, Or.inr (by decide +kernel), by decide +kernel⟩⟩

theorem hypotheses_ControlFlitsAndTime :
    (∃ (l : Nat) (f : Flit) (s : State), (Inv s) ∧ (l < 96) ∧ (f.type = ftLinkCtrl) ∧ (isLiveLink (linkAt s l) = true)) ∧
    (∃ (f : Flit) (obj : Nat) (v : Word64) (s : State), (Inv s) ∧ (FlitTaken s f ftSyncAdd) ∧ (obj = leNat ((flitBody f).take 2)) ∧ (v = BitVec.ofNat 64 (leNat (((flitBody f).drop 8).take 8)))) ∧
    (∃ (s : State) (p : Nat), (timePlane s = some p) ∧ (s.clk.syncRole = 2)) ∧
    (∃ (f : Flit) (s : State), (f.type = ftTimeReq) ∧ ((planeLink s f.plane).isSome = true) ∧ (s.clk.syncRole = 1)) ∧
    (∃ (f : Flit) (t1 : Word64) (d : Int) (s : State), (Inv s) ∧ (f.type = ftTimeResp) ∧ ((planeLink s f.plane).isSome = true) ∧ (s.clk.syncRole = 2) ∧ (s.clk.timeReqSent = some t1) ∧ (d = (((bodyNat f 0 : Int) - t1.toNat - bodyNat f 2) - ((laneTime s (timeLink s (some f.plane)) : Int) - (bodyNat f 1 : Int) - bodyNat f 3)).tdiv 2)) :=
  ⟨⟨95, flitOf ftLinkCtrl 0 0 [], on, inv_of_test (by decide +kernel), by decide +kernel⟩,
    ⟨flitOf ftSyncAdd 0 0 (natBytes 8 65535 ++ natBytes 8 3), 65535, 3, on, inv_of_test (by decide +kernel), by decide +kernel⟩,
    ⟨putClk on (fun c => { c with syncRole := 2 }), 0, by decide +kernel⟩,
    ⟨flitOf ftTimeReq 0 0 [], putClk on (fun c => { c with syncRole := 1 }), by decide +kernel⟩,
    ⟨flitOf ftTimeResp 0 0 [], 0, _, putClk on (fun c => { c with syncRole := 2, timeReqSent := some 0 }), inv_of_test (by decide +kernel), by decide +kernel, by decide +kernel, by decide +kernel, by decide +kernel, rfl⟩⟩

theorem hypotheses_CollectivesAgreeAndStart :
    (∃ (f : Flit) (reads : ReadOutcome) (s : State), (FlitTaken s f ftReady) ∧ (takerOf s f = none) ∧ (notReached s f = true)) ∧
    (∃ (f : Flit) (reads : ReadOutcome) (s : State), (FlitTaken s f ftReady) ∧ (takerOf s f = none) ∧ (notReached s f = false)) ∧
    (∃ (f : Flit) (reads : ReadOutcome) (s : State), (FlitTaken s f ftReady) ∧ ((takerOf s f).isSome = true) ∧ (masterOn s = false)) ∧
    (∃ (f : Flit) (reads : ReadOutcome) (s : State) (o : Op) (c d : Coll), (FlitTaken s f ftReady) ∧ (takerOf s f = some (o, c)) ∧ (masterOn s = true) ∧ (c.variant ≠ 4) ∧ (d = { c with ready := c.ready ++ [(rankOf c f.src, flitBody f)] }) ∧ (¬ (others c).all (fun r => d.ready.any (fun p => p.1 = r)) = true)) ∧
    (∃ (f : Flit) (reads : ReadOutcome) (s : State) (o : Op) (c d : Coll), (FlitTaken s f ftReady) ∧ (takerOf s f = some (o, c)) ∧ (masterOn s = true) ∧ (c.variant ≠ 4) ∧ (d = { c with ready := c.ready ++ [(rankOf c f.src, flitBody f)] }) ∧ ((others c).all (fun r => d.ready.any (fun p => p.1 = r)) = true) ∧ (d.ready.all (fun p => readyAgrees (readyBody s o c) p.2) = true) ∧ (s.master.sel.isSome = true) ∧ (inFlight s o = false) ∧ ((∀ q, s.master.op = some q → collWaits q = false)) ∧ ((planeLink s (c.planes.headD 0)).isSome = true) ∧ (mayRun s = true) ∧ (s.clk.entering = false) ∧ (boundaryClear s = true) ∧ (addressCheck s o = .ok) ∧ (staleCheck s o = .ok)) ∧
    (∃ (f : Flit) (reads : ReadOutcome) (s : State) (o : Op) (c d : Coll), (FlitTaken s f ftReady) ∧ (takerOf s f = some (o, c)) ∧ (masterOn s = true) ∧ (c.variant ≠ 4) ∧ (d = { c with ready := c.ready ++ [(rankOf c f.src, flitBody f)] }) ∧ ((others c).all (fun r => d.ready.any (fun p => p.1 = r)) = true) ∧ (d.ready.all (fun p => readyAgrees (readyBody s o c) p.2) = false) ∧ (c.started = false) ∧ (inFlight s o = false) ∧ ((∀ q, s.master.op = some q → collWaits q = false)) ∧ ((planeLink s (c.planes.headD 0)).isSome = true)) ∧
    (∃ (f : Flit) (reads : ReadOutcome) (s : State) (o : Op) (c : Coll), (FlitTaken s f ftStart) ∧ (masterOn s = true) ∧ (collWhere s f.comm (fun c => c.variant ≤ 3 && !c.agreed && forColl c f && c.rank ≠ 0 && decide (c.list.getD 0 0 = f.src)) = some o) ∧ (o.coll = some c) ∧ (c.early = []) ∧ (c.told = c.planes.map (planeWidth s)) ∧ (s.master.sel.isSome = true) ∧ (inFlight s o = false) ∧ ((∀ q, s.master.op = some q → collWaits q = false)) ∧ (addressCheck s o = .ok) ∧ (staleCheck s o = .ok)) ∧
    (∃ (f : Flit) (s : State) (o : Op) (c : Coll), (FlitTaken s f ftSlotAdj) ∧ (collWhere s f.comm (fun c => c.variant ≤ 3 && forColl c f && c.list.contains f.src) = some o) ∧ (o.coll = some c) ∧ (c.agreed = true)) ∧
    (∃ (f : Flit) (s : State) (o : Op) (c : Coll), (FlitTaken s f ftSlotAdj) ∧ (collWhere s f.comm (fun c => c.variant ≤ 3 && forColl c f && c.list.contains f.src) = some o) ∧ (o.coll = some c) ∧ (c.agreed = false)) ∧
    (∃ (f : Flit) (s : State), (Inv s) ∧ (FlitTaken s f ftAbort) ∧ (abortTaker s f = none) ∧ (notReached s f = true)) ∧
    (∃ (f : Flit) (s : State), (Inv s) ∧ (FlitTaken s f ftAbort) ∧ (abortTaker s f = none) ∧ (notReached s f = false)) ∧
    (∃ (f : Flit) (s : State)  (o : Op) (c : Coll), (Inv s) ∧ (FlitTaken s f ftAbort) ∧ (abortTaker s f = some (o, c)) ∧ (o.ring < 16) ∧ (inFlight s o = false) ∧ (collStarted o = false) ∧ ((∀ q, s.master.op = some q → collWaits q = false))) ∧
    (∃ (f : Flit) (s : State)  (o : Op) (c : Coll), (Inv s) ∧ (FlitTaken s f ftAbort) ∧ (abortTaker s f = some (o, c)) ∧ (o.ring < 16) ∧ (inFlight s o = true)) :=
  ⟨⟨flitOf ftReady 2 0 [], ReadOutcome.clean, on, by decide +kernel⟩,
    ⟨flitOf ftReady 2 0 [], ReadOutcome.clean, putLnk on (fun l => { l with collSeq := [(flitKey (flitOf ftReady 2 0 []), 1)] }), by decide +kernel⟩,
    ⟨flitOf ftReady 2 0 [1], ReadOutcome.clean, putHst (aside (collOp three [])) (fun h => { h with halterRun := some { cause := 2, seq := 0, step := 0, seen := 0, owed := [] } }), by decide +kernel⟩,
    ⟨flitOf ftReady 2 0 [1], ReadOutcome.clean, aside (collOp three []), collOp three [], three, _, by decide +kernel, by decide +kernel, by decide +kernel, by decide +kernel, rfl, by decide +kernel⟩,
    ⟨flitOf ftReady 2 0 (readyOf (collOp first []) first), ReadOutcome.clean, withColl { collOp first [] with count := 1 }, { collOp first [] with count := 1 }, first, _, by decide +kernel, by decide +kernel, by decide +kernel, by decide +kernel, rfl, by decide +kernel, by decide +kernel, by decide +kernel, by decide +kernel, (fun q h => by have h : some sweepOp = some q := h; cases h; decide +kernel), by decide +kernel⟩,
    ⟨flitOf ftReady 2 0 [1, 6], ReadOutcome.clean, withColl { collOp first [] with count := 1 }, { collOp first [] with count := 1 }, first, _, by decide +kernel, by decide +kernel, by decide +kernel, by decide +kernel, rfl, by decide +kernel, by decide +kernel, by decide +kernel, by decide +kernel, (fun q h => by have h : some sweepOp = some q := h; cases h; decide +kernel), by decide +kernel⟩,
    ⟨flitOf ftStart 2 0 [], ReadOutcome.clean, withColl { collOp { gather with told := gather.planes.map (planeWidth on) } [] with count := 1 }, { collOp { gather with told := gather.planes.map (planeWidth on) } [] with count := 1 }, { gather with told := gather.planes.map (planeWidth on) }, by decide +kernel, by decide +kernel, by decide +kernel, by decide +kernel, by decide +kernel, by decide +kernel, by decide +kernel, by decide +kernel, (fun q h => by have h : some sweepOp = some q := h; cases h; decide +kernel), by decide +kernel⟩,
    ⟨flitOf ftSlotAdj 2 0 [], aside (collOp { gather with started := true, agreed := true } []), collOp { gather with started := true, agreed := true } [], { gather with started := true, agreed := true }, by decide +kernel⟩,
    ⟨flitOf ftSlotAdj 2 0 [], aside (collOp gather []), collOp gather [], gather, by decide +kernel⟩,
    ⟨flitOf ftAbort 2 0 [1, 1], on, inv_of_test (by decide +kernel), by decide +kernel⟩,
    ⟨flitOf ftAbort 2 0 [1, 1], putLnk on (fun l => { l with collSeq := [(flitKey (flitOf ftAbort 2 0 [1, 1]), 1)] }), inv_of_test (by decide +kernel), by decide +kernel⟩,
    ⟨flitOf ftAbort 2 0 [1, 1], exchangingOn, exchangeOp, gather, inv_of_test (by decide +kernel), by decide +kernel, by decide +kernel, by decide +kernel, by decide +kernel, by decide +kernel, (fun q h => by have h : none = some q := h; cases h)⟩,
    ⟨flitOf ftAbort 2 0 [1, 1], flying (collOp gather []) [], collOp gather [], gather, inv_of_test (by decide +kernel), by decide +kernel⟩⟩

theorem hypotheses_CollectiveDataAndSlots :
    (∃ (f : Flit) (lane : Bool) (merge : ReadOutcome) (s : State) (o : Op) (c d : Coll), (FlitTaken s f ftData) ∧ (collWhere s f.comm (fun c => c.variant ≤ 3 && !c.done && awaitsFlit c f && decide (1 ≤ f.slot) && decide (f.slot ≤ lastSlot c) && decide (c.list.getD (slotSource c f.slot) 0 = f.src)) = some o) ∧ (o.coll = some c) ∧ (d = { c with got := c.got ++ [{ slot := f.slot, plane := f.plane, index := f.index, bytes := flitBody f }] }) ∧ ((lane = false ∨ c.started = false ∨ reduces c f.slot = false)) ∧ ((c.begun = false ∨ inFlight s o = false ∨ (gotBytes d.got f.slot).length < slotLen o c f.slot)) ∧ ((∀ p k, flightColl s = some (p, k) → sameOp p o = true → p = o ∧ k = c)) ∧ ((∀ p k, flightColl s = some (p, k) → k.got.any (fun g => decide (g.slot = f.slot)) = false ∨ sameOp p o = true)) ∧ ((∀ p k, flightColl s = some (p, k) → k.begun = false ∨ 3 < k.variant ∨ (k.ownDone = false ∧ (k.variant = 0 ∨ k.variant = 2)) ∨ ∃ r ∈ wanted p k, r ∉ k.gathered))) ∧
    (∃ (f : Flit) (lane : Bool) (merge : ReadOutcome) (s : State) (o : Op) (c d : Coll) (cells : List Host.Cell), (FlitTaken s f ftData) ∧ (collWhere s f.comm (fun c => c.variant ≤ 3 && !c.done && awaitsFlit c f && decide (1 ≤ f.slot) && decide (f.slot ≤ lastSlot c) && decide (c.list.getD (slotSource c f.slot) 0 = f.src)) = some o) ∧ (o.coll = some c) ∧ (d = { c with got := c.got ++ [{ slot := f.slot, plane := f.plane, index := f.index, bytes := flitBody f }] }) ∧ ((lane = false ∨ reduces c f.slot = false)) ∧ (masterOn s = true) ∧ (s.master.op = some o) ∧ (c.begun = true) ∧ (reduces c f.slot = false) ∧ (slotLen o c f.slot ≤ (gotBytes d.got f.slot).length) ∧ (cells = cellsOf (readByte s) (zWrites o (blockOf (if c.variant = 3 then tdElems (collZ o) else collElems o) c.ranks (slotSource c f.slot)).1 ((List.range (blockOf (if c.variant = 3 then tdElems (collZ o) else collElems o) c.ranks (slotSource c f.slot)).2).map (packedCode (collZ o).format (gotBytes d.got f.slot))))) ∧ (writeAccess s (cells.map (·.1)) (mergesOf merge cells).uncorrectable = .ok) ∧ (merge.corrected = []) ∧ (merge.wrong = [])) ∧
    (∃ (f : Flit) (lane : Bool) (merge : ReadOutcome) (s : State) (o : Op) (c d : Coll), (FlitTaken s f ftData) ∧ (collWhere s f.comm (fun c => c.variant ≤ 3 && !c.done && awaitsFlit c f && decide (1 ≤ f.slot) && decide (f.slot ≤ lastSlot c) && decide (c.list.getD (slotSource c f.slot) 0 = f.src)) = some o) ∧ (o.coll = some c) ∧ (d = { c with got := c.got ++ [{ slot := f.slot, plane := f.plane, index := f.index, bytes := flitBody f }] }) ∧ (Inv s) ∧ (lane = true) ∧ (c.started = true) ∧ (reduces c f.slot = true) ∧ (inFlight s o = true)) ∧
    (∃ (f : Flit) (merge : ReadOutcome) (s : State) (o : Op) (c d : Coll), (FlitTaken s f ftSendData) ∧ (o ∈ s.master.op.toList ++ s.master.colls) ∧ ((∀ x ∈ s.master.op.toList ++ s.master.colls, x ≠ o → sameOp x o = false ∧ ∀ k, x.coll = some k → k.variant ≠ 5)) ∧ (o.coll = some c) ∧ (c.variant = 5) ∧ (c.comm = f.comm) ∧ (f.slot = c.num % 2 ^ 24) ∧ (c.stalled = false) ∧ (c.started = true) ∧ (c.done = false) ∧ (c.list.getD (collPeer o) 0 = f.src) ∧ (d = { c with got := c.got ++ [{ slot := 0, plane := f.plane, index := f.index, bytes := flitBody f }] }) ∧ ((gotBytes d.got 0).length < recvLen o)) ∧
    (∃ (reads own : ReadOutcome) (s : State) (o : Op) (c : Coll), (s.master.op = some o) ∧ (o.coll = some c) ∧ (masterOn s = true) ∧ (s.master.tail = []) ∧ (slotDue s c = true) ∧ (own = outcomeOf reads (slotSpans o c c.slotNext)) ∧ (readAccess s (slotSpans o c c.slotNext) own.uncorrectable = .ok)) ∧
    (∃ (reads own : ReadOutcome) (s : State) (o : Op) (c : Coll), (s.master.op = some o) ∧ (o.coll = some c) ∧ (masterOn s = true) ∧ (s.master.tail = []) ∧ (c.variant = 4) ∧ (c.started = true) ∧ (c.begun = false) ∧ (c.stalled = false) ∧ (c.done = false) ∧ (c.got = []) ∧ ((∀ p ∈ c.planes, (planeLink s p).isSome = true)) ∧ (own = outcomeOf reads (beginSpans o c)) ∧ (readAccess s (beginSpans o c) own.uncorrectable = .ok)) ∧
    (∃ (reads own : ReadOutcome) (s : State) (x : Tail) (ts : List Tail) (c : Coll), (masterOn s = true) ∧ (s.master.tail = x :: ts) ∧ (x.op.coll = some c) ∧ (slotDue s c = true) ∧ (own = outcomeOf reads (slotSpans x.op c c.slotNext)) ∧ (readAccess s (slotSpans x.op c c.slotNext) own.uncorrectable = .ok)) ∧
    (∃ (reads : ReadOutcome) (s : State) (o : Op) (c : Coll) (sel : Selection), (Inv s) ∧ (s.master.op = some o) ∧ (o.coll = some c) ∧ (o.opcode = 12) ∧ (o.variant = 4) ∧ (c.variant = 4) ∧ (c.sent = true) ∧ (c.stalled = false) ∧ (c.done = false) ∧ (s.master.sel = some sel) ∧ (o.advStats = []) ∧ ((planeLink s (c.planes.getLastD 0)).isSome = true) ∧ (sel.next = sel.members.length) ∧ (sel.ring < 16) ∧ (s.master.done = []) ∧ (s.master.recovery = none) ∧ (masterOn s = true) ∧ (signalLost s sel.members = none) ∧ ((∀ e ∈ (ringAt s sel.ring).entries, e.ended = none))) :=
  ⟨⟨flitOf ftData 2 1 [0], true, ReadOutcome.clean, aside (collOp gather []), collOp gather [], gather, _, by decide +kernel, by decide +kernel, by decide +kernel, rfl, by decide +kernel, by decide +kernel, (fun p k h => by simp [flightColl, aside, putMaster, on, State.reset, Master.reset] at h), (fun p k h => by simp [flightColl, aside, putMaster, on, State.reset, Master.reset] at h), (fun p k h => by simp [flightColl, aside, putMaster, on, State.reset, Master.reset] at h)⟩,
    ⟨flitOf ftData 2 1 (List.replicate 256 7), false, ReadOutcome.clean, flying (collOp { gather with started := true, begun := true } [[sweepTd], [], [], [sweepTd], []]) [], (collOp { gather with started := true, begun := true } [[sweepTd], [], [], [sweepTd], []]), { gather with started := true, begun := true }, _, _, by decide +kernel, by decide +kernel, by decide +kernel, rfl, by decide +kernel, by decide +kernel, by decide +kernel, by decide +kernel, by decide +kernel, by decide +kernel, rfl, by decide +kernel⟩,
    ⟨flitOf ftData 2 1 [0], true, ReadOutcome.clean, flying (collOp { gather with variant := 2, started := true, begun := true } [[sweepTd], [], [], [sweepTd], []]) [], (collOp { gather with variant := 2, started := true, begun := true } [[sweepTd], [], [], [sweepTd], []]), { gather with variant := 2, started := true, begun := true }, _, by decide +kernel, by decide +kernel, by decide +kernel, rfl, inv_of_test (by decide +kernel), by decide +kernel⟩,
    ⟨flitOf ftSendData 2 0 [1], ReadOutcome.clean, aside (collOp receiver [[], [], [], [sweepTd], []]), collOp receiver [[], [], [], [sweepTd], []], receiver, _, by decide +kernel, by simp [aside, putMaster, on, State.reset, Master.reset], aside_alone _ _, by decide +kernel, by decide +kernel, by decide +kernel, by decide +kernel, by decide +kernel, by decide +kernel, by decide +kernel, by decide +kernel, rfl, by decide +kernel⟩,
    ⟨ReadOutcome.clean, _, flying (collOp { gather with started := true, begun := true } [[sweepTd], [], [], [sweepTd], []]) [], (collOp { gather with started := true, begun := true } [[sweepTd], [], [], [sweepTd], []]), { gather with started := true, begun := true }, by decide +kernel, by decide +kernel, by decide +kernel, by decide +kernel, by decide +kernel, rfl, by decide +kernel⟩,
    ⟨ReadOutcome.clean, _, flying (collOp sending [[sweepTd], [], [], [], []]) [], collOp sending [[sweepTd], [], [], [], []], sending, by decide +kernel, by decide +kernel, by decide +kernel, by decide +kernel, by decide +kernel, by decide +kernel, by decide +kernel, by decide +kernel, by decide +kernel, by decide +kernel, by decide +kernel, rfl, by decide +kernel⟩,
    ⟨ReadOutcome.clean, _, putMaster on (fun m => { m with tail := [{ op := (collOp { gather with started := true, begun := true } [[sweepTd], [], [], [sweepTd], []]), data := [] }] }), { op := (collOp { gather with started := true, begun := true } [[sweepTd], [], [], [sweepTd], []]), data := [] }, [], { gather with started := true, begun := true }, by decide +kernel, by decide +kernel, by decide +kernel, by decide +kernel, rfl, by decide +kernel⟩,
    ⟨ReadOutcome.clean, flying (collOp sender [[sweepTd], [], [], [], []]) [], collOp sender [[sweepTd], [], [], [], []], sender, selOf (collWords 4) 1, inv_of_test (by decide +kernel), by decide +kernel⟩⟩

end Sys2Proof.Tests
end

section
/-!
The set-up window: the path of a host write to its register, and what happens to the keys on the way (19 R439, R448).
-/
namespace Sys2Proof.Machine

/-! ### Fields of a written word -/

/-- The bits of a word from lo on, as a field takes them. -/
theorem ofNat_wBits {w hi lo : Nat} (v : Word) (h : hi + 1 - lo = w) : BitVec.ofNat w (wBits v hi lo) = (v >>> lo).setWidth w := by
  subst h
  apply BitVec.eq_of_toNat_eq
  simp [wBits, bits, Nat.shiftRight_eq_div_pow]

/-- A field that a write does not reach already holds what the write says. -/
theorem eq_setWidth_of_wBits {w hi lo : Nat} {v : Word} {x : BitVec w} (h : hi + 1 - lo = w) (hx : wBits v hi lo = x.toNat) :
    x = (v >>> lo).setWidth w := by
  rw [← ofNat_wBits v h, hx, BitVec.ofNat_toNat, BitVec.setWidth_eq]

/-- KEY of a written KEYLOCK word. -/
theorem wBits_key_iff (v : Word) : wBits v 15 0 = 0x4C6B ↔ v &&& 0xFFFF = 0x4C6B := by
  have hand : (v &&& 0xFFFF).toNat = wBits v 15 0 := by
    simpa [wBits, bits] using Nat.and_two_pow_sub_one_eq_mod v.toNat 16
  rw [← hand, BitVec.toNat_eq]
  rfl

/-! ### Offsets of the window -/

theorem blockBase_mod_four (b : Blk) : blockBase b % 4 = 0 := by
  unfold blockBase
  omega

theorem window_mod (b : Blk) {loc : Nat} (h : loc < 4096) : (blockBase b + loc) % 4096 = loc := by
  unfold blockBase
  omega

theorem blockAt_window (b : Blk) {loc : Nat} (h : loc < 4096) : blockAt (blockBase b + loc) = some b := by
  have hq : (blockBase b + loc) / 4096 = blkNum b := by
    unfold blockBase
    omega
  unfold blockAt
  rw [hq]
  cases b <;> rfl

@[simp] theorem answers_modCtl (s : State) (b c : Blk) (g : BlockCtl → BlockCtl) (loc : Nat) :
    answers (modCtl s b g) c loc = answers s c loc := rfl

/-! ### What an update of a block's control leaves alone -/

theorem ctlAt_modCtl_proj {α : Type} (f : BlockCtl → α) {g : BlockCtl → BlockCtl} (hg : ∀ x, f (g x) = f x) (s : State) (b c : Blk) :
    f (ctlAt (modCtl s b g) c) = f (ctlAt s c) := by
  by_cases hbc : b = c
  · subst hbc
    by_cases hl : blkNum b < s.blocks.length
    · rw [ctlAt_modCtl_same s b g hl, hg]
    · simp [ctlAt, modCtl, List.getD_eq_getElem?_getD, List.getElem?_eq_none (Nat.le_of_not_lt hl)]
  · rw [ctlAt_modCtl_other s g hbc]

/-- The table of blocks is not touched. -/
theorem Only.ctlAt_eq {ps : List Part} {s t : State} (h : Only ps s t) (hp : Part.blocks ∉ ps) (c : Blk) : ctlAt t c = ctlAt s c := by
  have hb : t.blocks = s.blocks := h .blocks hp
  simp only [ctlAt, hb]

/-! ### The path of a write -/

/-- The key of a block closes. -/
abbrev closeKey (s : State) (b : Blk) : State := modCtl s b (fun c => { c with keyOpen := false })

theorem wordWrite_window {s : State} {b : Blk} {loc : Nat} (v : Word) (h : loc < 4096) (ha : answers s b loc = true) :
    wordWrite s (blockBase b + loc) v = if loc = 0x004 then keyWrite s b v else keyedWrite s b loc v := by
  simp [wordWrite, blockAt_window b h, window_mod b h, ha]

theorem exec_keylockWrite {s : State} {b : Blk} (v : Word) (hk : kListens s = true) (ha : answers s b 0x004 = true) :
    exec (.keylockWrite b v) s = .next (keyWrite s b v) := by
  have hw := wordWrite_window v (by decide) ha
  change execKeylockWrite b v s = _
  simp [execKeylockWrite, regWrite, hk, hw]

/-- A word written to a register that is not KEYLOCK. -/
theorem exec_hostWriteReg {s : State} {b : Blk} {loc : Nat} (v : Word) (h : loc < 4096) (h4 : loc % 4 = 0) (hne : loc ≠ 0x004)
    (hk : kListens s = true) (ha : answers s b loc = true) :
    exec (hostWriteReg b loc v) s = .next (keyedWrite s b loc v) := by
  have hal : (blockBase b + loc) % 4 = 0 := by
    have := blockBase_mod_four b
    omega
  have hw := wordWrite_window v h ha
  change execRegisterWrite .bar0 (blockBase b + loc) 4 (v.setWidth 64) s = _
  have hv : BitVec.ofNat 32 (v.setWidth 64).toNat = v := by
    apply BitVec.eq_of_toNat_eq
    have := v.isLt
    simp
    omega
  simp [-BitVec.toNat_setWidth, execRegisterWrite, bar0Write, splitWrite, hal, hk, hw, hne, hv]

theorem closeKey_cinch (s : State) (b c : Blk) : (ctlAt (closeKey s b) c).cinch = (ctlAt s c).cinch := by
  apply ctlAt_modCtl_proj (·.cinch)
  exact fun _ => rfl

theorem closeKey_keyErr (s : State) (b c : Blk) : (ctlAt (closeKey s b) c).keyErr = (ctlAt s c).keyErr := by
  apply ctlAt_modCtl_proj (·.keyErr)
  exact fun _ => rfl

/-- With no cinch open the write takes effect at once, keyed as the key stood, and the key closes. -/
theorem keyedWrite_at_once {s : State} {b : Blk} {loc : Nat} (v : Word) (h : 0x040 ≤ loc) (hc : (ctlAt s b).cinch = .closed) :
    keyedWrite s b loc v =
      writeBlock b (closeKey s b) loc v { keyed := (ctlAt s b).keyOpen, commit := false, dropped := false } := by
  have hcc : (ctlAt (closeKey s b) b).cinch = .closed := (closeKey_cinch s b b).trans hc
  have h8 : loc ≠ 0x008 := by omega
  have hC : loc ≠ 0x00C := by omega
  have hlt : ¬ loc < 0x040 := by omega
  simp [keyedWrite, h8, hC, hlt, hcc]

/-! ### Keys (R448) -/

/-- The key of a block is open, or is closed. -/
def KeyIs (c : Blk) (k : Bool) (s : State) : Prop := (ctlAt s c).keyOpen = k

theorem keyIs_closeKey (s : State) (b : Blk) : KeyIs b false (closeKey s b) := by
  unfold KeyIs
  by_cases hl : blkNum b < s.blocks.length
  · rw [ctlAt_modCtl_same s b _ hl]
  · simp [ctlAt, modCtl, List.getD_eq_getElem?_getD, List.getElem?_eq_none (Nat.le_of_not_lt hl), BlockCtl.reset]

theorem keyIs_closeKey_other {s : State} {b c : Blk} (h : b ≠ c) : KeyIs c (ctlAt s c).keyOpen (closeKey s b) :=
  congrArg BlockCtl.keyOpen (ctlAt_modCtl_other s _ h)

section
variable {c b : Blk} {k : Bool} {s t : State}

/-- What does not touch the table of blocks leaves every key. -/
theorem KeyIs.only {ps : List Part} (h : KeyIs c k s) (o : Only ps s t) (hp : Part.blocks ∉ ps) : KeyIs c k t :=
  (congrArg BlockCtl.keyOpen (o.ctlAt_eq hp c)).trans h

theorem KeyIs.modCtl {g : BlockCtl → BlockCtl} (h : KeyIs c k s) (hg : ∀ x, (g x).keyOpen = x.keyOpen) :
    KeyIs c k (Machine.modCtl s b g) :=
  (ctlAt_modCtl_proj (·.keyOpen) hg s b c).trans h

theorem KeyIs.guardKey {f : State → State} (h : KeyIs c k s) (loc : Nat) (v : Word) (a : Access) (hf : KeyIs c k (f s)) :
    KeyIs c k (Machine.guardKey s b loc v a f) := by
  unfold Machine.guardKey
  split
  · exact h
  · split
    · exact hf
    · split
      · exact h
      · exact h.modCtl fun _ => rfl

theorem KeyIs.guardPair {f : State → State} (h : KeyIs c k s) (loc : Nat) (v : Word) (a : Access) (hf : KeyIs c k (f s)) :
    KeyIs c k (Machine.guardPair s b loc v a f) := by
  unfold Machine.guardPair
  split
  · exact hf
  · split
    · exact h.modCtl fun _ => rfl
    · exact h

theorem KeyIs.modGlb {g : Glb → Glb} (h : KeyIs c k s) : KeyIs c k (Machine.modGlb s g) := h
theorem KeyIs.modPwr {g : Power → Power} (h : KeyIs c k s) : KeyIs c k (Machine.modPwr s g) := h
theorem KeyIs.modClk {g : Clock → Clock} (h : KeyIs c k s) : KeyIs c k (Machine.modClk s g) := h
theorem KeyIs.modLnk {g : Lnk → Lnk} (h : KeyIs c k s) : KeyIs c k (Machine.modLnk s g) := h
theorem KeyIs.modSec {g : Sec → Sec} (h : KeyIs c k s) : KeyIs c k (Machine.modSec s g) := h
theorem KeyIs.modHst {g : Hst → Hst} (h : KeyIs c k s) : KeyIs c k (Machine.modHst s g) := h
theorem KeyIs.modBoot {g : Boot → Boot} (h : KeyIs c k s) : KeyIs c k (Machine.modBoot s g) := h
theorem KeyIs.modFarrier {g : Farrier → Farrier} (h : KeyIs c k s) : KeyIs c k (Machine.modFarrier s g) := h
theorem KeyIs.modStack {m : Nat} {g : Stack → Stack} (h : KeyIs c k s) : KeyIs c k (Machine.modStack s m g) := h

/-- Either of two ways leads to a state with the key so. -/
theorem KeyIs.ite {q : Prop} [Decidable q] (hs : KeyIs c k s) (ht : KeyIs c k t) : KeyIs c k (if q then s else t) := by
  split <;> assumption

/-! ### No register but GLB_RESET reaches a key -/

theorem KeyIs.writeFld (h : KeyIs c k s) (loc : Nat) (v : Word) : KeyIs c k (Machine.writeFld s loc v) :=
  h.only (writeFld_only (.refl s) (.refl _) loc v) (by decide)

theorem KeyIs.writeHst (h : KeyIs c k s) (loc : Nat) (v : Word) : KeyIs c k (Machine.writeHst s loc v) :=
  h.only (writeHst_only (.refl s) (.refl _) loc v) (by decide)

theorem KeyIs.writeRgn (h : KeyIs c k s) (loc : Nat) (v : Word) (a : Access) : KeyIs c k (Machine.writeRgn s loc v a) := by
  unfold Machine.writeRgn
  split
  · exact h.modGlb
  · exact h.guardPair _ _ _ h.modGlb
  · exact h.guardPair _ _ _ h.modGlb
  · exact h.modGlb.ite h
  · exact h.modGlb
  · exact h

theorem KeyIs.writeMem (h : KeyIs c k s) (loc : Nat) (v : Word) (a : Access) : KeyIs c k (Machine.writeMem s loc v a) := by
  have hq : KeyIs c k (queueRetrain s s.glb.memSel.toNat) := h.only (queueRetrain_only (.refl s) (.refl _) _) (by decide)
  unfold Machine.writeMem
  split
  · exact h.modGlb
  · exact h.modStack.ite h
  · exact h.guardKey _ _ _ (hq.ite h)
  · exact h

theorem KeyIs.writeLnk (h : KeyIs c k s) (loc : Nat) (v : Word) (a : Access) : KeyIs c k (Machine.writeLnk s loc v a) := by
  unfold Machine.writeLnk
  split
  · exact h.modLnk
  · exact h.ite h.modLnk
  · exact h.ite h.modLnk
  · exact h.guardKey _ _ _ (h.ite h.modLnk)
  · exact h

theorem KeyIs.dropAll (h : KeyIs c k s) : KeyIs c k (Machine.dropAll s) := h.only (dropAll_only (.refl s) (.refl _)) (by decide)

theorem KeyIs.uncap (h : KeyIs c k s) : KeyIs c k (Machine.uncap s) := h.only (uncap_only (.refl s) (.refl _)) (by decide)

theorem KeyIs.clearVmin (h : KeyIs c k s) : KeyIs c k (Machine.clearVmin s) := h.only (clearVmin_only (.refl s) (.refl _)) (by decide)

theorem KeyIs.writePwr (h : KeyIs c k s) (loc : Nat) (v : Word) (a : Access) : KeyIs c k (Machine.writePwr s loc v a) := by
  unfold Machine.writePwr
  split
  · exact h.modPwr
  · exact h.clearVmin.ite h
  · exact h.guardKey _ _ _ h.modPwr.dropAll
  · exact (h.modPwr.guardKey _ _ _ h.modPwr.modPwr).dropAll
  · have hu := KeyIs.ite (q := wBit v 16 = true) (h.modPwr (g := fun p => { p with capUnmet := false })) h
    exact hu.guardKey _ _ _ hu.modPwr.uncap
  · exact h

theorem KeyIs.sleepRequest (h : KeyIs c k s) : KeyIs c k (Machine.sleepRequest s) :=
  h.only (sleepRequest_only (.refl s) (.refl _)) (by decide)

theorem KeyIs.wakeRequest (h : KeyIs c k s) : KeyIs c k (Machine.wakeRequest s) :=
  h.only (wakeRequest_only (.refl s) (.refl _)) (by decide)

theorem KeyIs.writeClk (h : KeyIs c k s) (loc : Nat) (v : Word) (a : Access) : KeyIs c k (Machine.writeClk s loc v a) := by
  unfold Machine.writeClk
  split
  · exact h.modClk
  · exact h.modClk.guardKey _ _ _ h.modClk.modClk
  · exact h.modClk
  · exact h.guardPair _ _ _ h.modClk
  · exact h.guardPair _ _ _ h.modClk
  · have hu := KeyIs.ite (q := wBit v 4 = true) (h.modClk (g := fun c => { c with sleepErr := false })) h
    exact hu.sleepRequest.ite (hu.wakeRequest.ite hu)
  · exact h

theorem KeyIs.writeSec (h : KeyIs c k s) (loc : Nat) (v : Word) (a : Access) : KeyIs c k (Machine.writeSec s loc v a) := by
  have hstart : KeyIs c k (updateStart s) := h.only (updateStart_only (.refl s) (.refl _)) (by decide)
  have htry : KeyIs c k (faTry s) := h.only (faTry_only (.refl s) (.refl _)) (by decide)
  have hshut : KeyIs c k (faShut s) := h.modSec
  unfold Machine.writeSec
  split
  · exact h.modSec
  · exact h.modSec
  · exact h.modSec
  · exact h.guardKey _ _ _ (hstart.ite h)
  · exact h.guardKey _ _ _ (htry.ite (hshut.ite h))
  · exact KeyIs.ite h.modSec h
  · exact h

/-! ### The cinch and the halter leave the keys -/

theorem KeyIs.closeCinch (h : KeyIs c k s) (last : CinchLast) : KeyIs c k (Machine.closeCinch s b last) := h.modCtl fun _ => rfl

theorem KeyIs.refusePair (h : KeyIs c k s) : KeyIs c k (Machine.refusePair s b) :=
  h.only (refusePair_only (.refl s) (.refl _) b) (by decide)

theorem KeyIs.pairApplied (h : KeyIs c k s) : KeyIs c k (Machine.pairApplied s b) :=
  h.only (pairApplied_only (.refl s) (.refl _) b) (by decide)

/-- A commit leaves a key that every write of the block leaves. -/
theorem KeyIs.applyCommit {write : State → Nat → Word → Access → State} (h : KeyIs c k s)
    (hw : ∀ u loc v a, KeyIs c k u → KeyIs c k (write u loc v a)) : KeyIs c k (Machine.applyCommit s b write) := by
  have hfold : ∀ (ws : List Staged) (u : State), KeyIs c k u →
      KeyIs c k (ws.foldl (fun u w => write u w.offset w.value (stagedAccess w)) u) := by
    intro ws
    induction ws with
    | nil => exact fun u hu => hu
    | cons w ws ih => exact fun u hu => ih _ (hw _ _ _ _ hu)
  unfold Machine.applyCommit
  dsimp only
  split
  · exact (h.closeCinch _).refusePair
  · split
    · exact (hfold _ _ (h.closeCinch _)).pairApplied
    · exact hfold _ _ (h.closeCinch _)

theorem KeyIs.applyPending (h : KeyIs c k s) : KeyIs c k (Machine.applyPending s b) := by
  unfold Machine.applyPending
  split
  · split
    · exact h.applyCommit fun _ _ _ _ hu => hu.writeRgn _ _ _
    · exact h.applyCommit fun _ _ _ _ hu => hu.writeClk _ _ _
    · exact h
  · exact h

/-- Steps 1 to 5 of a halter leave the keys (19, When halter arrives with a commit pending). -/
theorem KeyIs.haltSequence (h : KeyIs c k s) (cause : Nat) (seq : BitVec 16) : KeyIs c k (Machine.haltSequence s cause seq) := by
  have hstop : Only [.fields, .regions, .lnk, .na, .hst, .boot, .glb, .sec, .master, .farrier, .spad, .before, .host, .badSpad] s
      (pauseUpdate (disableOpRings (discardWork (endVotes (farrierAbandon (stopBoot s)))))) :=
    pauseUpdate_only (disableOpRings_only (discardWork_only (endVotes_only (farrierAbandon_only (stopBoot_only (.refl s)
      (.ofBool rfl)) (.ofBool rfl)) (.ofBool rfl)) (.ofBool rfl)) (.ofBool rfl)) (.ofBool rfl)
  have hpend := ((h.only hstop (by decide)).applyPending (b := .rgn)).applyPending (b := .clk)
  unfold Machine.haltSequence
  refine KeyIs.modClk (KeyIs.modHst (KeyIs.ite ?_ ?_))
  · exact hpend.only (clearZeroed_only (.refl _) (.refl _)) (by decide)
  · exact hpend.only (zeroStart_only (.refl _) (.refl _)) (by decide)

theorem KeyIs.haltWhole (h : KeyIs c k s) (cause : Nat) : KeyIs c k (Machine.haltWhole s cause) := by
  have hend : ∀ u, KeyIs c k u → KeyIs c k (if u.glb.zeroing then zeroEnd u else u) := fun u hu =>
    (hu.only (zeroEnd_only (.refl u) (.refl _)) (by decide)).ite hu
  unfold Machine.haltWhole
  refine KeyIs.only ?_ (haltPost_only (.refl _) (.refl _)) (by decide)
  split
  · exact hend s h
  · exact hend _ (h.haltSequence cause 0)

/-- A warm reset closes every key (R457). -/
theorem warmRest_keyIs (s : State) (c : Blk) : KeyIs c false (warmRest s) := by
  cases c <;> rfl

theorem KeyIs.warmReset (h : KeyIs c false s) : KeyIs c false (Machine.warmReset s) := by
  unfold Machine.warmReset
  exact h.ite ((warmRest_keyIs _ c).ite (h.haltWhole 4).modSec)

theorem KeyIs.writeGlb {loc : Nat} (h : KeyIs c k s) (v : Word) (a : Access) (hr : loc ≠ 0x048 ∨ k = false) :
    KeyIs c k (Machine.writeGlb s loc v a) := by
  unfold Machine.writeGlb
  split
  · exact h.only (bootCommand_only (.refl s) (.refl _) _ _) (by decide)
  · exact h.modBoot.ite h
  · obtain rfl : k = false := hr.resolve_left (fun hne => hne rfl)
    exact h.guardKey _ _ _ h.warmReset
  · exact h.modGlb
  · exact h.modGlb
  · exact h.ite h.modGlb
  · exact h.ite h.modGlb
  · exact h.modGlb
  · exact h.modGlb
  · exact h.modGlb
  · have hsync : ∀ set, KeyIs c k (hostSync s set) := fun set => h.only (hostSync_only (.refl s) (.refl _) set) (by decide)
    exact (hsync true).ite ((hsync false).ite h)
  · exact h.modGlb.guardKey _ _ _ h.modGlb.modGlb
  · exact h.guardKey _ _ _ h.modFarrier
  · exact h.modGlb
  · exact h

/-- A write leaves every key, where it is not that of GLB_RESET. -/
theorem KeyIs.writeBlock (h : KeyIs c k s) (loc : Nat) (v : Word) (a : Access) (hr : ¬ (b = .glb ∧ loc = 0x048) ∨ k = false) :
    KeyIs c k (Machine.writeBlock b s loc v a) := by
  unfold Machine.writeBlock
  refine h.ite ?_
  cases b with
  | glb => exact h.writeGlb v a (hr.imp_left (by simp))
  | fld => exact h.writeFld _ _
  | rgn => exact h.writeRgn _ _ _
  | mem => exact h.writeMem _ _ _
  | lnk => exact h.writeLnk _ _ _
  | hst => exact h.writeHst _ _
  | pwr => exact h.writePwr _ _ _
  | clk => exact h.writeClk _ _ _
  | sec => exact h.writeSec _ _ _

/-- CINCH: only a commit of the GLB block may hold a write of GLB_RESET. -/
theorem KeyIs.cinchWrite (h : KeyIs c k s) (v : Word) (hr : b ≠ .glb ∨ k = false) : KeyIs c k (Machine.cinchWrite s b v) := by
  have herr : KeyIs c k (cinchErr s b) := h.modCtl fun _ => rfl
  unfold Machine.cinchWrite
  split
  · exact KeyIs.ite (h.modCtl fun _ => rfl) herr
  · have hcommit := h.applyCommit (b := b) fun u loc v a hu => hu.writeBlock loc v a (hr.imp_left fun hb hx => hb hx.1)
    exact herr.ite ((h.closeCinch _).ite (KeyIs.ite (h.modCtl fun _ => rfl) hcommit))
  · exact herr.ite (h.closeCinch _)
  · exact h

theorem KeyIs.stageWrite (h : KeyIs c k s) (loc : Nat) (v : Word) (keyed : Bool) : KeyIs c k (Machine.stageWrite s b loc v keyed) :=
  KeyIs.ite (h.modCtl fun _ => rfl) (h.modCtl fun _ => rfl)

/-- Once the key of its block is closed, a write leaves every key; only a warm reset does more than that. -/
theorem KeyIs.keyedWrite {loc : Nat} (h : KeyIs c k (closeKey s b)) (v : Word)
    (hr : ¬ (b = .glb ∧ (loc = 0x048 ∨ loc = 0x008)) ∨ k = false) : KeyIs c k (Machine.keyedWrite s b loc v) := by
  unfold Machine.keyedWrite
  dsimp only
  split
  · next hloc => exact h.cinchWrite v (hr.imp_left fun hn hb => hn ⟨hb, .inr hloc⟩)
  · refine KeyIs.ite (h.modCtl fun _ => rfl) (h.ite ?_)
    split
    · exact h.writeBlock _ v _ (hr.imp_left fun hn hb => hn ⟨hb.1, .inl hb.2⟩)
    · exact h.stageWrite _ _ _
    · exact h.modCtl fun _ => rfl

end

end Sys2Proof.Machine
end

section
/-!
The registers with RWK fields: what a write of one does with its block's key open, and with it closed (19 R443, R444, R448, R449).
-/
namespace Sys2Proof.Machine

/-! ### A keyed register as its RW and its RWK fields -/

/-- What the fields of a keyed register that need no key take from a write. -/
def openFields (b : Blk) (loc : Nat) (v : Word) (s : State) : State :=
  match b, loc with
  | .glb, 0x200 => modGlb s (fun g => { g with dupRate := BitVec.ofNat 4 (wBits v 3 0) })
  | .pwr, 0x064 => modPwr s (fun p => { p with idleWalkEn := wBit v 2 })
  | .pwr, 0x068 => if wBit v 16 then modPwr s (fun p => { p with capUnmet := false }) else s
  | .clk, 0x058 => modClk s (fun c => { c with beatTime := wBit v 0 })
  | _, _ => s

/-- What its RWK fields take from a write that reaches them with the key. -/
def lockedFields (b : Blk) (loc : Nat) (v : Word) (s : State) : State :=
  match b, loc with
  | .glb, 0x048 => warmReset s
  | .glb, 0x200 => modGlb s (fun g => { g with dupRepeat := wBit v 4 })
  | .glb, 0x210 => modFarrier s (fun x => { x with en := wBit v 0 })
  | .mem, 0x054 => if wBit v 0 then queueRetrain s s.glb.memSel.toNat else s
  | .lnk, 0x078 => if anyRingEn s then s else modLnk s (fun l => { l with jobTag := v })
  | .pwr, 0x060 => dropAll (modPwr s (fun p => { p with capPolicy := wBit v 0 }))
  | .pwr, 0x064 => modPwr s (fun p => { p with maxGait := BitVec.ofNat 2 (wBits v 1 0) })
  | .pwr, 0x068 => uncap (modPwr s (fun p => { p with cap := BitVec.ofNat 11 (wBits v 10 0) }))
  | .clk, 0x058 => modClk s (fun c => setRole c v)
  | .sec, 0x04C => if wBits v 1 0 = 1 then updateStart s else s
  | .sec, 0x050 => if wBits v 1 0 = 1 then faTry s else if wBits v 1 0 = 2 then faShut s else s
  | _, _ => s

/-- A write of PWR_GAIT_CTRL limits the gaits at once. -/
def gaitsFollow (b : Blk) (loc : Nat) (s : State) : State :=
  match b, loc with
  | .pwr, 0x064 => dropAll s
  | _, _ => s

theorem writeBlock_keyed {s : State} {b : Blk} {loc : Nat} (v : Word) (a : Access) (hm : (b, loc) ∈ keyedRegisters)
    (ha : answers s b loc = true) :
    writeBlock b s loc v a = gaitsFollow b loc (guardKey (openFields b loc v s) b loc v a (lockedFields b loc v)) := by
  unfold writeBlock
  rw [if_neg (by simp [ha])]
  simp only [keyedRegisters, List.mem_cons, Prod.mk.injEq, List.not_mem_nil, or_false] at hm
  rcases hm with ⟨rfl, rfl⟩ | ⟨rfl, rfl⟩ | ⟨rfl, rfl⟩ | ⟨rfl, rfl⟩ | ⟨rfl, rfl⟩ | ⟨rfl, rfl⟩ | ⟨rfl, rfl⟩ | ⟨rfl, rfl⟩ | ⟨rfl, rfl⟩ |
    ⟨rfl, rfl⟩ | ⟨rfl, rfl⟩ <;> rfl

theorem keyedRegisters_own : ∀ r ∈ keyedRegisters, OwnLocation r.2 := by decide

/-- A write of a keyed register outside a cinch. -/
theorem exec_keyedRegister {s : State} {b : Blk} {loc : Nat} (v : Word) (hm : (b, loc) ∈ keyedRegisters) (ho : RegisterOpen s b loc) :
    exec (hostWriteReg b loc v) s = .next (gaitsFollow b loc (guardKey (openFields b loc v (closeKey s b)) b loc v
      { keyed := (ctlAt s b).keyOpen, commit := false, dropped := false } (lockedFields b loc v))) := by
  obtain ⟨hk, ha, hc⟩ := ho
  obtain ⟨hlo, hhi, h4⟩ := keyedRegisters_own _ hm
  rw [exec_hostWriteReg v hhi h4 (by dsimp only at hlo; omega) hk ha, keyedWrite_at_once v hlo hc,
    writeBlock_keyed v _ hm (by rw [answers_modCtl, ha])]

/-! ### What the parts of such a write touch -/

theorem openFields_only (b : Blk) (loc : Nat) (v : Word) (s : State) : Only [.glb, .pwr, .clk] s (openFields b loc v s) := by
  unfold openFields
  split
  · exact (Only.refl s).modGlb (by decide)
  · exact (Only.refl s).modPwr (by decide)
  · exact ((Only.refl s).modPwr (by decide)).iteTest (.refl s)
  · exact (Only.refl s).modClk (by decide)
  · exact .refl s

theorem gaitsFollow_only (b : Blk) (loc : Nat) (s : State) : Only [.fields] s (gaitsFollow b loc s) := by
  unfold gaitsFollow
  split
  · exact dropAll_only (.refl s) (.refl _)
  · exact .refl s

/-- The RWK fields touch no key and no error bit; a warm reset does. -/
theorem lockedFields_only {b : Blk} (hb : b ≠ .glb) (loc : Nat) (v : Word) (s : State) :
    Only [.glb, .lnk, .pwr, .fields, .clk, .sec, .free] s (lockedFields b loc v s) := by
  have h := Only.refl (ps := [.glb, .lnk, .pwr, .fields, .clk, .sec, .free]) s
  unfold lockedFields
  split
  · exact absurd rfl hb
  · exact absurd rfl hb
  · exact absurd rfl hb
  · exact (queueRetrain_only h (.ofBool rfl) _).iteTest h
  · exact h.iteTest (h.modLnk (by decide))
  · exact dropAll_only (h.modPwr (by decide)) (.ofBool rfl)
  · exact h.modPwr (by decide)
  · exact uncap_only (h.modPwr (by decide)) (.ofBool rfl)
  · exact h.modClk (by decide)
  · exact (updateStart_only h (.ofBool rfl)).iteTest h
  · exact (faTry_only h (.ofBool rfl)).iteTest ((faShut_only h (.ofBool rfl)).iteTest h)
  · exact h

/-- What reaches an RWK field does not hang on the register's other fields, nor on the key. -/
theorem reachesKey_openFields (b : Blk) (loc : Nat) (v : Word) (s : State) :
    reachesKey (openFields b loc v (closeKey s b)) b loc v = reachesKey s b loc v := by
  unfold openFields
  split
  · rfl
  · rfl
  · split <;> rfl
  · rfl
  · rfl

/-! ### With the key closed (R449) -/

theorem guardKey_unkeyed (s : State) (b : Blk) (loc : Nat) (v : Word) (f : State → State) :
    guardKey s b loc v { keyed := false, commit := false, dropped := false } f = if reachesKey s b loc v then keyErr s b else s := by
  cases h : reachesKey s b loc v <;> simp [guardKey, h]

/-- The fields that need no key leave those that do. -/
theorem openFields_rwk (b : Blk) (loc : Nat) (v : Word) (s : State) :
    let u := openFields b loc v s
    u.glb.dupRepeat = s.glb.dupRepeat ∧ u.glb.retrainQueue = s.glb.retrainQueue ∧ u.pwr.capPolicy = s.pwr.capPolicy ∧
      u.pwr.maxGait = s.pwr.maxGait ∧ u.pwr.cap = s.pwr.cap ∧ u.clk.ppsEn = s.clk.ppsEn ∧ u.clk.syncRole = s.clk.syncRole := by
  unfold openFields
  split
  · simp
  · simp
  · split <;> simp
  · simp
  · simp

theorem openFields_dupRate (v : Word) (s : State) : (openFields .glb 0x200 v s).glb.dupRate = v.setWidth 4 := ofNat_wBits v rfl
theorem openFields_idleWalk (v : Word) (s : State) : (openFields .pwr 0x064 v s).pwr.idleWalkEn = v.getLsbD 2 := rfl
theorem openFields_beatTime (v : Word) (s : State) : (openFields .clk 0x058 v s).clk.beatTime = v.getLsbD 0 := rfl

theorem openFields_capUnmet (v : Word) (s : State) :
    (openFields .pwr 0x068 v s).pwr.capUnmet = (s.pwr.capUnmet && !v.getLsbD 16) := by
  change (if wBit v 16 then _ else _ : State).pwr.capUnmet = (s.pwr.capUnmet && !wBit v 16)
  cases wBit v 16 <;> simp

/-- KEY_ERR is set by a write that reaches an RWK field without the key, and by no other write of the register. -/
theorem keyErr_if_reached {s : State} {b : Blk} (hl : blkNum b < s.blocks.length) (r : Bool) :
    (ctlAt (if r then keyErr s b else s) b).keyErr = ((ctlAt s b).keyErr || r) := by
  cases r
  · simp
  · simp only [if_true, keyErr, ctlAt_modCtl_same s b _ hl, Bool.or_true]

/-- A write of a keyed register with the key closed, in the state u that its other fields leave: u, with KEY_ERR if it reaches an
RWK field. -/
theorem exec_keyedRegister_unkeyed {s : State} {b : Blk} {loc : Nat} (v : Word) (hi : Inv s) (hm : (b, loc) ∈ keyedRegisters)
    (ho : RegisterOpen s b loc) (hkey : (ctlAt s b).keyOpen = false) :
    ∃ t, exec (hostWriteReg b loc v) s = .next t ∧ (ctlAt t b).keyErr = ((ctlAt s b).keyErr || reachesKey s b loc v) ∧
      Only [.fields, .blocks] (openFields b loc v (closeKey s b)) t := by
  have hexec := exec_keyedRegister v hm ho
  rw [hkey, guardKey_unkeyed, reachesKey_openFields] at hexec
  have hopen := openFields_only b loc v (closeKey s b)
  have hfollow := gaitsFollow_only b loc
    (if reachesKey s b loc v then keyErr (openFields b loc v (closeKey s b)) b else openFields b loc v (closeKey s b))
  refine ⟨_, hexec, ?_, ?_⟩
  · have hl : blkNum b < (openFields b loc v (closeKey s b)).blocks.length := by
      have hb : (openFields b loc v (closeKey s b)).blocks = (closeKey s b).blocks := hopen .blocks (by decide)
      rw [hb, modCtl_blocks, List.length_modify, hi.blockCount]
      cases b <;> decide
    rw [hfollow.ctlAt_eq (by decide), keyErr_if_reached hl, hopen.ctlAt_eq (by decide), closeKey_keyErr]
  · refine Only.to ?_ (.ofBool rfl) hfollow
    exact ((Only.refl _).modCtl (by decide)).iteTest (.refl _)

/-- Settles O24: without the key the RWK fields are passed over, and what is left are the other fields and KEY_ERR. -/
theorem keyedFieldsKeepWithoutKey : Obligations.KeyedFieldsKeepWithoutKey := by
  intro b loc v s hi hm ho hkey
  obtain ⟨t, hexec, herr, hut⟩ := exec_keyedRegister_unkeyed v hi hm ho hkey
  obtain ⟨hrep, hqueue, hpolicy, hgait, hcap, hpps, hrole⟩ := openFields_rwk b loc v (closeKey s b)
  have hsu : Only [.glb, .pwr, .clk, .blocks] s (openFields b loc v (closeKey s b)) :=
    ((Only.refl s).modCtl (by decide)).to (.ofBool rfl) (openFields_only b loc v _)
  have hst : Only [.pwr, .clk, .fields, .glb, .blocks] s t := (hsu.mono (.ofBool rfl)).to (.ofBool rfl) hut
  have hglb : t.glb = (openFields b loc v (closeKey s b)).glb := hut .glb (by decide)
  have hpwr : t.pwr = (openFields b loc v (closeKey s b)).pwr := hut .pwr (by decide)
  have hclk : t.clk = (openFields b loc v (closeKey s b)).clk := hut .clk (by decide)
  have hfar : t.farrier = s.farrier := hst .farrier (by decide)
  have hlnk : t.lnk = s.lnk := hst .lnk (by decide)
  rw [← hglb] at hrep hqueue
  rw [← hpwr] at hpolicy hgait hcap
  rw [← hclk] at hpps hrole
  refine ⟨t, hexec, herr, hrep, by rw [hfar], hqueue, by rw [hlnk], hpolicy, hgait, hcap, hpps, hrole, hst .boot (by decide),
    hst .sec (by decide), ?_, ?_, ?_, ?_, hst⟩
  · rintro rfl rfl
    rw [hglb, openFields_dupRate]
  · rintro rfl rfl
    rw [hpwr, openFields_idleWalk]
  · rintro rfl rfl
    rw [hpwr, openFields_capUnmet, modCtl_pwr]
  · rintro rfl rfl
    rw [hclk, openFields_beatTime]

/-! ### With the key open (R448) -/

theorem guardKey_keyed (s : State) (b : Blk) (loc : Nat) (v : Word) (f : State → State) :
    guardKey s b loc v { keyed := true, commit := false, dropped := false } f = if reachesKey s b loc v then f s else s := by
  cases h : reachesKey s b loc v <;> simp [guardKey, h]

/-- A field of a keyed register, written with the key: it takes the new value where the write reaches it, and holds that value
already where the write does not (R444). -/
theorem guardKey_keyed_field {α : Type} (P : State → α) {x : α} {s : State} {b : Blk} {loc : Nat} {v : Word}
    (hf : P (lockedFields b loc v s) = x) (hs : reachesKey s b loc v = false → P s = x) :
    P (guardKey s b loc v { keyed := true, commit := false, dropped := false } (lockedFields b loc v)) = x := by
  rw [guardKey_keyed]
  split
  · exact hf
  · next h => exact hs (by simpa using h)

theorem dropAll_pwr (s : State) : (dropAll s).pwr = s.pwr := dropAll_only (.refl s) (.refl _) .pwr (by decide)
theorem uncap_pwr (s : State) : (uncap s).pwr = s.pwr := uncap_only (.refl s) (.refl _) .pwr (by decide)

/-- A field that a write does not reach reads what is written. -/
theorem eq_of_unreached {α : Type} [DecidableEq α] {x y : α} (h : decide (x ≠ y) = false) : y = x :=
  (Decidable.not_not.1 (of_decide_eq_false h)).symm

section
variable (v : Word) (s : State)

/-- A write of a register in state s with its block's key open. -/
abbrev keyedTo (b : Blk) (loc : Nat) : State :=
  guardKey s b loc v { keyed := true, commit := false, dropped := false } (lockedFields b loc v)

theorem lockedFields_capCtrl_pwr : (lockedFields .pwr 0x060 v s).pwr = { s.pwr with capPolicy := wBit v 0 } := dropAll_pwr _
theorem lockedFields_powerCap_pwr : (lockedFields .pwr 0x068 v s).pwr = { s.pwr with cap := BitVec.ofNat 11 (wBits v 10 0) } :=
  uncap_pwr _

theorem keyedTo_dupRepeat : (keyedTo v s .glb 0x200).glb.dupRepeat = v.getLsbD 4 :=
  guardKey_keyed_field (·.glb.dupRepeat) rfl eq_of_unreached

theorem keyedTo_dupRate : (keyedTo v s .glb 0x200).glb.dupRate = s.glb.dupRate :=
  guardKey_keyed_field (·.glb.dupRate) rfl fun _ => rfl

theorem keyedTo_farrierEn : (keyedTo v s .glb 0x210).farrier.en = v.getLsbD 0 :=
  guardKey_keyed_field (·.farrier.en) rfl eq_of_unreached

theorem keyedTo_jobTag (h : anyRingEn s = false) : (keyedTo v s .lnk 0x078).lnk.jobTag = v :=
  guardKey_keyed_field (·.lnk.jobTag) (by simp [lockedFields, h]) eq_of_unreached

theorem keyedTo_capPolicy : (keyedTo v s .pwr 0x060).pwr.capPolicy = v.getLsbD 0 :=
  guardKey_keyed_field (·.pwr.capPolicy) (by simp only [lockedFields_capCtrl_pwr, wBit]) eq_of_unreached

theorem keyedTo_maxGait : (keyedTo v s .pwr 0x064).pwr.maxGait = v.setWidth 2 :=
  guardKey_keyed_field (·.pwr.maxGait) (ofNat_wBits v rfl) fun h => eq_setWidth_of_wBits rfl (eq_of_unreached h).symm

theorem keyedTo_idleWalk : (keyedTo v s .pwr 0x064).pwr.idleWalkEn = s.pwr.idleWalkEn :=
  guardKey_keyed_field (·.pwr.idleWalkEn) rfl fun _ => rfl

theorem keyedTo_cap : (keyedTo v s .pwr 0x068).pwr.cap = v.setWidth 11 :=
  guardKey_keyed_field (·.pwr.cap) ((congrArg Power.cap (lockedFields_powerCap_pwr v s)).trans (ofNat_wBits v rfl))
    fun h => eq_setWidth_of_wBits rfl (eq_of_unreached h).symm

theorem keyedTo_capUnmet : (keyedTo v s .pwr 0x068).pwr.capUnmet = s.pwr.capUnmet :=
  guardKey_keyed_field (·.pwr.capUnmet) (by simp only [lockedFields_powerCap_pwr]) fun _ => rfl

theorem keyedTo_ppsEn : (keyedTo v s .clk 0x058).clk.ppsEn = v.getLsbD 1 :=
  guardKey_keyed_field (·.clk.ppsEn) rfl fun h => by
    have hr : wBit v 1 = s.clk.ppsEn ∧ wBits v 3 2 = s.clk.syncRole.toNat := by simpa [reachesKey] using h
    exact hr.1.symm

theorem keyedTo_syncRole : (keyedTo v s .clk 0x058).clk.syncRole = (v >>> 2).setWidth 2 :=
  guardKey_keyed_field (·.clk.syncRole) (ofNat_wBits v rfl) fun h => by
    have hr : wBit v 1 = s.clk.ppsEn ∧ wBits v 3 2 = s.clk.syncRole.toNat := by simpa [reachesKey] using h
    exact eq_setWidth_of_wBits rfl hr.2

theorem keyedTo_beatTime : (keyedTo v s .clk 0x058).clk.beatTime = s.clk.beatTime :=
  guardKey_keyed_field (·.clk.beatTime) rfl fun _ => rfl

theorem keyedTo_keyErr {b : Blk} (hb : b ≠ .glb) (loc : Nat) : (ctlAt (keyedTo v s b loc) b).keyErr = (ctlAt s b).keyErr :=
  guardKey_keyed_field (fun t => (ctlAt t b).keyErr)
    (congrArg BlockCtl.keyErr ((lockedFields_only hb loc v s).ctlAt_eq (by decide) b)) fun _ => rfl

end

/-- A write of a keyed register with the key open: everything reached takes effect in one event. -/
theorem exec_keyedRegister_keyed {s : State} {b : Blk} {loc : Nat} (v : Word) (hm : (b, loc) ∈ keyedRegisters)
    (ho : RegisterOpen s b loc) (hkey : (ctlAt s b).keyOpen = true) :
    exec (hostWriteReg b loc v) s = .next (gaitsFollow b loc (keyedTo v (openFields b loc v (closeKey s b)) b loc)) := by
  rw [exec_keyedRegister v hm ho, hkey]

/-- A read leaves the keys, the cinches and their error bits. -/
theorem exec_lowWordReadLatch_blocks (p : LatchedPair) (start bytes : Nat) (s : State) :
    ∃ t, exec (.lowWordReadLatch p start bytes) s = .next t ∧ t.blocks = s.blocks :=
  ⟨_, rfl, hostRead_only (.refl s) (.refl _) _ _ .blocks (by decide)⟩

/-- OPEN is bit 16 of KEYLOCK. -/
theorem regRead_keylock {s : State} {b : Blk} (ha : answers s b 0x004 = true) :
    (regRead s b 0x004).getLsbD 16 = (ctlAt s b).keyOpen := by
  have hw : regRead s b 0x004 = BitVec.ofNat 32 (field1 (ctlAt s b).keyOpen 16) := by
    simp [regRead, ha, readBlock, readCommon]
  rw [hw]
  cases (ctlAt s b).keyOpen <;> decide

/-- Settles O23: a key opens at KEYLOCK alone, is used up by the next write of its block, and nothing but a warm reset reaches the key
of another. -/
theorem keyOpensAndCloses : Obligations.KeyOpensAndCloses := by
  have hopens : ∀ (b : Blk) (v : Word) (s : State), kListens s = true → answers s b 0x004 = true → v &&& 0xFFFF = 0x4C6B →
      exec (.keylockWrite b v) s = .next (modCtl s b (fun c => { c with keyOpen := true })) := by
    intro b v s hk ha hv
    rw [exec_keylockWrite v hk ha, keyWrite, if_pos ((wBits_key_iff v).2 hv)]
  refine ⟨hopens, ?_, ?_, ?_, ?_, exec_lowWordReadLatch_blocks⟩
  · intro b v s hi hk ha hv
    have hl : blkNum b < s.blocks.length := by
      rw [hi.blockCount]
      cases b <;> decide
    have hopen : (ctlAt (modCtl s b (fun c => { c with keyOpen := true })) b).keyOpen = true := by
      rw [ctlAt_modCtl_same s b _ hl]
    exact ⟨_, hopens b v s hk ha hv, hopen, (regRead_keylock (by rw [answers_modCtl, ha])).trans hopen⟩
  · intro b v s hk ha hv
    rw [exec_keylockWrite v hk ha, keyWrite, if_neg (fun h => hv ((wBits_key_iff v).1 h))]
  · intro b loc v s hlt h4 hne hk ha
    refine ⟨_, exec_hostWriteReg v hlt h4 hne hk ha, (keyIs_closeKey s b).keyedWrite v (.inr rfl), fun c hc hreset => ?_⟩
    exact (keyIs_closeKey_other (Ne.symm hc)).keyedWrite v (.inl hreset)
  · intro b loc v s _ hm ho hkey
    have hfollow := gaitsFollow_only b loc (keyedTo v (openFields b loc v (closeKey s b)) b loc)
    refine ⟨_, exec_keyedRegister_keyed v hm ho hkey, ?_, ?_, ?_, ?_, ?_, ?_, ?_, ?_⟩
    · rintro rfl rfl
      exact ⟨(keyedTo_dupRate v _).trans (openFields_dupRate v _), keyedTo_dupRepeat v _⟩
    · rintro rfl rfl
      exact keyedTo_farrierEn v _
    · rintro rfl rfl hring
      exact keyedTo_jobTag v _ hring
    · rintro rfl rfl
      exact keyedTo_capPolicy v _
    · rintro rfl rfl
      rw [hfollow .pwr (by decide)]
      exact ⟨keyedTo_maxGait v _, (keyedTo_idleWalk v _).trans (openFields_idleWalk v _)⟩
    · rintro rfl rfl
      exact ⟨keyedTo_cap v _, (keyedTo_capUnmet v _).trans (openFields_capUnmet v _)⟩
    · rintro rfl rfl
      exact ⟨keyedTo_ppsEn v _, keyedTo_syncRole v _, (keyedTo_beatTime v _).trans (openFields_beatTime v _)⟩
    · intro hb
      rw [hfollow.ctlAt_eq (by decide), keyedTo_keyErr v _ hb, (openFields_only b loc v _).ctlAt_eq (by decide), closeKey_keyErr]

end Sys2Proof.Machine
end

section
/-!
Reads of the set-up window: the low word of a pair latches its shadow, and the high word reads it (19 R439, R446, Table 19-3).
-/
namespace Sys2Proof.Machine

/-! ### Words and shadows -/

theorem highWord_eq {n : Nat} (h : n < 2 ^ 64) : highWord n = n / 2 ^ 32 := by
  unfold highWord
  omega

theorem lowWord_add_highWord {n : Nat} (h : n < 2 ^ 64) : lowWord n + highWord n * 2 ^ 32 = n := by
  unfold lowWord highWord
  omega

theorem toNat_ofNat_highWord (n : Nat) : (BitVec.ofNat 32 (highWord n)).toNat = highWord n := by
  simp [highWord]

theorem regRead_of_answers {s : State} {b : Blk} {loc : Nat} (ha : answers s b loc = true) :
    regRead s b loc = BitVec.ofNat 32 (readBlock s b loc) := by
  rw [regRead, if_pos ha]

/-- A low word answers in no ROM and no recovery mode: where one answers, every register does. -/
theorem answers_of_pair {s : State} {p : LatchedPair} (h : answers s (pairRegister p).1 (pairRegister p).2 = true) (b : Blk) (loc : Nat) :
    answers s b loc = true := by
  have hrom : romRegister (pairRegister p).1 (pairRegister p).2 = false := by cases p <;> decide
  have hsec : (pairRegister p).1 ≠ .sec := by cases p <;> decide
  unfold answers at h ⊢
  cases hrec : s.boot.recovery
  · have hdone : s.boot.done.getLsbD 2 = true := by simpa [hrec, hrom] using h
    rw [hdone]
    rfl
  · simp [hrec, hrom, hsec] at h

/-- What a register reads depends on the bring-up state only through whether it answers. -/
theorem answers_congr {s t : State} (h : t.boot = s.boot) (b : Blk) (loc : Nat) : answers t b loc = answers s b loc := by
  unfold answers
  rw [h]

/-! ### The path of a read -/

theorem bar0Word_window {s : State} {b : Blk} {loc : Nat} (hk : kListens s = true) (h : loc < 4096) :
    bar0Word s (blockBase b + loc) = regRead s b loc := by
  simp [bar0Word, hk, blockAt_window b h, window_mod b h]

/-- The offset of a pair's low word in the window. -/
abbrev pairOffset (p : LatchedPair) : Nat := blockBase (pairRegister p).1 + (pairRegister p).2

theorem pairAt_pairOffset (p : LatchedPair) : pairAt (pairOffset p) = some p := by cases p <;> rfl

theorem pairRegister_lt (p : LatchedPair) : (pairRegister p).2 < 4096 := by cases p <;> decide

theorem pairOffset_mod_four (p : LatchedPair) : pairOffset p % 4 = 0 := by cases p <;> decide

/-- The low word is read, and its shadow latches. -/
theorem wordRead_pair {s : State} {p : LatchedPair} (hk : kListens s = true)
    (ha : answers s (pairRegister p).1 (pairRegister p).2 = true) :
    wordRead s (pairOffset p) = (latchPair s p, (regRead s (pairRegister p).1 (pairRegister p).2).toNat) := by
  simp [wordRead, pairAt_pairOffset, hk, ha, bar0Word_window hk (pairRegister_lt p)]

/-- A word that is no pair's low word is read without an effect. -/
theorem wordRead_plain {s : State} {b : Blk} {loc : Nat} (hk : kListens s = true) (h : loc < 4096)
    (hp : pairAt (blockBase b + loc) = none) : wordRead s (blockBase b + loc) = (s, (regRead s b loc).toNat) := by
  simp [wordRead, hp, bar0Word_window hk h]

/-- What the host has read. -/
abbrev answered (s : State) (n : Nat) : State := modSide s (fun d => { d with readData := BitVec.ofNat 64 n })

theorem alignedPart_pairOffset (p : LatchedPair) (start bytes : Nat) :
    alignedPart (pairOffset p + start) bytes = alignedPart start bytes := by
  have h4 := pairOffset_mod_four p
  have hm : (pairOffset p + start) % 4 = start % 4 := by omega
  have h2 : (pairOffset p + start) % 2 = start % 2 := by omega
  simp [alignedPart, hm, h2]

/-- A read of the low word, or of an aligned part of it. -/
theorem exec_latch_part {s : State} {p : LatchedPair} {start bytes : Nat} (hs : start < 4) (hal : alignedPart start bytes = true)
    (hk : kListens s = true) (ha : answers s (pairRegister p).1 (pairRegister p).2 = true) :
    exec (.lowWordReadLatch p start bytes) s = .next (answered (latchPair s p)
      ((regRead s (pairRegister p).1 (pairRegister p).2).toNat / 2 ^ (8 * start) % 2 ^ (8 * bytes))) := by
  have h4 := pairOffset_mod_four p
  have hword : (pairOffset p + start) / 4 * 4 = pairOffset p := by omega
  have hbyte : (pairOffset p + start) % 4 = start := by omega
  have hb : bytes ≤ 4 := by
    simp [alignedPart] at hal
    omega
  have hb8 : bytes ≠ 8 := by omega
  have hread : bar0Read s (pairOffset p + start) bytes = (latchPair s p,
      (regRead s (pairRegister p).1 (pairRegister p).2).toNat / 2 ^ (8 * start) % 2 ^ (8 * bytes)) := by
    simp only [bar0Read, hb8, hb, alignedPart_pairOffset, hal, hword, hbyte, wordRead_pair hk ha, decide_true, decide_false,
      Bool.false_and, Bool.and_self, if_true, Bool.false_eq_true, if_false]
  change Host.Outcome.next (hostRead s (pairOffset p + start) bytes) = _
  rw [hostRead, hread]

/-- A read that is neither an aligned part of a word nor of eight bytes reaches no register. -/
theorem exec_latch_unaligned {s : State} {p : LatchedPair} {start bytes : Nat}
    (hal : alignedPart start bytes = false) (hb8 : bytes ≠ 8) :
    exec (.lowWordReadLatch p start bytes) s = .next (answered s (2 ^ (8 * bytes) - 1)) := by
  have hread : bar0Read s (pairOffset p + start) bytes = (s, 2 ^ (8 * bytes) - 1) := by
    simp [bar0Read, hb8, alignedPart_pairOffset, hal]
  change Host.Outcome.next (hostRead s (pairOffset p + start) bytes) = _
  rw [hostRead, hread]

/-- An aligned read of eight bytes: the low word latches, and the high word is read of the state that leaves. -/
theorem exec_latch_both {s : State} {p : LatchedPair} (h8 : pairOffset p % 8 = 0) (hhi : pairAt (pairOffset p + 4) = none)
    (hk : kListens s = true) (hkt : kListens (latchPair s p) = true) (hlt : (pairRegister p).2 + 4 < 4096)
    (ha : answers s (pairRegister p).1 (pairRegister p).2 = true) :
    exec (.lowWordReadLatch p 0 8) s = .next (answered (latchPair s p) ((regRead s (pairRegister p).1 (pairRegister p).2).toNat +
      (regRead (latchPair s p) (pairRegister p).1 ((pairRegister p).2 + 4)).toNat * 2 ^ 32)) := by
  have hread : bar0Read s (pairOffset p) 8 = (latchPair s p, (regRead s (pairRegister p).1 (pairRegister p).2).toNat +
      (regRead (latchPair s p) (pairRegister p).1 ((pairRegister p).2 + 4)).toNat * 2 ^ 32) := by
    have hw := wordRead_plain (s := latchPair s p) (b := (pairRegister p).1) hkt hlt hhi
    rw [← Nat.add_assoc] at hw
    simp only [bar0Read, h8, wordRead_pair hk ha, hw, decide_true, Bool.and_self, if_true]
  change Host.Outcome.next (hostRead s (pairOffset p) 8) = _
  rw [hostRead, hread]

theorem latchPair_boot (s : State) (p : LatchedPair) : (latchPair s p).boot = s.boot := by cases p <;> rfl

theorem kListens_latchPair (s : State) (p : LatchedPair) : kListens (latchPair s p) = kListens s := by cases p <;> rfl

/-! ### What the words of a pair read -/

theorem toNat_regRead {s : State} {b : Blk} {loc n : Nat} (ha : answers s b loc = true) (hx : readBlock s b loc = n) (hn : n < 2 ^ 32) :
    (regRead s b loc).toNat = n := by
  rw [regRead_of_answers ha, hx, BitVec.toNat_ofNat, Nat.mod_eq_of_lt hn]

theorem lowWord_lt (n : Nat) : lowWord n < 2 ^ 32 := Nat.mod_lt _ (by decide)

theorem highWord_lt (n : Nat) : highWord n < 2 ^ 32 := Nat.mod_lt _ (by decide)

theorem peerShown_lt (s : State) : peerShown s < 2 ^ 48 := by
  unfold peerShown
  split
  · exact BitVec.isLt _
  · decide

theorem readBlock_peerLow (s : State) : readBlock s .lnk 0x048 = lowWord (peerShown s) := by
  change (if decide (s.lnk.sel.toNat < 96) && linkFitted s.fuses.orderCode s.lnk.sel.toNat
    then lowWord (linkAt s s.lnk.sel.toNat).peer.toNat else 0) = _
  rw [Bool.and_comm, peerShown]
  split <;> rfl

section
variable {s : State} {n : Nat}

/-- After the latch every register that answered answers, whatever the host was answered. -/
theorem answers_answered {p : LatchedPair} {b : Blk} {loc : Nat} (ha : answers s b loc = true) :
    answers (answered (latchPair s p) n) b loc = true :=
  (answers_congr (latchPair_boot s p) b loc).trans ha

theorem latch_syncHi (ha : answers s .glb 0x1C8 = true) :
    (regRead (answered (latchPair s .syncValue) n) .glb 0x1C8).toNat = (syncShown s).toNat / 2 ^ 32 := by
  have hx : readBlock (answered (latchPair s .syncValue) n) .glb 0x1C8 = highWord (syncShown s).toNat := toNat_ofNat_highWord _
  rw [toNat_regRead (answers_answered ha) hx (highWord_lt _), highWord_eq (BitVec.isLt _)]

theorem latch_gtcHi (ha : answers s .clk 0x054 = true) :
    (regRead (answered (latchPair s .clkGtc) n) .clk 0x054).toNat = s.clk.gtc.toNat / 2 ^ 32 := by
  have hx : readBlock (answered (latchPair s .clkGtc) n) .clk 0x054 = highWord s.clk.gtc.toNat := toNat_ofNat_highWord _
  rw [toNat_regRead (answers_answered ha) hx (highWord_lt _), highWord_eq (BitVec.isLt _)]

theorem latch_peerHi (ha : answers s .lnk 0x04C = true) :
    (regRead (answered (latchPair s .lnkPeer) n) .lnk 0x04C).toNat = peerShown s / 2 ^ 32 := by
  have hx : readBlock (answered (latchPair s .lnkPeer) n) .lnk 0x04C = highWord (peerShown s) := toNat_ofNat_highWord _
  have hp := peerShown_lt s
  rw [toNat_regRead (answers_answered ha) hx (highWord_lt _), highWord_eq (by omega)]

theorem latch_coordHi (ha : answers s .lnk 0x064 = true) :
    (regRead (answered (latchPair s .lnkCoord) n) .lnk 0x064).toNat =
      s.lnk.coord.toNat / 2 ^ 32 + (if s.lnk.coordValid then 65536 else 0) := by
  have hc := s.lnk.coord.isLt
  have hv : field1 s.lnk.coordValid 16 = if s.lnk.coordValid then 65536 else 0 := rfl
  have hlt : highWord s.lnk.coord.toNat + field1 s.lnk.coordValid 16 < 2 ^ 32 := by
    rw [highWord_eq (by omega), hv]
    split <;> omega
  have hx : readBlock (answered (latchPair s .lnkCoord) n) .lnk 0x064 =
      highWord s.lnk.coord.toNat + field1 s.lnk.coordValid 16 :=
    (BitVec.toNat_ofNat _ _).trans (Nat.mod_eq_of_lt hlt)
  rw [toNat_regRead (answers_answered ha) hx hlt, highWord_eq (by omega), hv]

/-- The read of PWR_RGN_VMIN latches the whole 64-bit time into its two shadows. -/
theorem latch_vminTime (hlo : answers s .pwr 0x058 = true) (hhi : answers s .pwr 0x05C = true) (hr : s.pwr.selRegion.toNat < 96) :
    (regRead (answered (latchPair s .pwrVmin) n) .pwr 0x058).toNat +
        2 ^ 32 * (regRead (answered (latchPair s .pwrVmin) n) .pwr 0x05C).toNat =
      (regionAt s s.pwr.selRegion.toNat).vminTime.toNat := by
  have htime : (answered (latchPair s .pwrVmin) n).pwr.vminTimeShadow = (regionAt s s.pwr.selRegion.toNat).vminTime := if_pos hr
  have hx : readBlock (answered (latchPair s .pwrVmin) n) .pwr 0x058 =
      lowWord (regionAt s s.pwr.selRegion.toNat).vminTime.toNat := by rw [← htime]; rfl
  have hy : readBlock (answered (latchPair s .pwrVmin) n) .pwr 0x05C =
      highWord (regionAt s s.pwr.selRegion.toNat).vminTime.toNat := by rw [← htime]; rfl
  rw [toNat_regRead (answers_answered hlo) hx (lowWord_lt _), toNat_regRead (answers_answered hhi) hy (highWord_lt _), Nat.mul_comm]
  exact lowWord_add_highWord (BitVec.isLt _)

end

/-! ### What a read answers -/

/-- A part cut from a word fits the host's answer. -/
theorem answered_part (s : State) (x : Word) (start bytes : Nat) :
    (answered s (x.toNat / 2 ^ (8 * start) % 2 ^ (8 * bytes))).side.readData.toNat =
      x.toNat / 2 ^ (8 * start) % 2 ^ (8 * bytes) := by
  refine (BitVec.toNat_ofNat _ _).trans (Nat.mod_eq_of_lt ?_)
  have hx := x.isLt
  calc x.toNat / 2 ^ (8 * start) % 2 ^ (8 * bytes) ≤ x.toNat := Nat.le_trans (Nat.mod_le _ _) (Nat.div_le_self _ _)
    _ < 2 ^ 64 := by omega

theorem toNat_gtcLow {s : State} (ha : answers s .clk 0x050 = true) : (regRead s .clk 0x050).toNat = lowWord s.clk.gtc.toNat :=
  toNat_regRead ha rfl (lowWord_lt _)

/-- A read of the whole low word of GTC. -/
theorem answered_gtcLow {s : State} (t : State) (ha : answers s .clk 0x050 = true) :
    (answered t ((regRead s .clk 0x050).toNat / 2 ^ (8 * 0) % 2 ^ (8 * 4))).side.readData.toNat = s.clk.gtc.toNat % 2 ^ 32 := by
  rw [answered_part, toNat_gtcLow ha, lowWord, Nat.mul_zero, Nat.pow_zero, Nat.div_one, Nat.mod_mod]

/-- Eight bytes of GTC are those of one moment. -/
theorem exec_gtc_both {s : State} (hk : kListens s = true) (hlo : answers s .clk 0x050 = true) (hhi : answers s .clk 0x054 = true) :
    exec (.lowWordReadLatch .clkGtc 0 8) s = .next (answered (latchPair s .clkGtc) s.clk.gtc.toNat) := by
  have hhigh : (regRead (latchPair s .clkGtc) .clk 0x054).toNat = highWord s.clk.gtc.toNat :=
    toNat_regRead ((answers_congr (latchPair_boot s _) _ _).trans hhi) (toNat_ofNat_highWord _) (highWord_lt _)
  refine (exec_latch_both (p := .clkGtc) rfl rfl hk ((kListens_latchPair s _).trans hk) (by decide) hlo).trans ?_
  change Host.Outcome.next (answered _ ((regRead s .clk 0x050).toNat + (regRead (latchPair s .clkGtc) .clk 0x054).toNat * 2 ^ 32)) = _
  rw [toNat_gtcLow hlo, hhigh, lowWord_add_highWord (BitVec.isLt _)]

/-- Eight bytes of the peer's address are those of one moment. -/
theorem exec_peer_both {s : State} (hk : kListens s = true) (hlo : answers s .lnk 0x048 = true) (hhi : answers s .lnk 0x04C = true) :
    exec (.lowWordReadLatch .lnkPeer 0 8) s = .next (answered (latchPair s .lnkPeer) (peerShown s)) := by
  have hp := peerShown_lt s
  have hlow : (regRead s .lnk 0x048).toNat = lowWord (peerShown s) := toNat_regRead hlo (readBlock_peerLow s) (lowWord_lt _)
  have hhigh : (regRead (latchPair s .lnkPeer) .lnk 0x04C).toNat = highWord (peerShown s) :=
    toNat_regRead ((answers_congr (latchPair_boot s _) _ _).trans hhi) (toNat_ofNat_highWord _) (highWord_lt _)
  refine (exec_latch_both (p := .lnkPeer) rfl rfl hk ((kListens_latchPair s _).trans hk) (by decide) hlo).trans ?_
  change Host.Outcome.next (answered _ ((regRead s .lnk 0x048).toNat + (regRead (latchPair s .lnkPeer) .lnk 0x04C).toNat * 2 ^ 32)) = _
  rw [hlow, hhigh, lowWord_add_highWord (by omega)]

/-! ### What leaves the shadows -/

/-- The registers that are shadows of Table 19-3. -/
abbrev shadowRegisters : List (Blk × Nat) :=
  [(Blk.glb, 0x1C8), (Blk.clk, 0x054), (Blk.lnk, 0x04C), (Blk.lnk, 0x064), (Blk.pwr, 0x058), (Blk.pwr, 0x05C)]

/-- The shadows of one state are those of another, and the same registers answer. -/
structure SameShadows (s t : State) : Prop where
  boot : t.boot = s.boot
  syncHi : t.glb.syncHiShadow = s.glb.syncHiShadow
  gtcHi : t.clk.gtcHiShadow = s.clk.gtcHiShadow
  peerHi : t.lnk.peerHiShadow = s.lnk.peerHiShadow
  coordHi : t.lnk.coordHiShadow = s.lnk.coordHiShadow
  vminTime : t.pwr.vminTimeShadow = s.pwr.vminTimeShadow

theorem SameShadows.readBlock {s t : State} (h : SameShadows s t) {c : Blk} {k : Nat} (hm : (c, k) ∈ shadowRegisters) :
    Machine.readBlock t c k = Machine.readBlock s c k := by
  simp only [List.mem_cons, Prod.mk.injEq, List.not_mem_nil, or_false] at hm
  rcases hm with ⟨rfl, rfl⟩ | ⟨rfl, rfl⟩ | ⟨rfl, rfl⟩ | ⟨rfl, rfl⟩ | ⟨rfl, rfl⟩ | ⟨rfl, rfl⟩
  · exact congrArg BitVec.toNat h.syncHi
  · exact congrArg BitVec.toNat h.gtcHi
  · exact congrArg BitVec.toNat h.peerHi
  · exact congrArg BitVec.toNat h.coordHi
  · exact congrArg (fun x : Word64 => lowWord x.toNat) h.vminTime
  · exact congrArg (fun x : Word64 => highWord x.toNat) h.vminTime

theorem SameShadows.regRead {s t : State} (h : SameShadows s t) {c : Blk} {k : Nat} (hm : (c, k) ∈ shadowRegisters) :
    Machine.regRead t c k = Machine.regRead s c k := by
  unfold Machine.regRead
  rw [answers_congr h.boot, h.readBlock hm]

/-- The select registers of the units the pairs show. -/
abbrev pairSelects : List (Blk × Nat) := [(Blk.glb, 0x1C0), (Blk.lnk, 0x040), (Blk.pwr, 0x040), (Blk.clk, 0x040)]

theorem pairSelects_own : ∀ r ∈ pairSelects, OwnLocation r.2 := by decide

/-- A select takes its value and changes nothing that a shadow holds. -/
theorem sameShadows_writeBlock_select {s : State} {b : Blk} {loc : Nat} (v : Word) (a : Access) (hm : (b, loc) ∈ pairSelects) :
    SameShadows s (writeBlock b s loc v a) := by
  have hs : SameShadows s s := ⟨rfl, rfl, rfl, rfl, rfl, rfl⟩
  unfold writeBlock
  split
  · exact hs
  · simp only [List.mem_cons, Prod.mk.injEq, List.not_mem_nil, or_false] at hm
    rcases hm with ⟨rfl, rfl⟩ | ⟨rfl, rfl⟩ | ⟨rfl, rfl⟩ | ⟨rfl, rfl⟩
    · exact { hs with syncHi := rfl }
    · exact { hs with peerHi := rfl, coordHi := rfl }
    · exact { hs with vminTime := rfl }
    · exact { hs with gtcHi := rfl }

theorem sameShadows_of_closeKey (s : State) (b : Blk) {t : State} (h : SameShadows (closeKey s b) t) : SameShadows s t :=
  ⟨h.boot, h.syncHi, h.gtcHi, h.peerHi, h.coordHi, h.vminTime⟩

/-- A write of a select outside a cinch leaves what every shadow reads. -/
theorem exec_select {s : State} {b : Blk} {loc : Nat} (v : Word) (hm : (b, loc) ∈ pairSelects) (ho : RegisterOpen s b loc) :
    ∃ t, exec (hostWriteReg b loc v) s = .next t ∧ SameShadows s t := by
  obtain ⟨hk, ha, hc⟩ := ho
  obtain ⟨hlo, hhi, h4⟩ := pairSelects_own _ hm
  refine ⟨_, exec_hostWriteReg v hhi h4 (by dsimp only at hlo; omega) hk ha, ?_⟩
  rw [keyedWrite_at_once v hlo hc]
  exact sameShadows_of_closeKey s b (sameShadows_writeBlock_select v _ hm)

/-- Every shadow is zero after reset (R446). -/
theorem readBlock_reset_shadow {c : Blk} {k : Nat} (hm : (c, k) ∈ shadowRegisters) : readBlock State.reset c k = 0 := by
  simp only [List.mem_cons, Prod.mk.injEq, List.not_mem_nil, or_false] at hm
  rcases hm with ⟨rfl, rfl⟩ | ⟨rfl, rfl⟩ | ⟨rfl, rfl⟩ | ⟨rfl, rfl⟩ | ⟨rfl, rfl⟩ | ⟨rfl, rfl⟩ <;> rfl

/-- Settles O26: the read is one of the low word, which latches the pair, and an answer cut from it; the high word shows the latch
alone, which no select reaches. -/
theorem lowWordReadsLatch : Obligations.LowWordReadsLatch := by
  refine ⟨?_, ?_, ?_, ?_, ?_, fun c k hck => readBlock_reset_shadow hck⟩
  · intro p start bytes s hs hal hk ha
    have hall := answers_of_pair ha
    refine ⟨_, exec_latch_part hs hal hk ha, answered_part _ _ _ _, ?_, ?_, ?_, ?_, ?_, ?_⟩
    · rintro rfl
      exact latch_syncHi (hall _ _)
    · rintro rfl
      refine ⟨latch_gtcHi (hall _ _), ?_⟩
      rintro rfl rfl
      exact answered_gtcLow _ ha
    · rintro rfl
      exact latch_peerHi (hall _ _)
    · rintro rfl
      exact latch_coordHi (hall _ _)
    · rintro rfl hr
      exact latch_vminTime (hall _ _) (hall _ _) hr
    · exact (latchPair_only (.refl s) (.ofBool rfl) p).modSide (by decide)
  · intro s hk hlo hhi
    refine ⟨_, exec_gtc_both hk hlo hhi, ?_, ((Only.refl s).modClk (by decide)).modSide (by decide)⟩
    exact (BitVec.ofNat_toNat _ _).trans (BitVec.setWidth_eq _)
  · intro s hk hlo hhi
    refine ⟨_, exec_peer_both hk hlo hhi, ?_, ((Only.refl s).modLnk (by decide)).modSide (by decide)⟩
    have hp := peerShown_lt s
    exact (BitVec.toNat_ofNat _ _).trans (Nat.mod_eq_of_lt (by omega))
  · intro p start bytes s _ hal hb8
    exact exec_latch_unaligned hal hb8
  · intro b loc v s _ hm ho
    obtain ⟨t, hexec, hsame⟩ := exec_select v hm ho
    exact ⟨t, hexec, fun c k hck => hsame.regRead hck⟩

end Sys2Proof.Machine
end
